-- ==== Sys2Proof/Word.lean ====
section
/-! DEFINITION. The word types of the Maroth and the plain records that a command can carry as an
operand: the three instruction formats of R185, network packets (R259, R260), link and peer messages
(R371, R417), lane records (R398, R405, R406) and the physical outcomes a step observes. -/
namespace Sys2Proof

/-- A byte of memory, of a packet or of an image. -/
abbrev Byte := BitVec 8
/-- The 32-bit encoding of an FP32 or INT32 element (R48). -/
abbrev W32 := BitVec 32
/-- A scalar register (R174) or a 64-bit word of memory. -/
abbrev W64 := BitVec 64
/-- A vector register of 2,048 bits (R103). -/
abbrev VReg := BitVec 2048
/-- A predicate register of 256 bits (R104). -/
abbrev PReg := BitVec 256

/-- A sparse table: what is listed under a key; an unlisted key reads as the table's default. -/
abbrev Tab (α : Type) := List (Nat × α)

/-- The element formats of R47. -/
inductive Fmt where
  | e4m3 | e5m2 | e2m1 | int8 | int4 | bf16 | fp16 | fp32 | int32 | pair
deriving DecidableEq, Repr

/-- The status codes of R10. -/
inductive Status where
  | done | aborted | nothingToAbort | poisoned | targetIsolated | checkMismatch | uncorrectable | noCapacity
  | authFail | formatError | drained | timeout | domainOff | basinDegraded | retracted
deriving DecidableEq, Repr

/-- Format R of R185. -/
structure RInst where
  pg   : Nat
  d    : Nat
  a    : Nat
  b    : Nat
  view : Nat
  s    : Nat
  zero : Bool
  sat  : Bool
  sign : Bool
  tc   : Bool
  sr   : Bool
  fmt  : Nat
  imm  : BitVec 18
deriving DecidableEq, Repr

/-- Format I of R185. -/
structure IInst where
  pg  : Nat
  d   : Nat
  a   : Nat
  b   : Nat
  ord : Bool
  imm : BitVec 32
deriving DecidableEq, Repr

/-- Format M of R185, with M, K_used and N_used as the counts they stand for. -/
structure MInst where
  ta    : Nat
  tb    : Nat
  td    : Nat
  m     : Nat
  k     : Nat
  n     : Nat
  acc   : Bool
  swap  : Bool
  part  : Nat
  comp  : Bool
  split : Bool
  fused : Bool
  sr    : Bool
deriving DecidableEq, Repr

/-- A physical fault that strikes the array while an instruction runs (R93, R99): a cell that adds a wrong amount from a
row on, a stationary register or a travelling item whose parity fails, or such an item that the array cannot attribute to
one partition. Row 64 and column 64 are the checksum row and column; streamed rows count on over the passes of a split pair. -/
inductive ArrayFault where
  | none
  | cell (row col fromRow : Nat) (delta : W32)
  | stationary (row col : Nat) (s1 : Bool) (atRow : Nat)
  | item (row col : Nat) (partialSum : Bool) (atRow : Nat)
  | shared (row col : Nat) (partialSum : Bool) (atRow : Nat)
deriving DecidableEq, Repr

/-- The four fields of a statistic context (R138). -/
structure StatCtx where
  m : W32
  s : W32
  q : W32
  n : W32
deriving DecidableEq, Repr

/-- Who makes a register access (R553): the host over Heonlink, the command processor, or the unit at a
col through a network packet. -/
inductive Src where
  | host
  | cmdProc
  | col (c : Nat)
deriving DecidableEq, Repr

/-- A network packet: the header of R260 and its payload bytes. Bit i of `hdrBad` and `dataBad` is 1 where the parity bit of
byte i of the header or of its flits' DATA disagrees with the byte (R259). -/
structure Packet where
  plane    : Nat
  prio     : Nat
  age      : Nat
  typ      : Nat
  len      : Nat
  hops     : Nat
  hop      : Nat
  run      : Nat
  turns    : Nat
  srcCol   : Nat
  tag      : Nat
  status   : Nat
  epoch    : Nat
  addr     : Nat
  spurLen  : Nat
  spurLeft : Nat
  spur     : Bool
  aux      : Nat
  poison   : Bool
  payload  : List Byte
  dir      : Nat
  hdrBad   : Nat
  dataBad  : Nat
deriving DecidableEq, Repr

/-- A peer message (R417): its header fields and its payload. -/
structure PeerMsg where
  opcode   : Nat
  src      : Nat
  dst      : Nat
  rvc      : Bool
  poison   : Bool
  hopsLeft : Nat
  pipeline : Nat
  epoch    : Nat
  bytes    : Nat
  tag      : Nat
  arg      : Nat
  payload  : List Byte
deriving DecidableEq, Repr

/-- A training frame's CONTROL field (R405). -/
structure TrainFrame where
  rxReady  : Bool
  preset   : Bool
  status   : Nat
  requests : Nat
deriving DecidableEq, Repr

/-- The capability record of an exchange frame (R406). -/
structure ExchRecord where
  uid   : Nat
  kind  : Nat
  group : Nat
  lane  : Nat
  lanes : Nat
  ack   : Bool
  seed  : Nat
deriving DecidableEq, Repr

end Sys2Proof
end

