-- ==== Sys2Proof/Syntax.lean ====
section
/-! DEFINITION. The commands of the block: one constructor per row of spec/opcode_table.json, with the
row's operands. A dale instruction names its dale and carries the fields of its format (R185); a register
write carries the value written; an event of the world outside carries what was observed. -/
namespace Sys2Proof

inductive Instr where
  -- control windows (00, 01, 02)
  | registerWrite (src : Src) (addr size value : Nat)
  | semWrite (d sem amount : Nat)
  | satCount (d value : Nat)
  | nanCount (d value : Nat)
  | rateSampleStale (g : Nat)
  -- sequencer (07)
  | sequencerFetch (d : Nat)
  | trapDrained (d : Nat)
  | illegal (d : Nat) (f : IInst)
  | nop (d : Nat) (f : IInst)
  | endStep (d : Nat) (f : IInst)
  | qsync (d : Nat) (f : IInst)
  | csrr (d : Nat) (f : IInst)
  | tdesc (d : Nat) (f : IInst)
  | add (d : Nat) (f : RInst)
  | sub (d : Nat) (f : RInst)
  | and (d : Nat) (f : RInst)
  | or (d : Nat) (f : RInst)
  | xor (d : Nat) (f : RInst)
  | shl (d : Nat) (f : RInst)
  | shr (d : Nat) (f : RInst)
  | sra (d : Nat) (f : RInst)
  | addi (d : Nat) (f : IInst)
  | subi (d : Nat) (f : IInst)
  | andi (d : Nat) (f : IInst)
  | ori (d : Nat) (f : IInst)
  | xori (d : Nat) (f : IInst)
  | shli (d : Nat) (f : IInst)
  | shri (d : Nat) (f : IInst)
  | srai (d : Nat) (f : IInst)
  | mul (d : Nat) (f : RInst)
  | li (d : Nat) (f : IInst)
  | lih (d : Nat) (f : IInst)
  | ld (d : Nat) (f : IInst)
  | st (d : Nat) (f : IInst)
  | beq (d : Nat) (f : IInst)
  | bne (d : Nat) (f : IInst)
  | blt (d : Nat) (f : IInst)
  | bge (d : Nat) (f : IInst)
  | bltu (d : Nat) (f : IInst)
  | bgeu (d : Nat) (f : IInst)
  | jal (d : Nat) (f : IInst)
  | jr (d : Nat) (f : IInst)
  | bpany (d : Nat) (f : IInst)
  | bpnone (d : Nat) (f : IInst)
  -- matrix (03)
  | mmul (d : Nat) (f : MInst) (flt : ArrayFault)
  | mfuse (d : Nat) (f : RInst)
  -- vector (04)
  | vadd (d : Nat) (f : RInst)
  | vsub (d : Nat) (f : RInst)
  | vand (d : Nat) (f : RInst)
  | vor (d : Nat) (f : RInst)
  | vxor (d : Nat) (f : RInst)
  | vshl (d : Nat) (f : RInst)
  | vshr (d : Nat) (f : RInst)
  | vsra (d : Nat) (f : RInst)
  | vmul (d : Nat) (f : RInst)
  | vmulh (d : Nat) (f : RInst)
  | vmulq (d : Nat) (f : RInst)
  | vmac (d : Nat) (f : RInst)
  | vfadd (d : Nat) (f : RInst)
  | vfsub (d : Nat) (f : RInst)
  | vfmul (d : Nat) (f : RInst)
  | vfmac (d : Nat) (f : RInst)
  | vmax (d : Nat) (f : RInst)
  | vmin (d : Nat) (f : RInst)
  | vcmp (d : Nat) (f : RInst)
  | vsel (d : Nat) (f : RInst)
  | vcvt (d : Nat) (f : RInst)
  | vbcast (d : Nat) (f : RInst)
  | dset (d : Nat) (f : RInst)
  | vld (d : Nat) (f : RInst)
  | vst (d : Nat) (f : RInst)
  | cset (d : Nat) (f : RInst)
  | cget (d : Nat) (f : RInst)
  | vsrch (d : Nat) (f : RInst)
  | ssinit (d : Nat) (f : RInst)
  | ssrch (d : Nat) (f : RInst)
  | ssread (d : Nat) (f : RInst)
  | ssred (d : Nat) (f : RInst)
  | vcompact (d : Nat) (f : RInst)
  | vcflush (d : Nat) (f : RInst)
  | vscan (d : Nat) (f : RInst)
  | vhist (d : Nat) (f : RInst)
  | vhread (d : Nat) (f : RInst)
  | vhclear (d : Nat) (f : RInst)
  | tkinit (d : Nat) (f : RInst)
  | vtopk (d : Nat) (f : RInst)
  | tkread (d : Nat) (f : RInst)
  | pand (d : Nat) (f : RInst)
  | por (d : Nat) (f : RInst)
  | pxor (d : Nat) (f : RInst)
  | pnot (d : Nat) (f : RInst)
  | sinter (d : Nat) (f : RInst)
  | smerge (d : Nat) (f : RInst)
  | sdiff (d : Nat) (f : RInst)
  -- special functions (05)
  | sfn (d : Nat) (f : RInst)
  | scinit (d : Nat) (f : RInst)
  | smaxsum (d : Nat) (f : RInst)
  | scmerge (d : Nat) (f : RInst)
  | screcv (d : Nat) (f : RInst) (sender : Nat)
  | scsend (d : Nat) (f : RInst)
  | snacc (d : Nat) (f : RInst)
  | snfin (d : Nat) (f : RInst)
  | smfin (d : Nat) (f : RInst)
  -- random (06)
  | runi (d : Nat) (f : RInst)
  | runif (d : Nat) (f : RInst)
  | rbern (d : Nat) (f : RInst)
  | rnormTab (d : Nat) (f : RInst)
  | rnormBm (d : Nat) (f : RInst)
  | rkey (d : Nat) (f : RInst)
  | rctr (d : Nat) (f : RInst)
  | rcget (d : Nat) (f : RInst)
  -- streams and synchronisation instructions
  | sstart (d : Nat) (f : RInst)
  | tcopy (d : Nat) (f : RInst)
  | signal (d : Nat) (f : IInst)
  | wait (d : Nat) (f : IInst)
  | arrive (d : Nat) (f : IInst)
  | semwait (d : Nat) (f : IInst)
  | seminc (d : Nat) (f : IInst)
  -- command processor (08)
  | cqTail (q value : Nat)
  | cplHead (c value : Nat)
  | cqCtrl (q value : Nat)
  | cplCtrl (c value : Nat)
  | commandFetch
  | loadPlacement (tag : Nat)
  | placementRelease (tag : Nat)
  | startPipeline (tag : Nat)
  | runStep (tag : Nat)
  | stepEnd (p : Nat)
  | stepWatchdog (p : Nat)
  | saveContext (tag : Nat)
  | restoreContext (tag : Nat)
  | abort (tag : Nat)
  | functionDrain (tag : Nat)
  | functionDrained (tag : Nat)
  | functionCut (tag : Nat)
  | functionEnable (tag : Nat)
  | katRun (tag : Nat)
  | katKernelDone (d kernel : Nat) (digest : List Byte)
  | katSchedule (entry : Nat)
  | fence (tag : Nat)
  | fenceComplete (tag : Nat)
  | completionWrite (tag : Nat)
  -- streams and directory (09)
  | streamListFetch (d ch : Nat)
  | streamRequestIssue (d : Nat)
  | gatherLookup (stack d ch row : Nat)
  | reloadCtrl (stack value : Nat)
  | reloadDrained (stack : Nat)
  | reloadFilled (stack : Nat)
  -- network (10)
  | packetInject (c : Nat) (p : Packet)
  | colForward (c port plane vc : Nat)
  | read (c : Nat) (p : Packet)
  | write (c : Nat) (p : Packet)
  | readResp (c : Nat) (p : Packet)
  | writeAck (c : Nat) (p : Packet)
  | mcastData (c : Nat) (p : Packet)
  | trace (c : Nat) (p : Packet)
  | semincRequest (c : Nat) (p : Packet)
  | semincAck (c : Nat) (p : Packet)
  | run (c : Nat) (p : Packet)
  | endReport (c : Nat) (p : Packet)
  | mcastReady (c : Nat) (p : Packet)
  | mcastAck (c : Nat) (p : Packet)
  | mcastCancel (c : Nat) (p : Packet)
  | ctrlRead (c : Nat) (p : Packet)
  | ctrlWrite (c : Nat) (p : Packet)
  | ctrlResp (c : Nat) (p : Packet)
  | drainReq (c : Nat) (p : Packet)
  | interfaceDrained (c : Nat)
  | drainDone (c : Nat) (p : Packet)
  | drainForced (c : Nat)
  | probeCtrl (k value : Nat)
  | niClear (c value : Nat)
  -- HBM (11)
  | hbmCommandIssue (stack pc now : Nat) (severity : Bool) (bad : List Nat)
  | hbmRefresh (stack pc bank : Nat) (window : Bool)
  | hbmTempRead (stack : Nat) (celsius : Int)
  | hbmScrubAccess (stack pc : Nat) (secondClean : Bool)
  | hbmTrainingDone (stack : Nat) (ok : Bool)
  | hbmFillDone (stack micros : Nat)
  | hostSnoopTimeout (stack line : Nat)
  -- logic fabric (12)
  | clockUnlocked (g : Nat)
  | clockLocked (g : Nat)
  | sectorReset (k value : Nat)
  | sectorClear (k value : Nat)
  | bramAccess (sector mem port : Nat) (wr : Bool) (word : Nat) (value : BitVec 72)
  | queueAccess (sector mem : Nat) (wr : Bool) (value : BitVec 72)
  | portBeatOut (d queue : Nat)
  | portBeatIn (d queue : Nat) (data : List Byte) (poison last : Bool)
  | portDrainRequest (k : Nat)
  | portDrained (d : Nat)
  | portDrainForced (d : Nat)
  -- configuration (13)
  | cfgGo
  | cfgAbandon
  | cfgHeaderReceived (header : List Byte)
  | cfgSignatureVerified (signature : List Byte)
  | cfgRegionTableReceived (table : List Byte)
  | cfgFrameReceived (frame : List Byte)
  | cfgLastByte
  | cfgCommit
  | cfgDeadline
  | cfgEnumWaitExpired
  | strandStartMark
  | strandGap
  | cfgScrubFrame (sector frame word : Nat) (active staged : Nat)
  -- Heonlink (14)
  | flitReceived (link : Nat) (flit : List Byte)
  | rdShared (toDevice : Bool) (sub tag line : Nat)
  | rdOwn (sub tag line : Nat)
  | rdNc (toDevice : Bool) (sub tag line : Nat)
  | wrNc (toDevice : Bool) (sub tag line mask : Nat) (bytes : List Byte) (poison : Bool)
  | wrBack (sub tag line : Nat) (bytes : List Byte) (poison : Bool)
  | evict (sub tag line : Nat)
  | mmioRd32 (sub tag addr : Nat)
  | mmioRd64 (sub tag addr : Nat)
  | mmioWr32 (sub tag addr value : Nat)
  | mmioWr64 (sub tag addr value : Nat)
  | cfgRd (sub tag reg : Nat)
  | cfgWr (sub tag reg value : Nat)
  | snpShare (toDevice : Bool) (sub tag line : Nat)
  | snpInv (toDevice : Bool) (sub tag line : Nat)
  | go (toDevice : Bool) (sub tag state status : Nat)
  | comp (toDevice : Bool) (sub tag status : Nat)
  | snpRsp (sub tag state : Nat) (dirty : Option (List Byte × Bool))
  | data (toDevice : Bool) (sub : Nat) (tags : List Nat) (lines : List (List Byte)) (poison : Nat)
  | enumDone (ms : Nat)
  | linkReset
  | linkDown (sub : Nat)
  | hostLost
  -- serial lanes (15)
  | laneDetectProbe (lane : Nat) (found : Bool)
  | trainingFrame (lane : Nat) (symbols : List Nat) (adapted inverted : Bool)
  | exchangeFrame (group lane : Nat) (symbols : List Nat) (spaced : Bool) (micros : Nat)
  | alignmentMarker (group lane : Nat) (symbols : List Nat) (early skewOk : Bool)
  | markerSend (group : Nat) (words : List Nat)
  | markerTimeout (group : Nat)
  | codewordReceived (group : Nat) (lines : List (List Nat)) (errors : List Nat)
  | laneLockLost (lane : Nat)
  | trainLimitExpired (group : Nat)
  | trainRetry (group : Nat)
  | idleEntry (group : Nat)
  | idleExit (group : Nat)
  | groupRetrain (group : Nat)
  | deepRequest (group : Nat)
  | deepRequestTimeout (group : Nat)
  | deepWake (group : Nat)
  | wakeBurst (group : Nat)
  | laneCtrl (lane value : Nat)
  | laneBitslip (lane value : Nat)
  | groupClear (group value : Nat)
  | portEnable (value : Nat)
  -- peer links (16)
  | peerWrite (port : Nat) (m : PeerMsg)
  | peerReduce (port : Nat) (m : PeerMsg)
  | peerAck (port : Nat) (m : PeerMsg)
  | peerCommit (port : Nat) (m : PeerMsg)
  | peerRetract (port : Nat) (m : PeerMsg)
  | peerSignal (port : Nat) (m : PeerMsg)
  | epochExpired (port src pipeline epoch : Nat)
  | portDown (port : Nat)
  | hostEpochCommit
  | hostEpochRetract
  -- integrity (17)
  | shadowSig (d value : Nat) (src : Src)
  | eventRecord (k : Nat)
  | haltLimitExpired (d : Nat)
  | isolateDale (value : Nat)
  -- recorder and object dictionary (19)
  | recordFlashWrite (ok : Bool)
  | logClear (path value : Nat) (flashOk : Bool)
  | logEraseDone
  | odCmdRead (index sub : Nat)
  | odCmdWrite (index sub : Nat) (flashOk : Bool)
  | canRead (tid index sub : Nat)
  | canWrite (tid index sub len : Nat) (bytes : List Byte) (flashOk : Bool)
  | canSegment (tid seq : Nat) (bytes : List Byte) (flashOk : Bool)
  | canReadMore (tid seq : Nat)
  | canAbort (tid : Nat)
  | canDescribe (tid index sub : Nat)
  | canTransferTimeout
  | canBusOff
  | authToken (path part : Nat) (bytes : List Byte)
  | restoreDefaults (path value : Nat)
  | arithClear (value : Nat)
  | arrayStatsClear (value : Nat)
  | vecStatsClear (value : Nat)
  | sfuStatsClear (value : Nat)
  | rngStatsClear (value : Nat)
  | seqStatsClear (value : Nat)
  | cmdStatsClear (value : Nat)
  | streamStatsClear (value : Nat)
  | gatherStatsClear (stack value : Nat)
  | netStatsClear (value : Nat)
  | hbmStatsClear (stack value : Nat)
  | steppeStatsClear (value : Nat)
  | cfgStatsClear (value : Nat)
  | heonStatsClear (sub value : Nat)
  | laneStatsClear (value : Nat)
  | peerStatsClear (value : Nat)
  | integrityStatsClear (value : Nat)
  | powerStatsClear (value : Nat)
  | odStatsClear (value : Nat)
  | secStatsClear (value : Nat)
  -- power and saddle (18)
  | sensorSample (raw : List (Nat × Int)) (avsOk : Bool)
  | limiterTick
  | supplyDeviation
  | domainGate (n requester rule : Nat)
  | domainWake (n requester rule : Nat)
  | domainWoken (n micros : Nat)
  | deviceSleepEnter (requester : Nat)
  | deviceSleepWake
  | wakePin
  | orderlyShutdown (value : Nat)
  | counterPersist (ok : Bool)
  | rulesetCtrl (value : Nat)
  | rulesetVerified
  -- security (20)
  | ownerProvision (path : Nat) (bytes : List Byte) (otpOk : Bool)
  | ownerRevoke (path k : Nat) (otpOk : Bool)
  | svnAdvance (path value : Nat) (otpOk : Bool)
  | vendorRootKey (bytes : List Byte)
  | ownerKey (k : Nat) (bytes : List Byte)
  | attestNonce (path : Nat) (bytes : List Byte)
  | attestationSigned (path : Nat) (ok : Bool)
  | entropyFault (proportion : Bool)
  | drawTimeout
  -- bring-up and reset (21), pins (22)
  | powerGood
  | pwrGoodFall
  | rstNFall
  | rstNRise
  | coreReset (value : Nat)
  | flashHold
  | firmwareCheck
  | baseImageCheck
  | reducedReady (ms : Nat)
  | fullReady (ms : Nat)
  | fullReadyLate
  | flashHoldReleased
  | persistenceWaitExpired
  | testAccessPort (tms tdi : Bool)
  | healthTestsPass
deriving DecidableEq, Repr

end Sys2Proof
end

