-- ==== Sys2Proof/Config.lean ====
section
/-! DEFINITION. What an implementation fixes and the values the spec leaves open. Every constant here is
opaque: it has no body, so no proof can learn a value of it. A definition that uses one holds for every
value of it. -/
namespace Sys2Proof.Config

/-- The free values a step takes where the spec states no value: the model applies it to the counter
`State.free` and advances the counter (log entry 3). -/
opaque freeBits : Nat → Nat

/-- Where a special function turns from one result to the next (R126, R128, R135): by function (0-15 native, 16-22
HD7-exact), destination format code, sign of the result and stretch of arguments, the least magnitude of the exact value
from which the result is at least a given one. The tables that fix it are not in the spec (log entry 8). -/
opaque sfuThreshold : Nat → Nat → Bool → Nat → Nat → Nat
/-- Which entries of the table stores a function of the base image reads for an argument (R131, R148; log entry 8). -/
opaque tableRead : Nat → Nat → W32 → Bool
/-- What a user program gives at an infinity or outside its table's octaves: program and argument (log entry 13). -/
opaque sfuUser : List Byte → W32 → W32
/-- What an index that does not fit an element of SSREAD's view writes there: view and index (R110; log entry 3). -/
opaque narrowIndex : Nat → Nat → Nat
/-- Whether a coefficient of a transmitter, at a value, can move no further up or down (R405; log entry 74). -/
opaque coefLimit : Nat → Bool → Int → Bool
/-- The RAA limit of a stack's banks (R296; log entry 72). -/
opaque raaLimit : Nat
/-- The read-only table stores of R142: store 0 native, 1 HD7; entry; the 128 bits of the entry (log entry 8). -/
opaque tableStore : Nat → Nat → Nat
/-- The reduction of R131 for the kinds 0 exponential and 3 trigonometric: reduced argument and parameter
(log entry 9). -/
opaque reduceArg : Nat → W32 → W32 × Int
/-- Which of the two additions of R144's RECON 1 a program makes, n·ln 2 or n, and the FP32 value of n·ln 2 it adds
(log entry 9). -/
opaque reconLn : List Byte → Bool
opaque timesLn2 : Int → W32
/-- The quadrant reconstruction of R144's RECON 3, applied to a value and the reduction parameter (log entry 9). -/
opaque reconQuadrant : W32 → Int → W32

/-- SLH-DSA verification of FIPS 205 (R506): public key, message digest, signature (log entry 11). -/
opaque slhVerify : List Byte → List Byte → List Byte → Bool
/-- SLH-DSA signing of FIPS 205 (R521): the part's identity key, message (log entry 11). -/
opaque slhSign : List Byte → List Byte

/-- The part's 128-bit unique identity, and its stepping, serial and date values, fused at test. -/
opaque uid : Nat
opaque stepping : Nat
opaque serialText : List Byte
opaque dateCode : Nat
/-- The vendor root public key in the key store at manufacture (R509); its digest is fused in OTP (R507). -/
opaque vendorRootKey : List Byte
/-- The part's identity public key and certificate (R519). -/
opaque identityKey : List Byte
opaque identityCert : List Byte

/-- A firmware copy in flash (R526): copy A is 0, B is 1. -/
opaque firmwareCopy : Nat → List Byte
/-- The version that a copy of the firmware reports when it starts (OD 0x1002.03). -/
opaque fwVersion : Nat → Nat
/-- A base special-function image copy in flash (R526): copy A is 0, B is 1. -/
opaque baseCopy : Nat → List Byte
/-- Byte `a` of the configuration flash outside the regions the block writes (golden image, firmware). -/
opaque flashByte : Nat → Byte
/-- A known-answer kernel of the firmware (R440): its instruction words. -/
opaque katWords : Nat → List W64
/-- The data a known-answer kernel places in the dale store from offset 0 (R440). -/
opaque katData : Nat → List Byte
/-- The golden digest of a known-answer kernel for a configuration of the dale (R440). -/
opaque katDigest : Nat → List Byte

/-- What a design's frames choose in layouts the spec does not give (R323, R326, R329, R331; log entry 40), by DESIGN_ID:
the release clock of a reset tree, the tree of a queue's write side, its levels AE and AF, the shape of a memory's port (0 is
1,024 x 72) and its clock tree, whether a memory is in plain mode, and the clock tree of a dale's port side; no tree is a handshake. -/
opaque releaseClock : Nat → Nat → Nat
opaque queueTree : Nat → Nat → Nat
opaque queueLevels : Nat → Nat → Nat × Nat
opaque bramShape : Nat → Nat → Nat → Nat
opaque bramClock : Nat → Nat → Nat → Option Nat
opaque bramPlain : Nat → Nat → Bool
opaque portClock : Nat → Nat → Option Nat
/-- What a design's LOGIC frames choose for its cells and clusters, by DESIGN_ID and number (R314, R315, R324; log entry 40): whether
a cell is in shift mode, its table, whether it holds two, the values of its registers with whether their reset is asynchronous,
the clock and reset tree of a cluster, the taps of its handshake cell; and what the routing brings a cell or a handshake cell for
the signals its sector presents. -/
opaque cellShift : Nat → Nat → Bool
opaque cellTable : Nat → Nat → Nat
opaque cellSplit : Nat → Nat → Bool
opaque cellInit : Nat → Nat → Nat
opaque clusterTrees : Nat → Nat → Nat
opaque joinTaps : Nat → Nat → Nat
opaque cellPins : Nat → Nat → List Nat → Nat
opaque joinPins : Nat → Nat → List Nat → Nat
/-- N and enable of generator g as a DEVICE frame's payload sets them (R321, R347; log entry 40). -/
opaque deviceClock : List Byte → Nat → Nat × Bool

/-- The test access port (R549): the length of the instruction register, what a code selects (0 BYPASS, 1 IDCODE,
2 SAMPLE/PRELOAD, 3 EXTEST, 4 CLAMP, 5 HIGHZ, 6 EXTEST_PULSE, 7 EXTEST_TRAIN), and the length of the boundary register
(log entry 6). -/
opaque tapLength : Nat
opaque tapInstr : Nat → Nat
opaque boundaryLength : Nat

end Sys2Proof.Config
end

