-- ==== Sys2Proof/Machine/Fp.lean ====
section
/-! DEFINITION. The arithmetic of chapter 02: encodings (R47-R49), exact values, the two roundings (R53, R56),
the range test and class table (R54, R55), FP32 addition and multiplication (R58-R60), split pairs (R66) and
compensated accumulation (R69). -/
namespace Sys2Proof.Machine

/-- An exact value: a NaN, an infinity, or (−1)^neg × m × 2^e; m = 0 is a signed zero. -/
inductive Fp where
  | nan
  | inf (neg : Bool)
  | fin (neg : Bool) (m : Nat) (e : Int)
deriving DecidableEq, Repr

/-- The format a code of R47 names; none for the reserved codes 0xA-0xF. -/
def fmtOfCode : Nat → Option Fmt
  | 0 => some .e4m3 | 1 => some .e5m2 | 2 => some .e2m1 | 3 => some .int8 | 4 => some .int4
  | 5 => some .bf16 | 6 => some .fp16 | 7 => some .fp32 | 8 => some .int32 | 9 => some .pair
  | _ => none

/-- The code of a format (R47). -/
def fmtCode : Fmt → Nat
  | .e4m3 => 0 | .e5m2 => 1 | .e2m1 => 2 | .int8 => 3 | .int4 => 4
  | .bf16 => 5 | .fp16 => 6 | .fp32 => 7 | .int32 => 8 | .pair => 9

/-- Bits per element (R47). -/
def fmtBits : Fmt → Nat
  | .e4m3 | .e5m2 | .int8 => 8
  | .e2m1 | .int4 => 4
  | .bf16 | .fp16 => 16
  | .fp32 | .int32 => 32
  | .pair => 64

/-- The integer formats of R47. -/
def fmtIsInt : Fmt → Bool
  | .int8 | .int4 | .int32 => true
  | _ => false

/-- Parameters of a floating format (R48): significand precision with the leading bit, exponent of the smallest
subnormal, encoding of the largest finite value. Integer formats and the pair use the FP32 row. -/
def fmtParams : Fmt → Nat × Int × Nat
  | .e4m3 => (4, -9, 0x7E)
  | .e5m2 => (3, -16, 0x7B)
  | .e2m1 => (2, -1, 0x7)
  | .bf16 => (8, -133, 0x7F7F)
  | .fp16 => (11, -24, 0x7BFF)
  | _ => (24, -149, 0x7F7FFFFF)

/-- The canonical NaN (R48, R50); E2M1 has none. -/
def fmtNan : Fmt → Option Nat
  | .e4m3 => some 0x7F
  | .e5m2 => some 0x7E
  | .bf16 => some 0x7FC0
  | .fp16 => some 0x7E00
  | .fp32 => some 0x7FC00000
  | _ => none

/-- The encoding of +∞ (R48), where the format has one. -/
def fmtInf : Fmt → Option Nat
  | .e5m2 => some 0x7C
  | .bf16 => some 0x7F80
  | .fp16 => some 0x7C00
  | .fp32 => some 0x7F800000
  | _ => none

/-- Two's complement value of the low `w` bits of `n`. -/
def sextNat (w n : Nat) : Int :=
  let r := n % 2 ^ w
  if r < 2 ^ (w - 1) then (r : Int) else (r : Int) - (2 : Int) ^ w

/-- The low `w` bits of an integer, as an unsigned number. -/
def wrapNat (w : Nat) (i : Int) : Nat := (i % (2 : Int) ^ w).toNat

/-- The exact value of an integer. -/
def fpOfInt (i : Int) : Fp := .fin (decide (i < 0)) i.natAbs 0

/-- The exact value an encoding stands for (R47-R49). A pair is read as its sum word. -/
def fpDecode (f : Fmt) (bits : Nat) : Fp :=
  match f with
  | .int8 => fpOfInt (sextNat 8 bits)
  | .int4 => fpOfInt (sextNat 4 bits)
  | .int32 => fpOfInt (sextNat 32 bits)
  | _ =>
    let w := match f with | .pair => 32 | g => fmtBits g
    let (prec, qmin, maxFin) := fmtParams f
    let neg := bits.testBit (w - 1)
    let mag := bits % 2 ^ (w - 1)
    if mag ≤ maxFin then
      let ef := mag / 2 ^ (prec - 1)
      let fr := mag % 2 ^ (prec - 1)
      if ef = 0 then .fin neg fr qmin
      else .fin neg (fr + 2 ^ (prec - 1)) (qmin + (ef - 1 : Nat))
    else
      let g := match f with | .pair => Fmt.fp32 | h => h
      if fmtInf g = some mag then .inf neg else .nan

/-- The number of bits of a magnitude. -/
def bitLen (m : Nat) : Nat := if m = 0 then 0 else m.log2 + 1

/-- Round a non-zero magnitude m × 2^e to `prec` bits with least exponent `qmin` (R51): nearest, ties to even
(R53), or with dither byte u by R56. Answers the kept integer and its exponent; kept may be 2^prec. -/
def roundMag (prec : Nat) (qmin : Int) (dither : Option Nat) (m : Nat) (e : Int) : Nat × Int :=
  let q := max (e + (bitLen m : Int) - (prec : Int)) qmin
  if q ≤ e then (m * 2 ^ (e - q).toNat, q)
  else
    let sh := (q - e).toNat
    let kept := m / 2 ^ sh
    let rem := m % 2 ^ sh
    match dither with
    | none =>
      let half := 2 ^ (sh - 1)
      if rem > half ∨ (rem = half ∧ kept % 2 = 1) then (kept + 1, q) else (kept, q)
    | some u =>
      let d := if 8 ≤ sh then rem / 2 ^ (sh - 8) else rem * 2 ^ (8 - sh)
      if d + u ≥ 256 then (kept + 1, q) else (kept, q)

/-- The magnitude bits of a rounded value of a format with `prec` bits and least exponent `qmin`. -/
def magBits (prec : Nat) (qmin : Int) (k : Nat) (q : Int) : Nat :=
  (q - qmin).toNat * 2 ^ (prec - 1) + k

/-- The sign bit of a floating format, in place. -/
def signBit (w : Nat) (neg : Bool) : Nat := if neg then 2 ^ (w - 1) else 0

/-- Round a value to FP32 (R53, R60): an overflow gives an infinity, a NaN the canonical NaN. -/
def rne32 (v : Fp) : W32 :=
  match v with
  | .nan => 0x7FC00000#32
  | .inf neg => BitVec.ofNat 32 (signBit 32 neg + 0x7F800000)
  | .fin neg m e =>
    if m = 0 then BitVec.ofNat 32 (signBit 32 neg)
    else
      let (k, q) := roundMag 24 (-149) none m e
      let b := magBits 24 (-149) k q
      BitVec.ofNat 32 (signBit 32 neg + (if b > 0x7F7FFFFF then 0x7F800000 else b))

/-- The exact value of an FP32 word. -/
def val32 (x : W32) : Fp := fpDecode .fp32 x.toNat

/-- The exact value as an integer multiple of 2^e, when the value is finite with exponent at least e. -/
def scaled (neg : Bool) (m : Nat) (e0 e : Int) : Int :=
  let n : Int := m * 2 ^ (e0 - e).toNat
  if neg then -n else n

/-- The exact sum of two values with the signs of zeros of R60: two zeros of one sign keep it, any other exact
zero sum is +0. -/
def fpAdd : Fp → Fp → Fp
  | .nan, _ => .nan
  | _, .nan => .nan
  | .inf a, .inf b => if a = b then .inf a else .nan
  | .inf a, _ => .inf a
  | _, .inf b => .inf b
  | .fin na ma ea, .fin nb mb eb =>
    if ma = 0 ∧ mb = 0 then .fin (na && nb) 0 0
    else
      let e := min ea eb
      let t := scaled na ma ea e + scaled nb mb eb e
      .fin (decide (t < 0)) t.natAbs e

/-- The exact product of two values. -/
def fpMul : Fp → Fp → Fp
  | .nan, _ => .nan
  | _, .nan => .nan
  | .inf a, .inf b => .inf (a != b)
  | .inf a, .fin b m _ => if m = 0 then .nan else .inf (a != b)
  | .fin a m _, .inf b => if m = 0 then .nan else .inf (a != b)
  | .fin a ma ea, .fin b mb eb => .fin (a != b) (ma * mb) (ea + eb)

/-- The value with its sign turned. -/
def fpNeg : Fp → Fp
  | .nan => .nan
  | .inf a => .inf (!a)
  | .fin a m e => .fin (!a) m e

/-- FP32 addition (R60). -/
def fadd (a b : W32) : W32 := rne32 (fpAdd (val32 a) (val32 b))
/-- FP32 subtraction: addition of the operand with its sign turned. -/
def fsub (a b : W32) : W32 := rne32 (fpAdd (val32 a) (fpNeg (val32 b)))
/-- FP32 multiplication (R58). -/
def fmul (a b : W32) : W32 := rne32 (fpMul (val32 a) (val32 b))

/-- A NaN, by value. -/
def fpIsNan : Fp → Bool
  | .nan => true
  | _ => false

/-- An infinity, by value. -/
def fpIsInf : Fp → Bool
  | .inf _ => true
  | _ => false

/-- An FP32 word that is a NaN. -/
def isNan32 (x : W32) : Bool := fpIsNan (val32 x)
/-- An FP32 word that is neither a NaN nor an infinity. -/
def isFinite32 (x : W32) : Bool := (x.toNat / 2 ^ 23) % 256 != 255

/-- Order of two values that are not NaN: is the first less (−0 and +0 are equal)? -/
def fpLt : Fp → Fp → Bool
  | .nan, _ => false
  | _, .nan => false
  | .inf a, .inf b => a && !b
  | .inf a, .fin _ _ _ => a
  | .fin _ _ _, .inf b => !b
  | .fin na ma ea, .fin nb mb eb =>
    let e := min ea eb
    decide (scaled na ma ea e < scaled nb mb eb e)

/-- FP32 less-than (R108): false with a NaN. -/
def flt (a b : W32) : Bool := fpLt (val32 a) (val32 b)
/-- FP32 equality (R108): −0 equals +0, false with a NaN. -/
def feq (a b : W32) : Bool :=
  !isNan32 a && !isNan32 b && !flt a b && !flt b a

/-- The outcome of a conversion: the bits written and whether the saturation or the NaN-seen counter
counts it (the marks (S) and (N) of R55). -/
structure Conv where
  bits : Nat
  sat  : Bool
  nan  : Bool
deriving DecidableEq, Repr

/-- The result of R55 for a value beyond range or an infinity of a floating format. `fromInf` tells them
apart; they differ for E4M3 in propagating class. -/
def convBeyond (f : Fmt) (prop fromInf neg : Bool) : Conv :=
  let (_, _, maxFin) := fmtParams f
  let w := match f with | .pair => 32 | g => fmtBits g
  let sgn := signBit w neg
  match prop, f with
  | true, .e4m3 => if fromInf then ⟨0x7F, false, false⟩ else ⟨sgn + maxFin, true, false⟩
  | true, .e2m1 => ⟨sgn + maxFin, true, false⟩
  | true, g =>
    match fmtInf g with
    | some i => ⟨sgn + i, false, false⟩
    | none => ⟨sgn + maxFin, true, false⟩
  | false, _ => ⟨sgn + maxFin, true, false⟩

/-- The result of R55 for a NaN. -/
def convNan (f : Fmt) (prop : Bool) : Conv :=
  if prop then
    match fmtNan f with
    | some b => ⟨b, false, false⟩
    | none => ⟨0, false, true⟩
  else ⟨0, false, true⟩

/-- Round an exact value to the nearest integer, ties to even. -/
def rneInt (neg : Bool) (m : Nat) (e : Int) : Int :=
  let k : Nat :=
    if 0 ≤ e then m * 2 ^ e.toNat
    else
      let sh := (-e).toNat
      let kept := m / 2 ^ sh
      let rem := m % 2 ^ sh
      let half := 2 ^ (sh - 1)
      if rem > half ∨ (rem = half ∧ kept % 2 = 1) then kept + 1 else kept
  if neg then -(k : Int) else (k : Int)

/-- Clip an integer to a signed width, telling whether it was beyond range. -/
def clipInt (w : Nat) (i : Int) : Int × Bool :=
  let hi : Int := (2 : Int) ^ (w - 1) - 1
  let lo : Int := -((2 : Int) ^ (w - 1))
  if i > hi then (hi, true) else if i < lo then (lo, true) else (i, false)

/-- Every conversion of R53-R56 and R66's class rule: to format `f` under class `prop` (1 propagating), with
the dither byte when stochastic rounding is asked for. -/
def convTo (f : Fmt) (prop : Bool) (dither : Option Nat) (v : Fp) : Conv :=
  if fmtIsInt f then
    let w := fmtBits f
    match v with
    | .nan => ⟨0, false, true⟩
    | .inf neg =>
      let big : Int := if neg then -((2 : Int) ^ (w - 1)) else (2 : Int) ^ (w - 1) - 1
      ⟨wrapNat w big, true, false⟩
    | .fin neg m e =>
      let (i, s) := clipInt w (rneInt neg m e)
      ⟨wrapNat w i, s, false⟩
  else
    let (prec, qmin, maxFin) := fmtParams f
    let w := match f with | .pair => 32 | g => fmtBits g
    match v with
    | .nan => convNan f prop
    | .inf neg => convBeyond f prop true neg
    | .fin neg m e =>
      if m = 0 then ⟨signBit w neg, false, false⟩
      else
        let (k, q) := roundMag prec qmin dither m e
        let b := magBits prec qmin k q
        if b > maxFin then convBeyond f prop false neg else ⟨signBit w neg + b, false, false⟩

/-- The formats to which R56 lets an FP32 value convert with stochastic rounding. -/
def ditherTarget : Fmt → Bool
  | .e4m3 | .e5m2 | .e2m1 | .bf16 | .fp16 => true
  | _ => false

/-- The SPLIT conversion of R66: the BF16 halves (hi, lo) of an FP32 value and the conversion marks. No row of the opcode table
and no field of a format requests it, so no command runs it: split pairs reach a slot as bytes (log entry 60). -/
def splitPair (prop : Bool) (a : W32) : Nat × Nat × Bool × Bool :=
  match val32 a with
  | .fin neg m e =>
    let c := convTo .bf16 false none (.fin neg m e)
    let d := rne32 (fpAdd (.fin neg m e) (fpNeg (fpDecode .bf16 c.bits)))
    let l := convTo .bf16 true none (val32 d)
    (c.bits, l.bits, false, false)
  | v =>
    let c := convTo .bf16 prop none v
    (c.bits, 0, c.sat, c.nan)

/-- One addition of compensated accumulate (R69): (acc, comp) after adding the rounded product p. -/
def compAdd (ac : W32 × W32) (p : W32) : W32 × W32 :=
  let s := fadd ac.1 p
  let e : W32 :=
    if isFinite32 s then rne32 (fpAdd (fpAdd (val32 ac.1) (val32 p)) (fpNeg (val32 s))) else 0#32
  (s, fadd ac.2 e)

end Sys2Proof.Machine
end

