-- ==== Sys2Proof/Machine/Exact.lean ====
section
/-! DEFINITION. The exact values of the native functions of R126, as numbers of 640 fraction bits: far finer than the
bounds of R128 and R135, which they serve to state. -/
namespace Sys2Proof.Machine

/-- Fraction bits of a fixed-point number. -/
def fixBits : Nat := 640
/-- The number 1. -/
def fixOne : Nat := 2 ^ 640

/-- The integer square root, digit by digit. -/
def isqrt : Nat → Nat → Nat
  | 0, _ => 0
  | fuel + 1, n =>
    if n = 0 then 0
    else
      let r := 2 * isqrt fuel (n / 4)
      if (r + 1) * (r + 1) ≤ n then r + 1 else r

/-- Product, quotient and square root. -/
def fixMul (a b : Nat) : Nat := a * b / fixOne
def fixDiv (a b : Nat) : Nat := a * fixOne / b
def fixSqrt (a : Nat) : Nat := isqrt 1400 (a * fixOne)

/-- The sum of t + t·g(k) + t·g(k)·g(k+1) + … , the ratio g(k) being `num k` / `den k`. -/
def series (num den : Nat → Nat) : Nat → Nat → Nat → Nat
  | 0, _, _ => 0
  | fuel + 1, k, t => if t = 0 then 0 else t + series num den fuel (k + 1) (t * num k / (den k * fixOne))

/-- e^r for r below 1. -/
def expSmall (r : Nat) : Nat := series (fun _ => r) (fun k => k + 1) 200 0 fixOne

/-- The terms z^(2k+1) / (2k+1) of one sign, summed. -/
def oddSum : Nat → Nat → Nat → Nat → Nat
  | 0, _, _, _ => 0
  | fuel + 1, k, p, q => if p = 0 then 0 else p / (2 * k + 1) + oddSum fuel (k + 1) (fixMul p q) q

/-- artanh z for z up to 1/3. -/
def artanhSmall (z : Nat) : Nat := oddSum 400 0 z (fixMul z z)

/-- The terms z^(2k+1) / (2k+1) with alternating signs, the positive ones and the negative ones apart. -/
def altSum (q : Nat) : Nat → Nat → Nat → Nat × Nat
  | 0, _, _ => (0, 0)
  | fuel + 1, k, p =>
    if p = 0 then (0, 0)
    else
      let (a, b) := altSum q fuel (k + 1) (fixMul p q)
      if k % 2 = 0 then (a + p / (2 * k + 1), b) else (a, b + p / (2 * k + 1))

/-- arctan of 1/n. -/
def arctanInv (n : Nat) : Nat :=
  let z := fixOne / n
  let (a, b) := altSum (fixMul z z) 400 0 z
  a - b

/-- ln 2 and π. -/
def fixLn2 : Nat := 2 * artanhSmall (fixOne / 3)
def fixPi : Nat := 16 * arctanInv 5 - 4 * arctanInv 239

/-- The number that a magnitude m × 2^e is, bits below the last dropped. -/
def fixOf (m : Nat) (e : Int) : Nat :=
  let sh := e + fixBits
  if 0 ≤ sh then m * 2 ^ sh.toNat else m / 2 ^ (-sh).toNat

/-- e^x of a number below 2^9. -/
def fixExpPos (x : Nat) : Nat :=
  let l := fixLn2
  expSmall (x % l) * 2 ^ (x / l)
/-- e^−x; 0 from 2^9 on. -/
def fixExpNeg (x : Nat) : Nat := if x ≥ 512 * fixOne then 0 else fixOne * fixOne / fixExpPos x

/-- ln(1 + t) for t up to 1. -/
def fixLog1p (t : Nat) : Nat := 2 * artanhSmall (fixDiv t (2 * fixOne + t))

/-- The natural logarithm of m × 2^e: sign and magnitude. -/
def fixLog (m : Nat) (e : Int) : Bool × Nat :=
  let l := bitLen m
  let y := m * 2 ^ (fixBits + 1 - l)
  let v : Int := (fixLog1p (y - fixOne) : Int) + (e + (l : Int) - 1) * (fixLn2 : Int)
  (decide (v < 0), v.natAbs)

/-- tanh of a number. -/
def fixTanh (x : Nat) : Nat :=
  let t := fixExpNeg (2 * x)
  fixDiv (fixOne - t) (fixOne + t)

/-- 1/(1 + e^−x) of a signed number. -/
def fixSigm (neg : Bool) (x : Nat) : Nat :=
  let t := fixExpNeg x
  if neg then fixDiv t (fixOne + t) else fixDiv fixOne (fixOne + t)

/-- erf of a number up to 16. -/
def fixErf (x : Nat) : Nat :=
  let q := 2 * fixMul x x
  let s := series (fun _ => q) (fun k => 2 * k + 3) 1600 0 x
  fixDiv (2 * fixMul (fixExpNeg (fixMul x x)) s) (fixSqrt fixPi)

/-- sin and cos of r up to π/4: one of the two alternating sums of r^k / k!. -/
def trigSum (q : Nat) : Nat → Nat → Nat → Nat × Nat
  | 0, _, _ => (0, 0)
  | fuel + 1, k, p =>
    if p = 0 then (0, 0)
    else
      let (a, b) := trigSum q fuel (k + 2) (p * q / ((k + 1) * (k + 2) * fixOne))
      (p + b, a)

/-- sin (`odd` 1) or cos (`odd` 0) of r up to π/4. -/
def fixTrig (odd r : Nat) : Nat :=
  let (a, b) := trigSum (fixMul r r) 160 odd (if odd = 1 then r else fixOne)
  a - b

/-- The sine of the quarter turns `quad` plus a signed remainder. -/
def quadSin (quad : Int) (neg : Bool) (r : Nat) : Bool × Nat :=
  match (quad % 4).toNat with
  | 0 => (neg, fixTrig 1 r)
  | 1 => (false, fixTrig 0 r)
  | 2 => (!neg, fixTrig 1 r)
  | _ => (true, fixTrig 0 r)

/-- sin of a signed number plus `turns` quarter turns. -/
def fixSin (neg : Bool) (x : Nat) (turns : Int) : Bool × Nat :=
  let h := fixPi / 2
  let v : Int := if neg then -(x : Int) else x
  let quad := (2 * v + h) / (2 * (h : Int))
  let r := v - quad * h
  quadSin (quad + turns) (decide (r < 0)) r.natAbs

/-- The exact value of a native function at a finite non-zero argument ±m × 2^e in its domain: sign and magnitude.
Where the result lies beyond FP32 range or below its least subnormal, a number that does so too. -/
def exactFn (fn : Nat) (neg : Bool) (m : Nat) (e : Int) : Bool × Nat :=
  let x := fixOf m e
  let big := min x (300 * fixOne)
  match fn with
  | 0 => (false, if neg then fixExpNeg x else fixExpPos big)
  | 1 =>
    let y := fixMul big fixLn2
    (false, if neg then fixExpNeg y else fixExpPos y)
  | 2 => fixLog m e
  | 3 => let (n, v) := fixLog m e; (n, fixDiv v fixLn2)
  | 4 => (neg, if 0 ≤ e + 600 then fixOne * 2 ^ 600 / (m * 2 ^ (e + 600).toNat) else 0)
  | 5 => (false, fixSqrt x)
  | 6 => (false, fixDiv fixOne (fixSqrt x))
  | 7 => (neg, fixTanh x)
  | 8 => (false, fixSigm neg x)
  | 9 =>
    let er := if x ≥ 20 * fixOne then fixOne else fixErf (fixDiv x (fixSqrt (2 * fixOne)))
    (neg, fixMul x (if neg then fixOne - er else fixOne + er) / 2)
  | 10 =>
    let c := min x (64 * fixOne)
    let u := fixMul (fixSqrt (fixDiv (2 * fixOne) fixPi)) (c + fixMul c (fixMul c c) * 44715 / 1000000)
    let g := fixSigm neg (2 * u)
    (neg, fixMul x g)
  | 11 => (neg, fixMul x (fixSigm neg x))
  | 12 => (false, (if neg then 0 else x) + fixLog1p (fixExpNeg x))
  | 13 => (neg, if x ≥ 16 * fixOne then fixOne else fixErf x)
  | 14 => fixSin neg x 0
  | _ => fixSin neg x 1

end Sys2Proof.Machine
end

