-- ==== Sys2Proof/Machine/Hash.lean ====
section
/-! DEFINITION. The checksums and the digest the spec computes with: CRC-16 of R552, CRC-32 of R347, SHAKE256
(R506; its function is FIPS 202's, PRESUMED, log entry 10), and the little-endian byte order of R5. -/
namespace Sys2Proof.Machine

/-- The little-endian number a byte list spells (R5). -/
def leNat : List Byte → Nat
  | [] => 0
  | b :: bs => b.toNat + 256 * leNat bs

/-- The `n` little-endian bytes of a number (R5). -/
def leBytes : Nat → Nat → List Byte
  | 0, _ => []
  | n + 1, v => BitVec.ofNat 8 v :: leBytes n (v / 256)

/-- `n` bytes of a list from an offset; bytes past its end read 0. -/
def bytesAt (bs : List Byte) (off n : Nat) : List Byte :=
  let part := (bs.drop off).take n
  part ++ List.replicate (n - part.length) 0#8

/-- A little-endian field of `n` bytes at an offset. -/
def fieldAt (bs : List Byte) (off n : Nat) : Nat := leNat (bytesAt bs off n)

/-- Bits [hi:lo] of a number. -/
def bitsOf (n hi lo : Nat) : Nat := (n / 2 ^ lo) % 2 ^ (hi + 1 - lo)

/-- One bit of a CRC whose polynomial enters from the left, `w` wide. -/
def crcBit (w poly : Nat) (crc : Nat) : Nat :=
  let sh := (crc * 2) % 2 ^ w
  if crc.testBit (w - 1) then Nat.xor sh poly else sh

/-- CRC-16 of R552: polynomial 0x1021, initial 0xFFFF, most significant bit first. -/
def crc16 (bs : List Byte) : Nat :=
  bs.foldl (fun crc b =>
    let c0 := Nat.xor crc (b.toNat * 256)
    (List.range 8).foldl (fun c _ => crcBit 16 0x1021 c) c0) 0xFFFF

/-- One bit of the reflected CRC-32. -/
def crc32Bit (crc : Nat) : Nat :=
  if crc % 2 = 1 then Nat.xor (crc / 2) 0xEDB88320 else crc / 2

/-- CRC-32 of R347: reflected polynomial 0x04C11DB7, initial and final xor of all ones. -/
def crc32 (bs : List Byte) : Nat :=
  Nat.xor 0xFFFFFFFF (bs.foldl (fun crc b =>
    let c0 := Nat.xor crc b.toNat
    (List.range 8).foldl (fun c _ => crc32Bit c) c0) 0xFFFFFFFF)

/-- Rotate a 64-bit lane left. -/
def rotl64 (x n : Nat) : Nat := (x * 2 ^ n) % 2 ^ 64 + x / 2 ^ (64 - n)

/-- One step of the register that FIPS 202 draws the bits of the round constants from. -/
def rcStep (r : Nat) : Nat := if r < 128 then 2 * r else Nat.xor (2 * r) 0x171

/-- A round constant and the register after: seven bits, the j-th at place 2^j - 1. -/
def rcNext (r : Nat) : Nat × Nat :=
  (List.range 7).foldl (fun (e : Nat × Nat) j => (e.1 + e.2 % 2 * 2 ^ (2 ^ j - 1), rcStep e.2)) (0, r)

/-- The xor of the lanes of a column x, lane (x, y) standing at x + 5y. -/
def columnXor (a : List Nat) (x : Nat) : Nat := (List.range 5).foldl (fun m y => Nat.xor m (a.getD (x % 5 + 5 * y) 0)) 0

/-- Theta: every lane takes the columns beside it. -/
def stepTheta (a : List Nat) : List Nat :=
  let cs := (List.range 5).map (columnXor a)
  let around := (List.range 5).map fun x => Nat.xor (cs.getD ((x + 4) % 5) 0) (rotl64 (cs.getD ((x + 1) % 5) 0) 1)
  (List.range 25).map fun i => Nat.xor (a.getD i 0) (around.getD (i % 5) 0)

/-- Rho and pi together: 24 lanes move along one cycle that starts at (1, 0) and goes from (x, y) to (y, 2x + 3y), the t-th of
them turned by t(t + 1)/2; lane (0, 0) stays. -/
def stepMove (a : List Nat) : List Nat :=
  ((List.range 24).foldl (fun (e : List Nat × Nat) t =>
    let to_ := e.2 / 5 + 5 * ((2 * (e.2 % 5) + 3 * (e.2 / 5)) % 5)
    (e.1.set to_ (rotl64 (a.getD e.2 0) ((t + 1) * (t + 2) / 2 % 64)), to_)) (a, 1)).1

/-- Chi, and iota with a round constant. -/
def stepChi (rc : Nat) (b : List Nat) : List Nat :=
  (List.range 25).map fun i =>
    let at_ (n : Nat) : Nat := b.getD ((i % 5 + n) % 5 + i / 5 * 5) 0
    let v := Nat.xor (at_ 0) (at_ 2 - Nat.land (at_ 1) (at_ 2))
    if i = 0 then Nat.xor v rc else v

/-- The permutation of SHAKE256: 24 rounds, each with the next round constant. -/
def keccakF (a : List Nat) : List Nat :=
  ((List.range 24).foldl (fun (e : List Nat × Nat) _ =>
    let k := rcNext e.2
    (stepChi k.1 (stepMove (stepTheta e.1)), k.2)) (a, 1)).1

/-- Absorb one 136-byte block. -/
def shakeAbsorb (st : List Nat) (block : List Byte) : List Nat :=
  keccakF ((List.range 25).map fun i =>
    if i < 17 then Nat.xor (st.getD i 0) (fieldAt block (8 * i) 8) else st.getD i 0)

/-- The padded blocks of a SHAKE256 message. -/
def shakeBlocks (fuel : Nat) (m : List Byte) : List (List Byte) :=
  match fuel with
  | 0 => []
  | k + 1 =>
    if 136 ≤ m.length then m.take 136 :: shakeBlocks k (m.drop 136)
    else
      let p := m ++ [0x1F#8] ++ List.replicate (135 - m.length) 0#8
      [p.take 135 ++ [(p.getD 135 0#8) ||| 0x80#8]]

/-- SHAKE256 with an output of up to 136 bytes (R506). -/
def shake256 (n : Nat) (m : List Byte) : List Byte :=
  let st := (shakeBlocks (m.length / 136 + 1) m).foldl shakeAbsorb (List.replicate 25 0)
  (st.flatMap (leBytes 8)).take n

end Sys2Proof.Machine
end

