-- ==== Sys2Proof/Machine/State.lean ====
section
/-! DEFINITION. The state of the Maroth as plain data: the dales (chapters 01-07), the command processor and
the units around the mesh (08-16), integrity, power, dictionary, security and bring-up (17-22), and the queue
of waiting commands. Sparse tables (Tab) list only what differs from their default. -/
namespace Sys2Proof.Machine

/-! ### Dales -/

/-- A tile slot (R175): its descriptor, and one fill bit and one poison mark per row as bit sets (R177). -/
structure Slot where
  fmt       : Fmt
  cls       : Bool
  rows      : Nat
  rowBytes  : Nat
  base      : Nat
  scale     : W32
  tensorId  : Nat
  substream : Nat
  elemBase  : Nat
  rowPitch  : Nat
  fill      : Nat
  poison    : Nat
deriving DecidableEq, Repr

/-- A word of instruction memory (R193) that holds a valid bit: its stored bits, the xor of its stored and its
proper check bits (R299), and whether event 0x0606 was recorded for it in this placement. -/
structure ImemWord where
  word     : W64
  synd     : Nat
  recorded : Bool
deriving DecidableEq, Repr

/-- An instruction in a queue: its byte address, its word, its place in the order of issue, for an SSTART the block it
took at issue (R228), and, in the SM queue, whether its unit has begun it: it stays until those before it complete
(R172). -/
structure QEnt where
  pc    : Nat
  word  : W64
  no    : Nat
  desc  : List W64
  begun : Bool
deriving DecidableEq, Repr

/-- The fused parameters MFUSE records (R137). -/
structure Fused where
  bias     : Nat
  act      : Nat
  identity : Bool
  post     : W32
deriving DecidableEq, Repr

/-- The dither context (DSET). -/
structure Dither where
  tensorId  : Nat
  substream : Nat
  base      : Nat
deriving DecidableEq, Repr

/-- The element type that FMT and SIGN choose (R108). -/
structure ElemTy where
  fp     : Bool
  signed : Bool
deriving DecidableEq, Repr

/-- The stream-search state (R110): sense, type, start position, SSRCH instructions issued, best value and
index of each element that has one. -/
structure Search where
  min   : Bool
  ty    : ElemTy
  view  : Nat
  start : Nat
  count : Nat
  best  : Tab (Option (Nat × Nat))
deriving DecidableEq, Repr

/-- The compaction buffer (R117). -/
structure Compact where
  view  : Nat
  elems : List Nat
deriving DecidableEq, Repr

/-- The top-k state (R120): pairs of value and index, ranked best first. -/
structure TopK where
  k     : Nat
  min   : Bool
  ty    : ElemTy
  view  : Nat
  start : Nat
  count : Nat
  pairs : List (Nat × Nat)
deriving DecidableEq, Repr

/-- The generator state (R156) and whether event 0x0501 stands recorded (R157). -/
structure Rng where
  key      : Nat
  ctr      : Nat
  keySet   : Bool
  reported : Bool
deriving DecidableEq, Repr

/-- Sums of the stationary elements that a checksum-column register holds (R95 step 1): the format, rows and columns they
were formed over, and w and w' of each row. -/
structure ChkSums where
  fmt : Fmt
  k   : Nat
  n   : Nat
  w   : List W32
  wA  : List W32
deriving DecidableEq, Repr

/-- A trap (R189): cause code of R190, status, byte address, and whether it has been reported. -/
structure Trap where
  cause    : Nat
  status   : Status
  addr     : Nat
  reported : Bool
deriving DecidableEq, Repr

/-- A block a channel carries out (R229-R234): its descriptor's fields, the slot it is bound to, its instruction's
place in the order of issue, whether it has begun, the next piece to request, pieces outstanding, bytes received, slot
rows done and rows marked, the payload sent, and for a multicast the leaves that are ready, those that have acknowledged,
and the header of the data packet a leaf received last (R269). -/
structure Block where
  kind       : Nat
  outbound   : Bool
  transpose  : Bool
  slot       : Nat
  rows       : Nat
  elems      : Nat
  fmt        : Fmt
  space      : Nat
  addr       : Nat
  rowStride  : Nat
  elemStride : Nat
  args       : Nat
  bad        : Bool
  no         : Nat
  pc         : Nat
  begun      : Bool
  next       : Nat
  waiting    : Nat
  raw        : Tab Byte
  done       : Nat
  marked     : Nat
  sent       : List Byte
  ready      : List Nat
  acked      : List Nat
  came       : Option Packet
deriving DecidableEq, Repr

/-- A stream channel of a dale (R228-R240): whether a list is open, whether it was opened and not yet fetched, the
offset fetched next, the blocks fetched and not taken, whether the last was taken, the blocks bound to it, how it
halted, the status latched for a multicast leaf, and arbitrations lost in a row. -/
structure Channel where
  isOpen   : Bool
  opening  : Bool
  listOff  : Nat
  fetched  : List (List W64)
  ended    : Bool
  blocks   : List Block
  halted   : Option Status
  latched  : Option Status
  lost     : Nat
deriving DecidableEq, Repr

/-- One of the two directions of a dale's port to its sector (R330): beats queued, with poison and last marks. -/
structure PortQueue where
  beats : List (List Byte × Bool × Bool)
  bound : Option Nat
deriving DecidableEq, Repr

/-- A dale. Of the array (R85, R95, R100): s0 and s1 are the stationary registers of the cells, active1 has a bit for each
column whose S1 is active, par0 and par1 are 1 where a register's stored parity bit disagrees with its byte, sums are the
checksum column's (key 2 * PART, plus 1 for those beside S1), and halves tells that the array last ran partitioned. Of
multicast (R238), readies are the READYs that came before their MCAST_SEND began (leaf, ROWS, ELEMS, GROUP), and cancels the
groups cancelled at or by the dale (sender, GROUP, status). runPkt is the RUN that its END_REPORT will answer (R269). -/
structure Dale where
  x          : Tab W64
  v          : Tab VReg
  p          : Tab PReg
  c          : Tab W64
  t          : Tab (Option Slot)
  sc         : Tab StatCtx
  fused      : Fused
  dither     : Dither
  pc         : Nat
  stepCount  : Nat
  stallCount : Nat
  issueNo    : Nat
  imemCorr   : Nat
  mxWest     : Bool
  mxEast     : Bool
  mxStatus   : Nat
  queues     : Tab (List QEnt)
  blocked    : Option QEnt
  imem       : Tab (Option ImemWord)
  trap       : Option Trap
  running    : Bool
  stopped    : Bool
  report     : Option Status
  search     : Search
  compact    : Compact
  hist       : Tab Nat
  topk       : TopK
  rng        : Rng
  s0         : Tab Nat
  s1         : Tab Nat
  active1    : Nat
  par0       : Tab Nat
  par1       : Tab Nat
  sums       : Tab (Option ChkSums)
  halves     : Bool
  lockstep   : Bool
  hd7        : Bool
  residue    : Bool
  tol        : Nat
  kat        : Nat
  sfSlots    : Tab (Option (List Byte))
  sfOver     : Nat
  statsSent  : List (Nat × StatCtx)
  tableRam   : Tab Nat
  badBytes   : List (Nat × Nat × Nat)
  inbound    : Tab Nat
  sem        : Tab Nat
  satCount   : Nat
  nanCount   : Nat
  satLast    : Nat
  isolated   : Bool
  pipe       : Option Nat
  partner    : Option Nat
  isPartner  : Bool
  sigs       : List Nat
  sigsSeen   : List Nat
  waits      : Nat
  degraded   : List Nat
  channels   : Tab Channel
  portOut    : Tab PortQueue
  portIn     : Tab PortQueue
  portLive   : Nat
  portOff    : Option Status
  strikes    : List (Nat × Nat × Nat)
  struck     : Bool
  lastSig    : Nat
  lastSpan   : Nat
  storeCe    : Nat
  storeUe    : Nat
  poisonSent : Nat
  poisonChan : Nat
  readies    : List (Nat × Nat × Nat × Nat)
  cancels    : List (Nat × Nat × Status)
  runPkt     : Option Packet
deriving DecidableEq, Repr

/-- A statistic context as SCINIT leaves it (R138). -/
def scInit : StatCtx := ⟨0xFF800000#32, 0#32, 0#32, 0#32⟩

/-- A closed stream channel. -/
def Channel.reset : Channel := ⟨false, false, 0, [], false, [], none, none, 0⟩

/-- An empty direction of a dale port. -/
def PortQueue.reset : PortQueue := ⟨[], none⟩

/-- A dale after reset (R174, R156, R193); log entry 5 names the values the spec does not give. -/
def Dale.reset : Dale :=
  { x := [], v := [], p := [], c := [], t := [], sc := [],
    fused := ⟨0, 0, true, 0x3F800000#32⟩, dither := ⟨0, 0, 0⟩, pc := 0, stepCount := 0, stallCount := 0, issueNo := 0,
    imemCorr := 0, mxWest := false, mxEast := false, mxStatus := 0, queues := [], blocked := none, imem := [],
    trap := none, running := false, stopped := false, report := none,
    search := ⟨false, ⟨false, false⟩, 0, 0, 0, []⟩, compact := ⟨0, []⟩, hist := [],
    topk := ⟨1, false, ⟨false, false⟩, 0, 0, 0, []⟩, rng := ⟨0, 0, false, false⟩, s0 := [], s1 := [],
    active1 := 0, par0 := [], par1 := [], sums := [], halves := false, lockstep := false, hd7 := false, residue := false, tol := 14, kat := 0, sfSlots := [], sfOver := 0, statsSent := [],
    tableRam := [], badBytes := [], inbound := [], sem := [], satCount := 0, nanCount := 0, satLast := 0,
    isolated := false, pipe := none, partner := none, isPartner := false, sigs := [], sigsSeen := [], waits := 0, degraded := [],
    channels := [], portOut := [], portIn := [], portLive := 0, portOff := none, strikes := [], struck := false, lastSig := 0, lastSpan := 0,
    storeCe := 0, storeUe := 0, poisonSent := 0, poisonChan := 0, readies := [], cancels := [], runPkt := none }

/-- An event on its way to the saddle (R492, R496): code, severity, source of R493, detail bits of R495, the
command it is recorded for, and the dale and signature of each strike it carries (R442). -/
structure Event where
  code   : Nat
  sev    : Nat
  source : Nat
  detail : Nat
  cmd    : Option Nat
  strike : List (Nat × Nat)
deriving DecidableEq, Repr

/-! ### Organisation -/

/-- A barrier channel of a basin (R41-R43): its mask when a placement set one (else every member), the dales
removed from it, the dales that have arrived and those whose second arrival waits. -/
structure Barrier where
  mask     : Option (List Nat)
  removed  : List Nat
  arrived  : List Nat
  second   : List Nat
deriving DecidableEq, Repr

/-! ### Command processor and pipelines -/

/-- The states of R213. -/
inductive PipeState where
  | empty | loaded | idle | running | halted | disabled
deriving DecidableEq, Repr

/-- A stage entry of a placement (R209). -/
structure Stage where
  kind     : Nat
  hd7      : Bool
  lockstep : Bool
  location : Nat
  partner  : Nat
  entry    : Nat
  budget   : Nat
  sig      : Nat
  spill    : Nat
  sync     : List Byte
deriving DecidableEq, Repr

/-- A step that ended DONE while optimistic epochs were open (R426): its epoch, the ports and destinations of its
messages, and the epochs (port, source, pipeline, epoch) it waits for. -/
structure Deferred where
  epoch : Nat
  ports : List Nat
  waits : List (Nat × Nat × Nat × Nat)
deriving DecidableEq, Repr

/-- A pipeline (R209-R221): its state, its stages, its epoch counter, the epoch and command of the step in
progress, the reports received for it, why it is halting (a dale's own report, or a status from outside), what halted
or disabled it, whether an isolated dale affects it, the peer ports and destinations of the step's messages, the
steps whose commit is deferred (R426), whether a step is in progress, and the fetch order from which a disable holds. -/
structure Pipe where
  st         : PipeState
  stages     : List Stage
  epoch      : Nat
  committed  : Nat
  run        : Option Nat
  reports    : Tab (Option Status)
  halting    : Option (Option Status)
  haltStatus : Status
  haltBasin  : Nat
  disable    : Option Status
  draining   : Bool
  affected   : Bool
  ports      : List Nat
  deferred   : List Deferred
  inStep     : Bool
  disableAt  : Nat
deriving DecidableEq, Repr

/-- The outcome a command's record will carry (R207). -/
structure Outcome where
  status  : Status
  detailA : Nat
  detailB : Nat
  basin   : Nat
  epoch   : Nat
deriving DecidableEq, Repr

/-- A command in flight (R202): its descriptor, whether it is taken up and committed, what it has done, its
outcome once decided, and the order in which it finished. -/
structure Cmd where
  tag        : Nat
  queue      : Nat
  index      : Nat
  seq        : Nat
  opcode     : Nat
  notify     : Bool
  target     : Nat
  pipe       : Nat
  cookie     : Nat
  w2         : Nat
  w3         : Nat
  dup        : Bool
  taken      : Bool
  committed  : Bool
  stepsDone  : Nat
  passed     : Nat
  failed     : Nat
  waited     : List Nat
  outcome    : Option Outcome
  firstEvent : Option Nat
  finish     : Nat
deriving DecidableEq, Repr

/-- A run of known-answer kernels (R440, R441): the command it answers (none for a scheduled run), the basin it names,
the kernel mask, the kernels still to run on each dale, the dales whose kernel at the head is a rerun, dales run and
skipped, members whose Basin-1 is off, kernels failed, and dales with a failing run. -/
structure KatRun where
  cmd      : Option Nat
  target   : Nat
  mask     : Nat
  left     : List (Nat × List Nat)
  rerun    : List Nat
  ran      : Nat
  skipped  : Nat
  off      : List Nat
  failed   : Nat
  bad      : List Nat
deriving DecidableEq, Repr

/-- The command processor (08): commands in flight, oldest first; counters of fetch and finish order; the phase of each
completion ring and whether it is in a full episode (R203); the queue fetched last; disabled units of R221 by KIND
and INDEX; known-answer runs; lines of companion memory delivered to a reader (R374), with their poison; and the host
epoch's close (R422): whether markers are due and the ports and destinations that carried its messages. -/
structure CmdProc where
  inflight  : List Cmd
  nextSeq   : Nat
  nextFin   : Nat
  phase     : Tab Bool
  full      : Tab Bool
  rr        : Nat
  off       : Tab (Option Status)
  kats      : List KatRun
  got       : List (Nat × Nat × List Byte × Bool)
  closing   : Option Bool
  hostPorts : List Nat
deriving DecidableEq, Repr

/-! ### Packet network -/

/-- A request outstanding at an interface (R554): its TAG, its type, and what its answer serves: a stream
channel and block piece, a gather miss or a control access. -/
structure Request where
  tag    : Nat
  typ    : Nat
  addr   : Nat
  len    : Nat
  dale   : Nat
  chan   : Nat
  row    : Nat
  off    : Nat
  wait   : Bool
deriving DecidableEq, Repr

/-- A flit (R259): HEAD, TAIL, VC, the header on a head flit, its DATA (128 bytes, 32 on the command plane), and a bit for
each byte of either whose parity bit disagrees; beside them whether a payload byte of it has failed (R262), and the status
with which the col it lies at consumes it, when its head came before the unit's wake (R280). -/
structure Flit where
  head    : Bool
  tail    : Bool
  vc      : Nat
  hdr     : Option Packet
  hdrBad  : Nat
  data    : List Byte
  dataBad : Nat
  poison  : Bool
  late    : Option Status
deriving DecidableEq, Repr

/-- A packet whose head has left an input buffer and whose TAIL has not (R272): its header, the outputs it holds with the
header as it leaves each, the header byte that failed (its flits are consumed, R262), flits consumed, and the status with
which the col consumes it for its unit (R276). -/
structure Worm where
  hdr    : Packet
  outs   : List (Nat × Packet)
  bad    : Option Nat
  gone   : Nat
  absorb : Option Status
deriving DecidableEq, Repr

/-- A network interface and its col (R263-R281); of its sending side, the packets handed to it in order, and by plane and
virtual channel the one partly injected with the flits sent; and the DRAIN_REQ it has still to answer (R278). -/
structure Ni where
  filled     : Bool
  routes     : Tab Nat
  buckets    : Tab Nat
  levels     : Tab Nat
  state      : Nat
  flitsOut   : Nat
  flitsIn    : Nat
  requests   : Nat
  latSum     : Nat
  latMax     : Nat
  bucketWait : Nat
  absorbed   : Nat
  episode    : Nat
  parity     : Nat
  out        : List Request
  toInject   : List Packet
  sending    : Tab (Option (Packet × Nat))
  drain      : Option Packet
deriving DecidableEq, Repr

/-- The mesh (R255-R284): its interfaces, the flits in each buffer of each virtual channel (ports 0 to 3 and 5 the inputs of
R286, 4 towards the attached unit), the credits of each that are in use (R256), the packet passing each input buffer, the
input that holds each output virtual channel and the input granted last at each output and link (R272). A probe's registers
live in the network window. -/
structure Net where
  nis     : Tab Ni
  bufs    : Tab (List Flit)
  credits : Tab Nat
  worms   : Tab (Option Worm)
  owners  : Tab (Option Nat)
  granted : Tab Nat
deriving DecidableEq, Repr

/-- An interface after reset (R274, R281). -/
def Ni.reset : Ni :=
  { filled := false, routes := [], buckets := [], levels := [], state := 0, flitsOut := 0,
    flitsIn := 0, requests := 0, latSum := 0, latMax := 0, bucketWait := 0, absorbed := 0, episode := 0, parity := 0,
    out := [], toInject := [], sending := [], drain := none }

/-- An empty pipeline (R213). -/
def Pipe.reset : Pipe :=
  { st := .empty, stages := [], epoch := 0, committed := 0, run := none, reports := [], halting := none,
    haltStatus := .done, haltBasin := 0xFFFF, disable := none, draining := false, affected := false, ports := [], deferred := [], inStep := false,
    disableAt := 0 }

/-- A barrier channel with its default mask (R41). -/
def Barrier.reset : Barrier := ⟨none, [], [], []⟩

/-! ### Streams, gather engines and requests to the edge -/

/-- What a request serves: a piece of a stream block, or a message of the host or of a unit. -/
structure Origin where
  dale  : Nat
  chan  : Nat
  key   : Nat
  no    : Nat
deriving DecidableEq, Repr

/-- A request for companion memory handed to the Heonlink agents (R233, R373): its bytes to write, or read so far,
what it serves, the lines asked for and the lines answered, and the worst status answered. -/
structure ExtReq where
  wr     : Bool
  addr   : Nat
  len    : Nat
  bytes  : List Byte
  poison : Bool
  origin : Origin
  asked  : List Nat
  done   : List Nat
  st     : Status
deriving DecidableEq, Repr

/-- A peer message sent and not yet acknowledged (R419, R423), with the stream piece it carries. -/
structure PeerSent where
  port   : Nat
  msg    : PeerMsg
  origin : Option Origin
deriving DecidableEq, Repr

/-- A lookup a gather engine holds (R244): who asked, the slot row, its key, and the bytes of a row. -/
structure Lookup where
  dale  : Nat
  chan  : Nat
  no    : Nat
  row   : Nat
  key   : Nat
  len   : Nat
deriving DecidableEq, Repr

/-- A gather engine (R242-R252): two banks of directory entries and their stored check differences, cache lines
and theirs, lines marked bad, the live bank, its epoch and both banks' seeds, lookups waiting, misses outstanding
with the epoch they took, and the reload in progress. -/
structure Gather where
  bank0   : Tab Nat
  bank1   : Tab Nat
  syn0    : Tab Nat
  syn1    : Tab Nat
  lines   : Tab Nat
  lineSyn : Tab Nat
  bad     : List Nat
  live    : Nat
  epoch   : Nat
  seeds0  : Tab Nat
  seeds1  : Tab Nat
  waiting : List Lookup
  misses  : List (Nat × Lookup)
  phase   : Nat
  status  : Status
  made    : Nat
  runs    : Nat
deriving DecidableEq, Repr

/-- A gather engine after reset (R248). -/
def Gather.reset : Gather :=
  ⟨[], [], [], [], [], [], [], 0, 0, [], [], [], [], 0, .done, 0, 0⟩

/-! ### Heonlink (14) -/

/-- A Heonlink message (R371): OPCODE, TAG, the address of a line or register, BYTE_MASK or data, STATUS, STATE, POISON
flags, DATA_FOLLOWS, and the TAGs and lines of a DATA message. -/
structure HeonMsg where
  op      : Nat
  tag     : Nat
  addr    : Nat
  value   : Nat
  status  : Nat
  st      : Nat
  poison  : Nat
  follows : Bool
  tags    : List Nat
  lines   : List (List Byte)
deriving DecidableEq, Repr

/-- A request of the device outstanding on a sub-link (R371, R374): TAG, OPCODE, line, the line received, the GO or COMP
received (STATE, STATUS), and whether a SNP_INV reached the line meanwhile. -/
structure HeonReq where
  tag     : Nat
  op      : Nat
  line    : Nat
  data    : Option (List Byte × Bool)
  go      : Option (Nat × Nat)
  snooped : Bool
deriving DecidableEq, Repr

/-- The agent of a sub-link (R363-R389): whether its lanes are active, the companion line cache in order of arrival
(R373), requests of the device outstanding, host writes waiting for their DATA, messages delivered and not yet acted on, DATA lines waiting for their header
(R372), messages to place on the link, sequence numbers, a run of NAKs, flits kept for replay, whether a replay is due or awaited,
slots in use of the host's credits by class and, from key 4 on, slots freed to return, slots received of a message not yet
whole, whether the next replay is the first since a retrain, whether LINK_RESET holds new requests, whether event 0x0D03
stands recorded (R387), and the slots placed that no flit has carried yet (R366). -/
structure Agent where
  up       : Bool
  cache    : List (Nat × List Byte)
  out      : List HeonReq
  hostReqs : List HeonMsg
  inbox    : List HeonMsg
  peerIn   : List PeerMsg
  datas    : List (Nat × List Byte × Bool)
  toHost   : List HeonMsg
  txSeq    : Nat
  rxSeq    : Nat
  naks     : Nat
  nakSeq   : Nat
  replay   : List (Nat × List Byte)
  awaiting : Bool
  slots    : List (List Byte)
  credits  : Tab Nat
  fresh    : Bool
  resetting : Bool
  told     : Bool
  txSlots  : List (List Byte)
deriving DecidableEq, Repr

/-- A link agent at power-up (R365-R373). -/
def Agent.reset : Agent :=
  { up := false, cache := [], out := [], hostReqs := [], inbox := [], peerIn := [], datas := [], toHost := [], txSeq := 0, rxSeq := 0xFFF, naks := 0,
    nakSeq := 0, replay := [], awaiting := false, slots := [], credits := [], fresh := true, resetting := false, told := false, txSlots := [] }

/-! ### Peer ports (16) -/

/-- An open check epoch at a receiving port (R423-R426): its triple, its messages in arrival order, and whether they
were applied optimistically. -/
structure PeerEpoch where
  src      : Nat
  pipeline : Nat
  epoch    : Nat
  msgs     : List PeerMsg
  applied  : Bool
deriving DecidableEq, Repr

/-- Work a port applies to the core (R424): network writes still to send (address, bytes, poison), those not yet
acknowledged, whether it has begun, and the increments that follow (dale, semaphore, amount). -/
structure PeerJob where
  no    : Nat
  todo  : List (Nat × List Byte × Bool)
  left  : Nat
  begun : Bool
  sems  : List (Nat × Nat × Nat)
deriving DecidableEq, Repr

/-- A peer port (R415-R426): whether it is declared down, the open epochs it holds in order of arrival, its jobs, and the
acknowledgements and relayed messages it sends. -/
structure PeerPort where
  down   : Bool
  epochs : List PeerEpoch
  jobs   : List PeerJob
  nextNo : Nat
  out    : List PeerMsg
deriving DecidableEq, Repr

/-- A peer port after reset. -/
def PeerPort.reset : PeerPort := ⟨false, [], [], 0, []⟩

/-- A part of a contribution of a reduction (R427): generation, contributor, offset, bytes, poison, where it came from
(port, source, pipeline, epoch), and whether its epoch committed (some true), retracted (some false) or is open. -/
structure Contrib where
  gen     : Nat
  who     : Nat
  off     : Nat
  bytes   : List Byte
  poison  : Bool
  from_   : Nat × Nat × Nat × Nat
  decided : Option Bool
deriving DecidableEq, Repr

/-- A reduction group (R427): contributions of incomplete generations, bytes each contributor has sent, generations done. -/
structure Group where
  parts : List Contrib
  sent  : Tab Nat
  done  : Nat
deriving DecidableEq, Repr

/-! ### HBM (11) -/

/-- A request a controller holds (R291-R295): arrival time, port, source, the access, and who is answered: a network
packet at a col, a gather miss, or a host message of a sub-link; and, of a scrub read of port 5, whether a second read of the
access is clean (R309); and the latency target of its port when it arrived (R311). -/
structure HbmReq where
  at_    : Nat
  port   : Nat
  src    : Nat
  wr     : Bool
  addr   : Nat
  len    : Nat
  bytes  : List Byte
  poison : Bool
  col    : Nat
  pkt    : Option Packet
  org    : Option Origin
  host   : Option (Nat × HeonMsg)
  again  : Bool
  target : Nat
deriving DecidableEq, Repr

/-- The controller of a stack (R287-R309, R375-R378): the front's time as last seen, requests in arrival order, the open
row of each bank, its table of R297 and its rolling activate count (R296), the next scrub access of each pseudo-channel and what
the pass has found, lines the host holds with whether owned, oldest first, snoops outstanding
(line, whether SNP_INV, whether a WR_BACK or EVICT is awaited), and whether its PHY is trained and how often training failed. -/
structure Stack where
  clock   : Nat
  queue   : List HbmReq
  rows    : Tab (Option Nat)
  counts  : Tab (List (Nat × Nat))
  raa     : Tab Nat
  scrub   : Tab Nat
  scrubCe : Nat
  scrubPo : Nat
  filter  : List (Nat × Bool)
  snoops  : List (Nat × Bool × Bool)
  trained : Bool
  tries   : Nat
deriving DecidableEq, Repr

/-- A controller after reset. -/
def Stack.reset : Stack := ⟨0, [], [], [], [], [], 0, 0, [], [], false, 0⟩

/-! ### Security engine (20) -/

/-- The attestation buffer of a management path (R520): its state, nonce, body and signature. -/
structure Attest where
  st    : Nat
  nonce : List Byte
  body  : List Byte
  sig   : List Byte
deriving DecidableEq, Repr

/-- The security engine (R505-R522): OTP (owner digests, PROGRAMMED and REVOKED bits, counters), the key store's two
copies (key 8 * copy + index, where not as manufactured; copies whose CRC fails), the keys present by index, measurement registers and their counts,
reports started, the attestation buffers, whether the random source holds draws and how many, AUTH_NONCE (empty when its draw
failed or is held), and whether its draw is held. -/
structure Sec where
  ownerDigest : Tab (List Byte)
  programmed  : Nat
  revoked     : Nat
  svn         : Tab Nat
  store       : Tab (List Byte)
  storeBad    : List Nat
  keys        : Tab (List Byte)
  mr          : Tab (List Byte)
  mrCount     : Tab Nat
  reportSeq   : Nat
  attest      : Tab Attest
  held        : Bool
  heldDraws   : Nat
  nonce       : List Byte
  nonceHeld   : Bool
deriving DecidableEq, Repr

/-- The security engine as manufactured, before power-good. -/
def Sec.reset : Sec := ⟨[], 0, 0, [], [], [], [], [], [], 0, [], false, 0, [], false⟩

/-! ### The steppe and its configuration (12, 13) -/

/-- A block memory run as a queue (R329): its words, oldest first, the word its output holds, the sticky overflow and
underflow outputs, and whether event 0x0B04 was recorded since the configuration. -/
structure MemQueue where
  words    : List Nat
  out      : Nat
  overflow : Bool
  underflow : Bool
  recorded : Bool
deriving DecidableEq, Repr

/-- A logic cell (R314): its two registers and its shift register. -/
structure Cell where
  r0    : Bool
  r1    : Bool
  shift : Nat
deriving DecidableEq, Repr

/-- A handshake cell (R324): the output of its C-element, and what its matched delay holds, newest first. -/
structure Handshake where
  out  : Bool
  line : List Bool
deriving DecidableEq, Repr

/-- A handshake cell at rest. -/
def Handshake.reset : Handshake := ⟨false, []⟩

/-- A steppe sector (R313-R329, R352): the floor and DESIGN_ID of its design, the active and the staged plane (frames by
TYPE * 4096 + INDEX), its block memories (word by memory * 1024 + word, 64 data bits below 8 others), bytes whose parity
fails (memory, byte), memories whose event 0x0B01 is recorded, queues by memory, the edges of its release clock for which
each reset tree stays asserted, the pipeline epoch at the last clean read of a frame (R358), its logic cells (block * 256 +
cluster * 16 + cell, where not as configured), its handshake cells by cluster, and whether a commit holds its reset trees (R355). -/
structure Sector where
  floor   : Nat
  design  : Nat
  plane   : Tab (List Byte)
  staged  : Tab (List Byte)
  mem     : Tab Nat
  memBad  : List (Nat × Nat)
  memSeen : List Nat
  queues  : Tab MemQueue
  asserted : Tab Nat
  clean   : Tab Nat
  cells   : Tab Cell
  joins   : Tab Handshake
  commits : Bool
deriving DecidableEq, Repr

/-- A sector without a design. -/
def Sector.reset : Sector := ⟨0, 0, [], [], [], [], [], [], [], [], [], [], false⟩

/-- A clock generator (R321, R322): N, enabled, locked, whether it lost lock since it last locked, and how far it is towards its
next edge, in 64ths of a tick's edge (log entry 73). -/
structure ClockGen where
  n       : Nat
  enabled : Bool
  locked  : Bool
  lost    : Bool
  phase   : Nat
deriving DecidableEq, Repr

/-- A generator not configured. -/
def ClockGen.reset : ClockGen := ⟨0, false, false, false, 0⟩

/-- The configuration unit (R348-R360): STATE, the source of the load, whether the boot deadline has still to pass, whether
it passed during a load, header, region table, bytes received, frames received, addresses staged, the hash input so far,
the DEVICE frame staged, generators a commit waits for, and the scrub pass: frames read, benign upsets and sectors
whose event 0x0C05 is recorded, and the source of the last image committed since the start, 3 when none; and of a strand leader
whether it forwards an image, and the bytes of it placed on the strand (R351). CFG_STATE's other fields stand in the window store. -/
structure Cfg where
  st       : Nat
  src      : Nat
  boot     : Bool
  late     : Bool
  header   : List Byte
  table    : List Byte
  received : Nat
  frames   : Nat
  stagedAt : List Nat
  hashed   : List Byte
  devFrame : List Byte
  clocks   : List Nat
  sigSeen  : Bool
  scrubbed : List Nat
  benign   : Tab Nat
  told     : List Nat
  lastSrc  : Nat
  relay    : Bool
  strand   : Nat
deriving DecidableEq, Repr

/-! ### Serial lanes (15) -/

/-- A lane (R404-R412): stage, whether the far end was detected, the CONTROL received last and how often in a row, whether
the partner's RX_READY stands, framing and polarity as LANE_STATE shows them, its counters, LANE_CTRL, its own seed, the
exchange record received last and how often in a row, the coefficients of its transmitter with those stored at the last training
and the status it answers with (R405), the runs of equal line symbols it sends and receives (symbol, length), the stuff symbols
sent since the last marker, and the line symbols of that marker (R401). -/
structure SerialLane where
  stage    : Nat
  detected : Bool
  control  : Option TrainFrame
  run      : Nat
  ready    : Bool
  offset   : Nat
  partner  : Nat
  found    : Bool
  inverted : Bool
  symErr   : Nat
  stuffs   : Nat
  stuffErr : Nat
  slips    : Nat
  ctrl     : Nat
  testErr  : Nat
  seed     : Nat
  exch     : Option ExchRecord
  exchRun  : Nat
  coefs    : List Int
  kept     : List Int
  status   : Nat
  txRun    : Nat × Nat
  rxRun    : Nat × Nat
  txStuffs : Nat
  sent     : List Nat
deriving DecidableEq, Repr

/-- A lane at rest (R412). -/
def SerialLane.reset : SerialLane :=
  { stage := 0, detected := false, control := none, run := 0, ready := false, offset := 0, partner := 0, found := false,
    inverted := false, symErr := 0, stuffs := 0, stuffErr := 0, slips := 0, ctrl := 0, testErr := 0, seed := 0, exch := none,
    exchRun := 0, coefs := [0, 0, 0, 0], kept := [0, 0, 0, 0], status := 0, txRun := (0, 0), rxRun := (0, 0), txStuffs := 0, sent := [] }

/-- A lane group (R393-R412): stage, Idle of either direction, the Deep request in progress (0 none, 1 this end's,
2 the partner's), NEXT and DEEP_NAK to send, stuffs each lane carries into its next marker and the pads of the last one, counters, the
partner, consecutive failures, whether coefficients are stored, whether the present training is a fast one, whether it
retrains from ACTIVE, the cause of that, and whether the codeword just received could not be corrected (R403). -/
structure LaneGroup where
  stage   : Nat
  txIdle  : Bool
  rxIdle  : Bool
  deep    : Nat
  next    : Nat
  nak     : Bool
  carry   : Tab Nat
  pads    : List Nat
  fecC    : Nat
  fecU    : Nat
  uid     : Nat
  info    : Nat
  retrains : Nat
  fails   : Nat
  stored  : Bool
  fast    : Bool
  ack     : Bool
  again   : Bool
  cause   : Nat
  badWord : Bool
deriving DecidableEq, Repr

/-- A group at rest (R412). -/
def LaneGroup.reset : LaneGroup :=
  { stage := 0, txIdle := false, rxIdle := false, deep := 0, next := 0, nak := false, carry := [], pads := [], fecC := 0,
    fecU := 0, uid := 0, info := 0, retrains := 0, fails := 0, stored := false, fast := false, ack := false, again := false,
    cause := 0, badWord := false }

/-! ### Power and the saddle (18) -/

/-- A domain that switches, or whose GATE is deferred (R453-R455): the direction, whether it is deferred, who asked (0 rule,
1 host, 2 sleep, 3 start-up) and which rule, drains still awaited (cols, dales or groups), whether one was forced, and a
WAKE or a GATE that waits (requester, rule). -/
structure Switch where
  off      : Bool
  deferred : Bool
  by_      : Nat
  rule     : Nat
  waits    : List Nat
  forced   : Bool
  next     : Option (Nat × Nat)
deriving DecidableEq, Repr

/-- The saddle's power side (R456-R472): switching domains, the rule set (rules, filter constants, DIGEST, SVN,
generation), filter states of each input, hold counts of rules and trips, the limiter, the rail's state, and sleep (0 awake,
1 going, 2 asleep, 3 waking), emergency stop, the samples of the present second, the counter sectors and rule set copies in flash,
and Basin-1s whose rate sample is stale (R33). -/
structure Power where
  sw       : Tab (Option Switch)
  rules    : List Nat
  filters  : List Byte
  digest   : List Byte
  svn      : Nat
  gen      : Nat
  raw      : Tab (Option Int)
  fast     : Tab Int
  slow     : Tab Int
  hold     : Tab Nat
  trips    : Tab Nat
  limiterV : Nat
  gap      : Nat
  rested   : Bool
  target   : Nat
  reached  : Bool
  stopped  : Bool
  alert    : Bool
  sleep    : Nat
  ticks    : Nat
  toLoad   : Option (List Byte)
  counters : List (List Byte)
  badCount : Bool
  copies   : Tab (List Byte)
  stale    : List Nat
deriving DecidableEq, Repr

/-! ### The object dictionary, CAN FD and the recorder (19) -/

/-- The open CAN FD transaction (R489): whether it writes, TID, entry, its value, the length of a write, the next SEQ, and
whether it ended in error. -/
structure CanOpen where
  wr     : Bool
  tid    : Nat
  key    : Nat
  value  : List Byte
  len    : Nat
  seq    : Nat
  broken : Bool
deriving DecidableEq, Repr

/-- The management side of the saddle (R477-R490): text and byte values of entries that differ from their defaults, staged
token parts of each path, log cursors, the persistent store (entry and value of each record, oldest first) and whether
a record's CRC fails, the open CAN transaction, the last completed request and its answer, response frames sent,
notices waiting, whether the bus is off, and persistences that wait on flash_hold_n (entry, value, path; entry 0 is the
counters; path 0 CAN FD, 1 Heonlink, 2 none, 3 the row ORDERLY_SHUTDOWN), the sector of the store in use, and OD_LEN, OD_CMD and OD_DATA of the window (R383). -/
structure Mgmt where
  blobs   : Tab (List Byte)
  tokens  : Tab (List (List Byte))
  cursor  : Tab Nat
  store   : List (Nat × List Byte)
  torn    : List Nat
  open_   : Option CanOpen
  last    : Option (List Nat × List Byte)
  sent    : List (List Byte)
  notices : List (List Byte)
  busOff  : Bool
  waiting : List (Nat × List Byte × Nat)
  sector  : Nat
  odCmd   : Nat
  odLen   : Nat
  odCode  : Nat
  odBusy  : Bool
  odData  : List Byte
deriving DecidableEq, Repr

/-- The event recorder (R496-R502): FIRST, HEAD, records in the queue (sequence, bytes), records in flash by slot, slots
torn, LOG_OVERFLOW, LOG_QUEUE_DROPS, the run of drops now and its first code, and whether the log region is being erased. -/
structure Recorder where
  first    : Nat
  head     : Nat
  queue    : List (Nat × List Byte)
  log      : Tab (List Byte)
  overflow : Nat
  drops    : Nat
  dropRun  : Nat
  dropCode : Nat
  clearing : Bool
deriving DecidableEq, Repr

/-! ### Bring-up, pins and test (21, 22) -/

/-- Bring-up and the pins (R525-R534, R545-R549): whether power is good and rst_n high, the kind of the present start-up, the step of
R527 reached by the saddle, whether boot counts a start-up in progress, copies refused, whether event 0x1405 is recorded, straps as on
the pins and as sampled (strand enabled, leader, slot, CAN node, tmode), flash_hold_n, and whether an emergency stop came before. -/
structure Boot where
  good     : Bool
  rstHigh  : Bool
  kind     : Nat
  stage    : Nat
  starting : Bool
  fwDone   : Bool
  baseDone : Bool
  late     : Bool
  pins     : Nat × Nat × Nat × Nat × Nat
  straps   : Nat × Nat × Nat × Nat × Nat
  held     : Bool
  persist  : Bool
deriving DecidableEq, Repr

/-- The test access port (R549): the controller's state, the instruction register, its shift stage, the data register's shift
stage, tdo, and the update stage of the boundary register. -/
structure Tap where
  st  : Nat
  ir  : Nat
  sh  : Nat
  dr  : Nat
  tdo : Bool
  upd : Nat
deriving DecidableEq, Repr


/-- Why a step stops the model. No command of this block stops it with a fault: every refused access, message
or command is answered with a status of R10 in a next state. -/
inductive Fault where
  /-- Raised by nobody: kept so that the type is closed and named. Safe. -/
  | unreachable
deriving DecidableEq, Repr

/-- Why a command has no meaning in a state. -/
inductive Refusal where
  /-- Raised only by an arm of exec whose command has no meaning yet. Safe. -/
  | notModelled (mnemonic : String)
  /-- Raised by a command whose operand names a unit, slot, ring or port the device does not have (R7, R14-R16,
  R451). The spec gives no such command an effect. Safe. -/
  | noSuchUnit
  /-- Raised by a command whose operand fields cannot spell its row (a table-form RNORM named by the Box-Muller
  row, a field outside its width). The spec gives no such command an effect. Safe. -/
  | malformed
deriving DecidableEq, Repr

/-- The whole state. -/
structure State where
  pending   : List Instr
  dales     : Tab Dale
  mem       : List Host.Cell
  synd      : Tab Nat
  win       : Tab Nat
  od        : Tab Nat
  handed    : List Event
  ans       : Status × Nat
  free      : Nat
  barriers  : Tab Barrier
  pipes     : Tab Pipe
  cp        : CmdProc
  net       : Net
  gathers   : Tab Gather
  ext       : List ExtReq
  peerOut   : List PeerSent
  svc       : Nat
  heon      : Tab Agent
  peers     : Tab PeerPort
  groups    : Tab Group
  hbm       : Tab Stack
  hostWin   : Nat × Nat
  sec       : Sec
  sectors   : Tab Sector
  clocks    : Tab ClockGen
  cfg       : Cfg
  lanes     : Tab SerialLane
  groupsL   : Tab LaneGroup
  power     : Power
  mgmt      : Mgmt
  log       : Recorder
  boot      : Boot
  tap       : Tap
  notify    : Tab Nat
deriving DecidableEq, Repr

/-- The machine at power-up, before its start-up steps (R527): every register at its reset value. -/
def State.reset : State :=
  { pending := [], dales := [], mem := [], synd := [], win := [], od := [], handed := [], ans := (.done, 0),
    free := 0, barriers := [], pipes := [],
    cp := ⟨[], 0, 0, [], [], 15, [], [], [], none, []⟩, net := ⟨[], [], [], [], [], []⟩, gathers := [], ext := [], peerOut := [],
    svc := 0, heon := [], peers := [], groups := [], hbm := [], hostWin := (0, 0), sec := Sec.reset,
    sectors := [], clocks := [],
    cfg := ⟨1, 0, true, false, [], [], 0, 0, [], [], [], [], false, [], [], [], 3, false, 0⟩,
    lanes := [], groupsL := [],
    power := ⟨[], [], [], [], 0, 0, [], [], [], [], [], 850, 0, true, 0, false, false, false, 0, 0, none, [], false, [], []⟩,
    mgmt := ⟨[], [], [], [], [], none, none, [], [], false, [], 0, 0, 0, 0, false, []⟩,
    log := ⟨0, 0, [], [], 0, 0, 0, 0, false⟩,
    boot := ⟨false, true, 0, 0, true, false, false, false, (0, 0, 0, 1, 0), (0, 0, 0, 1, 0), false, false⟩,
    tap := ⟨15, 1, 0, 0, false, 0⟩, notify := []
  }

end Sys2Proof.Machine
end

