-- ==== Sys2Proof/Machine/Ops.lean ====
section
/-! DEFINITION. The named operations over the state: sparse tables, memory with its check bits (R299, R301,
R432), dales, events, dictionary counters, basins (R17-R19) and the free values. -/
namespace Sys2Proof.Machine

/-! ### Sparse tables -/

/-- What a table holds under a key. -/
def tget {α : Type} (dflt : α) (t : Tab α) (k : Nat) : α :=
  match t with
  | [] => dflt
  | (k', v) :: rest => if k' = k then v else tget dflt rest k

/-- A table without a key. -/
def terase {α : Type} (t : Tab α) (k : Nat) : Tab α := t.filter fun e => e.1 != k

/-- A table with a value listed under a key, keys rising. -/
def tins {α : Type} (t : Tab α) (k : Nat) (v : α) : Tab α :=
  match t with
  | [] => [(k, v)]
  | (k', v') :: rest =>
    if k' = k then (k, v) :: rest
    else if k < k' then (k, v) :: (k', v') :: rest
    else (k', v') :: tins rest k v

/-- A table with a value under a key, in canonical form: the default is not listed. -/
def tset {α : Type} [DecidableEq α] (dflt : α) (t : Tab α) (k : Nat) (v : α) : Tab α :=
  if v = dflt then terase t k else tins t k v

/-- The keys of a table rise strictly from a bound and no entry holds the default. -/
def twf {α : Type} [DecidableEq α] (dflt : α) : Nat → Tab α → Bool
  | _, [] => true
  | lo, (k, v) :: rest => decide (lo ≤ k) && decide (v ≠ dflt) && twf dflt (k + 1) rest

/-! ### Free values -/

/-- A free value of the spec's open points (log entry 3), and the state that has used it. -/
def takeFree (s : State) : Nat × State := (Config.freeBits s.free, { s with free := s.free + 1 })

/-! ### Basins -/

/-- Interleave of R17: PATH of the dale at (x, y). -/
def morton (x y : Nat) : Nat :=
  (x / 16 % 2) * 256 + (y / 8 % 2) * 128 + (x / 8 % 2) * 64 + (y / 4 % 2) * 32 + (x / 4 % 2) * 16
    + (y / 2 % 2) * 8 + (x / 2 % 2) * 4 + (y % 2) * 2 + x % 2

/-- PATH of a dale index (R7, R17). -/
def pathOf (d : Nat) : Nat := morton (d % 32) (d / 32)

/-- The dale index at a PATH. -/
def daleAt (p : Nat) : Nat :=
  let x := (p / 256 % 2) * 16 + (p / 64 % 2) * 8 + (p / 16 % 2) * 4 + (p / 4 % 2) * 2 + p % 2
  let y := (p / 128 % 2) * 8 + (p / 32 % 2) * 4 + (p / 8 % 2) * 2 + p / 2 % 2
  y * 32 + x

/-- The level of a basin path, and its PATH (R17). -/
def basinLevel (b : Nat) : Nat := b / 2 ^ 13 % 8
def basinPath (b : Nat) : Nat := b % 2 ^ 9

/-- The number of dales a basin of a level holds. -/
def basinSize (level : Nat) : Nat := if level ≥ 5 then 512 else 4 ^ level

/-- A basin path that R18 calls well formed. -/
def basinOk (b : Nat) : Bool :=
  let l := basinLevel b
  decide (l ≤ 5) && b / 2 ^ 9 % 16 == 0 && basinPath b % basinSize l == 0 && b < 2 ^ 16

/-- The member dales of a basin, in ascending PATH order. -/
def basinDales (b : Nat) : List Nat :=
  (List.range (basinSize (basinLevel b))).map fun i => daleAt (basinPath b + i)

/-- Whether a dale lies in a basin. -/
def inBasin (b d : Nat) : Bool :=
  let n := basinSize (basinLevel b)
  pathOf d / n == basinPath b / n

/-- The basin of a level that encloses a dale. -/
def enclosing (level d : Nat) : Nat :=
  let n := basinSize level
  level * 2 ^ 13 + pathOf d / n * n

/-- The Basin-1 index of a dale (R19). -/
def basin1 (d : Nat) : Nat := pathOf d / 4

/-- The smallest basin that holds every dale of a list (R23). -/
def smallestBasin (ds : List Nat) : Nat :=
  match ds with
  | [] => 0xA000
  | d :: rest =>
    match (List.range 6).find? (fun l => rest.all (fun e => enclosing l d == enclosing l e)) with
    | some l => enclosing l d
    | none => 0xA000

/-- The col index of a dale (R15). -/
def daleCol (d : Nat) : Nat := (d / 32 + 1) * 34 + (d % 32 + 1)

/-- The dale at a col, if one attaches there (R15). -/
def colDale (c : Nat) : Option Nat :=
  let cx := c % 34
  let cy := c / 34
  if 1 ≤ cx ∧ cx ≤ 32 ∧ 1 ≤ cy ∧ cy ≤ 16 then some ((cy - 1) * 32 + (cx - 1)) else none

/-- The neighbour of a dale in a direction 0 north, 1 east, 2 south, 3 west (R38). -/
def neighbour (d dir : Nat) : Option Nat :=
  let x := d % 32
  let y := d / 32
  match dir with
  | 0 => if y < 15 then some (d + 32) else none
  | 1 => if x < 31 then some (d + 1) else none
  | 2 => if 0 < y then some (d - 32) else none
  | _ => if 0 < x then some (d - 1) else none

/-! ### Statuses -/

/-- The code of a status (R10). -/
def statusCode : Status → Nat
  | .done => 0x00 | .aborted => 0x01 | .nothingToAbort => 0x02 | .poisoned => 0x03 | .targetIsolated => 0x04
  | .checkMismatch => 0x05 | .uncorrectable => 0x06 | .noCapacity => 0x07 | .authFail => 0x08
  | .formatError => 0x09 | .drained => 0x0A | .timeout => 0x0B | .domainOff => 0x0C | .basinDegraded => 0x0D
  | .retracted => 0x0E

/-- The status of a code (R10). -/
def statusOf (c : Nat) : Status :=
  match c with
  | 0x00 => .done | 0x01 => .aborted | 0x02 => .nothingToAbort | 0x03 => .poisoned | 0x04 => .targetIsolated
  | 0x05 => .checkMismatch | 0x06 => .uncorrectable | 0x07 => .noCapacity | 0x08 => .authFail
  | 0x0A => .drained | 0x0B => .timeout | 0x0C => .domainOff | 0x0D => .basinDegraded
  | 0x0E => .retracted | _ => .formatError

/-- Answer an access (R553, R10): the status and the data returned. -/
def answer (s : State) (st : Status) (v : Nat) : State := { s with ans := (st, v) }

/-! ### Events -/

/-- Pack detail fields of (width, value), first field lowest (R495). -/
def packDetail : List (Nat × Nat) → Nat
  | [] => 0
  | (w, v) :: rest => v % 2 ^ w + 2 ^ w * packDetail rest

/-- The severities of R492. -/
def sevInfo : Nat := 0
def sevWarning : Nat := 1
def sevError : Nat := 2

/-- The source of an event of a unit of a kind and instance (R493). -/
def unitSource (kind inst : Nat) : Nat := 7 * 2 ^ 13 + kind * 2 ^ 9 + inst
/-- The source of an event of a dale: its basin path (R493). -/
def daleSource (d : Nat) : Nat := pathOf d
def srcCmd : Nat := unitSource 0 0
def srcSecurity : Nat := unitSource 1 0
def srcSaddle : Nat := unitSource 2 0
def srcConfig : Nat := unitSource 3 0

/-- Hand an event to the saddle (R496). -/
def emit (s : State) (e : Event) : State := { s with handed := s.handed ++ [e] }

/-- Hand an event of no command and no strike. -/
def emitPlain (s : State) (code sev source : Nat) (detail : List (Nat × Nat)) : State :=
  emit s ⟨code, sev, source, packDetail detail, none, []⟩

/-! ### Window registers and dictionary entries -/

/-- The reset value of a window register with a row of its own in a register table, by address; 0 elsewhere. -/
def winReset : Nat → Nat
  | 0x0200000D0008 => 255
  | 0x0200000A0014 => 100
  | 0x0200000A0018 => 0x20000000
  | 0x0200000A0028 => 0xFFFFFFFFFFFFFFFF
  | _ => 0

/-- A register held plainly in the window store. -/
def winGet (s : State) (a : Nat) : Nat := tget (winReset a) s.win a

/-- Write a plainly held register. -/
def winSet (s : State) (a v : Nat) : State := { s with win := tset (winReset a) s.win a v }

/-- The key of a dictionary entry. -/
def odKey (index sub : Nat) : Nat := index * 256 + sub

/-- The default of a numeric dictionary entry by its key (R480); 0 for every entry not named. -/
def odDefault : Nat → Nat
  | 0x400002 => 14 | 0x450001 => 2000 | 0x381001 => 1000 | 0x300002 => 24 | 0x300003 => 256
  | 0x300101 => 2000 | 0x300102 => 800 | 0x300103 => 400 | 0x300104 => 200 | 0x300105 => 400 | 0x300106 => 1000000
  | 0x590001 => 100 | 0x590002 => 0x02000000 | 0x590003 => 100 | 0x590004 => 1000
  | 0x600002 => 10 | 0x600003 => 1000 | 0x680001 => 2 | 0x680002 => 100 | 0x680003 => 0xFFFF
  | 0x700002 => 10 | 0x700003 => 20 | 0x700005 => 1 | 0x780101 => 0xA000C03C
  | 0x781001 => 86400 | 0x781002 => 3 | 0x781003 => 200 | 0x200001 => 720 | 0x200002 => 1500
  | 0x1F0301 => 2 | 0xA00004 => 5000 | 0xA00005 => 255 | 0xA00006 => 255
  | _ => 0

/-- The value of a numeric dictionary entry: what differs from its default is listed. -/
def odRaw (s : State) (k : Nat) : Nat := tget (odDefault k) s.od k

/-- Set a numeric dictionary entry. -/
def odPut (s : State) (k v : Nat) : State := { s with od := tset (odDefault k) s.od k v }

/-- Add to a U64 counter of the dictionary (its overflow wraps, log entry 12). -/
def odBump (s : State) (index sub n : Nat) : State :=
  let k := odKey index sub
  odPut s k ((odRaw s k + n) % 2 ^ 64)

/-- Clear counters of one index, subindices from `lo` to `hi`. -/
def odClear (s : State) (index lo hi : Nat) : State :=
  (List.range (hi + 1 - lo)).foldl (fun s i => odPut s (odKey index (lo + i)) 0) s

/-! ### Dales -/

/-- A dale. -/
def dale (s : State) (d : Nat) : Dale := tget Dale.reset s.dales d

/-- Put a dale back. -/
def setDale (s : State) (d : Nat) (v : Dale) : State := { s with dales := tset Dale.reset s.dales d v }

/-- Change a dale. -/
def updDale (s : State) (d : Nat) (f : Dale → Dale) : State := setDale s d (f (dale s d))

/-- A pipeline. -/
def pipe (s : State) (p : Nat) : Pipe := tget Pipe.reset s.pipes p
def setPipe (s : State) (p : Nat) (v : Pipe) : State := { s with pipes := tset Pipe.reset s.pipes p v }
def updPipe (s : State) (p : Nat) (f : Pipe → Pipe) : State := setPipe s p (f (pipe s p))

/-- An interface. -/
def ni (s : State) (c : Nat) : Ni := tget Ni.reset s.net.nis c
def setNi (s : State) (c : Nat) (v : Ni) : State :=
  { s with net := { s.net with nis := tset Ni.reset s.net.nis c v } }
def updNi (s : State) (c : Nat) (f : Ni → Ni) : State := setNi s c (f (ni s c))

/-- The command that a dale's events are recorded for: the RUN_STEP of its pipeline (R207 FIRST_EVENT). -/
def cmdOfDale (s : State) (d : Nat) : Option Nat :=
  match (dale s d).pipe with
  | some p => (pipe s p).run
  | none => none

/-- Hand an event of a dale. -/
def emitDale (s : State) (d code sev : Nat) (detail : List (Nat × Nat)) : State :=
  emit s ⟨code, sev, daleSource d, packDetail detail, cmdOfDale s d, []⟩

/-- The strike of a fault that arises in a dale: none after the first of a step (R442). -/
def strikeOf (x : Dale) (d sig : Nat) : List (Nat × Nat) := if x.running && x.struck then [] else [(d, sig)]

/-- A fault has arisen in a dale. -/
def markStruck (s : State) (d : Nat) : State := updDale s d fun x => { x with struck := true }

/-- Hand an event of a dale that carries a strike of a kind and location (R442). -/
def emitStrike (s : State) (d code sev : Nat) (detail : List (Nat × Nat)) (kind loc : Nat) : State :=
  emit (markStruck s d) ⟨code, sev, daleSource d, packDetail detail, cmdOfDale s d, strikeOf (dale s d) d (kind % 16 * 2 ^ 20 + loc % 2 ^ 20)⟩

/-- A counter that holds at its maximum (R72). -/
def holdAdd (a n : Nat) : Nat := min (a + n) 0xFFFFFFFF

/-- Count saturations of a dale (R72, R73, R76): how many, the unit, the target format's code. An isolated dale's counters are
frozen (R75). -/
def countSat (s : State) (d n unit fmt : Nat) : State :=
  if n = 0 ∨ (dale s d).isolated = true then s
  else
    let s1 := updDale s d fun x => { x with satCount := holdAdd x.satCount n, satLast := unit * 2 ^ 28 + fmt * 2 ^ 24 }
    odBump s1 0x4100 1 n

/-- Count NaNs seen by a dale (R52, R55, R76), unless it is isolated (R75). -/
def countNan (s : State) (d n : Nat) : State :=
  if n = 0 ∨ (dale s d).isolated = true then s
  else odBump (updDale s d fun x => { x with nanCount := holdAdd x.nanCount n }) 0x4100 2 n

/-! ### Memory -/

/-- What a byte of memory that nothing has written reads as (R307, R308). -/
def memDefault : Byte := 0#8

/-- A byte of memory. -/
def memGet (s : State) (a : Nat) : Byte := tget memDefault s.mem a

/-- `n` bytes from an address. -/
def memBytes (s : State) (a n : Nat) : List Byte := (List.range n).map fun i => memGet s (a + i)

/-- Write bytes from an address on. -/
def memPut (s : State) (a : Nat) : List Byte → State
  | [] => s
  | b :: bs => memPut { s with mem := tset memDefault s.mem a b } (a + 1) bs

/-- Memory in its canonical form. -/
def Memory.wf (m : List Host.Cell) : Bool := twf memDefault 0 m

/-- The xor of the stored and the recomputed check bits of the 64-bit word that holds an address (R301). -/
def synOf (s : State) (a : Nat) : Nat := tget 0 s.synd (a / 8)
def setSyn (s : State) (a v : Nat) : State := { s with synd := tset 0 s.synd (a / 8) v }

/-- The number of set bits of a byte value. -/
def popcount (w n : Nat) : Nat := ((List.range w).filter fun i => n.testBit i).length

/-- The column value of a data bit (R299). -/
def eccColumns : List Nat :=
  ((List.range 256).filter fun v => popcount 8 v == 3) ++ [0x1F, 0x2F, 0x37, 0x3B, 0x3D, 0x3E, 0x4F, 0x57]

/-- The check byte of a word (R299). -/
def eccOf (w : Nat) : Nat :=
  (List.range 64).foldl (fun c i => if w.testBit i then Nat.xor c (eccColumns.getD i 0) else c) 0

/-- The poison mark's syndrome (R301). -/
def poisonSyn : Nat := 0x03

/-- The outcome of reading a word (R301). -/
inductive EccOutcome where
  | clean
  | corrected (word : Nat)
  | poison
  | uncorrectable
deriving DecidableEq, Repr

/-- Decode a word by its syndrome (R301). -/
def eccDecode (word syn : Nat) : EccOutcome :=
  if syn = 0 then .clean
  else if syn = poisonSyn then .poison
  else
    match eccColumns.idxOf? syn with
    | some i => .corrected (Nat.xor word (2 ^ i))
    | none => if (List.range 8).any (fun j => 2 ^ j == syn) then .corrected word else .uncorrectable

/-- The 64-bit word that holds an address. -/
def wordAt (s : State) (a : Nat) : Nat := leNat (memBytes s (a / 8 * 8) 8)

/-- The base of a dale's window (R7). -/
def daleBase (d : Nat) : Nat := 0x10000000000 + 0x100000 * d

/-- The size of a dale store (R8). -/
def storeBytes : Nat := 0xC0000

/-- Who reads a dale-store word (event 0x1007): 0 sequencer, 1 unit queue, 2 stream, 3 partial-write merge. -/
abbrev Reader := Nat

/-- Count a word of a dale store as corrected and write it back (R432). -/
def storeCorrect (s : State) (d a w : Nat) : State :=
  let s1 := setSyn (memPut s (a / 8 * 8) (leBytes 8 w)) a 0
  odBump (updDale s1 d fun x => { x with storeCe := holdAdd x.storeCe 1 }) 0x7820 6 1

/-- Count a word of a dale store as uncorrectable, mark it and hand event 0x1007 (R432). -/
def storeFail (s : State) (d a : Nat) (reader : Reader) (pc : Nat) : State :=
  let off := a - daleBase d
  let syn := synOf s a
  let s1 := setSyn s a poisonSyn
  let s2 := odBump (updDale s1 d fun x => { x with storeUe := holdAdd x.storeUe 1 }) 0x7820 7 1
  emitStrike s2 d 0x1007 sevError [(17, off / 8), (8, syn), (3, reader), (32, pc)] 5 (off / 8)

/-- Read the word of a dale store that holds an address (R432): the state after, and whether it is marked. -/
def storeWord (s : State) (d a : Nat) (reader : Reader) (pc : Nat) : State × Bool :=
  match eccDecode (wordAt s a) (synOf s a) with
  | .clean => (s, false)
  | .corrected w => (storeCorrect s d a w, false)
  | .poison => (s, true)
  | .uncorrectable => (storeFail s d a reader pc, true)

/-- The addresses of the words that `n` bytes from an address touch. -/
def wordsOf (a n : Nat) : List Nat :=
  if n = 0 then [] else (List.range ((a + n - 1) / 8 - a / 8 + 1)).map fun i => (a / 8 + i) * 8

/-- One word of a read: the state after, and whether any word so far is marked. -/
def storeReadStep (d : Nat) (reader : Reader) (pc : Nat) (acc : State × Bool) (w : Nat) : State × Bool :=
  let r := storeWord acc.1 d w reader pc
  (r.1, acc.2 || r.2)

/-- The words of a read of a dale store in order: the state after, and whether any is marked. -/
def storeReadWords (s : State) (d off n : Nat) (reader : Reader) (pc : Nat) : State × Bool :=
  (wordsOf (daleBase d + off) n).foldl (storeReadStep d reader pc) (s, false)

/-- The state after a read of a dale store: words corrected, counted and reported (R432). -/
def storeAfter (s : State) (d off n : Nat) (reader : Reader) (pc : Nat) : State := (storeReadWords s d off n reader pc).1

/-- Read bytes of a dale store by offset (R432): the state after, the bytes, and whether any word is marked. -/
def storeRead (s : State) (d off n : Nat) (reader : Reader) (pc : Nat) : State × List Byte × Bool :=
  (storeAfter s d off n reader pc, memBytes (storeAfter s d off n reader pc) (daleBase d + off) n,
    (storeReadWords s d off n reader pc).2)

/-- Read the word of a store that a write of `n` bytes from an address covers in part, noting a bad one (R432). -/
def storeMerge (d a n pc : Nat) (acc : State × List Nat) (w : Nat) : State × List Nat :=
  if a ≤ w ∧ w + 8 ≤ a + n then acc
  else ((storeWord acc.1 d w 3 pc).1, if (storeWord acc.1 d w 3 pc).2 then w :: acc.2 else acc.2)

/-- Write bytes of a dale store by offset (R432): words written whole take fresh check bits, words written in part
are read and merged. `poison` marks every word touched. Answers whether a merge found a bad word. -/
def storeWrite (s : State) (d off : Nat) (bs : List Byte) (poison : Bool) (pc : Nat) : State × Bool :=
  let a := daleBase d + off
  let ws := wordsOf a bs.length
  let m := ws.foldl (storeMerge d a bs.length pc) (s, [])
  let s3 := ws.foldl (fun t w => setSyn t w (if poison || m.2.contains w then poisonSyn else 0)) (memPut m.1 a bs)
  (s3, !m.2.isEmpty)

/-! ### Tile slots -/

/-- The bytes of a slot's region. -/
def slotEnd (t : Slot) : Nat := t.base + t.rows * t.rowBytes

/-- All ones up to `n` bits. -/
def ones (n : Nat) : Nat := 2 ^ n - 1

/-- A slot of a dale. -/
def slotOf (x : Dale) (k : Nat) : Option Slot := tget none x.t (k % 16)
def setSlot (x : Dale) (k : Nat) (t : Slot) : Dale := { x with t := tset none x.t (k % 16) (some t) }

/-- Set or clear bit `r` of a bit set. -/
def bitPut (n r : Nat) (b : Bool) : Nat :=
  if b then Nat.lor n (2 ^ r) else if n.testBit r then n - 2 ^ r else n

/-- Write a row of a slot (R177, R433): the bytes go to the store, the row's fill bit is set, its poison mark becomes
`poison`, and a marked row marks its words. -/
def writeRow (s : State) (d k r : Nat) (bs : List Byte) (poison : Bool) (pc : Nat) : State :=
  match slotOf (dale s d) k with
  | none => s
  | some t =>
    let (s1, _) := storeWrite s d (t.base + r * t.rowBytes) bs poison pc
    updDale s1 d fun x => setSlot x k { t with fill := bitPut t.fill r true, poison := bitPut t.poison r poison }

/-- Mark a row poisoned with its fill bit set, its contents as they are (R93, R240): its words take the mark. -/
def markRow (s : State) (d k r : Nat) : State :=
  match slotOf (dale s d) k with
  | none => s
  | some t =>
    if t.rows ≤ r then s
    else
      let a := daleBase d + t.base + r * t.rowBytes
      let s1 := (wordsOf a t.rowBytes).foldl (fun u w => setSyn u w poisonSyn) s
      updDale s1 d fun x => setSlot x k { t with fill := bitPut t.fill r true, poison := bitPut t.poison r true }

/-- Read `n` bytes of a row of a slot: the bytes, and whether the row or a word of it is marked (R189, R432). -/
def readRow (s : State) (d : Nat) (t : Slot) (r n : Nat) (reader : Reader) (pc : Nat) : State × List Byte × Bool :=
  let (s1, bs, m) := storeRead s d (t.base + r * t.rowBytes) n reader pc
  (s1, bs, m || t.poison.testBit r)

/-- Element `n` of the bytes of a row, as an encoding of a format (R49). -/
def elemBits (f : Fmt) (bs : List Byte) (n : Nat) : Nat :=
  match f with
  | .e2m1 | .int4 =>
    let b := (bs.getD (n / 2) 0#8).toNat
    if n % 2 = 0 then b % 16 else b / 16
  | g => fieldAt bs (n * (fmtBits g / 8)) (fmtBits g / 8)

/-- Encodings laid out as the bytes of a row (R49); four-bit elements pair up. -/
def packElems (f : Fmt) (es : List Nat) : List Byte :=
  match f with
  | .e2m1 | .int4 =>
    (List.range ((es.length + 1) / 2)).map fun i =>
      BitVec.ofNat 8 (es.getD (2 * i) 0 % 16 + es.getD (2 * i + 1) 0 % 16 * 16)
  | g => es.flatMap (leBytes (fmtBits g / 8))

/-- Bytes that `n` elements of a format take. -/
def elemsBytes (f : Fmt) (n : Nat) : Nat := (n * fmtBits f + 7) / 8

end Sys2Proof.Machine
end

