-- ==== Sys2Proof/Machine/Operands.lean ====
section
/-! DEFINITION. Operand forms of the dale instruction set: scalar, vector, predicate and circular-buffer
registers (R174, R103, R104, R111), the three instruction formats (R185), and the queues through which an
instruction reaches its unit (R172). -/
namespace Sys2Proof.Machine

/-! ### Registers -/

/-- A scalar register; x0 reads 0 (R174). -/
def xget (x : Dale) (n : Nat) : W64 := if n % 32 = 0 then 0#64 else tget 0#64 x.x (n % 32)
/-- Write a scalar register; x0 ignores writes (R174). -/
def xput (x : Dale) (n : Nat) (v : W64) : Dale :=
  if n % 32 = 0 then x else { x with x := tset 0#64 x.x (n % 32) v }

/-- Write a scalar register from a number. -/
def xputN (x : Dale) (n v : Nat) : Dale := xput x n (BitVec.ofNat 64 v)

/-- A vector register (R103). -/
def vget (x : Dale) (n : Nat) : VReg := tget 0#2048 x.v (n % 32)
/-- Write a vector register; its bytes take fresh parity (R123). -/
def vput (x : Dale) (n : Nat) (v : VReg) : Dale :=
  { x with v := tset 0#2048 x.v (n % 32) v,
           badBytes := x.badBytes.filter fun b => !(b.1 == 0 && b.2.1 == n % 32) }

/-- A predicate register; p0 reads all ones (R104). -/
def pget (x : Dale) (n : Nat) : PReg :=
  if n % 8 = 0 then BitVec.ofNat 256 (2 ^ 256 - 1) else tget 0#256 x.p (n % 8)
/-- Write a predicate register; writes to p0 are ignored (R104). -/
def pput (x : Dale) (n : Nat) (v : PReg) : Dale :=
  if n % 8 = 0 then x else { x with p := tset 0#256 x.p (n % 8) v }

/-- A circular-buffer register (R111). -/
def cget (x : Dale) (n : Nat) : W64 := tget 0#64 x.c (n % 8)
def cput (x : Dale) (n : Nat) (v : W64) : Dale := { x with c := tset 0#64 x.c (n % 8) v }

/-- A statistic context (R138). -/
def scget (x : Dale) (n : Nat) : StatCtx := tget scInit x.sc (n % 8)
/-- Write a statistic context; its bytes take fresh parity (R148). -/
def scput (x : Dale) (n : Nat) (v : StatCtx) : Dale :=
  { x with sc := tset scInit x.sc (n % 8) v,
           badBytes := x.badBytes.filter fun b => !(b.1 == 0x14 && b.2.1 == n % 8) }

/-- The width of an element of a view and the number of elements (R103). -/
def viewWidth : Nat → Nat
  | 0 => 32
  | 1 => 16
  | _ => 8
def viewCount : Nat → Nat
  | 0 => 64
  | 1 => 128
  | _ => 256

/-- Element `i` of a register in a view (R103). -/
def velem (view : Nat) (v : VReg) (i : Nat) : Nat :=
  v.toNat / 2 ^ (viewWidth view * i) % 2 ^ viewWidth view

/-- The elements of a register in a view. -/
def velems (view : Nat) (v : VReg) : List Nat := (List.range (viewCount view)).map (velem view v)

/-- A register from the elements of a view. -/
def vpack (view : Nat) (es : List Nat) : VReg :=
  BitVec.ofNat 2048 (es.foldr (fun e acc => e % 2 ^ viewWidth view + 2 ^ viewWidth view * acc) 0)

/-- The participating element positions of a view under a predicate (R104). -/
def participants (view : Nat) (pr : PReg) : List Nat :=
  (List.range (viewCount view)).filter fun i => pr.getLsbD i

/-- The element-wise rule of R104: a new value where the predicate bit is 1, else the old one or 0. -/
def mergeElems (pr : PReg) (zero : Bool) (old new : List Nat) : List Nat :=
  (List.range old.length).map fun i =>
    if pr.getLsbD i then new.getD i 0 else if zero then 0 else old.getD i 0

/-! ### Formats -/

/-- Bits [hi:lo] of an instruction word. -/
def wbits (w : W64) (hi lo : Nat) : Nat := bitsOf w.toNat hi lo

/-- CLASS and OP (R185). -/
def wclass (w : W64) : Nat := wbits w 63 60
def wop (w : W64) : Nat := wbits w 59 52

/-- The fields of format R (R185). -/
def decR (w : W64) : RInst :=
  { pg := wbits w 51 49, d := wbits w 48 44, a := wbits w 43 39, b := wbits w 38 34, view := wbits w 33 32,
    s := wbits w 31 27, zero := w.getLsbD 26, sat := w.getLsbD 25, sign := w.getLsbD 24, tc := w.getLsbD 23,
    sr := w.getLsbD 22, fmt := wbits w 21 18, imm := BitVec.ofNat 18 w.toNat }

/-- The fields of format I (R185). -/
def decI (w : W64) : IInst :=
  { pg := wbits w 51 49, d := wbits w 48 44, a := wbits w 43 39, b := wbits w 38 34, ord := w.getLsbD 33,
    imm := BitVec.ofNat 32 w.toNat }

/-- The fields of format M (R185). -/
def decM (w : W64) : MInst :=
  { ta := wbits w 51 48, tb := wbits w 47 44, td := wbits w 43 40, m := wbits w 39 28 + 1,
    k := wbits w 27 21 + 1, n := wbits w 20 15 + 1, acc := w.getLsbD 14, swap := w.getLsbD 13,
    part := wbits w 12 11, comp := w.getLsbD 10, split := w.getLsbD 9, fused := w.getLsbD 8, sr := w.getLsbD 7 }

/-- Signed and unsigned immediates. -/
def immR (f : RInst) : Nat := f.imm.toNat
def simmR (f : RInst) : Int := f.imm.toInt
def immI (f : IInst) : Nat := f.imm.toNat
def simmI (f : IInst) : Int := f.imm.toInt

/-- The sign-extended 64-bit immediate of format I. -/
def sextI (f : IInst) : W64 := f.imm.signExtend 64

/-- A bit field of an encoding. -/
def fld (v w lo : Nat) : Nat := v % 2 ^ w * 2 ^ lo
/-- A one-bit field. -/
def bfld (b : Bool) (lo : Nat) : Nat := if b then 2 ^ lo else 0

/-- An instruction word in format R (R185). -/
def encR (cls op : Nat) (f : RInst) : W64 :=
  BitVec.ofNat 64 (fld cls 4 60 + fld op 8 52 + fld f.pg 3 49 + fld f.d 5 44 + fld f.a 5 39 + fld f.b 5 34 + fld f.view 2 32
    + fld f.s 5 27 + bfld f.zero 26 + bfld f.sat 25 + bfld f.sign 24 + bfld f.tc 23 + bfld f.sr 22 + fld f.fmt 4 18
    + f.imm.toNat)

/-- An instruction word in format I (R185). -/
def encI (cls op : Nat) (f : IInst) : W64 :=
  BitVec.ofNat 64 (fld cls 4 60 + fld op 8 52 + fld f.pg 3 49 + fld f.d 5 44 + fld f.a 5 39 + fld f.b 5 34 + bfld f.ord 33
    + f.imm.toNat)

/-- An instruction word in format M (R185). -/
def encM (cls op : Nat) (f : MInst) : W64 :=
  BitVec.ofNat 64 (fld cls 4 60 + fld op 8 52 + fld f.ta 4 48 + fld f.tb 4 44 + fld f.td 4 40 + fld (f.m - 1) 12 28
    + fld (f.k - 1) 7 21 + fld (f.n - 1) 6 15 + bfld f.acc 14 + bfld f.swap 13 + fld f.part 2 11 + bfld f.comp 10
    + bfld f.split 9 + bfld f.fused 8 + bfld f.sr 7)

/-! ### Circular buffers (R111-R113) -/

/-- The fields of a circular-buffer register. -/
def cPtr (c : W64) : Nat := wbits c 59 40
def cLen (c : W64) : Nat := wbits c 39 20
def cBase (c : W64) : Nat := wbits c 19 0

/-- A circular-buffer register with a new pointer. -/
def cWithPtr (c : W64) (p : Nat) : W64 :=
  BitVec.ofNat 64 (wbits c 39 0 + p % 2 ^ 20 * 2 ^ 40 + wbits c 63 60 * 2 ^ 60)

/-- A value CSET accepts (R113). -/
def csetOk (v : W64) : Bool :=
  cBase v % 4 == 0 && cLen v % 4 == 0 && cBase v + cLen v ≤ storeBytes && (cLen v == 0 || cPtr v < cLen v)

/-- The fault of an access of `n` bytes with increment inc through a register (R112, R113): cause and value. -/
def circFault (c : W64) (n : Nat) (inc : Int) : Option (Nat × Nat) :=
  if cLen c = 0 then
    if cBase c + cPtr c + n > storeBytes then some (2, cBase c + cPtr c + n - 1) else none
  else if n > cLen c then some (1, n)
  else if inc.natAbs > cLen c then some (3, wrapNat 32 inc)
  else none

/-- The store offsets of an access of `n` bytes (R112). -/
def circOffsets (c : W64) (n : Nat) : List Nat :=
  (List.range n).map fun i =>
    if cLen c = 0 then cBase c + cPtr c + i else cBase c + (cPtr c + i) % cLen c

/-- The pointer after an access (R112). -/
def circNext (c : W64) (inc : Int) : Nat :=
  let p : Int := (cPtr c : Int) + inc
  let l : Int := cLen c
  if cLen c = 0 then wrapNat 20 p
  else if p ≥ l then (p - l).toNat
  else if p < 0 then (p + l).toNat
  else p.toNat

/-! ### Queues -/

/-- The depth of the queue of a class (R172). -/
def queueDepth : Nat → Nat
  | 1 => 8 | 2 => 16 | 3 => 4 | 4 => 16 | 5 => 16 | 6 => 16 | 7 => 8 | _ => 0

/-- The queue of a class. -/
def queueOf (x : Dale) (cls : Nat) : List QEnt := tget [] x.queues cls
def setQueue (x : Dale) (cls : Nat) (q : List QEnt) : Dale := { x with queues := tset [] x.queues cls q }

/-- Every queue is empty (R183). -/
def queuesEmpty (x : Dale) : Bool := x.queues.all fun e => e.2.isEmpty

end Sys2Proof.Machine
end

