-- ==== Sys2Proof/Machine/Scoreboard.lean ====
section
/-! DEFINITION. The scoreboard (R178-R180): the registers and slots an instruction reads and writes, the readers and
writers pending in the queues and the stream channels, and the hazards at issue. -/
namespace Sys2Proof.Machine

/-! ### Blocks of the stream channels -/

/-- The range of R332 that names a dale's own ports. -/
def portBase : Nat := 0x020000100000

/-- Whether a block moves its data through a port of its own dale (R332). -/
def isPort (b : Block) : Bool := b.kind == 0 && b.space == 1 && portBase ≤ b.addr && b.addr < portBase + 0x4000
/-- The port queue it names. -/
def portQueue (b : Block) : Nat := (b.addr - portBase) / 0x1000

/-- Whether a block serves a channel operand of a set instruction: 16 input A, 17 input B, 18 the output, 19 the
positions (R186, log entry 22). Its data stays with the block. -/
def isOperand (b : Block) : Bool := 16 ≤ b.slot

/-- The remote rows of a block and the elements of each. -/
def remRows (b : Block) : Nat := if b.transpose then b.elems else b.rows
def remElems (b : Block) : Nat := if b.transpose then b.rows else b.elems
/-- The bytes of a remote row, packed. -/
def remBytes (b : Block) : Nat := elemsBytes b.fmt (remElems b)
/-- All bytes of a block that moves through a port (R332). -/
def portBytes (b : Block) : Nat := elemsBytes b.fmt (b.rows * b.elems)

/-- The bytes of remote row `row`: the output of a set instruction ends with its last key. -/
def rowLen (b : Block) (row : Nat) : Nat :=
  if 18 ≤ b.slot then min (remBytes b) (b.raw.length - row * remBytes b) else remBytes b

/-- Whether every piece has been requested. -/
def allIssued (b : Block) : Bool :=
  b.next / 65536 ≥ remRows b || (18 ≤ b.slot && b.next / 65536 * remBytes b ≥ b.raw.length)

/-- Whether an outbound block or a multicast sender has read its last row (R178). -/
def blockRead (b : Block) : Bool :=
  if b.kind == 2 then b.done % 2 ^ b.rows == ones b.rows
  else if isPort b then decide (portBytes b ≤ b.next * 32)
  else allIssued b

/-- The block that instruction `no` has bound to a channel, if it still is carried out. -/
def boundBlock (x : Dale) (no : Nat) : Option Block := x.channels.findSome? fun c => c.2.blocks.find? fun b => b.no == no

/-! ### Objects -/

/-- An object of the scoreboard: xn is n, vn 32 + n, pn 64 + n, cn 72 + n, tn 80 + n, scn 96 + n, the generator's KEY 104 and
CTR 105, the dither context 106. -/
abbrev Obj := Nat

def ox (n : Nat) : Obj := n % 32
def ov (n : Nat) : Obj := 32 + n % 32
def opr (n : Nat) : Obj := 64 + n % 8
def oc (n : Nat) : Obj := 72 + n % 8
def ot (n : Nat) : Obj := 80 + n % 16
def osc (n : Nat) : Obj := 96 + n % 8
def okey : Obj := 104
def octr : Obj := 105
def odither : Obj := 106

/-- What an instruction reads and writes. -/
structure Uses where
  reads  : List Obj
  writes : List Obj
deriving DecidableEq, Repr

/-- The valid slots whose region a byte range of the store touches (R180). -/
def slotsTouched (x : Dale) (off n : Nat) : List Obj :=
  (List.range 16).filterMap fun k =>
    match slotOf x k with
    | none => none
    | some t => if t.base < off + n ∧ off < slotEnd t then some (ot k) else none

/-- The valid slots that the 256 bytes of an access through a circular-buffer register fall in (R112, R180). -/
def circTouched (x : Dale) (c : W64) : List Obj :=
  if cLen c = 0 then slotsTouched x (cBase c + cPtr c) 256
  else
    let n := min 256 (cLen c - cPtr c)
    slotsTouched x (cBase c + cPtr c) n ++ slotsTouched x (cBase c) (min (256 - n) (cLen c))

/-- The slot that a stream operand code names, if it names one (R186). -/
def codeSlot (c : Nat) : List Obj := if c % 32 < 16 then [ot c] else []

/-- Uses of a vector instruction. -/
def usesVx (x : Dale) (f : RInst) (o : Nat) : Uses :=
  let lanes2 : Uses := ⟨[ov f.a, ov f.b, opr f.pg], [ov f.d]⟩
  if o ≤ 0x11 then lanes2
  else
    match o with
    | 0x12 => ⟨[ov f.a, ov f.b, opr f.pg], [opr f.d]⟩
    | 0x13 => lanes2
    | 0x14 => ⟨[ov f.a, opr f.pg] ++ (if f.sr then [okey, odither] else []), [ov f.d]⟩
    | 0x15 => ⟨[ox f.s, opr f.pg], [ov f.d]⟩
    | 0x16 => ⟨[ox f.s, ox f.a], [odither]⟩
    | 0x18 => ⟨[opr f.pg, oc f.a] ++ circTouched x (cget x f.a), [ov f.d, oc f.a]⟩
    | 0x19 => ⟨[ov f.d, opr f.pg, oc f.a], oc f.a :: circTouched x (cget x f.a)⟩
    | 0x1A => ⟨[ox f.s], [oc f.d]⟩
    | 0x1B => ⟨[oc f.a], [ox f.d]⟩
    | 0x20 => ⟨[ov f.a, ox f.s, opr f.pg], [ox f.d, ox f.b]⟩
    | 0x21 => ⟨[ox f.s], []⟩
    | 0x22 => ⟨[ov f.a, opr f.pg], []⟩
    | 0x23 => ⟨[], [ov f.d, ov f.b]⟩
    | 0x24 => ⟨[opr f.pg], [ox f.d, ox f.b]⟩
    | 0x25 => ⟨[ov f.a, opr f.pg], [ov f.d]⟩
    | 0x26 => ⟨[], [ov f.d, ox f.b]⟩
    | 0x27 => ⟨[ov f.a, ox f.s, opr f.pg], [ov f.d, ox f.s]⟩
    | 0x28 => ⟨[ov f.a, ov f.b, opr f.pg], []⟩
    | 0x29 => ⟨[], [ov f.d, ov (f.d + 1), ov (f.d + 2), ov (f.d + 3)]⟩
    | 0x2B => ⟨[ox f.s], []⟩
    | 0x2C => ⟨[ov f.a, opr f.pg], []⟩
    | 0x2D => ⟨[], [ov f.d, ov f.b]⟩
    | 0x30 | 0x31 | 0x32 => ⟨[opr f.a, opr f.b], [opr f.d]⟩
    | 0x33 => ⟨[opr f.a], [opr f.d]⟩
    | _ => ⟨[], []⟩

/-- Uses of a special-function instruction. -/
def usesSf (f : RInst) (o : Nat) : Uses :=
  match o with
  | 0x01 => ⟨[ov f.a, opr f.pg], [ov f.d]⟩
  | 0x02 => ⟨[], [osc f.d]⟩
  | 0x03 | 0x07 => ⟨[ov f.a, opr f.pg, osc f.d], [osc f.d]⟩
  | 0x04 => ⟨[osc f.a, osc f.d], [osc f.d]⟩
  | 0x05 => ⟨[], [osc f.d]⟩
  | 0x06 => ⟨[osc f.a], []⟩
  | 0x08 => ⟨[osc f.a, ox f.s], [ox f.d, ox f.b]⟩
  | 0x09 => ⟨[osc f.a], [ox f.d, ox f.b]⟩
  | _ => ⟨[], []⟩

/-- Uses of a random instruction: a draw reads KEY and, in stream mode, advances CTR, which no conversion reads (R165). -/
def usesRn (f : RInst) (o : Nat) : Uses :=
  let wr := if f.imm.getLsbD 17 then [octr] else []
  match o with
  | 0x01 | 0x02 | 0x04 => ⟨[ox f.a, ox f.s, opr f.pg, okey], ov f.d :: wr⟩
  | 0x03 => ⟨[ox f.a, ox f.s, opr f.pg, okey], opr f.d :: wr⟩
  | 0x08 => ⟨[ox f.a, ox f.b], [okey]⟩
  | 0x09 => ⟨[ox f.a, ox f.b], [octr]⟩
  | 0x0A => ⟨[octr], [ox f.d, ox f.b]⟩
  | _ => ⟨[], []⟩

/-- Whether the block an SSTART takes makes it a reader of its slot (R228): outbound, or a MCAST_SEND. -/
def descReads (desc : List W64) : Bool :=
  let w1 := desc.getD 1 0#64
  wbits w1 59 59 == 1 || wbits w1 63 60 == 2

/-- Uses of an MMUL under fused parameters `u` (R178). -/
def usesMmul (f : MInst) (u : Fused) : Uses :=
  ⟨[ot f.ta] ++ (if f.swap then [ot f.tb] else []) ++ (if f.acc then [ot f.td] else [])
    ++ (if f.fused then [ot u.bias] else []) ++ (if f.sr then [okey] else []), [ot f.td]⟩

/-- Uses of an instruction of the sequencer (R171). -/
def usesSeq (x : Dale) (w : W64) (o : Nat) : Uses :=
  let i := decI w
  let addr := ((xget x i.a).toInt + simmI i).toNat
  if 0x08 ≤ o ∧ o ≤ 0x0F then ⟨[ox i.a, ox i.b], [ox i.d]⟩
  else if 0x10 ≤ o ∧ o ≤ 0x17 then ⟨[ox i.a], [ox i.d]⟩
  else if 0x28 ≤ o ∧ o ≤ 0x2D then ⟨[ox i.a, ox i.b], []⟩
  else
    match o with
    | 0x04 => ⟨if i.imm.toNat % 4096 = 0x020 ∨ i.imm.toNat % 4096 = 0x021 then [odither] else [], [ox i.d]⟩
    | 0x05 => ⟨[ox i.a], [ot i.d]⟩
    | 0x18 => ⟨[ox i.a, ox i.b], [ox i.d]⟩
    | 0x19 => ⟨[], [ox i.d]⟩
    | 0x1A => ⟨[ox i.d], [ox i.d]⟩
    | 0x20 => ⟨ox i.a :: slotsTouched x addr 8, [ox i.d]⟩
    | 0x21 => ⟨[ox i.a, ox i.b], slotsTouched x addr 8⟩
    | 0x2E => ⟨[], [ox i.d]⟩
    | 0x2F => ⟨[ox i.a], []⟩
    | 0x30 | 0x31 => ⟨[opr i.a], []⟩
    | _ => ⟨[], []⟩

/-- Uses of an instruction word, with the block an SSTART takes and the fused parameters an MMUL finds. -/
def usesOf (x : Dale) (u : Fused) (w : W64) (desc : List W64) : Uses :=
  let r := decR w
  let i := decI w
  match wclass w with
  | 0 => usesSeq x w (wop w)
  | 1 => if wop w = 2 then ⟨[ox r.s], []⟩ else usesMmul (decM w) u
  | 2 => usesVx x r (wop w)
  | 3 =>
    ⟨codeSlot r.a ++ codeSlot r.b, ox r.s :: codeSlot r.d ++ (if r.imm.getLsbD 5 then codeSlot (immR r % 32) else [])⟩
  | 4 => usesSf r (wop w)
  | 5 => usesRn r (wop w)
  | 6 =>
    if wop w = 1 then (if descReads desc then ⟨[ot r.d], []⟩ else ⟨[], [ot r.d]⟩)
    else ⟨[ot r.a], [ot r.d]⟩
  | 7 =>
    match wop w with
    | 3 => ⟨[], [opr i.d]⟩
    | 5 => ⟨(if i.imm.getLsbD 5 then [] else [ox i.a]) ++ [ox i.b], []⟩
    | _ => ⟨[], []⟩
  | _ => ⟨[], []⟩

/-- Uses of the entries of the MX queue, each MMUL under the MFUSE before it (R187). -/
def usesMx (x : Dale) : Fused → List QEnt → List (Nat × Uses)
  | _, [] => []
  | u, e :: rest =>
    let u' : Fused :=
      if wop e.word = 2 then
        let r := decR e.word
        ⟨r.a % 16, immR r % 32, r.imm.getLsbD 5, BitVec.ofNat 32 (xget x r.s).toNat⟩
      else u
    (1, usesOf x u e.word []) :: usesMx x u' rest

/-- The fused parameters an MMUL issued now will find: those of the last MFUSE in the MX queue, else the recorded
ones (R187). -/
def fusedAt (x : Dale) : Fused :=
  match ((queueOf x 1).filter fun e => wop e.word == 2).getLast? with
  | none => x.fused
  | some e =>
    let r := decR e.word
    ⟨r.a % 16, immR r % 32, r.imm.getLsbD 5, BitVec.ofNat 32 (xget x r.s).toNat⟩

/-- The circular-buffer registers as a VX instruction leaves them (R111-R113). -/
def afterVx (x : Dale) (e : QEnt) : Dale :=
  let f := decR e.word
  match wop e.word with
  | 0x18 | 0x19 =>
    let c := cget x f.a
    if (circFault c 256 (simmR f)).isSome then x else cput x f.a (cWithPtr c (circNext c (simmR f)))
  | 0x1A => if csetOk (xget x f.s) then cput x f.d (BitVec.ofNat 64 (wbits (xget x f.s) 59 0)) else x
  | _ => x

/-- Uses of the entries of the VX queue: the bytes of each access follow from the register it will meet (R113, R180). -/
def usesVxs : Dale → List QEnt → List (Nat × Uses)
  | _, [] => []
  | x, e :: rest => (2, usesOf x x.fused e.word e.desc) :: usesVxs (afterVx x e) rest

/-- What an entry of the SM queue has pending (R172, R178): all of its uses until its unit begins it; then the slot it
writes until it completes, and the slot it reads until it has read the last row. -/
def smUses (x : Dale) (e : QEnt) : Uses :=
  let u := usesOf x x.fused e.word e.desc
  if !e.begun then u
  else
    match boundBlock x e.no with
    | some b => if blockRead b then ⟨[], u.writes⟩ else u
    | none => ⟨[], u.writes⟩

/-- Everything pending in the queues (R178). -/
def pendingUses (x : Dale) : List (Nat × Uses) :=
  usesMx x x.fused (queueOf x 1) ++ usesVxs x (queueOf x 2)
    ++ ([3, 4, 5, 7].flatMap fun q => (queueOf x q).map fun e => (q, usesOf x x.fused e.word e.desc))
    ++ (queueOf x 6).map fun e => (6, smUses x e)

/-- Whether R179 lets a reader of an object go ahead of a pending writer of queue `q`: a stream channel behind MX or
SET; an MMUL's streamed operand or a SET input behind SM. -/
def followsRows (cls o : Nat) (w : W64) (obj : Obj) (q : Nat) : Bool :=
  let r := decR w
  (cls == 6 && o == 1 && (q == 1 || q == 3)) ||
  (cls == 1 && o == 1 && q == 6 && obj == ot (decM w).ta) ||
  (cls == 3 && q == 6 && (codeSlot r.a ++ codeSlot r.b).contains obj)

/-- The constant registers x0 and p0 are no objects (R174). -/
def isObj (o : Obj) : Bool := o != 0 && o != 64

/-- Whether an instruction must wait at issue for what another queue has pending (R178, R179). -/
def hazard (x : Dale) (w : W64) (desc : List W64) : Bool :=
  let cls := wclass w
  let q0 := if cls = 7 ∧ wop w ≠ 1 ∧ wop w ≠ 5 then 0 else cls
  let u := usesOf (if cls = 2 then (queueOf x 2).foldl afterVx x else x) (fusedAt x) w desc
  (pendingUses x).any fun p =>
    p.1 != q0 &&
    ((u.reads.any fun o => isObj o && p.2.writes.contains o && !followsRows cls (wop w) w o p.1) ||
     (u.writes.any fun o => isObj o && (p.2.writes.contains o || p.2.reads.contains o)))

/-- Whether the stream engine still has to begin a write of a slot (R177): an SSTART or TCOPY in its queue, or a block
not begun. A reader that follows the slot's fill bits waits for that. -/
def smWriterPending (x : Dale) (k : Nat) : Bool :=
  ((queueOf x 6).any fun e => !e.begun && (usesOf x x.fused e.word e.desc).writes.contains (ot k))
    || (x.channels.any fun c => c.2.blocks.any fun b => !b.begun && !b.outbound && b.kind != 2 && b.slot == k % 16)

/-- Whether a compute unit still has to write a slot (R179): the outbound block that reads it waits for that. -/
def unitWriterPending (x : Dale) (k : Nat) : Bool :=
  [1, 3].any fun q => (queueOf x q).any fun e => (usesOf x x.fused e.word e.desc).writes.contains (ot k)

/-- Whether another channel's block holds a slot against a new reader or writer of the stream queue (R178): within
the queue the program's order is kept. -/
def smConflict (x : Dale) (ch : Option Nat) (k : Nat) (writes : Bool) : Bool :=
  x.channels.any fun c => some c.1 != ch &&
    c.2.blocks.any fun b => b.slot == k % 16 && if b.outbound || b.kind == 2 then writes && !blockRead b else true

/-- Whether a queue has completed everything issued to it (R180, R183): empty, and for SM no block bound. -/
def queueIdle (x : Dale) (k : Nat) : Bool :=
  (queueOf x k).isEmpty && (k != 6 || x.channels.all fun c => c.2.blocks.isEmpty)

/-- The next instruction of the SM queue that its unit has not begun. -/
def smNext (x : Dale) : Option QEnt := (queueOf x 6).find? fun e => !e.begun

/-- The unit begins an entry of the SM queue. -/
def smBegin (no : Nat) (x : Dale) : Dale :=
  setQueue x 6 ((queueOf x 6).map fun e => if e.no = no then { e with begun := true } else e)

/-- An entry the unit begins as it issues. -/
def smPush (e : QEnt) (x : Dale) : Dale := setQueue x 6 (queueOf x 6 ++ [{ e with begun := true }])

/-- The instructions at the head of the SM queue that have completed leave it, in order (R172, R228). -/
def smRetire (x : Dale) : Dale :=
  setQueue x 6 ((queueOf x 6).dropWhile fun e => e.begun && (boundBlock x e.no).isNone)

/-- Whether a slot has a pending reader (R235), and whether that reader is next in its queue and so waits on a fill bit while
a row is missing. -/
def slotReader (x : Dale) (k : Nat) : Option Bool :=
  let reads (e : QEnt) : Bool := (usesOf x x.fused e.word e.desc).reads.contains (ot k)
  if (pendingUses x).any fun p => p.2.reads.contains (ot k) then
    some (([1, 3].any fun q => match queueOf x q with | [] => false | e :: _ => reads e) || (smNext x).any reads)
  else none

end Sys2Proof.Machine
end

