-- ==== Sys2Proof/Machine/Issue.lean ====
section
/-! DEFINITION. Issue (R170-R173): when a dale may issue, and how an instruction reaches its unit: through the head of
its queue, or, with the queue empty, at once. -/
namespace Sys2Proof.Machine

/-- A bit of a register bank of 32-bit words: DOMAIN_ON of the power window (R473), bit n of domain n. -/
def domainOnAddr (n : Nat) : Nat := 0x0200000F0010 + 4 * (n / 32)
def domainOn (s : State) (n : Nat) : Bool := (winGet s (domainOnAddr n)).testBit (n % 32)

/-- Whether a dale's Basin-1 is powered (R451). -/
def daleOn (s : State) (d : Nat) : Bool := domainOn s (basin1 d)

/-- Whether the sequencer of a dale may issue (R170, R189): powered, not isolated, in a command step, not stopped,
not trapped, with no blocking instruction pending. -/
def canIssue (s : State) (d : Nat) : Bool :=
  let x := dale s d
  daleOn s d && !x.isolated && x.running && !x.stopped && x.trap.isNone && x.blocked.isNone

/-- Count an issue (R184, R196) and move PC on (R170). -/
def issued (s : State) (d : Nat) : State :=
  odBump (updDale s d fun x => { x with pc := x.pc + 8, issueNo := x.issueNo + 1, stepCount := (x.stepCount + 1) % 2 ^ 64 }) 0x4400 1 1

/-- Whether the instruction at the head of a queue is one of class, op and fields. -/
def headIs (q : List QEnt) (cls op : Nat) (same : W64 → Bool) : Option (QEnt × List QEnt) :=
  match q with
  | [] => none
  | h :: rest => if wclass h.word == cls && wop h.word == op && same h.word then some (h, rest) else none

/-- Run an instruction of a unit: the one at the head of its queue when the fields are the head's, or, with the
queue empty, one issued now unless the scoreboard finds a hazard (R178) or `check` refuses it. An instruction that is not next, may not issue, or must
wait (`body` answers none) leaves the state unchanged. -/
def unitRun (s : State) (d cls op : Nat) (word : W64) (same : W64 → Bool) (check : State → Nat → Option State)
    (body : Nat → State → Option State) : State :=
  let x := dale s d
  match queueOf x cls with
  | [] =>
    if canIssue s d && !hazard x word [] then
      match check s x.pc with
      | some t => t
      | none => (body x.pc (issued s d)).getD s
    else s
  | q =>
    match headIs q cls op same with
    | some (h, rest) => (body h.pc (updDale s d fun y => setQueue y cls rest)).getD s
    | none => s

/-- An instruction in format R of a unit. -/
def runR (s : State) (d cls op : Nat) (f : RInst) (check : State → Nat → Option State)
    (body : Nat → State → Option State) : State :=
  unitRun s d cls op (encR cls op f) (fun w => decide (decR w = f)) check body

/-- An instruction of the sequencer itself: it executes at issue (R171), once no hazard holds it (R178). `check` may
trap it before it issues; `body` gets its address. -/
def seqRun (s : State) (d : Nat) (word : W64) (check : State → Nat → Option State) (body : Nat → State → State) : State :=
  if canIssue s d && !hazard (dale s d) word [] then
    match check s (dale s d).pc with
    | some t => t
    | none => body (dale s d).pc (issued s d)
  else s

/-- The index of a unit a command names must exist. -/
def guardUnit (ok : Bool) (s : State) : Host.Outcome State Fault Refusal :=
  if ok then .next s else .refused .noSuchUnit

end Sys2Proof.Machine
end

