-- ==== Sys2Proof/Machine/Flags.lean ====
section
/-! DEFINITION. The fault state of a dale: traps (R189-R191), the ends of faulting instructions (R556), parity of
unit structures (R123, R148, R167), and the matrix fault latches (R188). -/
namespace Sys2Proof.Machine

/-- The trap causes of R190. -/
def causeFetch : Nat := 1
def causeInvalid : Nat := 2
def causeRefused : Nat := 3
def causePoison : Nat := 4
def causeTileSlot : Nat := 5
def causeSyncEdge : Nat := 6
def causeSyncGone : Nat := 7
def causeSemincGone : Nat := 8
def causeCircular : Nat := 9
def causeParity : Nat := 10
def causeSfuSlot : Nat := 11
def causeRngWidth : Nat := 12
def causeUnsorted : Nat := 13

/-- Trap a dale (R189): it stops issuing; the first cause alone sets its status. -/
def trapDale (s : State) (d cause : Nat) (st : Status) (pc : Nat) : State :=
  match (dale s d).trap with
  | some _ => s
  | none => odBump (updDale s d fun x => { x with trap := some ⟨cause, st, pc, false⟩ }) 0x4400 2 1

/-- CLASS and OP as one 12-bit detail field (R197). -/
def classOp (cls op : Nat) : Nat := cls * 256 + op

/-- Undo the issue of an instruction that traps before it issues: PC stays at it (R170, R189). -/
def unissue (s0 : State) (d cause : Nat) (st : Status) (pc code : Nat) (detail : List (Nat × Nat)) : State :=
  trapDale (emitDale s0 d code sevError detail) d cause st pc

/-- A REFUSED trap with a reason of R191. -/
def refuse (s : State) (d reason cls op pc : Nat) : State :=
  unissue s d causeRefused .formatError pc 0x0603 [(8, reason), (12, classOp cls op), (32, pc)]

/-- An INVALID trap (R190, R194): kind 0 unwritten, 1 illegal, 2 PC range, 3 misaligned JR target. -/
def invalid (s : State) (d kind cls op pc : Nat) : State :=
  unissue s d causeInvalid .formatError pc 0x0602 [(2, kind), (12, classOp cls op), (32, pc)]

/-- A POISON trap (R190): the tile slot or register number and the row read. -/
def trapPoison (s : State) (d obj row pc : Nat) : State :=
  trapDale (emitDale s d 0x0604 sevError [(8, obj), (12, row), (32, pc)]) d causePoison .poisoned pc

/-- Destinations of an instruction that carry no mark: on a failure they are written with zeros (R556). -/
inductive Dest where
  | x (n : Nat)
  | v (n : Nat)
  | p (n : Nat)
  | c (n : Nat)
  | sc (n : Nat)
  | hist
  | search
  | topk
  | compact
deriving DecidableEq, Repr

/-- The bytes of a structure of the vector unit take fresh parity when it is written whole (R123). -/
def freshParity (x : Dale) (st : Nat) : Dale := { x with badBytes := x.badBytes.filter fun b => b.1 != st }

/-- Write a destination with zeros (R556). -/
def zeroDest (x : Dale) : Dest → Dale
  | .x n => xput x n 0#64
  | .v n => vput x n 0#2048
  | .p n => pput x n 0#256
  | .c n => cput x n 0#64
  | .sc n => scput x n ⟨0#32, 0#32, 0#32, 0#32⟩
  | .hist => freshParity { x with hist := [] } 1
  | .search => { x with search := { x.search with best := (List.range (viewCount x.search.view)).map fun i => (i, some (0, 0)) } }
  | .topk => { x with topk := { x.topk with pairs := List.replicate x.topk.k (0, 0) } }
  | .compact => freshParity { x with compact := { x.compact with elems := x.compact.elems.map fun _ => 0 } } 2

/-- Write every destination with zeros (R556). -/
def zeroDests (s : State) (d : Nat) (ds : List Dest) : State := updDale s d fun x => ds.foldl zeroDest x

/-- The structures whose bytes carry parity: vector unit 0-3 in the order of event 0x0303, special-function
unit 0x10-0x14 in the order of event 0x0403 (entry i of the HD7 table store is index 0x8000 + i, log entry 8), generator
0x20 KEY and 0x21 CTR. -/
abbrev Structure := Nat

/-- The first byte of one of the structures read whose parity fails. -/
def parityBad (x : Dale) (reads : List (Structure × Nat)) : Option (Structure × Nat × Nat) :=
  x.badBytes.find? fun b => reads.any fun r => r.1 == b.1 && r.2 == b.2.1

/-- Record a unit parity failure and trap UNIT_PARITY (R190): the owner's event, its counter and its strike. -/
def parityTrap (s : State) (d pc : Nat) (b : Structure × Nat × Nat) : State :=
  let (st, ix, byte) := b
  let s1 :=
    if st < 0x10 then
      odBump (emitStrike s d 0x0303 sevError [(2, st), (8, ix), (8, byte), (32, pc)] 3 (0x03 * 2 ^ 12 + st)) 0x4200 3 1
    else if st < 0x20 then
      let s1 := odBump (emitStrike s d 0x0403 sevError [(3, st - 0x10), (16, ix), (8, byte), (32, pc)] 3
        (0x03 * 2 ^ 12 + (st - 0x10))) 0x4810 3 1
      -- a failure in a slot or in table RAM also marks the slot empty until it is reloaded (R148)
      if st = 0x10 then updDale s1 d fun x => { x with sfSlots := tset none x.sfSlots ix none }
      -- a working register is written anew by the next program
      else if st = 0x13 then updDale s1 d fun x => freshParity x 0x13
      else if st = 0x11 then
        updDale s1 d fun x =>
          { x with sfSlots := x.sfSlots.filter fun e => fieldAt (e.2.getD []) 5 1 / 16 % 4 != 2 }
      else s1
    else
      let s1 := odBump (emitStrike s d 0x0502 sevError [(1, st - 0x20), (5, byte), (32, pc)] 3
        (0x02 * 2 ^ 12 + (st - 0x20))) 0x4300 3 1
      -- the generator loses its key (R167)
      updDale s1 d fun x => { x with rng := { x.rng with keySet := false, reported := false } }
  trapDale s1 d causeParity .uncorrectable pc

/-- Run an instruction's effect, then, when a structure it read fails parity, end it as R556 states. -/
def withParity (s : State) (d pc : Nat) (reads : List (Structure × Nat)) (dests : List Dest)
    (effect : State → State) : State :=
  match parityBad (dale s d) reads with
  | none => effect s
  | some b => parityTrap (zeroDests (effect s) d dests) d pc b

/-- Set the MX_FAULT latch of a partition (R188): 0 whole, 1 west, 2 east; the first fault keeps its status. -/
def latchFault (x : Dale) (part st : Nat) : Dale :=
  let first := !x.mxWest && !x.mxEast
  { x with mxWest := x.mxWest || part != 2, mxEast := x.mxEast || part != 1,
           mxStatus := if first then st else x.mxStatus }

end Sys2Proof.Machine
end

