-- ==== Sys2Proof/Machine/Arx.lean ====
section
/-! DEFINITION. The ARX-10 generator (R151), its uniforms (R152-R154), unseeded draws (R157) and the dither bytes of
stochastic rounding (R165). -/
namespace Sys2Proof.Machine

/-- The rotation constants of R151. -/
def arxRot : List Nat := [23, 46, 15, 38, 9, 52, 27, 61, 33, 17]

/-- One round of R151: key words ks, state (a, b), round r. -/
def arxRound (ks : List Nat) (ab : Nat × Nat) (r : Nat) : Nat × Nat :=
  let m := 2 ^ 64
  let a := (ab.1 + ab.2) % m
  let b := Nat.xor (rotl64 ab.2 (arxRot.getD r 0)) a
  if r % 2 = 1 then
    let s := (r + 1) / 2
    ((a + ks.getD (s % 3) 0) % m, (b + ks.getD ((s + 1) % 3) 0 + s) % m)
  else (a, b)

/-- A draw (R151): key and counter to 128 bits. -/
def arx10 (key ctr : Nat) : Nat :=
  let m := 2 ^ 64
  let k0 := key % m
  let k1 := key / m % m
  let ks := [k0, k1, Nat.xor (Nat.xor k0 k1) 0x6C8E9CF570332A1D]
  let (a, b) := (List.range 10).foldl (arxRound ks) ((ctr % m + k0) % m, (ctr / m % m + k1) % m)
  a + m * b

/-- Bits of a uniform of a width code (R152), and elements per draw. -/
def uniBits : Nat → Nat
  | 0 => 32 | 1 => 16 | _ => 8
def uniG (w : Nat) : Nat := 128 / uniBits w

/-- Uniform `j` of a draw (R152). -/
def uniform (w y j : Nat) : Nat := y / 2 ^ (uniBits w * j) % 2 ^ uniBits w

/-- The counter of the draw that serves logical element e (R153). -/
def elemCtr (tensor sub w e : Nat) : Nat :=
  (e / uniG w) % 2 ^ 64 + 2 ^ 64 * (w % 4 + sub % 2 ^ 16 * 2 ^ 16 + tensor % 2 ^ 32 * 2 ^ 32)

/-- The key a draw uses: 0 while KEY_SET is clear (R157). -/
def drawKey (x : Dale) : Nat := if x.rng.keySet then x.rng.key else 0

/-- The element-keyed uniform of element e (R153). -/
def elemUniform (x : Dale) (tensor sub w e : Nat) : Nat :=
  uniform w (arx10 (drawKey x) (elemCtr tensor sub w e)) (e % uniG w)

/-- The number of different values in a list. -/
def distinct (l : List Nat) : Nat := l.eraseDups.length

/-- Count `n` draws of a dale (R168), and when its key is unset record event 0x0501 once (R157). Mode: 0
element-keyed, 1 stream. -/
def countDraws (s : State) (d n mode tensor pc : Nat) : State :=
  if n = 0 then s
  else
    let s1 := odBump s 0x4300 1 n
    let x := dale s d
    if x.rng.keySet then s1
    else
      let s2 := odBump s1 0x4300 2 n
      if x.rng.reported then s2
      else
        emitDale (updDale s2 d fun y => { y with rng := { y.rng with reported := true } })
          d 0x0501 sevWarning [(1, mode), (32, tensor), (32, pc)]

/-- The dither byte of element e (R165). -/
def ditherByte (x : Dale) (tensor sub e : Nat) : Nat := elemUniform x tensor sub 2 e

/-- The generator state a draw reads, for parity (R156, R157): KEY while it is set, and CTR in stream mode. -/
def rngReads (x : Dale) (stream : Bool) : List (Structure × Nat) :=
  (if x.rng.keySet then [(0x20, 0)] else []) ++ (if stream then [(0x21, 0)] else [])

end Sys2Proof.Machine
end

