-- ==== Sys2Proof/Machine/Vector.lean ====
section
/-! DEFINITION. The vector datapath (04) and its instructions, class 0x2. -/
namespace Sys2Proof.Machine

/-! ### Refusals -/

/-- Opcodes of class 2 that read VIEW. -/
def vecUsesView (op : Nat) : Bool :=
  !([0x16, 0x1A, 0x1B, 0x22, 0x23, 0x24, 0x29, 0x2A, 0x2C, 0x2D, 0x30, 0x31, 0x32, 0x33].contains op)

/-- The reason of R191 for which a vector instruction is refused before issue. -/
def vecReason (op : Nat) (f : RInst) : Option Nat :=
  if vecUsesView op && f.view == 3 then some 0x06
  else if 0x0C ≤ op && op ≤ 0x0F && f.view != 0 then some 0x09
  else if [0x10, 0x11, 0x12, 0x20, 0x21, 0x27, 0x2B].contains op && f.fmt == 7 && f.view != 0 then some 0x09
  else if [0x10, 0x11, 0x12, 0x20, 0x21, 0x27, 0x2B].contains op && f.fmt ≥ 0xA then some 0x01
  else if op == 0x0A && immR f % 32 ≥ viewWidth f.view then some 0x09
  else if op == 0x12 && immR f % 8 > 5 then some 0x09
  else if op == 0x14 then
    match fmtOfCode (immR f % 16), fmtOfCode f.fmt with
    | some a, some b =>
      if fmtBits a > viewWidth f.view || fmtBits b > viewWidth f.view then some 0x09
      else if f.sr && a != .fp32 then some 0x09
      else none
    | _, _ => some 0x01
  else if op == 0x29 && f.d > 28 then some 0x06
  else none

/-- The check of a vector instruction at issue. -/
def vecCheck (d op : Nat) (f : RInst) (s : State) (pc : Nat) : Option State :=
  (vecReason op f).map fun r => refuse s d r 2 op pc

/-- Run a vector instruction. -/
def runV (s : State) (d op : Nat) (f : RInst) (body : Nat → State → State) : State :=
  runR s d 2 op f (vecCheck d op f) fun pc t => some (body pc t)

/-! ### Element-wise arithmetic -/

/-- The result of one element: its bits, whether it saturated, whether it counts a NaN. -/
structure Lane where
  bits : Nat
  sat  : Bool
  nan  : Bool
deriving DecidableEq, Repr

/-- A plain result. -/
def lane (b : Nat) : Lane := ⟨b, false, false⟩

/-- An element as a number, by signedness. -/
def elemInt (w : Nat) (signed : Bool) (b : Nat) : Int := if signed then sextNat w b else (b : Int)

/-- Wrap or saturate an exact integer to the element width (R105). -/
def fitInt (w : Nat) (signed sat : Bool) (i : Int) : Lane :=
  let hi : Int := if signed then (2 : Int) ^ (w - 1) - 1 else (2 : Int) ^ w - 1
  let lo : Int := if signed then -((2 : Int) ^ (w - 1)) else 0
  if sat ∧ i > hi then ⟨wrapNat w hi, true, false⟩
  else if sat ∧ i < lo then ⟨wrapNat w lo, true, false⟩
  else ⟨wrapNat w i, false, false⟩

/-- The format code a vector saturation records (R105). -/
def satFmt (view : Nat) : Nat := if view = 2 then 3 else 8

/-- The lanes of an instruction: the new value where the predicate bit is 1, by R104, and the counts of the
participating lanes. -/
def applyLanes (s : State) (d : Nat) (f : RInst) (view satCode : Nat) (fn : Dale → Nat → Lane) : State :=
  let x := dale s d
  let pr := pget x f.pg
  let res := (List.range (viewCount view)).map fun i => if pr.getLsbD i then some (fn x i) else none
  let new := mergeElems pr f.zero (velems view (vget x f.d)) (res.map fun e => match e with | some l => l.bits | none => 0)
  let hits := res.filterMap id
  let s1 := updDale s d fun y => vput y f.d (vpack view new)
  let s2 := countSat s1 d (hits.filter fun e => e.sat).length 1 satCode
  countNan s2 d (hits.filter fun e => e.nan).length

/-- The registers an element-wise instruction reads: its sources, and its destination when elements of it stay. -/
def laneReads (x : Dale) (f : RInst) (srcs : List Nat) : List (Structure × Nat) :=
  let keep := !f.zero && (participants f.view (pget x f.pg)).length != viewCount f.view
  (srcs ++ (if keep then [f.d] else [])).map fun r => (0, r % 32)

/-- Run an element-wise instruction. -/
def runLanes (s : State) (d op : Nat) (f : RInst) (srcs : List Nat) (satCode : Nat) (fn : Dale → Nat → Lane) :
    State :=
  runV s d op f fun pc t =>
    withParity t d pc (laneReads (dale t d) f srcs) [.v f.d] fun u => applyLanes u d f f.view satCode fn

/-- Element i of a source. -/
def srcElem (x : Dale) (view r i : Nat) : Nat := velem view (vget x r) i

/-- A two-source integer instruction, exact result by `op` (R105). -/
def intLane (f : RInst) (op : Int → Int → Int) (x : Dale) (i : Nat) : Lane :=
  let w := viewWidth f.view
  fitInt w f.sign f.sat (op (elemInt w f.sign (srcElem x f.view f.a i)) (elemInt w f.sign (srcElem x f.view f.b i)))

/-- A two-source bit instruction. -/
def bitLane (f : RInst) (op : Nat → Nat → Nat) (x : Dale) (i : Nat) : Lane :=
  lane (op (srcElem x f.view f.a i) (srcElem x f.view f.b i) % 2 ^ viewWidth f.view)

/-- A two-source FP32 instruction (R107). -/
def fpLane (f : RInst) (op : W32 → W32 → W32) (x : Dale) (i : Nat) : Lane :=
  lane (op (BitVec.ofNat 32 (srcElem x 0 f.a i)) (BitVec.ofNat 32 (srcElem x 0 f.b i))).toNat

/-- VADD (R105). -/
def vaddState (d : Nat) (f : RInst) (s : State) : State :=
  runLanes s d 0x00 f [f.a, f.b] (satFmt f.view) (intLane f (· + ·))
/-- VSUB (R105). -/
def vsubState (d : Nat) (f : RInst) (s : State) : State :=
  runLanes s d 0x01 f [f.a, f.b] (satFmt f.view) (intLane f (· - ·))
/-- VAND. -/
def vandState (d : Nat) (f : RInst) (s : State) : State :=
  runLanes s d 0x02 f [f.a, f.b] (satFmt f.view) (bitLane f Nat.land)
/-- VOR. -/
def vorState (d : Nat) (f : RInst) (s : State) : State :=
  runLanes s d 0x03 f [f.a, f.b] (satFmt f.view) (bitLane f Nat.lor)
/-- VXOR. -/
def vxorState (d : Nat) (f : RInst) (s : State) : State :=
  runLanes s d 0x04 f [f.a, f.b] (satFmt f.view) (bitLane f Nat.xor)

/-- A left shift of an element (R106): an amount at or above the width gives 0. -/
def shlElem (w a n : Nat) : Nat := if n ≥ w then 0 else a * 2 ^ n % 2 ^ w
/-- A logical right shift (R106). -/
def shrElem (w a n : Nat) : Nat := if n ≥ w then 0 else a / 2 ^ n
/-- An arithmetic right shift (R106): an amount at or above the width gives the sign fill. -/
def sraElem (w a n : Nat) : Nat := wrapNat w (sextNat w a / (2 : Int) ^ (min n w))

/-- VSHL (R106). -/
def vshlState (d : Nat) (f : RInst) (s : State) : State :=
  runLanes s d 0x05 f [f.a, f.b] (satFmt f.view) (bitLane f (shlElem (viewWidth f.view)))
/-- VSHR (R106). -/
def vshrState (d : Nat) (f : RInst) (s : State) : State :=
  runLanes s d 0x06 f [f.a, f.b] (satFmt f.view) (bitLane f (shrElem (viewWidth f.view)))
/-- VSRA (R106). -/
def vsraState (d : Nat) (f : RInst) (s : State) : State :=
  runLanes s d 0x07 f [f.a, f.b] (satFmt f.view) (bitLane f (sraElem (viewWidth f.view)))

/-- VMUL (R105): the low half of the product. -/
def vmulState (d : Nat) (f : RInst) (s : State) : State :=
  runLanes s d 0x08 f [f.a, f.b] (satFmt f.view) (intLane f (· * ·))
/-- VMULH (R105): the high half of the product. -/
def vmulhState (d : Nat) (f : RInst) (s : State) : State :=
  runLanes s d 0x09 f [f.a, f.b] (satFmt f.view)
    (intLane { f with sat := false } fun a b => a * b / (2 : Int) ^ viewWidth f.view)
/-- VMULQ (R106): the product shifted right arithmetically by q. -/
def vmulqState (d : Nat) (f : RInst) (s : State) : State :=
  runLanes s d 0x0A f [f.a, f.b] (satFmt f.view)
    (intLane f fun a b => a * b / (2 : Int) ^ (immR f % 32))

/-- Integer multiply-accumulate of one element (R107): product and sum each wrap or saturate. -/
def macLane (f : RInst) (x : Dale) (i : Nat) : Lane :=
  let w := viewWidth f.view
  let p := intLane f (· * ·) x i
  let r := fitInt w f.sign f.sat (elemInt w f.sign (srcElem x f.view f.d i) + elemInt w f.sign p.bits)
  ⟨r.bits, p.sat || r.sat, false⟩
/-- VMAC (R107). -/
def vmacState (d : Nat) (f : RInst) (s : State) : State :=
  runLanes s d 0x0B f [f.a, f.b, f.d] (satFmt f.view) (macLane f)

/-- VFADD (R107). -/
def vfaddState (d : Nat) (f : RInst) (s : State) : State := runLanes s d 0x0C f [f.a, f.b] 7 (fpLane f fadd)
/-- VFSUB (R107). -/
def vfsubState (d : Nat) (f : RInst) (s : State) : State := runLanes s d 0x0D f [f.a, f.b] 7 (fpLane f fsub)
/-- VFMUL (R107). -/
def vfmulState (d : Nat) (f : RInst) (s : State) : State := runLanes s d 0x0E f [f.a, f.b] 7 (fpLane f fmul)
/-- VFMAC (R107): the product is rounded before the addition. -/
def vfmacState (d : Nat) (f : RInst) (s : State) : State :=
  runLanes s d 0x0F f [f.a, f.b, f.d] 7 fun x i =>
    lane (fadd (BitVec.ofNat 32 (srcElem x 0 f.d i))
      (fmul (BitVec.ofNat 32 (srcElem x 0 f.a i)) (BitVec.ofNat 32 (srcElem x 0 f.b i)))).toNat

/-- The element type of R108. -/
def elemTy (f : RInst) : ElemTy := ⟨f.fmt == 7, f.sign⟩

/-- The canonical NaN as a number (R50). -/
def nan32 : Nat := 0x7FC00000

/-- An element that is a NaN. -/
def elemNan (ty : ElemTy) (b : Nat) : Bool := ty.fp && isNan32 (BitVec.ofNat 32 b)

/-- Order of two elements of a type: is the first less? -/
def elemLt (ty : ElemTy) (view a b : Nat) : Bool :=
  if ty.fp then flt (BitVec.ofNat 32 a) (BitVec.ofNat 32 b)
  else decide (elemInt (viewWidth view) ty.signed a < elemInt (viewWidth view) ty.signed b)

/-- Equality of two elements of a type (−0 equals +0). -/
def elemEq (ty : ElemTy) (a b : Nat) : Bool :=
  if ty.fp then feq (BitVec.ofNat 32 a) (BitVec.ofNat 32 b) else a == b

/-- VMAX or VMIN of one element (R108): the canonical NaN with a NaN, the first operand when equal. -/
def maxLane (f : RInst) (min : Bool) (x : Dale) (i : Nat) : Lane :=
  let ty := elemTy f
  let a := srcElem x f.view f.a i
  let b := srcElem x f.view f.b i
  if elemNan ty a || elemNan ty b then lane nan32
  else if (if min then elemLt ty f.view b a else elemLt ty f.view a b) then lane b else lane a
/-- VMAX (R108). -/
def vmaxState (d : Nat) (f : RInst) (s : State) : State :=
  runLanes s d 0x10 f [f.a, f.b] (satFmt f.view) (maxLane f false)
/-- VMIN (R108). -/
def vminState (d : Nat) (f : RInst) (s : State) : State :=
  runLanes s d 0x11 f [f.a, f.b] (satFmt f.view) (maxLane f true)

/-- A comparison of R186's codes: 0 EQ, 1 NE, 2 LT, 3 LE, 4 GT, 5 GE (R108). -/
def elemCmp (ty : ElemTy) (view code a b : Nat) : Bool :=
  let un := elemNan ty a || elemNan ty b
  match code with
  | 0 => elemEq ty a b
  | 1 => !elemEq ty a b
  | 2 => elemLt ty view a b
  | 3 => !un && !elemLt ty view b a
  | 4 => elemLt ty view b a
  | _ => !un && !elemLt ty view a b

/-- VCMP (R108): compare into a predicate; elements whose governing bit is 0 keep or clear their bit (R104). -/
def vcmpState (d : Nat) (f : RInst) (s : State) : State :=
  runV s d 0x12 f fun pc t =>
    withParity t d pc [(0, f.a), (0, f.b)] [.p f.d] fun u =>
      let x := dale u d
      let pr := pget x f.pg
      let old := pget x f.d
      let bits := (List.range 256).map fun i =>
        if i < viewCount f.view ∧ pr.getLsbD i then
          elemCmp (elemTy f) f.view (immR f % 8) (srcElem x f.view f.a i) (srcElem x f.view f.b i)
        else if i < viewCount f.view ∧ f.zero then false else old.getLsbD i
      updDale u d fun y => pput y f.d (BitVec.ofNat 256 (bits.foldr (fun b n => (if b then 1 else 0) + 2 * n) 0))

/-- VSEL: each element of vA where the predicate bit is 1, of vB elsewhere (R186). -/
def vselState (d : Nat) (f : RInst) (s : State) : State :=
  runV s d 0x13 f fun pc t =>
    withParity t d pc [(0, f.a), (0, f.b)] [.v f.d] fun u =>
      let x := dale u d
      let pr := pget x f.pg
      let es := (List.range (viewCount f.view)).map fun i =>
        if pr.getLsbD i then srcElem x f.view f.a i else srcElem x f.view f.b i
      updDale u d fun y => vput y f.d (vpack f.view es)

/-- Whether a VCVT draws dither (R56): SR to a target that R56 names. -/
def cvtDithers (f : RInst) : Bool :=
  f.sr && (match fmtOfCode f.fmt with | some g => ditherTarget g | none => false)

/-- One element of VCVT (R108). -/
def cvtLane (f : RInst) (x : Dale) (i : Nat) : Lane :=
  match fmtOfCode (immR f % 16), fmtOfCode f.fmt with
  | some a, some b =>
    let u := if cvtDithers f then some (ditherByte x x.dither.tensorId x.dither.substream (x.dither.base + i)) else none
    let c := convTo b f.tc u (fpDecode a (srcElem x f.view f.a i % 2 ^ fmtBits a))
    ⟨c.bits, c.sat, c.nan⟩
  | _, _ => lane 0

/-- VCVT (R108, R53-R56): a conversion in a register under the instruction's class, with the dither of R165. -/
def vcvtState (d : Nat) (f : RInst) (s : State) : State :=
  runV s d 0x14 f fun pc t =>
    let x := dale t d
    let reads := laneReads x f [f.a] ++ (if cvtDithers f then rngReads x false else [])
    withParity t d pc reads [.v f.d] fun u =>
      let u1 := applyLanes u d f f.view f.fmt (cvtLane f)
      if cvtDithers f then
        let y := dale u d
        let es := (participants f.view (pget y f.pg)).map fun i => (y.dither.base + i) / 16
        countDraws u1 d (distinct es) 0 y.dither.tensorId pc
      else u1

/-- VBCAST: every element is xS truncated to the view. -/
def vbcastState (d : Nat) (f : RInst) (s : State) : State :=
  runLanes s d 0x15 f [] (satFmt f.view) fun x _ => lane ((xget x f.s).toNat % 2 ^ viewWidth f.view)

/-- DSET: the dither context from xS and xA. -/
def dsetState (d : Nat) (f : RInst) (s : State) : State :=
  runV s d 0x16 f fun _ t => updDale t d fun x =>
    let v := (xget x f.s).toNat
    { x with dither := ⟨v % 2 ^ 32, bitsOf v 47 32, (xget x f.a).toNat⟩ }

/-! ### Circular buffers (R111-R113) -/

/-- A CIRCULAR trap (R113): cause 0 CSET, 1 length, 2 linear range, 3 increment. -/
def trapCircular (s : State) (d n cause value pc : Nat) : State :=
  trapDale (emitDale s d 0x0302 sevError [(3, n), (2, cause), (32, value), (32, pc)]) d causeCircular .formatError pc

/-- CSET (R111, R113); the reserved bits are stored as 0 (R6). -/
def csetState (d : Nat) (f : RInst) (s : State) : State :=
  runV s d 0x1A f fun pc t =>
    let v := xget (dale t d) f.s
    if csetOk v then updDale t d fun x => cput x f.d (BitVec.ofNat 64 (wbits v 59 0))
    else trapCircular t d (f.d % 8) 0 v.toNat pc

/-- CGET (R111). -/
def cgetState (d : Nat) (f : RInst) (s : State) : State :=
  runV s d 0x1B f fun _ t => updDale t d fun x => xput x f.d (cget x f.a)

/-- Runs of rising offsets in a list of (offset, byte). -/
def byteRuns : List (Nat × Byte) → List (Nat × List Byte)
  | [] => []
  | (o, b) :: rest =>
    match byteRuns rest with
    | (o', bs) :: more => if o + 1 = o' then (o, b :: bs) :: more else (o, [b]) :: (o', bs) :: more
    | [] => [(o, [b])]

/-- The marked slot row that a byte range of the store touches (R189). -/
def markedRow (x : Dale) (off n : Nat) : Option (Nat × Nat) :=
  (List.range 16).findSome? fun k =>
    match slotOf x k with
    | none => none
    | some t =>
      ((List.range t.rows).find? fun r =>
        t.poison.testBit r && decide (t.base + r * t.rowBytes < off + n) && decide (off < t.base + (r + 1) * t.rowBytes)).map
        fun r => (k, r)

/-- Whether runs of bytes (offset, length) together cover the offsets from `lo` below `hi`; `n` bounds how many join. -/
def covers (runs : List (Nat × Nat)) : Nat → Nat → Nat → Bool
  | 0, lo, hi => hi ≤ lo
  | n + 1, lo, hi =>
    if hi ≤ lo then true
    else
      match runs.find? fun r => r.1 ≤ lo && lo < r.1 + r.2 with
      | some r => covers runs n (r.1 + r.2) hi
      | none => false

/-- Clear the poison mark of every slot row whose every byte one store's runs write (R177). -/
def clearCovered (x : Dale) (runs : List (Nat × Nat)) : Dale :=
  (List.range 16).foldl (fun y k =>
    match slotOf y k with
    | none => y
    | some t =>
      if t.poison = 0 then y
      else
        let p := (List.range t.rows).foldl (fun p r =>
          if covers runs runs.length (t.base + r * t.rowBytes) (t.base + (r + 1) * t.rowBytes) then bitPut p r false
          else p) t.poison
        setSlot y k { t with poison := p }) x

/-- Write the runs of bytes of one local store (R177, R432). -/
def localStore (s : State) (d : Nat) (runs : List (Nat × List Byte)) (pc : Nat) : State :=
  updDale (runs.foldl (fun u r => (storeWrite u d r.1 r.2 false pc).1) s) d fun x =>
    clearCovered x (runs.map fun r => (r.1, r.2.length))

/-- VLD (R112): load a register through a circular buffer and advance its pointer. -/
def vldState (d : Nat) (f : RInst) (s : State) : State :=
  runV s d 0x18 f fun pc t =>
    let x := dale t d
    let c := cget x f.a
    match circFault c 256 (simmR f) with
    | some (cause, v) => trapCircular t d (f.a % 8) cause v pc
    | none =>
      withParity t d pc (laneReads x f []) [.v f.d] fun u =>
        let runs := byteRuns ((circOffsets c 256).map fun o => (o, 0#8))
        let (u1, bytes, mark) := runs.foldl (fun (acc : State × List Byte × Bool) r =>
          let (w, bs, m) := storeRead acc.1 d r.1 r.2.length 1 pc
          (w, acc.2.1 ++ bs, acc.2.2 || m)) (u, [], false)
        let row := runs.findSome? fun r => markedRow x r.1 r.2.length
        let es := velems f.view (BitVec.ofNat 2048 (leNat bytes))
        let new := mergeElems (pget x f.pg) f.zero (velems f.view (vget x f.d)) es
        let u2 := updDale u1 d fun y => cput (vput y f.d (vpack f.view new)) f.a (cWithPtr c (circNext c (simmR f)))
        match row with
        | some (k, r) => trapPoison (zeroDests u2 d [.v f.d]) d k r pc
        | none => if mark then trapPoison (zeroDests u2 d [.v f.d]) d (0x80 + f.d) 0 pc else u2

/-- VST (R112): store the participating elements' bytes and advance the pointer. vD is the source (R186). -/
def vstState (d : Nat) (f : RInst) (s : State) : State :=
  runV s d 0x19 f fun pc t =>
    let x := dale t d
    let c := cget x f.a
    match circFault c 256 (simmR f) with
    | some (cause, v) => trapCircular t d (f.a % 8) cause v pc
    | none =>
      let v := vget x f.d
      let pr := pget x f.pg
      let wb := viewWidth f.view / 8
      let cells := ((List.range 256).zip (circOffsets c 256)).filterMap fun e =>
        if pr.getLsbD (e.1 / wb) then some (e.2, BitVec.ofNat 8 (v.toNat / 2 ^ (8 * e.1))) else none
      let u2 := updDale (localStore t d (byteRuns cells) pc) d fun y =>
        cput y f.a (cWithPtr c (circNext c (simmR f)))
      match parityBad x [(0, f.d)] with
      | none => u2
      | some b =>
        -- the bytes stored from a register that fails parity carry the mark in their words (R432, R556)
        let u3 := (byteRuns cells).foldl (fun u r =>
          (wordsOf (daleBase d + r.1) r.2.length).foldl (fun w a => setSyn w a poisonSyn) u) u2
        parityTrap u3 d pc b

/-! ### Searches (R109, R110) -/

/-- Is `a` strictly better than `b`: greater, or less for a MIN search; a NaN is better than every number. -/
def better (ty : ElemTy) (view : Nat) (min : Bool) (a b : Nat) : Bool :=
  if elemNan ty b then false
  else if elemNan ty a then true
  else if min then elemLt ty view a b else elemLt ty view b a

/-- The canonical form of an element (R50): a NaN becomes the canonical NaN. -/
def canonElem (ty : ElemTy) (b : Nat) : Nat := if elemNan ty b then nan32 else b

/-- The first best of (value, index) pairs in order. -/
def firstBest (ty : ElemTy) (view : Nat) (min : Bool) (l : List (Nat × Nat)) : Option (Nat × Nat) :=
  l.foldl (fun acc e =>
    match acc with
    | none => some (canonElem ty e.1, e.2)
    | some b => if better ty view min e.1 b.1 then some (canonElem ty e.1, e.2) else some b) none

/-- The value of an empty search (R109). -/
def emptyBest (ty : ElemTy) : Nat × Nat := (if ty.fp then nan32 else 0, 0xFFFFFFFF)

/-- A search value as a 64-bit scalar: sign-extended for signed integers, else zero-extended. -/
def elemScalar (ty : ElemTy) (view v : Nat) : Nat :=
  if !ty.fp && ty.signed then wrapNat 64 (sextNat (viewWidth view) v) else v

/-- VSRCH (R109). Where both destinations are one register the index, written last, stays (log entry 65). -/
def vsrchState (d : Nat) (f : RInst) (s : State) : State :=
  runV s d 0x20 f fun pc t =>
    withParity t d pc [(0, f.a)] [.x f.d, .x f.b] fun u =>
      let x := dale u d
      let ty := elemTy f
      let start := (xget x f.s).toNat % 2 ^ 32
      let l := (participants f.view (pget x f.pg)).map fun i => (srcElem x f.view f.a i, (start + i) % 2 ^ 32)
      let b := (firstBest ty f.view (immR f % 2 == 1) l).getD (emptyBest ty)
      updDale u d fun y => xputN (xputN y f.d (elemScalar ty f.view b.1)) f.b b.2

/-- SSINIT (R110). -/
def ssinitState (d : Nat) (f : RInst) (s : State) : State :=
  runV s d 0x21 f fun _ t => updDale t d fun x =>
    { x with search := ⟨immR f % 2 == 1, elemTy f, f.view, (xget x f.s).toNat % 2 ^ 32, 0, []⟩ }

/-- SSRCH (R110): each participating element against its running best, in the view and type SSINIT set. -/
def ssrchState (d : Nat) (f : RInst) (s : State) : State :=
  runV s d 0x22 f fun pc t =>
    withParity t d pc [(0, f.a)] [.search] fun u => updDale u d fun x =>
      let sr := x.search
      let posn := (sr.start + sr.count) % 2 ^ 32
      let best := (participants sr.view (pget x f.pg)).foldl (fun (b : Tab (Option (Nat × Nat))) i =>
        let v := srcElem x sr.view f.a i
        match tget none b i with
        | none => tset none b i (some (canonElem sr.ty v, posn))
        | some o =>
          if better sr.ty sr.view sr.min v o.1 then tset none b i (some (canonElem sr.ty v, posn)) else b) sr.best
      { x with search := { sr with count := sr.count + 1, best := best } }

/-- The running bests of all elements of a view: one that no SSRCH has updated has the value and index R109 gives a search
without participants (log entry 65). -/
def searchBests (sr : Search) : List (Nat × Nat) :=
  (List.range (viewCount sr.view)).map fun i => (tget none sr.best i).getD (emptyBest sr.ty)

/-- An index as an element of a view: one that does not fit is a free value of the view and the index (log entry 3). -/
def indexElem (view i : Nat) : Nat := if i < 2 ^ viewWidth view then i else Config.narrowIndex view i

/-- SSREAD (R110): the running values to vD and the indices to vB, which stay where both are one register (log entry
65). -/
def ssreadState (d : Nat) (f : RInst) (s : State) : State :=
  runV s d 0x23 f fun _ t => updDale t d fun x =>
    let sr := x.search
    let l := searchBests sr
    vput (vput x f.d (vpack sr.view (l.map Prod.fst))) f.b (vpack sr.view (l.map fun e => indexElem sr.view e.2))

/-- SSRED (R110): combine the running bests across lanes, ties to the lower index. Where both destinations are one register
the index stays (log entry 65). -/
def ssredState (d : Nat) (f : RInst) (s : State) : State :=
  runV s d 0x24 f fun _ t => updDale t d fun x =>
    let sr := x.search
    let l := (participants sr.view (pget x f.pg)).filterMap fun i => tget none sr.best i
    let b := l.foldl (fun (acc : Option (Nat × Nat)) e =>
      match acc with
      | none => some e
      | some o =>
        if better sr.ty sr.view sr.min e.1 o.1 then some e
        else if better sr.ty sr.view sr.min o.1 e.1 then some o
        else if e.2 < o.2 then some e else some o) none
    let r := b.getD (emptyBest sr.ty)
    xputN (xputN x f.d (elemScalar sr.ty sr.view r.1)) f.b r.2

/-! ### Compaction, prefix sum, histogram and top-k (R117-R120) -/

/-- VCOMPACT (R117). -/
def vcompactState (d : Nat) (f : RInst) (s : State) : State :=
  runV s d 0x25 f fun pc t =>
    let x := dale t d
    if !x.compact.elems.isEmpty && x.compact.view != f.view then
      trapDale (emitDale t d 0x0603 sevError [(8, 0x06), (12, classOp 2 0x25), (32, pc)]) d causeRefused .formatError pc
    else
      withParity t d pc [(0, f.a), (2, 0)] [.v f.d, .compact] fun u => updDale u d fun x =>
        let all := x.compact.elems ++ (participants f.view (pget x f.pg)).map (srcElem x f.view f.a)
        let n := viewCount f.view
        if all.length ≥ n then
          vput { x with compact := ⟨f.view, all.drop n⟩ } f.d (vpack f.view (all.take n))
        else { x with compact := ⟨f.view, all⟩ }

/-- VCFLUSH (R117); the count goes to a scalar register, and the emptied buffer takes fresh parity (R123). -/
def vcflushState (d : Nat) (f : RInst) (s : State) : State :=
  runV s d 0x26 f fun pc t =>
    withParity t d pc [(2, 0)] [.v f.d, .x f.b] fun u => updDale u d fun x =>
      let es := x.compact.elems
      xputN (vput (freshParity { x with compact := ⟨x.compact.view, []⟩ } 2) f.d
        (vpack x.compact.view (es ++ List.replicate (viewCount x.compact.view - es.length) 0))) f.b es.length

/-- One element of a prefix sum: the running sum after it and whether it saturated. -/
def scanAdd (f : RInst) (run v : Nat) : Nat × Bool :=
  if f.fmt == 7 then ((fadd (BitVec.ofNat 32 run) (BitVec.ofNat 32 v)).toNat, false)
  else
    let w := viewWidth f.view
    let r := fitInt w f.sign f.sat (elemInt w f.sign run + elemInt w f.sign v)
    (r.bits, r.sat)

/-- The results of a prefix sum in ascending position (R118): results, final sum, saturations. -/
def scanRun (f : RInst) (pr : PReg) (vals : List Nat) (carry : Nat) : List Nat × Nat × Nat :=
  (vals.zip (List.range vals.length)).foldl (fun (acc : List Nat × Nat × Nat) e =>
    let (out, run, sats) := acc
    if pr.getLsbD e.2 then
      let (nx, st) := scanAdd f run e.1
      (out ++ [if immR f % 2 = 1 then nx else run], nx, sats + (if st then 1 else 0))
    else (out ++ [run], run, sats)) ([], carry, 0)

/-- VSCAN (R118): the carry comes from and returns to xS. -/
def vscanState (d : Nat) (f : RInst) (s : State) : State :=
  runV s d 0x27 f fun pc t =>
    withParity t d pc [(0, f.a)] [.v f.d, .x f.s] fun u =>
      let x := dale u d
      let c := (xget x f.s).toNat % 2 ^ viewWidth f.view
      let (out, run, sats) := scanRun f (pget x f.pg) (velems f.view (vget x f.a)) c
      let u1 := updDale u d fun y =>
        xputN (vput y f.d (vpack f.view out)) f.s (elemScalar (elemTy f) f.view run)
      countSat u1 d sats 1 (satFmt f.view)

/-- The bin and amount of one element (R119). -/
def histAdd (f : RInst) (x : Dale) (i : Nat) : Nat × Nat :=
  let v := srcElem x f.view f.a i
  let wgt := srcElem x f.view f.b i
  (v / 2 ^ (immR f % 32) % 256,
   if (immR f / 32) % 2 = 1 then (if f.view = 0 then wgt % 2 ^ 16 else wgt) else 1)

/-- The bins a VHIST reads and writes. -/
def histBins (f : RInst) (x : Dale) : List (Structure × Nat) :=
  (participants f.view (pget x f.pg)).map fun i => (1, (histAdd f x i).1)

/-- VHIST (R119): saturating increments; every saturating add counts. -/
def vhistState (d : Nat) (f : RInst) (s : State) : State :=
  runV s d 0x28 f fun pc t =>
    let reads := [(0, f.a)] ++ (if (immR f / 32) % 2 = 1 then [(0, f.b)] else []) ++ histBins f (dale t d)
    withParity t d pc reads [.hist] fun u =>
      let x := dale u d
      let (h, sats) := (participants f.view (pget x f.pg)).foldl (fun (acc : Tab Nat × Nat) i =>
        let (bin, amt) := histAdd f x i
        let v := tget 0 acc.1 bin + amt
        (tset 0 acc.1 bin (min v 0xFFFFFFFF), acc.2 + (if v > 0xFFFFFFFF then 1 else 0))) (x.hist, 0)
      countSat (updDale u d fun y => { y with hist := h }) d sats 1 8

/-- VHREAD (R119): the bins to vD to vD + 3. -/
def vhreadState (d : Nat) (f : RInst) (s : State) : State :=
  runV s d 0x29 f fun pc t =>
    withParity t d pc ((List.range 256).map fun b => (1, b)) [.v f.d, .v (f.d + 1), .v (f.d + 2), .v (f.d + 3)] fun u =>
      updDale u d fun x =>
      (List.range 4).foldl (fun y r =>
        vput y (f.d + r) (vpack 0 ((List.range 64).map fun i => tget 0 x.hist (64 * r + i)))) x

/-- VHCLEAR (R119). -/
def vhclearState (d : Nat) (f : RInst) (s : State) : State :=
  runV s d 0x2A f fun _ t => updDale t d fun x =>
    { x with hist := [], badBytes := x.badBytes.filter fun b => b.1 != 1 }

/-- TKINIT (R120). -/
def tkinitState (d : Nat) (f : RInst) (s : State) : State :=
  runV s d 0x2B f fun _ t => updDale t d fun x =>
    { x with topk := ⟨immR f % 64 + 1, (immR f / 64) % 2 == 1, elemTy f, f.view, (xget x f.s).toNat % 2 ^ 32, 0, []⟩ }

/-- Insert a pair in rank order (R120): better first, equal values by lower index. -/
def rankIns (ty : ElemTy) (view : Nat) (min : Bool) (e : Nat × Nat) : List (Nat × Nat) → List (Nat × Nat)
  | [] => [e]
  | h :: rest =>
    if better ty view min e.1 h.1 || (!better ty view min h.1 e.1 && e.2 < h.2) then e :: h :: rest
    else h :: rankIns ty view min e rest

/-- VTOPK (R120): the elements of one register join the k best. -/
def vtopkState (d : Nat) (f : RInst) (s : State) : State :=
  runV s d 0x2C f fun pc t =>
    withParity t d pc [(0, f.a)] [.topk] fun u => updDale u d fun x =>
      let tk := x.topk
      let posn := (tk.start + tk.count) % 2 ^ 32
      let pairs := (participants tk.view (pget x f.pg)).foldl (fun l i =>
        (rankIns tk.ty tk.view tk.min (canonElem tk.ty (srcElem x tk.view f.a i), posn) l).take tk.k) tk.pairs
      { x with topk := { tk with count := tk.count + 1, pairs := pairs } }

/-- TKREAD (R120): values to vD in TKINIT's view, the 32-bit indices to vB, the rest filled. Where both are one register the
indices stay (log entry 65). -/
def tkreadState (d : Nat) (f : RInst) (s : State) : State :=
  runV s d 0x2D f fun _ t => updDale t d fun x =>
    let tk := x.topk
    let fillV := (emptyBest tk.ty).1
    let vals := (List.range (viewCount tk.view)).map fun i => (tk.pairs.getD i (fillV, 0xFFFFFFFF)).1
    let idxs := (List.range 64).map fun i => (tk.pairs.getD i (fillV, 0xFFFFFFFF)).2
    vput (vput x f.d (vpack tk.view vals)) f.b (vpack 0 idxs)

/-! ### Predicates -/

/-- A predicate instruction pD = pA op pB. -/
def runP (s : State) (d op : Nat) (f : RInst) (fn : PReg → PReg → PReg) : State :=
  runV s d op f fun _ t => updDale t d fun x => pput x f.d (fn (pget x f.a) (pget x f.b))

def pandState (d : Nat) (f : RInst) (s : State) : State := runP s d 0x30 f (· &&& ·)
def porState (d : Nat) (f : RInst) (s : State) : State := runP s d 0x31 f (· ||| ·)
def pxorState (d : Nat) (f : RInst) (s : State) : State := runP s d 0x32 f (· ^^^ ·)
/-- PNOT: pD = not pA. -/
def pnotState (d : Nat) (f : RInst) (s : State) : State := runP s d 0x33 f fun a _ => ~~~a

/-! ### Meanings -/

/-- The meaning of VADD. -/
def execVadd (d : Nat) (f : RInst) (s : State) : Host.Outcome State Fault Refusal :=
  guardUnit (d < 512) (vaddState d f s)

/-- The meaning of VSUB. -/
def execVsub (d : Nat) (f : RInst) (s : State) : Host.Outcome State Fault Refusal :=
  guardUnit (d < 512) (vsubState d f s)

/-- The meaning of VAND. -/
def execVand (d : Nat) (f : RInst) (s : State) : Host.Outcome State Fault Refusal :=
  guardUnit (d < 512) (vandState d f s)

/-- The meaning of VOR. -/
def execVor (d : Nat) (f : RInst) (s : State) : Host.Outcome State Fault Refusal :=
  guardUnit (d < 512) (vorState d f s)

/-- The meaning of VXOR. -/
def execVxor (d : Nat) (f : RInst) (s : State) : Host.Outcome State Fault Refusal :=
  guardUnit (d < 512) (vxorState d f s)

/-- The meaning of VSHL. -/
def execVshl (d : Nat) (f : RInst) (s : State) : Host.Outcome State Fault Refusal :=
  guardUnit (d < 512) (vshlState d f s)

/-- The meaning of VSHR. -/
def execVshr (d : Nat) (f : RInst) (s : State) : Host.Outcome State Fault Refusal :=
  guardUnit (d < 512) (vshrState d f s)

/-- The meaning of VSRA. -/
def execVsra (d : Nat) (f : RInst) (s : State) : Host.Outcome State Fault Refusal :=
  guardUnit (d < 512) (vsraState d f s)

/-- The meaning of VMUL. -/
def execVmul (d : Nat) (f : RInst) (s : State) : Host.Outcome State Fault Refusal :=
  guardUnit (d < 512) (vmulState d f s)

/-- The meaning of VMULH. -/
def execVmulh (d : Nat) (f : RInst) (s : State) : Host.Outcome State Fault Refusal :=
  guardUnit (d < 512) (vmulhState d f s)

/-- The meaning of VMULQ. -/
def execVmulq (d : Nat) (f : RInst) (s : State) : Host.Outcome State Fault Refusal :=
  guardUnit (d < 512) (vmulqState d f s)

/-- The meaning of VMAC. -/
def execVmac (d : Nat) (f : RInst) (s : State) : Host.Outcome State Fault Refusal :=
  guardUnit (d < 512) (vmacState d f s)

/-- The meaning of VFADD. -/
def execVfadd (d : Nat) (f : RInst) (s : State) : Host.Outcome State Fault Refusal :=
  guardUnit (d < 512) (vfaddState d f s)

/-- The meaning of VFSUB. -/
def execVfsub (d : Nat) (f : RInst) (s : State) : Host.Outcome State Fault Refusal :=
  guardUnit (d < 512) (vfsubState d f s)

/-- The meaning of VFMUL. -/
def execVfmul (d : Nat) (f : RInst) (s : State) : Host.Outcome State Fault Refusal :=
  guardUnit (d < 512) (vfmulState d f s)

/-- The meaning of VFMAC. -/
def execVfmac (d : Nat) (f : RInst) (s : State) : Host.Outcome State Fault Refusal :=
  guardUnit (d < 512) (vfmacState d f s)

/-- The meaning of VMAX. -/
def execVmax (d : Nat) (f : RInst) (s : State) : Host.Outcome State Fault Refusal :=
  guardUnit (d < 512) (vmaxState d f s)

/-- The meaning of VMIN. -/
def execVmin (d : Nat) (f : RInst) (s : State) : Host.Outcome State Fault Refusal :=
  guardUnit (d < 512) (vminState d f s)

/-- The meaning of VCMP. -/
def execVcmp (d : Nat) (f : RInst) (s : State) : Host.Outcome State Fault Refusal :=
  guardUnit (d < 512) (vcmpState d f s)

/-- The meaning of VSEL. -/
def execVsel (d : Nat) (f : RInst) (s : State) : Host.Outcome State Fault Refusal :=
  guardUnit (d < 512) (vselState d f s)

/-- The meaning of VCVT. -/
def execVcvt (d : Nat) (f : RInst) (s : State) : Host.Outcome State Fault Refusal :=
  guardUnit (d < 512) (vcvtState d f s)

/-- The meaning of VBCAST. -/
def execVbcast (d : Nat) (f : RInst) (s : State) : Host.Outcome State Fault Refusal :=
  guardUnit (d < 512) (vbcastState d f s)

/-- The meaning of DSET. -/
def execDset (d : Nat) (f : RInst) (s : State) : Host.Outcome State Fault Refusal :=
  guardUnit (d < 512) (dsetState d f s)

/-- The meaning of VLD. -/
def execVld (d : Nat) (f : RInst) (s : State) : Host.Outcome State Fault Refusal :=
  guardUnit (d < 512) (vldState d f s)

/-- The meaning of VST. -/
def execVst (d : Nat) (f : RInst) (s : State) : Host.Outcome State Fault Refusal :=
  guardUnit (d < 512) (vstState d f s)

/-- The meaning of CSET. -/
def execCset (d : Nat) (f : RInst) (s : State) : Host.Outcome State Fault Refusal :=
  guardUnit (d < 512) (csetState d f s)

/-- The meaning of CGET. -/
def execCget (d : Nat) (f : RInst) (s : State) : Host.Outcome State Fault Refusal :=
  guardUnit (d < 512) (cgetState d f s)

/-- The meaning of VSRCH. -/
def execVsrch (d : Nat) (f : RInst) (s : State) : Host.Outcome State Fault Refusal :=
  guardUnit (d < 512) (vsrchState d f s)

/-- The meaning of SSINIT. -/
def execSsinit (d : Nat) (f : RInst) (s : State) : Host.Outcome State Fault Refusal :=
  guardUnit (d < 512) (ssinitState d f s)

/-- The meaning of SSRCH. -/
def execSsrch (d : Nat) (f : RInst) (s : State) : Host.Outcome State Fault Refusal :=
  guardUnit (d < 512) (ssrchState d f s)

/-- The meaning of SSREAD. -/
def execSsread (d : Nat) (f : RInst) (s : State) : Host.Outcome State Fault Refusal :=
  guardUnit (d < 512) (ssreadState d f s)

/-- The meaning of SSRED. -/
def execSsred (d : Nat) (f : RInst) (s : State) : Host.Outcome State Fault Refusal :=
  guardUnit (d < 512) (ssredState d f s)

/-- The meaning of VCOMPACT. -/
def execVcompact (d : Nat) (f : RInst) (s : State) : Host.Outcome State Fault Refusal :=
  guardUnit (d < 512) (vcompactState d f s)

/-- The meaning of VCFLUSH. -/
def execVcflush (d : Nat) (f : RInst) (s : State) : Host.Outcome State Fault Refusal :=
  guardUnit (d < 512) (vcflushState d f s)

/-- The meaning of VSCAN. -/
def execVscan (d : Nat) (f : RInst) (s : State) : Host.Outcome State Fault Refusal :=
  guardUnit (d < 512) (vscanState d f s)

/-- The meaning of VHIST. -/
def execVhist (d : Nat) (f : RInst) (s : State) : Host.Outcome State Fault Refusal :=
  guardUnit (d < 512) (vhistState d f s)

/-- The meaning of VHREAD. -/
def execVhread (d : Nat) (f : RInst) (s : State) : Host.Outcome State Fault Refusal :=
  guardUnit (d < 512) (vhreadState d f s)

/-- The meaning of VHCLEAR. -/
def execVhclear (d : Nat) (f : RInst) (s : State) : Host.Outcome State Fault Refusal :=
  guardUnit (d < 512) (vhclearState d f s)

/-- The meaning of TKINIT. -/
def execTkinit (d : Nat) (f : RInst) (s : State) : Host.Outcome State Fault Refusal :=
  guardUnit (d < 512) (tkinitState d f s)

/-- The meaning of VTOPK. -/
def execVtopk (d : Nat) (f : RInst) (s : State) : Host.Outcome State Fault Refusal :=
  guardUnit (d < 512) (vtopkState d f s)

/-- The meaning of TKREAD. -/
def execTkread (d : Nat) (f : RInst) (s : State) : Host.Outcome State Fault Refusal :=
  guardUnit (d < 512) (tkreadState d f s)

/-- The meaning of PAND. -/
def execPand (d : Nat) (f : RInst) (s : State) : Host.Outcome State Fault Refusal :=
  guardUnit (d < 512) (pandState d f s)

/-- The meaning of POR. -/
def execPor (d : Nat) (f : RInst) (s : State) : Host.Outcome State Fault Refusal :=
  guardUnit (d < 512) (porState d f s)

/-- The meaning of PXOR. -/
def execPxor (d : Nat) (f : RInst) (s : State) : Host.Outcome State Fault Refusal :=
  guardUnit (d < 512) (pxorState d f s)

/-- The meaning of PNOT. -/
def execPnot (d : Nat) (f : RInst) (s : State) : Host.Outcome State Fault Refusal :=
  guardUnit (d < 512) (pnotState d f s)

end Sys2Proof.Machine
end

