-- ==== Sys2Proof/Machine/Special.lean ====
section
/-! DEFINITION. The special-function unit (05): the cases of R129 and R130, native and HD7-exact functions, user
micro-programs (R143, R144), the statistic contexts, and the instructions of class 0x4. -/
namespace Sys2Proof.Machine

/-- What a function gives before rounding: outside its domain (R129 (N) / NaN), infinite or beyond FP32 range
(R129 (S) / ∞), or a value. -/
inductive SfRes where
  | outside
  | beyond (neg : Bool)
  | val (v : Fp)
deriving DecidableEq, Repr

/-- The value 1. -/
def fpOne : Fp := .fin false 1 0

/-- The rows of R129 and the exact zeros: what a native function (0-15) gives at infinities, zeros and arguments
outside its domain; none for an argument the tables evaluate. -/
def sfSpecial (fn : Nat) (v : Fp) : Option SfRes :=
  match fn, v with
  | _, .nan => some .outside
  | 0, .inf neg => some (if neg then .val (.fin false 0 0) else .beyond false)
  | 1, .inf neg => some (if neg then .val (.fin false 0 0) else .beyond false)
  | 0, .fin _ 0 _ => some (.val fpOne)
  | 2, .inf neg => some (if neg then .outside else .beyond false)
  | 3, .inf neg => some (if neg then .outside else .beyond false)
  | 2, .fin neg m _ => if m = 0 then some (.beyond true) else if neg then some .outside else none
  | 3, .fin neg m _ => if m = 0 then some (.beyond true) else if neg then some .outside else none
  | 4, .inf neg => some (.val (.fin neg 0 0))
  | 4, .fin neg m _ => if m = 0 then some (.beyond neg) else none
  | 5, .inf neg => some (if neg then .outside else .beyond false)
  | 5, .fin neg m _ => if m = 0 then some (.val (.fin neg 0 0)) else if neg then some .outside else none
  | 6, .inf neg => some (if neg then .outside else .val (.fin false 0 0))
  | 6, .fin neg m _ => if m = 0 then some (.beyond neg) else if neg then some .outside else none
  | 7, .inf neg => some (.val (.fin neg 1 0))
  | 13, .inf neg => some (.val (.fin neg 1 0))
  | 8, .inf neg => some (.val (if neg then .fin false 0 0 else fpOne))
  | 9, .inf neg => some (if neg then .val (.fin true 0 0) else .beyond false)
  | 10, .inf neg => some (if neg then .val (.fin true 0 0) else .beyond false)
  | 11, .inf neg => some (if neg then .val (.fin true 0 0) else .beyond false)
  | 12, .inf neg => some (if neg then .val (.fin false 0 0) else .beyond false)
  | 14, .inf _ => some .outside
  | 15, .inf _ => some .outside
  | 15, .fin _ 0 _ => some (.val fpOne)
  | k, .fin neg 0 _ => if [7, 9, 10, 11, 13, 14].contains k then some (.val (.fin neg 0 0)) else none
  | _, _ => none

/-- The native function an HD7-exact slot reproduces (R134). -/
def hd7Native : Nat → Nat
  | 16 => 0 | 17 => 2 | 18 => 4 | 19 => 6 | 20 => 7 | 21 => 8 | _ => 10

/-- The slot HD7-exact mode runs for a native slot (R134). -/
def hd7Slot : Nat → Option Nat
  | 0 => some 16 | 2 => some 17 | 4 => some 18 | 6 => some 19 | 7 => some 20 | 8 => some 21 | 10 => some 22
  | _ => none

/-- The eight results R136 states. -/
def hd7Fixed (slot : Nat) (a : W32) : Option W32 :=
  match slot, a.toNat with
  | 20, 0x3F11FFFF => some 0x3F03FDA0#32 | 20, 0x3F120000 => some 0x3F03FD9F#32
  | 20, 0x3FA1FFFF => some 0x3F5A447C#32 | 20, 0x3FA20000 => some 0x3F5A447B#32
  | 21, 0x3F53FFFF => some 0x3F322A54#32 | 21, 0x3F540000 => some 0x3F322A53#32
  | 21, 0x401DFFFF => some 0x3F6C0312#32 | 21, 0x401E0000 => some 0x3F6C0311#32
  | _, _ => none

/-! ### Results within the guarantees

The tables and step words of the native and HD7-exact slots are not in the spec: a result is any that R128, R135 and the
monotone guarantees of R126, R133 and R136 allow (log entry 8). -/

/-- The last bit of a format (R48), counted in the bits of a fixed-point number, and its significand precision. -/
def gridLow (g : Fmt) : Nat := ((fixBits : Int) + (fmtParams g).2.1).toNat
def gridPrec (g : Fmt) : Nat := (fmtParams g).1

/-- The power of two that spaces a format's values at a magnitude (R128's ulp), the exponent range taken without an end. -/
def gridStep (g : Fmt) (v : Nat) : Nat := max (bitLen v - gridPrec g) (gridLow g)

/-- How many positive values of the format lie at or below a magnitude; and the value of a number so counted. -/
def gridKey (g : Fmt) (v : Nat) : Nat :=
  v / 2 ^ gridStep g v + (gridStep g v - gridLow g) * 2 ^ (gridPrec g - 1)
def gridVal (g : Fmt) (k : Nat) : Nat :=
  let half := 2 ^ (gridPrec g - 1)
  if k < half then k * 2 ^ gridLow g else (k % half + half) * 2 ^ (gridLow g + k / half - 1)

/-- The lower end of what `n` ulps allow a function that never steps backward: what its own ulps allow, or those below the
last power of two. -/
def gridFloor (g : Fmt) (n v : Nat) : Nat :=
  let st := gridStep g v
  max (v - n * 2 ^ st) (if gridLow g < st then 2 ^ (bitLen v - 1) - n * 2 ^ st / 2 else 0)

/-- The magnitudes at which R129 fixes a result of a function exactly: EXP at 0, and the limits of TANH, SIGM and ERF. -/
def fixedMags (fn : Nat) : List Nat := if [0, 7, 8, 13].contains fn then [fixOne] else []

/-- A result within `n` ulps of an exact magnitude: the greatest value of the format that the bound allows and that is due,
by `due` or by the bound. Taken over rising magnitudes it never steps backward. -/
def nearGrid (g : Fmt) (n : Nat) (fixed : List Nat) (due : Nat → Bool) (v : Nat) : Nat :=
  let ok (k : Nat) : Bool :=
    decide (gridVal g k ≤ v + n * 2 ^ gridStep g v) && fixed.all (fun p => !(decide (v ≤ p) && decide (p < gridVal g k)))
      && (due k || k == 0 || decide (gridVal g (k - 1) < gridFloor g n v)
          || fixed.any fun p => decide (p ≤ v) && decide (gridVal g k ≤ p))
  gridVal g ((((List.range (4 * n + 2)).map fun i => gridKey g v + n - i).find? ok).getD 0)

/-- A value from a sign and a magnitude of fixed point. -/
def fixFp (neg : Bool) (v : Nat) : Fp := .fin neg v (-(fixBits : Int))

/-- The stretch of arguments over which a function never steps backward (R126): 0, or one of its own for an argument outside. -/
def stretchOf (fn : Nat) (neg : Bool) (m : Nat) (e : Int) : Nat :=
  let beyond (q : Nat) : Bool := neg && decide (q * fixOne < 4 * fixOf m e)
  let loose := match fn with
    | 9 | 10 => beyond 3
    | 11 => beyond 5
    | 14 | 15 => true
    | _ => false
  if loose then 1 + (rne32 (.fin neg m e)).toNat else 0

/-- The sign of a result: the exact one's; where that is 0, either sign lies within the bound. -/
def nearSign (id : Nat) (g : Fmt) (sx : Bool) (v : Nat) : Bool :=
  if v = 0 then Config.sfuThreshold id (fmtCode g) sx 1 0 == 0 else sx

/-- What a native function gives for a destination format at an argument R129 does not settle: within 2 ulp for FP32, 1 ulp
for the others, exact before rounding where R128 has the result correctly rounded. -/
def sfNative (g : Fmt) (fn : Nat) (a : Fp) : SfRes :=
  match sfSpecial fn a with
  | some r => r
  | none =>
    match a with
    | .fin neg m e =>
      let (sx, v) := exactFn fn neg m e
      if fpIsInf (val32 (rne32 (fixFp sx v))) then .beyond sx
      else if g == .bf16 && [0, 7, 8].contains fn then .val (fixFp sx v)
      else
        let due (k : Nat) : Bool := decide (Config.sfuThreshold fn (fmtCode g) sx (stretchOf fn neg m e) k ≤ v)
        let r := fixFp (nearSign fn g sx v) (nearGrid g (if g == .fp32 then 2 else 1) (fixedMags fn) due v)
        if fpIsInf (val32 (rne32 r)) then .beyond sx else .val r
    | _ => .outside

/-- The backward steps of R136: argument a, the next argument b, and the result at a; that at b is one less. -/
def hd7Steps : Nat → List (Nat × Nat × Nat)
  | 20 => [(0x3F11FFFF, 0x3F120000, 0x3F03FDA0), (0x3FA1FFFF, 0x3FA20000, 0x3F5A447C)]
  | 21 => [(0x3F53FFFF, 0x3F540000, 0x3F322A54), (0x401DFFFF, 0x401E0000, 0x3F6C0312)]
  | _ => []

/-- Keep a positive FP32 result at its side of the backward steps, so that it steps backward nowhere else (R136). -/
def hd7Bound (slot a r : Nat) : Nat :=
  (hd7Steps slot).foldl (fun r st => if a ≤ st.1 then min r st.2.2 else max r (st.2.2 - 1)) r

/-- The FP32 result of an HD7-exact slot: R136's where it states one, else one within 3 ulp of the exact value (R135). -/
def sfHd7 (slot : Nat) (a : W32) : SfRes :=
  let fn := hd7Native slot
  match sfSpecial fn (val32 a) with
  | some r => r
  | none =>
    match hd7Fixed slot a, val32 a with
    | some r, _ => .val (val32 r)
    | none, .fin neg m e =>
      let (sx, v) := exactFn fn neg m e
      let due (k : Nat) : Bool := decide (Config.sfuThreshold slot 7 sx (stretchOf fn neg m e) k ≤ v)
      let r := rne32 (fixFp (nearSign slot .fp32 sx v) (nearGrid .fp32 3 (fixedMags fn) due v))
      let w := if neg then r else BitVec.ofNat 32 (hd7Bound slot a.toNat r.toNat)
      if fpIsInf (val32 (rne32 (fixFp sx v))) || fpIsInf (val32 w) then .beyond sx else .val (val32 w)
    | none, _ => .outside

/-! ### Micro-programs (R143, R144) -/

/-- The working state of a micro-program: registers, reduction parameter, argument sign, the segment's entry and
its successor's endpoint, clamps made, structures read (R148), and whether an open point was met. -/
structure Micro where
  w      : List W32
  n      : Int
  neg    : Bool
  kind   : Nat
  entry  : Nat
  next   : Nat
  clamps : Nat
  reads  : List (Structure × Nat)
  open1  : Bool
deriving DecidableEq, Repr

/-- The outcome of a slot at an argument: its result, the seam clamps made (R149) and the structures read (R148). -/
structure SfOut where
  res    : SfRes
  clamps : Nat
  reads  : List (Structure × Nat)
deriving DecidableEq, Repr

/-- Header fields of a slot (R143). -/
def slotHeader (bs : List Byte) : Nat := fieldAt bs 0 8
def slotFunc (bs : List Byte) : Nat := bitsOf (slotHeader bs) 63 56
def slotVersion (bs : List Byte) : Nat := bitsOf (slotHeader bs) 55 48
def slotMono (bs : List Byte) : Bool := (slotHeader bs).testBit 47
def slotTable (bs : List Byte) : Nat := bitsOf (slotHeader bs) 45 44
def slotTableBase (bs : List Byte) : Nat := bitsOf (slotHeader bs) 43 32
def slotOctLo (bs : List Byte) : Int := sextNat 8 (bitsOf (slotHeader bs) 31 24)
def slotOctN (bs : List Byte) : Nat := bitsOf (slotHeader bs) 23 16
def slotSteps (bs : List Byte) : Nat := bitsOf (slotHeader bs) 4 0
/-- A step word of a slot. -/
def slotStep (bs : List Byte) (i : Nat) : Nat := fieldAt bs (8 + 4 * i) 4

/-- A table entry of a slot's table (R142). -/
def tableEntry (x : Dale) (bs : List Byte) (i : Nat) : Nat :=
  let ix := slotTableBase bs + i
  match slotTable bs with
  | 0 => Config.tableStore 0 ix
  | 1 => Config.tableStore 1 ix
  | _ => tget 0 x.tableRam (ix % 1024)

/-- The structure that holds a table entry, for its parity (R148). -/
def entryAt (bs : List Byte) (i : Nat) : Structure × Nat :=
  let ix := slotTableBase bs + i
  match slotTable bs with
  | 0 => (0x12, ix)
  | 1 => (0x12, 0x8000 + ix)
  | _ => (0x11, ix % 1024)

/-- A 32-bit word of a table entry: 0 y, 1-3 the coefficients. -/
def entryWord (e i : Nat) : W32 := BitVec.ofNat 32 (e / 2 ^ (32 * i))

/-- Clamp of R132 between two endpoints. -/
def seamClamp (p a b : W32) : W32 :=
  let lo := if flt b a then b else a
  let hi := if flt b a then a else b
  if flt p lo then lo else if flt hi p then hi else p

/-- Locate the segment of a positive value (R131): entry index and t; none outside the table's octaves. -/
def segOf (bs : List Byte) (r : W32) : Option (Nat × W32) :=
  match val32 r with
  | .fin neg m e =>
    if neg ∨ m = 0 then none
    else
      let l := bitLen m
      let ex : Int := e + (l : Int) - 1
      let o := ex - slotOctLo bs
      if o < 0 ∨ o ≥ (slotOctN bs : Int) then none
      else
        let sig := m * 2 ^ (24 - l)
        let seg := sig / 2 ^ 17 % 64
        some (64 * o.toNat + seg, rne32 (.fin false (sig % 2 ^ 17) (-17)))
  | _ => none

/-- A working register. -/
def wreg (st : Micro) (i : Nat) : W32 := st.w.getD i 0#32
def wset (st : Micro) (i : Nat) (v : W32) : Micro := { st with w := st.w.set i v }

/-- The argument reduction of R131: kinds 1 and 2 are exact, 0 and 3 are free within the
intervals R131 gives (log entry 9). -/
def reduce (kind : Nat) (a : W32) : W32 × Int × Bool :=
  match val32 a with
  | .fin neg m e =>
    let l := bitLen m
    match kind with
    | 1 => (rne32 (.fin false m (1 - (l : Int))), e + (l : Int) - 1, neg)
    | 2 => (rne32 (.fin false m e), e + (l : Int) - 1, neg)
    | _ =>
      let r := (Config.reduceArg kind a).1
      let mag := r.toNat % 2 ^ 31
      -- exponential: r in [0, 1); trigonometric: r in [−π/4, π/4]
      let ok := if kind = 0 then decide (r.toNat < 0x3F800000) else decide (mag ≤ 0x3F490FDA)
      (if ok then r else 0#32, (Config.reduceArg kind a).2, neg)
  | _ => (0#32, 0, false)

/-- An FP32 word of a result (R53). -/
def resWord : SfRes → W32
  | .outside => 0x7FC00000#32
  | .beyond neg => rne32 (.inf neg)
  | .val v => rne32 v

/-- The result that an FP32 word stands for. -/
def resOf (v : W32) : SfRes :=
  match val32 v with
  | .nan => .outside
  | .inf n => .beyond n
  | u => .val u

/-- One step word of a program (R144); `ev` is EVAL's evaluation of another slot. -/
def microStep (x : Dale) (bs : List Byte) (ev : Nat → W32 → SfOut) (st : Micro) (word : Nat) : Micro :=
  let dst := bitsOf word 25 23
  let a := wreg st (bitsOf word 22 20)
  let b := wreg st (bitsOf word 19 17)
  let imm := bitsOf word 16 0
  match bitsOf word 31 26 with
  | 0x01 =>
    let (r, n, neg) := reduce (imm % 4) a
    wset { st with n := n, neg := neg, kind := imm % 4 } dst r
  | 0x02 =>
    match segOf bs a with
    | some (i, t) =>
      wset { st with entry := tableEntry x bs i, next := tableEntry x bs (i + 1),
                     reads := st.reads ++ [entryAt bs i, entryAt bs (i + 1)] } dst t
    | none => { st with open1 := true }
  | 0x03 => wset st dst (fadd (fmul (wreg st dst) a) (entryWord st.entry (imm % 4)))
  | 0x04 =>
    let p := fadd (entryWord st.entry 0) (wreg st dst)
    if slotMono bs then
      let q := seamClamp p (entryWord st.entry 0) (entryWord st.next 0)
      wset { st with clamps := st.clamps + (if q = p then 0 else 1) } dst q
    else wset st dst p
  | 0x05 => wset { st with reads := st.reads ++ [entryAt bs (imm / 4)] } dst (entryWord (tableEntry x bs (imm / 4)) (imm % 4))
  | 0x06 => wset st dst (fadd a b)
  | 0x07 => wset st dst (fmul a b)
  | 0x08 => wset st dst (fsub a b)
  | 0x09 =>
    match imm with
    | 0 => wset st dst (rne32 (fpMul (val32 a) (.fin false 1 st.n)))
    | 1 => wset st dst (fadd a (if Config.reconLn bs then Config.timesLn2 st.n else rne32 (fpOfInt st.n)))
    | 2 => wset st dst (if st.neg then a ^^^ 0x80000000#32 else a)
    | _ => wset st dst (Config.reconQuadrant a st.n)
  | 0x0A =>
    let o := ev (imm % 32) a
    wset { st with clamps := st.clamps + o.clamps, reads := st.reads ++ o.reads } dst (resWord o.res)
  | 0x0B => wset st dst a
  | _ => st

/-- The step words of a program up to END. -/
def microWords (bs : List Byte) : List Nat :=
  ((List.range (slotSteps bs)).map (slotStep bs)).takeWhile fun w => bitsOf w 31 26 != 0x3F

/-- Run a program on an argument. -/
def runMicro (x : Dale) (bs : List Byte) (ev : Nat → W32 → SfOut) (a : W32) : Micro :=
  (microWords bs).foldl (microStep x bs ev) ⟨a :: List.replicate 7 0#32, 0, false, 0, 0, 0, 0, [], false⟩

/-- A slot's program. -/
def slotBytes (x : Dale) (k : Nat) : Option (List Byte) := tget none x.sfSlots k

/-- The structures any evaluation of a slot reads (R148): the slot and the working registers. -/
def slotReads (slot : Nat) : List (Structure × Nat) := (0x10, slot) :: (List.range 8).map fun i => (0x13, i)

/-- The entries of the table stores that a function of the base image reads for an argument (R131; log entry 8). -/
def baseReads (x : Dale) (slot : Nat) (a : W32) : List (Structure × Nat) :=
  x.badBytes.filterMap fun b => if b.1 == 0x12 && Config.tableRead slot b.2.1 a then some (0x12, b.2.1) else none

/-- Whether a slot still holds the program of the base image (R142): 0-22 until a placement loads one (R145). -/
def isBase (x : Dale) (slot : Nat) : Bool := decide (slot < 23) && !x.sfOver.testBit slot

/-- A function of the base image. -/
def sfBase (x : Dale) (g : Fmt) (slot : Nat) (a : W32) : SfOut :=
  ⟨if slot < 16 then sfNative g slot (val32 a) else sfHd7 slot a, 0, slotReads slot ++ baseReads x slot a⟩

/-- The row of R129 that a program's FUNC_ID names (R143), applied before the program runs (R144). -/
def sfRow (id : Nat) (a : W32) : Option SfRes :=
  if isNan32 a then some .outside
  else if id < 0x10 then sfSpecial id (val32 a)
  else if id ≤ 0x16 then sfSpecial (hd7Native id) (val32 a)
  else none

/-- A loaded program at an argument: the cases of R129 and R130 first, then the program (R144). What a user program gives at
an infinity or outside its table is open (log entry 13). -/
def sfProgram (x : Dale) (bs : List Byte) (ev : Nat → W32 → SfOut) (a : W32) : SfOut :=
  match sfRow (slotFunc bs) a with
  | some r => ⟨r, 0, []⟩
  | none =>
    if !isFinite32 a then ⟨resOf (Config.sfuUser bs a), 0, []⟩
    else
      let m := runMicro x bs ev a
      ⟨resOf (if m.open1 then Config.sfuUser bs a else wreg m 1), m.clamps, m.reads⟩

/-- The program of a slot at an argument; an empty slot has none, and what EVAL gives for one is open (log entry 13). -/
def sfSlot (x : Dale) (g : Fmt) (ev : Nat → W32 → SfOut) (slot : Nat) (a : W32) : SfOut :=
  if isBase x slot then sfBase x g slot a
  else
    match slotBytes x slot with
    | some bs => let o := sfProgram x bs ev a; { o with reads := slotReads slot ++ o.reads }
    | none => ⟨resOf (Config.sfuUser [] a), 0, slotReads slot⟩

/-- The slot that EVAL names, in FP32; a slot that EVAL reaches uses no EVAL itself (R144). -/
def evalInner (x : Dale) (slot : Nat) (a : W32) : SfOut := sfSlot x .fp32 (fun _ v => ⟨resOf v, 0, []⟩) slot a

/-- A slot at an argument for a destination format. -/
def sfEval (x : Dale) (g : Fmt) (slot : Nat) (a : W32) : SfOut := sfSlot x g (evalInner x) slot a

/-- Round and class-handle a result for a destination format (R128, R129, R55). The flag tells a saturation that
R129 marks from one of the range handling. -/
def sfFinish (f : Fmt) (prop : Bool) (r : SfRes) : Conv × Bool :=
  match r with
  | .outside => (convNan f prop, false)
  | .beyond neg => (convTo f prop none (.inf neg), true)
  | .val v => (convTo f prop none v, false)

/-- The slot an instruction runs (R134). -/
def sfMode (x : Dale) (slot : Nat) : Nat := if x.hd7 then (hd7Slot slot).getD slot else slot

/-- The refusal of a named slot: absent in HD7-exact mode (R134) or empty (R147). -/
def slotRefusal (s : State) (d slot pc : Nat) : Option State :=
  let x := dale s d
  if x.hd7 && slot < 16 && (hd7Slot slot).isNone then
    some (unissue s d causeSfuSlot .formatError pc 0x0405 [(5, slot), (32, pc)])
  else if (slotBytes x (sfMode x slot)).isNone then
    some (unissue s d causeSfuSlot .formatError pc 0x0402 [(5, slot), (32, pc)])
  else none

/-- The check of SFN at issue (R127, R191). -/
def sfnCheck (d : Nat) (f : RInst) (s : State) (pc : Nat) : Option State :=
  let ok : Bool := match fmtOfCode f.fmt with
    | none => false
    | some g =>
      f.view != 3 && !fmtIsInt g && g != .pair && decide (fmtBits g ≤ viewWidth f.view)
        && decide (64 * (immR f / 32 % 4) + 64 ≤ viewCount f.view)
  if ok then slotRefusal s d (immR f % 32) pc else some (refuse s d 0x09 4 0x01 pc)

/-- The structures that evaluations of a slot read (R148). -/
def sfReads (x : Dale) (g : Fmt) (slot : Nat) (as : List W32) : List (Structure × Nat) :=
  slotReads slot ++ as.flatMap fun a => (sfEval x g slot a).reads

/-- The participating FP32 elements of vA in ascending position. -/
def fpElems (x : Dale) (f : RInst) : List W32 :=
  (participants 0 (pget x f.pg)).map fun i => BitVec.ofNat 32 (srcElem x 0 f.a i)

/-- The registers SFN reads: its source, and its destination when elements of it stay. -/
def sfnRegs (x : Dale) (f : RInst) : List (Structure × Nat) :=
  if f.view = 0 then laneReads x f [f.a] else [(0, f.a % 32), (0, f.d % 32)]

/-- SFN (R127): each governed lane's result to element 64 × offset + lane of vD. -/
def sfnState (d : Nat) (f : RInst) (s : State) : State :=
  runR s d 4 0x01 f (sfnCheck d f) fun pc t =>
    let x := dale t d
    let slot := sfMode x (immR f % 32)
    let g := (fmtOfCode f.fmt).getD .fp32
    some <| withParity t d pc (sfnRegs x f ++ sfReads x g slot (fpElems x f)) [.v f.d] fun u =>
      let pr := pget x f.pg
      let base := 64 * (immR f / 32 % 4)
      let res := (List.range 64).map fun j =>
        if pr.getLsbD j then
          let o := sfEval x g slot (BitVec.ofNat 32 (srcElem x 0 f.a j))
          some ((sfFinish g f.tc o.res).1, o.clamps)
        else none
      let old := velems f.view (vget x f.d)
      let new := (List.range old.length).map fun i =>
        if base ≤ i ∧ i < base + 64 then
          match res.getD (i - base) none with
          | some c => c.1.bits
          | none => if f.zero then 0 else old.getD i 0
        else old.getD i 0
      let hits := res.filterMap id
      let u1 := updDale u d fun y => vput y f.d (vpack f.view new)
      let u2 := countNan (countSat u1 d (hits.filter fun c => c.1.sat).length 2 f.fmt) d (hits.filter fun c => c.1.nan).length
      odBump (odBump u2 0x4810 1 1) 0x4810 2 (hits.foldl (fun n c => n + c.2) 0)

/-! ### Row statistics (R138-R141) -/

/-- No check at issue. -/
def noCheck (_ : State) (_ : Nat) : Option State := none

/-- Run a statistic-context instruction, which reads what `reads` says of the dale. -/
def runSc (s : State) (d op : Nat) (f : RInst) (reads : Dale → List (Structure × Nat)) (dests : List Dest)
    (eff : State → State) : State :=
  runR s d 4 op f noCheck fun pc t => some (withParity t d pc (reads (dale t d)) dests fun u => odBump (eff u) 0x4810 1 1)

/-- FP32 exp of the stage's mode (R139). -/
def sfExp (x : Dale) (a : W32) : W32 := resWord (sfEval x .fp32 (sfMode x 0) a).res

/-- A difference in which two −∞ operands give −∞ (R139). -/
def diffInf (a b : W32) : W32 :=
  if a = 0xFF800000#32 ∧ b = 0xFF800000#32 then 0xFF800000#32 else fsub a b

/-- The larger of two values; a NaN makes the canonical NaN. -/
def fmax (a b : W32) : W32 :=
  if isNan32 a || isNan32 b then 0x7FC00000#32 else if flt a b then b else a

/-- SCINIT (R138). -/
def scinitState (d : Nat) (f : RInst) (s : State) : State :=
  runSc s d 0x02 f (fun _ => []) [.sc f.d] fun u => updDale u d fun x => scput x f.d scInit

/-- The new maximum of SMAXSUM and SCMERGE, the arguments of their exps: those of the rescales, then of the elements. -/
def smaxNext (c : StatCtx) (vs : List W32) : W32 :=
  match vs with
  | [] => c.m
  | v :: rest => fmax c.m (rest.foldl fmax (fmax v v))
def smaxArgs (c : StatCtx) (vs : List W32) : List W32 :=
  let m2 := smaxNext c vs
  (if flt c.m m2 then [diffInf c.m m2] else []) ++ vs.map fun e => diffInf e m2

/-- The accumulation of SMAXSUM (R139) over the participating elements. -/
def smaxsum (x : Dale) (c : StatCtx) (vs : List W32) : StatCtx :=
  if vs.isEmpty then c
  else
    let m2 := smaxNext c vs
    let s0 := if flt c.m m2 then fmul c.s (sfExp x (diffInf c.m m2)) else c.s
    let s1 := vs.foldl (fun acc e => fadd acc (sfExp x (diffInf e m2))) s0
    ⟨m2, s1, c.q, c.n + BitVec.ofNat 32 vs.length⟩

/-- SMAXSUM (R139). -/
def smaxsumState (d : Nat) (f : RInst) (s : State) : State :=
  let reads (x : Dale) :=
    [(0, f.a % 32), (0x14, f.d % 8)] ++ sfReads x .fp32 (sfMode x 0) (smaxArgs (scget x f.d) (fpElems x f))
  runSc s d 0x03 f reads [.sc f.d] fun u => updDale u d fun x => scput x f.d (smaxsum x (scget x f.d) (fpElems x f))

/-- The arguments of SCMERGE's exps, and the merge of R140. -/
def scmergeArgs (a b : StatCtx) : List W32 := [diffInf a.m (fmax a.m b.m), diffInf b.m (fmax a.m b.m)]
def scmerge (x : Dale) (a b : StatCtx) : StatCtx :=
  let m2 := fmax a.m b.m
  ⟨m2, fadd (fmul a.s (sfExp x (diffInf a.m m2))) (fmul b.s (sfExp x (diffInf b.m m2))), fadd a.q b.q, a.n + b.n⟩

/-- SCMERGE (R140): scA merges into scD. -/
def scmergeState (d : Nat) (f : RInst) (s : State) : State :=
  let reads (x : Dale) :=
    [(0x14, f.a % 8), (0x14, f.d % 8)] ++ sfReads x .fp32 (sfMode x 0) (scmergeArgs (scget x f.d) (scget x f.a))
  runSc s d 0x04 f reads [.sc f.d] fun u => updDale u d fun x => scput x f.d (scmerge x (scget x f.d) (scget x f.a))

/-- The oldest context a dale has sent on a channel and no dale has received, and the rest. -/
def takeStat (ch : Nat) : List (Nat × StatCtx) → Option (StatCtx × List (Nat × StatCtx))
  | [] => none
  | e :: rest => if e.1 = ch then some (e.2, rest) else (takeStat ch rest).map fun r => (r.1, e :: r.2)

/-- SCRECV (R140): scD takes the four fields that dale `sender` has sent on channel IMM[3:0], its oldest first; it waits until
they have arrived. Which dale a channel joins to which is open, so the command names the sender (log entry 66). -/
def screcvState (d : Nat) (f : RInst) (sender : Nat) (s : State) : State :=
  runR s d 4 0x05 f noCheck fun _ t =>
    (takeStat (immR f % 16) (dale t sender).statsSent).map fun r =>
      odBump (updDale (updDale t sender fun y => { y with statsSent := r.2 }) d fun x => scput x f.d r.1) 0x4810 1 1

/-- SCSEND (R140): the four fields of scA go to the stream channel. -/
def scsendState (d : Nat) (f : RInst) (s : State) : State :=
  runSc s d 0x06 f (fun _ => [(0x14, f.a % 8)]) [] fun u =>
    updDale u d fun x => { x with statsSent := x.statsSent ++ [(immR f % 16, scget x f.a)] }

/-- SNACC (R141). -/
def snaccState (d : Nat) (f : RInst) (s : State) : State :=
  runSc s d 0x07 f (fun _ => [(0, f.a % 32), (0x14, f.d % 8)]) [.sc f.d] fun u => updDale u d fun x =>
    let c := scget x f.d
    let vs := fpElems x f
    scput x f.d ⟨c.m, vs.foldl fadd c.s, vs.foldl (fun q v => fadd q (fmul v v)) c.q, c.n + BitVec.ofNat 32 vs.length⟩

/-- An FP32 result of a slot under the instruction's class (R129, R130). -/
def sfConv (x : Dale) (slot : Nat) (prop : Bool) (a : W32) : Conv := (sfFinish .fp32 prop (sfEval x .fp32 slot a).res).1

/-- Count a result of the special-function unit (R129, R130). -/
def countConv (s : State) (d : Nat) (c : Conv) : State :=
  countNan (countSat s d (if c.sat then 1 else 0) 2 7) d (if c.nan then 1 else 0)

/-- The results of SNFIN and SMFIN over an empty context (R141). -/
def emptyStat (s : State) (d : Nat) (f : RInst) : State :=
  if f.tc then updDale s d fun x => xputN (xputN x f.d nan32) f.b nan32
  else countNan (updDale s d fun x => xputN (xputN x f.d 0) f.b 0) d 1

/-- SNFIN's k = RCP(n), its μ, and the argument of its RSQRT (R141). -/
def snfinK (x : Dale) (f : RInst) : Conv := sfConv x (sfMode x 4) f.tc (rne32 (fpOfInt (scget x f.a).n.toNat))
def snfinMu (x : Dale) (f : RInst) : W32 :=
  if immR f % 2 = 1 then 0#32 else fmul (scget x f.a).s (BitVec.ofNat 32 (snfinK x f).bits)
def snfinArg (x : Dale) (f : RInst) : W32 :=
  let e2 := fmul (scget x f.a).q (BitVec.ofNat 32 (snfinK x f).bits)
  let mu := snfinMu x f
  let var := if immR f % 2 = 1 then e2 else fmax 0#32 (fsub e2 (fmul mu mu))
  fadd var (BitVec.ofNat 32 (xget x f.s).toNat)

/-- SNFIN (R141). Where both destinations are one register ρ, written last, stays (log entry 65). -/
def snfinState (d : Nat) (f : RInst) (s : State) : State :=
  let reads (x : Dale) :=
    (0x14, f.a % 8) :: (if (scget x f.a).n = 0#32 then []
      else sfReads x .fp32 (sfMode x 4) [rne32 (fpOfInt (scget x f.a).n.toNat)]
        ++ sfReads x .fp32 (sfMode x 6) [snfinArg x f])
  runSc s d 0x08 f reads [.x f.d, .x f.b] fun u =>
    let x := dale u d
    if (scget x f.a).n = 0#32 then emptyStat u d f
    else
      let rho := sfConv x (sfMode x 6) f.tc (snfinArg x f)
      let u1 := countConv (countConv u d (snfinK x f)) d rho
      updDale u1 d fun y => xputN (xputN y f.d (snfinMu x f).toNat) f.b rho.bits

/-- SMFIN (R141). Where both destinations are one register the reciprocal, written last, stays (log entry 65). -/
def smfinState (d : Nat) (f : RInst) (s : State) : State :=
  let reads (x : Dale) :=
    (0x14, f.a % 8) :: (if (scget x f.a).n = 0#32 then [] else sfReads x .fp32 (sfMode x 4) [(scget x f.a).s])
  runSc s d 0x09 f reads [.x f.d, .x f.b] fun u =>
    let x := dale u d
    if (scget x f.a).n = 0#32 then emptyStat u d f
    else
      let r := sfConv x (sfMode x 4) f.tc (scget x f.a).s
      updDale (countConv u d r) d fun y => xputN (xputN y f.d (scget x f.a).m.toNat) f.b r.bits

/-! ### Meanings -/

/-- The meaning of SFN. -/
def execSfn (d : Nat) (f : RInst) (s : State) : Host.Outcome State Fault Refusal :=
  guardUnit (d < 512) (sfnState d f s)

/-- The meaning of SCINIT. -/
def execScinit (d : Nat) (f : RInst) (s : State) : Host.Outcome State Fault Refusal :=
  guardUnit (d < 512) (scinitState d f s)

/-- The meaning of SMAXSUM. -/
def execSmaxsum (d : Nat) (f : RInst) (s : State) : Host.Outcome State Fault Refusal :=
  guardUnit (d < 512) (smaxsumState d f s)

/-- The meaning of SCMERGE. -/
def execScmerge (d : Nat) (f : RInst) (s : State) : Host.Outcome State Fault Refusal :=
  guardUnit (d < 512) (scmergeState d f s)

/-- The meaning of SCRECV. -/
def execScrecv (d : Nat) (f : RInst) (sender : Nat) (s : State) : Host.Outcome State Fault Refusal :=
  guardUnit (d < 512 && sender < 512) (screcvState d f sender s)

/-- The meaning of SCSEND. -/
def execScsend (d : Nat) (f : RInst) (s : State) : Host.Outcome State Fault Refusal :=
  guardUnit (d < 512) (scsendState d f s)

/-- The meaning of SNACC. -/
def execSnacc (d : Nat) (f : RInst) (s : State) : Host.Outcome State Fault Refusal :=
  guardUnit (d < 512) (snaccState d f s)

/-- The meaning of SNFIN. -/
def execSnfin (d : Nat) (f : RInst) (s : State) : Host.Outcome State Fault Refusal :=
  guardUnit (d < 512) (snfinState d f s)

/-- The meaning of SMFIN. -/
def execSmfin (d : Nat) (f : RInst) (s : State) : Host.Outcome State Fault Refusal :=
  guardUnit (d < 512) (smfinState d f s)

end Sys2Proof.Machine
end

