-- ==== Sys2Proof/Machine/Random.lean ====
section
/-! DEFINITION. The random generator's instructions, class 0x5 (06). -/
namespace Sys2Proof.Machine

/-- The bases b₀ to b₁₂₇ of R163: Φ⁻¹(i / 256) rounded to FP32, and Φ⁻¹(2⁻²⁵) for b₀. -/
def normLow : List Nat :=
  [0xC0AD7081, 0xC02A3E8C, 0xC01AB949, 0xC01109DC, 0xC009D915, 0xC00410D7, 0xBFFE6409, 0xBFF5EED2, 0xBFEE6DFF, 0xBFE7AA8D, 0xBFE17E6A, 0xBFDBCE22, 0xBFD68531, 0xBFD193E1, 0xBFCCEDDA, 0xBFC88940] ++
  [0xBFC45E10, 0xBFC065AD, 0xBFBC9A96, 0xBFB8F823, 0xBFB57A60, 0xBFB21DE7, 0xBFAEDFC4, 0xBFABBD69, 0xBFA8B495, 0xBFA5C34B, 0xBFA2E7CA, 0xBFA0207F, 0xBF9D6C03, 0xBF9AC912, 0xBF98368A, 0xBF95B360] ++
  [0xBF933EA6, 0xBF90D780, 0xBF8E7D26, 0xBF8C2EE1, 0xBF89EC08, 0xBF87B3FE, 0xBF858636, 0xBF836229, 0xBF81475C, 0xBF7E6AB8, 0xBF7A577E, 0xBF765442, 0xBF72604A, 0xBF6E7AE7, 0xBF6AA375, 0xBF66D95C] ++
  [0xBF631C09, 0xBF5F6AF7, 0xBF5BC5A3, 0xBF582B96, 0xBF549C5C, 0xBF51178A, 0xBF4D9CB8, 0xBF4A2B84, 0xBF46C394, 0xBF43648D, 0xBF400E1D, 0xBF3CBFF4, 0xBF3979C6, 0xBF363B4A, 0xBF33043B, 0xBF2FD456] ++
  [0xBF2CAB5C, 0xBF298910, 0xBF266D38, 0xBF23579C, 0xBF204806, 0xBF1D3E43, 0xBF1A3A21, 0xBF173B6F, 0xBF144201, 0xBF114DAA, 0xBF0E5E3F, 0xBF0B7397, 0xBF088D8A, 0xBF05ABF1, 0xBF02CEA8, 0xBEFFEB13] ++
  [0xBEFA40E7, 0xBEF49E88, 0xBEEF03B4, 0xBEE9702C, 0xBEE3E3B1, 0xBEDE5E08, 0xBED8DEF7, 0xBED36644, 0xBECDF3B8, 0xBEC8871E, 0xBEC32041, 0xBEBDBEEE, 0xBEB862F2, 0xBEB30C1D, 0xBEADBA40, 0xBEA86D2C] ++
  [0xBEA324B3, 0xBE9DE0A9, 0xBE98A0E1, 0xBE936532, 0xBE8E2D71, 0xBE88F975, 0xBE83C916, 0xBE7D3856, 0xBE72E51C, 0xBE689831, 0xBE5E5149, 0xBE541019, 0xBE49D458, 0xBE3F9DBD, 0xBE356C01, 0xBE2B3EDE] ++
  [0xBE21160D, 0xBE16F14A, 0xBE0CD050, 0xBE02B2DC, 0xBDF13155, 0xBDDD02F3, 0xBDC8DA0D, 0xBDB4B622, 0xBDA096B0, 0xBD8C7B35, 0xBD70C660, 0xBD489C46, 0xBD20771A, 0xBCF0ABC2, 0xBCA06F39, 0xBC206D41]

/-- The base bᵢ of R163; the upper half mirrors the lower one, and b₁₂₈ is 0. -/
def normBase (i : Nat) : W32 :=
  if i < 128 then BitVec.ofNat 32 (normLow.getD i 0)
  else if i = 128 then 0#32
  else BitVec.ofNat 32 (normLow.getD (256 - i) 0) ^^^ 0x80000000#32

/-- RNORM TAB of a uniform (R163). -/
def normTab (u : Nat) : W32 :=
  let i := u / 2 ^ 24 % 256
  let slope := fsub (normBase (i + 1)) (normBase i)
  fadd (normBase i) (fmul (rne32 (.fin false (u % 2 ^ 24) (-24))) slope)

/-- RUNIF of a uniform (R161). -/
def unifFp (u : Nat) : W32 := rne32 (.fin false (u / 2 ^ 8 % 2 ^ 24) (-24))
/-- The open variant of R161, exact: it may need 25 bits. -/
def openFp (u : Nat) : Fp := .fin false (u / 2 ^ 8 % 2 ^ 24 * 2 + 1) (-25)

/-- A native function as FP32. -/
def nativeFp (fn : Nat) (a : Fp) : W32 := resWord (sfNative .fp32 fn a)

/-- Box-Muller of a pair (R162): z₀ and z₁. -/
def boxMuller (u0 u1 : Nat) : W32 × W32 :=
  let rr := nativeFp 5 (val32 (fmul 0xC0000000#32 (nativeFp 2 (openFp u0))))
  let th := val32 (fmul (unifFp u1) 0x40C90FDB#32)
  (fmul rr (nativeFp 15 th), fmul rr (nativeFp 14 th))

/-- The operands of a draw: mode 1 stream, TENSOR_ID, SUBSTREAM, base (R160). -/
structure DrawArgs where
  stream : Bool
  tensor : Nat
  sub    : Nat
  base   : Nat
deriving DecidableEq, Repr

/-- The draw operands of an instruction (R186). -/
def drawArgs (x : Dale) (f : RInst) : DrawArgs :=
  let v := (xget x f.s).toNat
  ⟨f.imm.getLsbD 17, v % 2 ^ 32, bitsOf v 47 32, (xget x f.a).toNat⟩

/-- The uniform of element position i at offset j of its group (R153, R154): `j` none for the element's own. -/
def posUniform (x : Dale) (a : DrawArgs) (w i : Nat) (j : Option Nat) : Nat :=
  let e := if a.stream then i else (a.base + i) % 2 ^ 64
  let ctr := if a.stream then (x.rng.ctr + i / uniG w) % 2 ^ 128 else elemCtr a.tensor a.sub w e
  uniform w (arx10 (drawKey x) ctr) (j.getD (e % uniG w))

/-- The number of draws of an instruction of n elements (R154, R160). -/
def drawCount (a : DrawArgs) (w n : Nat) : Nat :=
  if a.stream then (n + uniG w - 1) / uniG w
  else (a.base + n - 1) / uniG w - a.base / uniG w + 1

/-- Account for an instruction's draws (R154, R157, R168). -/
def spendDraws (s : State) (d : Nat) (a : DrawArgs) (w n pc : Nat) : State :=
  let k := drawCount a w n
  let s1 := countDraws s d k (if a.stream then 1 else 0) a.tensor pc
  if a.stream then
    updDale s1 d fun x => freshParity { x with rng := { x.rng with ctr := (x.rng.ctr + k) % 2 ^ 128 } } 0x21
  else s1

/-- The check of a draw instruction at issue (R152, R160, R164). -/
def drawCheck (d op : Nat) (f : RInst) (s : State) (pc : Nat) : Option State :=
  if f.view = 3 then some (unissue s d causeRngWidth .formatError pc 0x0503 [(1, 0), (2, 3), (32, pc)])
  else if (op = 2 ∨ op = 4) ∧ f.view ≠ 0 then some (refuse s d 0x09 5 op pc)
  else if op = 3 ∧ (f.view = 0 ∨ (f.view = 2 ∧ bitsOf (immR f) 15 8 ≠ 0)) then some (refuse s d 0x09 5 op pc)
  else none

/-- Run a draw that fills a vector register: each governed element by `fn`. -/
def runDraw (s : State) (d op : Nat) (f : RInst) (fn : Dale → DrawArgs → Nat → Nat) : State :=
  runR s d 5 op f (drawCheck d op f) fun pc t =>
    some <| withParity t d pc (rngReads (dale t d) (f.imm.getLsbD 17) ++ laneReads (dale t d) f []) [.v f.d] fun u =>
      let x := dale u d
      let a := drawArgs x f
      let u1 := applyLanes u d f f.view 8 fun _ i => lane (fn x a i)
      spendDraws u1 d a f.view (viewCount f.view) pc

/-- RUNI (R160). -/
def runiState (d : Nat) (f : RInst) (s : State) : State :=
  runDraw s d 0x01 f fun x a i => posUniform x a f.view i none

/-- RUNIF (R161). -/
def runifState (d : Nat) (f : RInst) (s : State) : State :=
  runDraw s d 0x02 f fun x a i => (unifFp (posUniform x a 0 i none)).toNat

/-- RBERN (R164): bit i is set when the uniform is below the threshold. -/
def rbernState (d : Nat) (f : RInst) (s : State) : State :=
  runR s d 5 0x03 f (drawCheck d 0x03 f) fun pc t =>
    some <| withParity t d pc (rngReads (dale t d) (f.imm.getLsbD 17)) [.p f.d] fun u =>
      let x := dale u d
      let a := drawArgs x f
      let thr := if f.view = 2 then immR f % 2 ^ 8 else immR f % 2 ^ 16
      let n := viewCount f.view
      let pr := pget x f.pg
      let old := pget x f.d
      let bits := (List.range 256).map fun i =>
        if i < n ∧ pr.getLsbD i then decide (posUniform x a f.view i none < thr)
        else if i < n ∧ f.zero then false else old.getLsbD i
      let u1 := updDale u d fun y => pput y f.d (BitVec.ofNat 256 (bits.foldr (fun b k => (if b then 1 else 0) + 2 * k) 0))
      spendDraws u1 d a f.view n pc

/-- RNORM TAB (R163). -/
def rnormTabState (d : Nat) (f : RInst) (s : State) : State :=
  runDraw s d 0x04 f fun x a i => (normTab (posUniform x a 0 i none)).toNat

/-- One element of RNORM BM (R162): its pair's uniforms, and its place in the pair. -/
def bmElem (x : Dale) (a : DrawArgs) (i : Nat) : Nat :=
  let e := if a.stream then i else a.base + i
  let j := e % 4 / 2 * 2
  let z := boxMuller (posUniform x a 0 i (some j)) (posUniform x a 0 i (some (j + 1)))
  (if e % 2 = 0 then z.1 else z.2).toNat

/-- RNORM BM (R162). -/
def rnormBmState (d : Nat) (f : RInst) (s : State) : State := runDraw s d 0x04 f bmElem

/-- RKEY (R156): KEY from two scalars; fresh parity. -/
def rkeyState (d : Nat) (f : RInst) (s : State) : State :=
  runR s d 5 0x08 f noCheck fun _ t => some <| updDale t d fun x =>
    freshParity { x with rng := { x.rng with key := (xget x f.a).toNat + 2 ^ 64 * (xget x f.b).toNat, keySet := true } } 0x20

/-- RCTR (R156). -/
def rctrState (d : Nat) (f : RInst) (s : State) : State :=
  runR s d 5 0x09 f noCheck fun _ t => some <| updDale t d fun x =>
    freshParity { x with rng := { x.rng with ctr := (xget x f.a).toNat + 2 ^ 64 * (xget x f.b).toNat } } 0x21

/-- RCGET (R156): the counter's halves to xD and xB; the upper half stays where both are one register (log entry 65). -/
def rcgetState (d : Nat) (f : RInst) (s : State) : State :=
  runR s d 5 0x0A f noCheck fun pc t =>
    some <| withParity t d pc [(0x21, 0)] [.x f.d, .x f.b] fun u => updDale u d fun x =>
      xputN (xputN x f.d (x.rng.ctr % 2 ^ 64)) f.b (x.rng.ctr / 2 ^ 64)

/-! ### Meanings -/

/-- The meaning of RUNI. -/
def execRuni (d : Nat) (f : RInst) (s : State) : Host.Outcome State Fault Refusal :=
  guardUnit (d < 512) (runiState d f s)

/-- The meaning of RUNIF. -/
def execRunif (d : Nat) (f : RInst) (s : State) : Host.Outcome State Fault Refusal :=
  guardUnit (d < 512) (runifState d f s)

/-- The meaning of RBERN. -/
def execRbern (d : Nat) (f : RInst) (s : State) : Host.Outcome State Fault Refusal :=
  guardUnit (d < 512) (rbernState d f s)

/-- The meaning of RNORM_TAB. -/
def execRnormTab (d : Nat) (f : RInst) (s : State) : Host.Outcome State Fault Refusal :=
  if f.imm.getLsbD 0 then .refused .malformed else guardUnit (d < 512) (rnormTabState d f s)

/-- The meaning of RNORM_BM. -/
def execRnormBm (d : Nat) (f : RInst) (s : State) : Host.Outcome State Fault Refusal :=
  if f.imm.getLsbD 0 then guardUnit (d < 512) (rnormBmState d f s) else .refused .malformed

/-- The meaning of RKEY. -/
def execRkey (d : Nat) (f : RInst) (s : State) : Host.Outcome State Fault Refusal :=
  guardUnit (d < 512) (rkeyState d f s)

/-- The meaning of RCTR. -/
def execRctr (d : Nat) (f : RInst) (s : State) : Host.Outcome State Fault Refusal :=
  guardUnit (d < 512) (rctrState d f s)

/-- The meaning of RCGET. -/
def execRcget (d : Nat) (f : RInst) (s : State) : Host.Outcome State Fault Refusal :=
  guardUnit (d < 512) (rcgetState d f s)

end Sys2Proof.Machine
end

