-- ==== Sys2Proof/Machine/Matrix.lean ====
section
/-! DEFINITION. The matrix array (03): MMUL and MFUSE, class 0x1, with the stationary registers and their swap
(R85), partitions (R91), accumulation (R59-R61, R67, R69), residue checks (R95-R98), faults (R93, R99), the output
sequence (R63-R65) and the fused form (R137). -/
namespace Sys2Proof.Machine

/-! ### Shape and refusal -/

/-- K_tile and N_tile of a format (R79). -/
def tileShape : Fmt → Nat × Nat
  | .e2m1 | .int4 => (128, 64)
  | .bf16 | .fp16 => (32, 32)
  | _ => (64, 64)

/-- The pairings of R57. -/
def pairingOk (a b : Fmt) : Bool :=
  match a, b with
  | .e4m3, .e4m3 | .e4m3, .e5m2 | .e5m2, .e4m3 | .e5m2, .e5m2 => true
  | .e2m1, .e2m1 | .bf16, .bf16 | .fp16, .fp16 | .int8, .int8 | .int4, .int4 => true
  | _, _ => false

/-- Bytes of n operand elements; a split pair takes four bytes (R49). -/
def operandBytes (split : Bool) (f : Fmt) (n : Nat) : Nat := if split then 4 * n else elemsBytes f n

/-- The reason of R191 for which an MMUL over these slots is refused, before the fused form's own reasons. -/
def mmulReason (f : MInst) (ta tb td : Option Slot) : Option Nat :=
  match ta, tb, td with
  | some a, some b, some o =>
    if !pairingOk a.fmt b.fmt || (f.split && a.fmt != .bf16) then some 0x02
    else if f.comp && fmtIsInt a.fmt then some 0x03
    else
      let (kt, nt) := tileShape a.fmt
      let nmax := if f.part = 0 then nt else nt / 2
      let four := a.fmt == .e2m1 || a.fmt == .int4
      if f.part = 3 || f.k > kt || f.n > nmax || (four && f.k % 2 = 1) || f.m > a.rows || f.m > o.rows
          || f.k > b.rows || a.rowBytes < operandBytes f.split a.fmt f.k
          || b.rowBytes < operandBytes f.split b.fmt f.n || o.rowBytes < elemsBytes o.fmt f.n
          || (f.acc && fmtIsInt a.fmt && !fmtIsInt o.fmt) then some 0x04
      else none
  | _, _, _ => some 0x04

/-- Whether the fused form is refused under reason 0x05 (R137). -/
def fusedRefused (x : Dale) (u : Fused) (f : MInst) (td : Option Slot) : Bool :=
  (match td with | some o => o.fmt == .pair | none => false) || !isFinite32 u.post ||
  (match slotOf x u.bias with
   | none => true
   | some b => b.fmt != .fp32 || b.rowBytes < 4 * f.n)

/-- Whether the reduced service refuses an MMUL: it takes operands E4M3, E5M2 and BF16, no SPLIT and no COMP (R530). -/
def reducedRefused (s : State) (f : MInst) (ta tb : Option Slot) : Bool :=
  let ok := fun (t : Option Slot) => match t with | some a => [Fmt.e4m3, .e5m2, .bf16].contains a.fmt | none => true
  s.svc.testBit 0 && !s.svc.testBit 1 && (!ok ta || !ok tb || f.split || f.comp)

/-- The check of MMUL at issue (R80, R137, R147, R530). -/
def mmulCheck (d : Nat) (f : MInst) (s : State) (pc : Nat) : Option State :=
  let x := dale s d
  match mmulReason f (slotOf x f.ta) (slotOf x f.tb) (slotOf x f.td) with
  | some r => some (refuse s d r 1 1 pc)
  | none =>
    if reducedRefused s f (slotOf x f.ta) (slotOf x f.tb) then some (refuse s d 0x02 1 1 pc)
    else if f.fused then
      let u := fusedAt x
      if fusedRefused x u f (slotOf x f.td) then some (refuse s d 0x05 1 1 pc)
      else if u.identity then none else slotRefusal s d u.act pc
    else none

/-- MFUSE (R137): record the fused parameters; it reads no slot and checks nothing. -/
def mfuseState (d : Nat) (f : RInst) (s : State) : State :=
  runR s d 1 0x02 f noCheck fun _ t => some <| updDale t d fun x =>
    { x with fused := ⟨f.a % 16, immR f % 32, f.imm.getLsbD 5, BitVec.ofNat 32 (xget x f.s).toNat⟩ }

/-! ### Stationary registers -/

/-- The cells of element (k, n) of a partition, each with the bits of the element it holds: cell key
64 × row + column, bit position in the cell, bit position in the element, width (R79). How the bits of a 16-bit element are
divided over its four cells is open: the model puts four in each, the lowest first, in a cell's low bits, and leaves its other
bits as they were (DESIGN CHOICE, log entry 62). -/
def cellsOf (f : Fmt) (part k n : Nat) : List (Nat × Nat × Nat × Nat) :=
  let c0 := if part = 2 then 32 else 0
  match f with
  | .e2m1 | .int4 => [(64 * (k / 2) + c0 + n, 4 * (k % 2), 0, 4)]
  | .bf16 | .fp16 =>
    (List.range 4).map fun q => (64 * (2 * k + q / 2) + c0 + 2 * n + q % 2, 0, 4 * q, 4)
  | _ => [(64 * k + c0 + n, 0, 0, 8)]

/-- Whether S1 is the active register of the cells of a column (R85). -/
def s1Active (x : Dale) (col : Nat) : Bool := x.active1.testBit col

/-- A cell's active or idle register. -/
def cellGet (x : Dale) (active : Bool) (key : Nat) : Nat :=
  if s1Active x (key % 64) == active then tget 0 x.s1 key else tget 0 x.s0 key

/-- Write a cell's idle register, and its parity bit from the store's (R100). -/
def cellPutIdle (x : Dale) (key v : Nat) : Dale :=
  if s1Active x (key % 64) then { x with s0 := tset 0 x.s0 key v, par0 := tset 0 x.par0 key 0 }
  else { x with s1 := tset 0 x.s1 key v, par1 := tset 0 x.par1 key 0 }

/-- The element the active registers of (k, n) hold (R187: read as the format of TB). -/
def activeElem (x : Dale) (f : Fmt) (part k n : Nat) : Nat :=
  (cellsOf f part k n).foldl (fun v c => v + cellGet x true c.1 / 2 ^ c.2.1 % 2 ^ c.2.2.2 * 2 ^ c.2.2.1) 0

/-- Write an element into the idle registers of (k, n) (R86). -/
def loadIdle (f : Fmt) (part : Nat) (x : Dale) (k n v : Nat) : Dale :=
  (cellsOf f part k n).foldl (fun y c =>
    let old := cellGet y false c.1
    let hole := old - old / 2 ^ c.2.1 % 2 ^ c.2.2.2 * 2 ^ c.2.1
    cellPutIdle y c.1 (hole + v / 2 ^ c.2.2.1 % 2 ^ c.2.2.2 * 2 ^ c.2.1)) x

/-- The columns of a partition (R91). -/
def partCols (part : Nat) : List Nat :=
  match part with
  | 1 => List.range 32
  | 2 => (List.range 32).map (· + 32)
  | _ => List.range 64

/-- Exchange active and idle in the columns of a partition (R85). -/
def swapPart (part : Nat) (x : Dale) : Dale :=
  { x with active1 := (partCols part).foldl (fun a c => Nat.xor a (2 ^ c)) x.active1 }

/-! ### Check arithmetic (R97, R98) -/

/-- The number a check works on: FP32 for floating formats, 32 bits that wrap for integers (R97, R98). -/
abbrev Chk := W32

/-- Sum and product of the check arithmetic. -/
def chkAdd (int : Bool) (a b : Chk) : Chk := if int then a + b else fadd a b
def chkMul (int : Bool) (a b : Chk) : Chk := if int then a * b else fmul a b
/-- Magnitude. -/
def chkAbs (int : Bool) (a : Chk) : Chk :=
  if int then (if a.toInt < 0 then -a else a) else a &&& 0x7FFFFFFF#32

/-- An operand element as a check number. -/
def chkOf (f : Fmt) (b : Nat) : Chk :=
  if fmtIsInt f then BitVec.ofInt 32 (sextNat (fmtBits f) b) else rne32 (fpDecode f b)

/-- Sums in ascending order from zero. -/
def chkSum (int : Bool) (l : List Chk) : Chk := l.foldl (chkAdd int) 0#32

/-! ### The checksum column (R85, R91, R95) -/

/-- The sums w and w' of a tile (R95 step 1). -/
def formSums (f : Fmt) (n : Nat) (tile : List (List Nat)) : ChkSums :=
  let int := fmtIsInt f
  { fmt := f, k := tile.length, n := n,
    w := tile.map fun r => chkSum int (r.map (chkOf f)),
    wA := tile.map fun r => chkSum int (r.map fun b => chkAbs int (chkOf f b)) }

/-- The tile that the active registers hold (R187). -/
def activeTile (x : Dale) (f : Fmt) (part k n : Nat) : List (List Nat) :=
  (List.range k).map fun kk => (List.range n).map fun nn => activeElem x f part kk nn

/-- The key of the checksum column's sums beside the active registers of a partition, or beside the idle ones. -/
def sumsKey (x : Dale) (part : Nat) (active : Bool) : Nat :=
  2 * part + (if s1Active x (if part = 2 then 32 else 0) == active then 1 else 0)

/-- The sums held beside the active registers, where they were formed over this format and these columns and rows. -/
def heldSums (x : Dale) (f : Fmt) (part k n : Nat) : Option ChkSums :=
  match tget none x.sums (sumsKey x part true) with
  | some c => if c.fmt = f ∧ c.n = n ∧ k ≤ c.k then some c else none
  | none => none

/-- The sums a pass is predicted from (R95 step 3). A pass over other columns or another format than the held sums would report
a mismatch on sound hardware, which R99 excludes: its sums are those of the elements it uses (DEDUCED, log entry 63). -/
def passSums (x : Dale) (f : Fmt) (part k n : Nat) : ChkSums :=
  (heldSums x f part k n).getD (formSums f n (activeTile x f part k n))

/-- The array changes between whole and partitioned operation (R85, R92): the sums are formed anew from the active registers
over every column of each partition, or of the whole array. -/
def changeHalves (x : Dale) (f : Fmt) (part : Nat) : Dale :=
  let (kt, nt) := tileShape f
  if x.halves = decide (part ≠ 0) then x
  else
    let parts := if part = 0 then [0] else [1, 2]
    let put (t : Tab (Option ChkSums)) (p : Nat) : Tab (Option ChkSums) :=
      let n := if p = 0 then nt else nt / 2
      tset none t (sumsKey x p true) (some (formSums f n (activeTile x f p kt n)))
    { x with halves := decide (part ≠ 0), sums := parts.foldl put [] }

/-- Load a tile given by rows of element encodings (R86), with its sums (R95). -/
def loadTile (f : Fmt) (part n : Nat) (x : Dale) (rows : List (List Nat)) : Dale :=
  let y := (rows.zip (List.range rows.length)).foldl (fun y r =>
    (r.1.zip (List.range r.1.length)).foldl (fun z e => loadIdle f part z r.2 e.2 e.1) y) x
  { y with sums := tset none y.sums (sumsKey y part false) (some (formSums f n rows)) }

/-! ### Accumulation -/

/-- An accumulator (R59, R61, R69): FP32 sum and comp, or an INT32, with whether it saturated. -/
structure Acc where
  sum  : W32
  comp : W32
  sat  : Bool
deriving DecidableEq, Repr

/-- Saturating INT32 addition (R61). -/
def satAdd (a : Acc) (p : Int) : Acc :=
  let (v, st) := clipInt 32 (a.sum.toInt + p)
  ⟨BitVec.ofInt 32 v, a.comp, a.sat || st⟩

/-- How a faulty cell changes a product (R99): the amount its array row and column add from a row on. -/
def faultDelta (flt : ArrayFault) (arow acol m : Nat) : W32 :=
  match flt with
  | .cell r c from_ dl => if r = arow ∧ c = acol ∧ from_ ≤ m then dl else 0#32
  | _ => 0#32

/-- The array row and column whose cell forms the product of (k, n). -/
def cellAt (f : Fmt) (part k n : Nat) : Nat × Nat :=
  match cellsOf f part k n with
  | c :: _ => (c.1 / 64, c.1 % 64)
  | [] => (0, 0)

/-- What a pass works on. -/
structure PassIn where
  fmtA  : Fmt
  fmtB  : Fmt
  part  : Nat
  comp  : Bool
  k     : Nat
  n     : Nat
  flt   : ArrayFault
deriving DecidableEq, Repr

/-- The INT32 value of an accumulator word. -/
def accOfInt (i : Int) : Acc := ⟨BitVec.ofInt 32 i, 0#32, false⟩

/-- One cell's step (R58, R59): add the rounded product. -/
def cellStep (p : PassIn) (m kk nn a b : Nat) (acc : Acc) : Acc :=
  let (ar, ac) := cellAt p.fmtB p.part kk nn
  let dl := faultDelta p.flt ar ac m
  if fmtIsInt p.fmtA then
    let w := fmtBits p.fmtA
    satAdd acc (sextNat w a * sextNat w b + dl.toInt)
  else
    let pr := rne32 (fpMul (fpDecode p.fmtA a) (fpDecode p.fmtB b))
    let pr := if dl = 0#32 then pr else fadd pr dl
    if p.comp then
      let (sm, cm) := compAdd (acc.sum, acc.comp) pr
      ⟨sm, cm, false⟩
    else ⟨fadd acc.sum pr, acc.comp, false⟩

/-- One output row of a pass: the row's elements against the stationary rows, ascending in K (R59, R78). -/
def passRow (p : PassIn) (m : Nat) (arow : List Nat) (tile : List (List Nat)) (init : List Acc) : List Acc :=
  (arow.zip (tile.zip (List.range tile.length))).foldl (fun accs e =>
    let (a, brow, kk) := e
    (accs.zip (brow.zip (List.range brow.length))).map fun q => cellStep p m kk q.2.2 a q.2.1 q.1) init

/-! ### Residue checks -/

/-- The accumulator as a check number (R97). -/
def chkAcc (p : PassIn) (a : Acc) : Chk :=
  if p.comp then fadd a.sum a.comp else a.sum

/-- 2^(−T) × v as an exact value. -/
def scaleDown (t : Int) (v : Fp) : Fp := fpMul v (.fin false 1 (-t))

/-- A comparison (R97, R98): none when skipped, else whether it mismatches. -/
def chkCompare (int skip : Bool) (t : Int) (x y x' y' : Chk) : Option Bool :=
  if int then (if skip then none else some (decide (x ≠ y)))
  else if !(isFinite32 x && isFinite32 y && isFinite32 x' && isFinite32 y') then none
  else
    let diff := match fpAdd (val32 x) (fpNeg (val32 y)) with | .fin _ m e => Fp.fin false m e | v => v
    let lim := scaleDown t (fpAdd (val32 x') (val32 y'))
    some (fpLt lim diff && fpLt (.fin false 1 (-120)) diff)

/-- A failed check: row or column index, actual and predicted value. -/
structure ChkFail where
  ix        : Nat
  actual    : Chk
  predicted : Chk
deriving DecidableEq, Repr

/-- The row check of row m against the checksum column's sums (R95): none when it passes, and whether it was skipped. A faulty
checksum cell changes the prediction. -/
def rowCheck (p : PassIn) (tol m : Nat) (arow : List Nat) (cs : ChkSums) (init out : List Acc) :
    Option ChkFail × Bool :=
  let int := fmtIsInt p.fmtA
  let i0 := chkSum int (init.map (chkAcc p))
  let i0' := chkSum int (init.map fun a => chkAbs int (chkAcc p a))
  let av := arow.map (chkOf p.fmtA)
  let dl := match p.flt with | .cell _ c from_ dl => if c = 64 ∧ from_ ≤ m then dl else 0#32 | _ => 0#32
  let r0 := (av.zip cs.w).foldl (fun acc e => chkAdd int acc (chkMul int e.1 e.2)) i0
  let r := if dl = 0#32 then r0 else chkAdd int r0 dl
  let r' := (av.zip cs.wA).foldl (fun acc e => chkAdd int acc (chkMul int (chkAbs int e.1) e.2)) i0'
  let a := chkSum int (out.map (chkAcc p))
  let a' := chkSum int (out.map fun q => chkAbs int (chkAcc p q))
  match chkCompare int (out.any fun q => q.sat) (tol : Int) a r a' r' with
  | none => (none, true)
  | some bad => (if bad then some ⟨m, a, r⟩ else none, false)

/-- ⌈log₂ m⌉. -/
def clog2 (m : Nat) : Nat := if m ≤ 1 then 0 else (m - 1).log2 + 1

/-- The column check of column n over a pass (R96). -/
def colCheck (p : PassIn) (tol n : Nat) (arows : List (List Nat)) (tile : List (List Nat))
    (inits outs : List (List Acc)) : Option ChkFail × Bool :=
  let int := fmtIsInt p.fmtA
  let zero : Acc := ⟨0#32, 0#32, false⟩
  let colA (k : Nat) : List Chk := arows.map fun r => chkOf p.fmtA (r.getD k 0)
  let i0 := chkSum int (inits.map fun r => chkAcc p (r.getD n zero))
  let i0' := chkSum int (inits.map fun r => chkAbs int (chkAcc p (r.getD n zero)))
  let ks := List.range (min p.k tile.length)
  let b (k : Nat) : Chk := chkOf p.fmtB ((tile.getD k []).getD n 0)
  let q := ks.foldl (fun acc k => chkAdd int acc (chkMul int (chkSum int (colA k)) (b k))) i0
  let q' := ks.foldl (fun acc k =>
    chkAdd int acc (chkMul int (chkSum int ((colA k).map (chkAbs int))) (chkAbs int (b k)))) i0'
  let a := chkSum int (outs.map fun r => chkAcc p (r.getD n zero))
  let a' := chkSum int (outs.map fun r => chkAbs int (chkAcc p (r.getD n zero)))
  let t : Int := (tol : Int) - ((clog2 arows.length - 6 : Nat) : Int)
  match chkCompare int (outs.any fun r => (r.getD n zero).sat) t a q a' q' with
  | none => (none, true)
  | some bad => (if bad then some ⟨n, a, q⟩ else none, false)

/-! ### Passes and faults -/

/-- A parity failure (R99, R100): event code, array row and column, the event's flag, the streamed row at which it is first
seen, whether every later row meets it again, and whether the array cannot attribute it to one partition (R93). -/
structure ParityFault where
  code   : Nat
  row    : Nat
  col    : Nat
  flag   : Nat
  at_    : Nat
  lasts  : Bool
  shared : Bool
deriving DecidableEq, Repr

/-- The faults of a pass (R99): rows entered, row and column mismatches, skipped checks, parity failures that rows met, their
number, whether its token left, and the slots in which something was detected, from the instruction's first. -/
structure PassOut where
  entered : Nat
  outs    : List (List Acc)
  rows    : List ChkFail
  cols    : List ChkFail
  skipped : Nat
  parity  : List ParityFault
  parityN : Nat
  token   : Bool
  stops   : List Nat
deriving DecidableEq, Repr

/-- Whether a cell holds a stationary element that the pass uses (R79, R80), or is of the checksum column. -/
def cellUsed (p : PassIn) (r c : Nat) : Bool :=
  let (rows, cols) := match p.fmtB with
    | .e2m1 | .int4 => ((p.k + 1) / 2, p.n)
    | .bf16 | .fp16 => (2 * p.k, 2 * p.n)
    | _ => (p.k, p.n)
  let c0 := if p.part = 2 then 32 else 0
  decide (r < rows) && (decide (c0 ≤ c ∧ c < c0 + cols) || c == 64)

/-- The array columns that a partition's items pass, with the checksum column. -/
def colPassed (part c : Nat) : Bool := (partCols part).contains c || c == 64

/-- The parity failures a pass of m rows can meet (R99, R100): active registers whose parity disagrees already, and the fault
that strikes now. -/
def parityFaults (x : Dale) (p : PassIn) (m : Nat) : List ParityFault :=
  let held (s1 : Bool) (t : Tab Nat) : List ParityFault := t.filterMap fun e =>
    if s1Active x (e.1 % 64) == s1 && cellUsed p (e.1 / 64) (e.1 % 64) then
      some ⟨0x0203, e.1 / 64, e.1 % 64, if s1 then 1 else 0, 0, true, false⟩
    else none
  let now := match p.flt with
    | .stationary r c s1 at_ =>
      if cellUsed p r c ∧ at_ < m ∧ (c = 64 ∨ s1Active x c = s1) then [⟨0x0203, r, c, if s1 then 1 else 0, at_, true, false⟩] else []
    | .item r c ps at_ => if colPassed p.part c ∧ at_ < m then [⟨0x0204, r, c, if ps then 1 else 0, at_, false, false⟩] else []
    | .shared r c ps at_ => if at_ < m then [⟨0x0204, r, c, if ps then 1 else 0, at_, false, true⟩] else []
    | _ => []
  held false x.par0 ++ held true x.par1 ++ now

/-- The slots, counted in rows, after which row `m` reaches a cell of a partition with no stall (R81). In compensated
accumulate every item takes two slots in every cell, so rows and hops count alike (DEDUCED, log entry 64). -/
def detectSlot (m r c part : Nat) : Nat := m + r + (if part = 2 ∧ c < 64 then c - 32 else c)

/-- Run one pass over rows of A with their initial accumulators (R78, R93, R95, R96), its first row in slot `start`; what was
detected before may have stopped the stream. -/
def runPass (x : Dale) (p : PassIn) (arows tile : List (List Nat)) (inits : List (List Acc)) (start : Nat) (before : List Nat) :
    PassOut :=
  let m := arows.length
  let outs := (arows.zip (inits.zip (List.range m))).map fun e => passRow p e.2.2 e.1 tile e.2.1
  let cs := passSums x p.fmtB p.part p.k p.n
  let rchk := if x.residue then
      (arows.zip (inits.zip (outs.zip (List.range m)))).map fun e => rowCheck p x.tol e.2.2.2 e.1 cs e.2.1 e.2.2.1
    else []
  let fails := rchk.filterMap fun e => e.1
  let par := parityFaults x p m
  let stops := before ++ (fails.map fun f => start + f.ix + 128) ++ (par.map fun f => start + detectSlot f.at_ f.row f.col p.part)
  let entered := stops.foldl (fun n st => min n (st + 1 - start)) m
  let token := stops.all fun st => decide (start + m ≤ st)
  let ccheck := if x.residue && token then
      (List.range p.n).map fun n => colCheck p x.tol n arows tile inits outs
    else []
  let cols := ccheck.filterMap fun e => e.1
  let met := par.filter fun f => decide (f.at_ < entered)
  let reads (f : ParityFault) : Nat := if f.lasts then entered - f.at_ + (if x.residue && token then 1 else 0) else 1
  { entered := entered, outs := outs, rows := fails.filter fun f => f.ix < entered, cols := cols,
    skipped := ((rchk.take entered).filter fun e => e.2).length + (ccheck.filter fun e => e.2).length,
    parity := met, parityN := (met.map reads).sum, token := token,
    stops := stops ++ cols.map fun f => start + m + 64 + (cellAt p.fmtB 0 0 f.ix).2 }

/-! ### Output -/

/-- The accumulator's initial value from an element of the output slot (R59): with the NaN count of R52. -/
def partialAcc (intOp comp : Bool) (o : Slot) (bits : Nat) : Acc × Bool :=
  let clampNan (f : Fmt) (b : Nat) : Fp × Bool :=
    let v := fpDecode f b
    if fpIsNan v && !o.cls then (.fin false 0 0, true) else (v, false)
  if intOp then (accOfInt (sextNat (fmtBits o.fmt) bits), false)
  else
    match o.fmt with
    | .pair =>
      let (sm, a) := clampNan .fp32 (bits % 2 ^ 32)
      let (cm, b) := clampNan .fp32 (bits / 2 ^ 32)
      if comp then (⟨rne32 sm, rne32 cm, false⟩, a || b)
      else (⟨rne32 (fpAdd sm cm), 0#32, false⟩, a || b)
    | f =>
      let (v, a) := clampNan f bits
      (⟨rne32 v, 0#32, false⟩, a)

/-- What an output element becomes: bits, saturations as (unit, format) in order, NaNs counted, clamps. -/
structure OutElem where
  bits   : Nat
  sats   : List (Nat × Nat)
  nans   : Nat
  clamps : Nat
deriving DecidableEq, Repr

/-- A conversion's saturation record, if it saturated. -/
def satRec (c : Conv) (unit fmt : Nat) : List (Nat × Nat) := if c.sat then [(unit, fmt)] else []

/-- The output of one element without the fused form (R63, R65, R71). `sc` is step 1's scale, `u` the dither. Without COMP the comp
word of a pair output is +0. SAT_LAST's FORMAT is 8 (INT32) for a saturation of the accumulator and 9 for a word of a pair
output, which the spec does not state (DESIGN CHOICE, log entry 61). -/
def plainOut (intOp comp : Bool) (sc : W32) (o : Slot) (u : Option Nat) (a : Acc) : OutElem :=
  let fc := fmtCode o.fmt
  let accSat := if intOp ∧ a.sat then [(0, 8)] else []
  if intOp ∧ sc = 0x3F800000#32 ∧ fmtIsInt o.fmt then
    let c := convTo o.fmt o.cls none (fpOfInt a.sum.toInt)
    ⟨c.bits, accSat ++ satRec c 0 fc, if c.nan then 1 else 0, 0⟩
  else
    let acc := if intOp then rne32 (fpOfInt a.sum.toInt) else a.sum
    let y := fmul acc sc
    let y2 := if comp then fmul a.comp sc else 0#32
    match o.fmt with
    | .pair =>
      let c1 := convTo .fp32 o.cls none (val32 y)
      let c2 := convTo .fp32 o.cls none (val32 y2)
      ⟨c1.bits + c2.bits * 2 ^ 32, accSat ++ satRec c1 0 fc ++ satRec c2 0 fc,
        (if c1.nan then 1 else 0) + (if c2.nan then 1 else 0), 0⟩
    | f =>
      let v := if comp then fadd y y2 else y
      let c := convTo f o.cls u (val32 v)
      ⟨c.bits, accSat ++ satRec c 0 fc, if c.nan then 1 else 0, 0⟩

/-- The fused form up to step 3a (R137). -/
def fusedZ (intOp comp : Bool) (sc bias : W32) (a : Acc) : W32 :=
  let acc := if intOp then rne32 (fpOfInt a.sum.toInt) else a.sum
  fadd (if comp then fadd (fmul acc sc) (fmul a.comp sc) else fmul acc sc) bias

/-- The format to which step 3b of the fused form rounds (R137). -/
def fusedFmt (p : Fused) (o : Slot) (sr : Bool) : Fmt := if p.post = 0x3F800000#32 ∧ !sr then o.fmt else .fp32

/-- The output of one element of the fused form (R137). -/
def fusedOut (x : Dale) (p : Fused) (intOp comp : Bool) (sc : W32) (o : Slot) (u : Option Nat) (sr : Bool)
    (bias : W32) (a : Acc) : OutElem :=
  let fc := fmtCode o.fmt
  let accSat := if intOp ∧ a.sat then [(0, 8)] else []
  let z := fusedZ intOp comp sc bias a
  let (res, clamps) := if p.identity then (SfRes.val (val32 z), 0) else
    let e := sfEval x (fusedFmt p o sr) (sfMode x p.act) z
    (e.res, e.clamps)
  if p.post = 0x3F800000#32 ∧ !sr then
    let (c, special) := sfFinish o.fmt o.cls res
    ⟨c.bits, accSat ++ satRec c (if special then 2 else 0) fc, if c.nan then 1 else 0, clamps⟩
  else
    let (c, _) := if p.identity then ((⟨z.toNat, false, false⟩ : Conv), false) else sfFinish .fp32 o.cls res
    let w := BitVec.ofNat 32 c.bits
    let v := if p.post = 0x3F800000#32 then w else fmul w p.post
    let c2 := convTo o.fmt o.cls u (val32 v)
    ⟨c2.bits, accSat ++ satRec c 2 7 ++ satRec c2 0 fc, (if c.nan then 1 else 0) + (if c2.nan then 1 else 0), clamps⟩

/-- Step 1 of R63 with R64: the scale, and whether it saturated. -/
def outScale (a b o : Slot) : W32 × Bool :=
  let sc := fmul a.scale b.scale
  if !o.cls ∧ !isFinite32 sc ∧ !isNan32 sc then (sc - 1#32, true) else (sc, false)

/-! ### MMUL -/

/-- Elements of a streamed or stationary row, with NaNs of a clamped tensor entering as +0 (R52): the encodings and
how many were counted. Split pairs undergo no class handling (R66). -/
def operandRow (t : Slot) (split : Bool) (bs : List Byte) (n : Nat) : List Nat × Nat :=
  if split then ((List.range n).map fun i => fieldAt bs (4 * i) 4, 0)
  else
    let es := (List.range n).map fun i => elemBits t.fmt bs i
    let bad (e : Nat) : Bool := !t.cls && fpIsNan (fpDecode t.fmt e)
    (es.map fun e => if bad e then 0 else e, (es.filter bad).length)

/-- Read rows of a slot for an operand: state after, elements, NaNs counted, and which rows are marked. -/
def operandRows (s : State) (d pc : Nat) (t : Slot) (split : Bool) (rows n : Nat) :
    State × List (List Nat) × Nat × List Nat :=
  (List.range rows).foldl (fun acc r =>
    let q := readRow acc.1 d t r (operandBytes split t.fmt n) 1 pc
    let e := operandRow t split q.2.1 n
    (q.1, acc.2.1 ++ [e.1], acc.2.2.1 + e.2, if q.2.2 then acc.2.2.2 ++ [r] else acc.2.2.2)) (s, [], 0, [])

/-- The halves of split-pair encodings: hi in [31:16], lo in [15:0] (R49). -/
def hiOf (rows : List (List Nat)) : List (List Nat) := rows.map fun r => r.map (· / 2 ^ 16)
def loOf (rows : List (List Nat)) : List (List Nat) := rows.map fun r => r.map (· % 2 ^ 16)

/-- The fault as it strikes the i-th pass of m rows: streamed rows count on over the passes. -/
def faultInPass (flt : ArrayFault) (i m : Nat) : ArrayFault :=
  match flt with
  | .none => .none
  | .cell r c from_ dl => .cell r c (from_ - i * m) dl
  | .stationary r c s1 at_ => if i * m ≤ at_ then .stationary r c s1 (at_ - i * m) else .none
  | .item r c ps at_ => if i * m ≤ at_ then .item r c ps (at_ - i * m) else .none
  | .shared r c ps at_ => if i * m ≤ at_ then .shared r c ps (at_ - i * m) else .none

/-- A register whose parity was struck stays so until it is loaded again (R100). -/
def struckBy (flt : ArrayFault) (m : Nat) (x : Dale) : Dale :=
  match flt with
  | .stationary r c s1 at_ =>
    if at_ < m ∧ c < 64 then
      if s1 then { x with par1 := tset 0 x.par1 (64 * r + c) 1 } else { x with par0 := tset 0 x.par0 (64 * r + c) 1 }
    else x
  | _ => x

/-- The slots, counted in rows, from a pass's first row to the next's (R87): its token, or the load that the token waits for. -/
def passSlots (f : MInst) (load : Bool) : Nat := if load then max (f.m + 1) (if f.comp then 32 else 64) else f.m + 1

/-- The passes of an instruction (R67, R80): the dale after its swaps, and each pass's report. A fault of one pass stops the
stream of the next; registers exchange only as tokens pass them. -/
def runPasses (x0 : Dale) (f : MInst) (flt : ArrayFault) (fa fb : Fmt) (arows tile : List (List Nat))
    (inits : List (List Acc)) : Dale × List PassOut :=
  let x := changeHalves x0 fb f.part
  let m := arows.length
  let p (i : Nat) : PassIn := ⟨fa, fb, f.part, f.comp, f.k, f.n, faultInPass flt i m⟩
  let act (y : Dale) := activeTile y fb f.part f.k f.n
  let load (y : Dale) (t : List (List Nat)) : Dale := if f.swap then loadTile fb f.part f.n y t else y
  if f.split then
    let x1 := swapPart f.part (load x (loOf tile))
    let o1 := runPass x1 (p 0) (hiOf arows) (act x1) inits 0 []
    let y1 := struckBy (p 0).flt m x1
    let x2 := if o1.token then swapPart f.part (load y1 (hiOf tile)) else y1
    let t2 := passSlots f f.swap
    let o2 := runPass x2 (p 1) (loOf arows) (act x2) o1.outs t2 o1.stops
    let x3 := struckBy (p 1).flt m x2
    let o3 := runPass x3 (p 2) (hiOf arows) (act x3) o2.outs (t2 + passSlots f false) o2.stops
    (struckBy (p 2).flt m x3, [o1, o2, o3])
  else
    let x1 := if f.swap then swapPart f.part (load x tile) else x
    (struckBy (p 0).flt m x1, [runPass x1 (p 0) arows (act x1) inits 0 []])

/-- Whether a slot's rows below n all hold their fill bits (R179). -/
def filledTo (t : Slot) (n : Nat) : Bool := t.fill % 2 ^ n == ones n

/-- Set every fill bit of a slot. -/
def fillAll (s : State) (d k : Nat) : State :=
  match slotOf (dale s d) k with
  | none => s
  | some t => updDale s d fun x => setSlot x k { t with fill := ones t.rows }

/-- The bytes of an output row: packed elements; an odd four-bit element keeps the other half of its byte. -/
def outBytes (s : State) (d : Nat) (o : Slot) (r : Nat) (es : List Nat) : List Byte :=
  let bs := packElems o.fmt es
  if fmtBits o.fmt = 4 ∧ es.length % 2 = 1 then
    let last := memGet s (daleBase d + o.base + r * o.rowBytes + bs.length - 1)
    bs.take (bs.length - 1) ++ [BitVec.ofNat 8 (es.getD (es.length - 1) 0 % 16 + last.toNat / 16 * 16)]
  else bs

/-- An MMUL held by a latch (R188): no row enters, every output row is marked. -/
def heldMmul (s : State) (d : Nat) (f : MInst) : State :=
  fillAll ((List.range f.m).foldl (fun t r => markRow t d f.td r) s) d f.td

/-- Whether a latch holds an MMUL (R188). -/
def mxHeld (x : Dale) (part : Nat) : Bool :=
  match part with
  | 1 => x.mxWest
  | 2 => x.mxEast
  | _ => x.mxWest || x.mxEast

/-- The strike of an instruction's first faults (R442): the column that failed, or 0x7F, or the parity cell. -/
def mxStrike (part : Nat) (passes : List PassOut) : Nat × Nat :=
  match (passes.flatMap fun q => q.parity).head? with
  | some e => (2, e.row * 2 ^ 8 + e.col)
  | none =>
    match (passes.flatMap fun q => q.cols).head? with
    | some c => (1, part * 2 ^ 7 + c.ix)
    | none => (1, part * 2 ^ 7 + 0x7F)

/-- Record the faults of an instruction: at most one event of each code, then 0x0205 (R99). -/
def mxEvents (s : State) (d pc : Nat) (f : MInst) (passes : List PassOut) (st : Status) : State :=
  let (kind, loc) := mxStrike f.part passes
  let rows := passes.flatMap fun q => q.rows
  let cols := passes.flatMap fun q => q.cols
  let s1 := match rows.head? with
    | some r => emitStrike s d 0x0201 sevError
        [(16, r.ix), (2, f.part), (32, r.actual.toNat), (32, r.predicted.toNat)] kind loc
    | none => s
  let s2 := match cols.head? with
    | some c => emitStrike s1 d 0x0202 sevError
        [(8, c.ix), (2, f.part), (32, c.actual.toNat), (32, c.predicted.toNat), (16, f.m)] kind loc
    | none => s1
  let par := passes.flatMap fun q => q.parity
  let one (t : State) (code : Nat) : State :=
    match par.find? fun e => e.code == code with
    | some e => emitStrike t d code sevError [(8, e.row), (8, e.col), (1, e.flag), (2, f.part), (16, e.at_)] kind loc
    | none => t
  let s3 := one (one s2 0x0203) 0x0204
  emitDale s3 d 0x0205 sevWarning [(2, f.part), (8, statusCode st), (4, f.td), (16, f.m), (32, pc)]

/-- The number of faults of an instruction (OD 0x4010.03): a stationary parity error counts at each read (R99). -/
def mxFaults (passes : List PassOut) : Nat :=
  passes.foldl (fun n q => n + q.rows.length + q.cols.length + q.parityN) 0

/-- The partitions whose latches the faults of an instruction set (R93, R188): both when one cannot be attributed. -/
def faultPart (f : MInst) (passes : List PassOut) : Nat :=
  if passes.any fun q => q.parity.any fun e => e.shared then 0 else f.part

/-- The output rows of an instruction: the conversion of each element, its counts, then the writes, a row marked when
`mark` says so and written only when it entered. -/
def writeOuts (s : State) (d pc : Nat) (f : MInst) (o : Slot) (entered : Nat) (mark : Nat → Bool)
    (elem : Nat → Nat → Acc → OutElem) (outs : List (List Acc)) : State :=
  (outs.zip (List.range outs.length)).foldl (fun t e =>
    let (row, r) := e
    if r < entered then
      let es := (row.zip (List.range row.length)).map fun q => elem r q.2 q.1
      let sats := es.flatMap fun q => q.sats
      let t1 := writeRow t d f.td r (outBytes t d o r (es.map fun q => q.bits)) (mark r) pc
      let t2 := match sats.getLast? with
        | some (unit, fc) => countSat t1 d sats.length unit fc
        | none => t1
      let t3 := countNan t2 d (es.foldl (fun n q => n + q.nans) 0)
      let t4 := odBump t3 0x4810 2 (es.foldl (fun n q => n + q.clamps) 0)
      if mark r then markRow t4 d f.td r else t4
    else markRow t d f.td r) s

/-- Dither draws of the rows of an instruction (R165, R168). -/
def mmulDraws (o : Slot) (m n : Nat) : Nat :=
  (List.range m).foldl (fun k r =>
    let e := o.elemBase + r * o.rowPitch
    k + ((e + n - 1) / 16 - e / 16 + 1)) 0

/-- What MMUL read of its operands: the streamed rows, the stationary tile, the partial results, the bias row; the NaNs
counted in them; and the rows of each that are marked. -/
structure MmulIn where
  rows     : List (List Nat)
  tile     : List (List Nat)
  parts    : List (List Nat)
  bias     : List Nat
  nans     : Nat
  markA    : List Nat
  markB    : List Nat
  markP    : List Nat
  markBias : Bool
deriving DecidableEq, Repr

/-- One row of partial results read with ACC (R59): the state after, the rows, and which are marked. -/
def mmulPartRow (d pc n : Nat) (td : Slot) (acc : State × List (List Nat) × List Nat) (r : Nat) :
    State × List (List Nat) × List Nat :=
  let q := readRow acc.1 d td r (elemsBytes td.fmt n) 1 pc
  (q.1, acc.2.1 ++ [(List.range n).map (elemBits td.fmt q.2.1)], if q.2.2 then acc.2.2 ++ [r] else acc.2.2)

/-- The partial results with ACC; none without. -/
def mmulParts (s : State) (d pc : Nat) (f : MInst) (td : Slot) : State × List (List Nat) × List Nat :=
  if f.acc then (List.range f.m).foldl (mmulPartRow d pc f.n td) (s, [], [])
  else (s, (List.range f.m).map fun _ => [], [])

/-- The stationary tile with SWAP; none without. -/
def mmulTile (s : State) (d pc : Nat) (f : MInst) (tb : Slot) : State × List (List Nat) × Nat × List Nat :=
  if f.swap then operandRows s d pc tb f.split f.k f.n else (s, [], 0, [])

/-- The slot of the bias row of a fused instruction. -/
def mmulBiasSlot (x : Dale) (f : MInst) : Option Slot := if f.fused then slotOf x x.fused.bias else none

/-- The bias row of a fused instruction: the state after, its elements, NaNs counted, and whether it is marked. -/
def mmulBias (s : State) (d pc n : Nat) (b : Option Slot) : State × List Nat × Nat × Bool :=
  match b with
  | some b =>
    let q := readRow s d b 0 (4 * n) 1 pc
    (q.1, (operandRow b false q.2.1 n).1, (operandRow b false q.2.1 n).2, q.2.2)
  | none => (s, [], 0, false)

/-- NaNs counted in the partial results of a clamped tensor (R52). -/
def mmulPartNans (f : MInst) (ta td : Slot) (parts : List (List Nat)) : Nat :=
  if f.acc then (parts.flatMap fun r => r.filter fun b => (partialAcc (fmtIsInt ta.fmt) f.comp td b).2).length else 0

/-- MMUL reads its operands in order: streamed rows, stationary tile, partial results, bias row. -/
def mmulRead (s : State) (d pc : Nat) (f : MInst) (ta tb td : Slot) : State × MmulIn :=
  let a := operandRows s d pc ta f.split f.m f.k
  let b := mmulTile a.1 d pc f tb
  let p := mmulParts b.1 d pc f td
  let e := mmulBias p.1 d pc f.n (mmulBiasSlot (dale s d) f)
  (e.1, ⟨a.2.1, b.2.1, p.2.1, e.2.1, a.2.2.1 + b.2.2.1 + mmulPartNans f ta td p.2.1 + e.2.2.1, a.2.2.2, b.2.2.2, p.2.2, e.2.2.2⟩)

/-- The accumulators a row starts from: the partial results with ACC, else zero (R59). -/
def mmulInits (f : MInst) (ta td : Slot) (parts : List (List Nat)) : List (List Acc) :=
  parts.map fun row =>
    if f.acc then row.map fun b => (partialAcc (fmtIsInt ta.fmt) f.comp td b).1 else List.replicate f.n ⟨0#32, 0#32, false⟩

/-- Whether an activation is applied, and whether outputs take dither. -/
def mmulUseAct (x : Dale) (f : MInst) : Bool := f.fused && !x.fused.identity
def mmulSr (f : MInst) (td : Slot) : Bool := f.sr && ditherTarget td.fmt

/-- The arguments of the activation (R137 step 3b). -/
def mmulArgs (f : MInst) (ta tb td : Slot) (bias : List Nat) (outs : List (List Acc)) : List W32 :=
  outs.flatMap fun row => (row.zip bias).map fun e =>
    fusedZ (fmtIsInt ta.fmt) f.comp (outScale ta tb td).1 (BitVec.ofNat 32 e.2) e.1

/-- A structure with bad parity among those the instruction reads: the activation's (R148) and the generator's (R167). -/
def mmulParity (x : Dale) (f : MInst) (td : Slot) (args : List W32) : Option (Structure × Nat × Nat) :=
  parityBad x ((if mmulUseAct x f then sfReads x (fusedFmt x.fused td f.sr) (sfMode x x.fused.act) args else [])
    ++ (if mmulSr f td then rngReads x false else []))

/-- The status that a fault of an array check ends with. -/
def mmulFaultStatus (passes : List PassOut) : Status :=
  if passes.any fun q => !q.parity.isEmpty then .uncorrectable else .checkMismatch

/-- One output element: `x` is the dale before. -/
def mmulElem (x : Dale) (f : MInst) (ta tb td : Slot) (bias : List Nat) (r n : Nat) (a : Acc) : OutElem :=
  let u := if mmulSr f td then some (ditherByte x td.tensorId td.substream (td.elemBase + r * td.rowPitch + n)) else none
  if f.fused then
    fusedOut x x.fused (fmtIsInt ta.fmt) f.comp (outScale ta tb td).1 td u f.sr (BitVec.ofNat 32 (bias.getD n 0)) a
  else plainOut (fmtIsInt ta.fmt) f.comp (outScale ta tb td).1 td u a

/-- Whether output row `r` is written marked: a fault, a bad table, or a marked operand it is made from (R190). -/
def mmulMarks (x : Dale) (f : MInst) (td : Slot) (args : List W32) (i : MmulIn) (passes : List PassOut) (r : Nat) : Bool :=
  decide (0 < mxFaults passes) || (mmulParity x f td args).isSome || i.markBias || !i.markB.isEmpty || i.markA.contains r || i.markP.contains r

/-- The rows that entered the array in every pass. -/
def mmulEntered (f : MInst) (passes : List PassOut) : Nat := passes.foldl (fun n q => min n q.entered) f.m

/-- MMUL writes its output and counts: saturations, NaNs, draws, token use, faults, rows skipped, activations. -/
def mmulWrite (x : Dale) (d pc : Nat) (f : MInst) (ta tb td : Slot) (i : MmulIn) (outs : List (List Acc))
    (passes : List PassOut) (s : State) : State :=
  let entered := mmulEntered f passes
  let marks := mmulMarks x f td (mmulArgs f ta tb td i.bias outs) i passes
  -- R64's saturation of the scale is counted under UNIT 0 and FORMAT 7 (DESIGN CHOICE, log entry 61)
  let s7 := countSat s d (if (outScale ta tb td).2 then 1 else 0) 0 7
  let s8 := fillAll (writeOuts s7 d pc f td entered marks (mmulElem x f ta tb td i.bias) outs) d f.td
  let s9 := countNan s8 d i.nans
  let s10 := if mmulSr f td then countDraws s9 d (mmulDraws td entered f.n) 0 td.tensorId pc else s9
  let s11 := odBump s10 0x4010 1 (passes.filter fun q => q.token).length
  let s12 := odBump (odBump s11 0x4010 3 (mxFaults passes)) 0x4010 4 (passes.foldl (fun n q => n + q.skipped) 0)
  if mmulUseAct x f then odBump s12 0x4810 1 entered else s12

/-- A fault of the array latches and is reported (R93, R99, R188). -/
def mmulLatch (d pc : Nat) (f : MInst) (passes : List PassOut) (s : State) : State :=
  if 0 < mxFaults passes then
    mxEvents (updDale s d fun y => latchFault y (faultPart f passes) (statusCode (mmulFaultStatus passes))) d pc f passes (mmulFaultStatus passes)
  else s

/-- How MMUL ends: a fault of the array latches and is reported; bad parity or a marked operand traps (R190, R123). -/
def mmulEnd (x : Dale) (d pc : Nat) (f : MInst) (td : Slot) (args : List W32) (i : MmulIn) (passes : List PassOut)
    (s0 : State) : State :=
  let s := mmulLatch d pc f passes s0
  match mmulParity x f td args with
  | some b => parityTrap s d pc b
  | none =>
    match i.markA, i.markP, i.markB, i.markBias with
    | r :: _, _, _, _ => trapPoison s d f.ta r pc
    | [], r :: _, _, _ => trapPoison s d f.td r pc
    | [], [], r :: _, _ => trapPoison s d f.tb r pc
    | [], [], [], true => trapPoison s d x.fused.bias 0 pc
    | [], [], [], false => s

/-- The accumulators of the last pass. -/
def mmulOuts (inits : List (List Acc)) (passes : List PassOut) : List (List Acc) :=
  match passes.getLast? with | some q => q.outs | none => inits

/-- MMUL with its three slots: read, load and swap, pass, check, convert and write (R80). -/
def mmulRun (d : Nat) (f : MInst) (flt : ArrayFault) (pc : Nat) (ta tb td : Slot) (s : State) : State :=
  let x := dale s d
  let e := mmulRead s d pc f ta tb td
  let inits := mmulInits f ta td e.2.parts
  let z := runPasses (dale e.1 d) f flt ta.fmt tb.fmt e.2.rows e.2.tile inits
  let outs := mmulOuts inits z.2
  mmulEnd x d pc f td (mmulArgs f ta tb td e.2.bias outs) e.2 z.2
    (mmulWrite x d pc f ta tb td e.2 outs z.2 (updDale e.1 d fun _ => z.1))

/-- MMUL (R80): a held partition answers from its latched fault, and operands not yet filled make it wait. -/
def mmulBody (d : Nat) (f : MInst) (flt : ArrayFault) (pc : Nat) (s : State) : Option State :=
  let x := dale s d
  match slotOf x f.ta, slotOf x f.tb, slotOf x f.td with
  | some ta, some tb, some td =>
    if mxHeld x f.part then some (heldMmul s d f)
    else if smWriterPending x f.ta || !filledTo ta f.m || (f.swap && !filledTo tb f.k) || (f.acc && !filledTo td f.m) then none
    else some (mmulRun d f flt pc ta tb td s)
  | _, _, _ => some s

/-- Whether an MMUL of one partition may go before a waiting MMUL of the other (R91): neither writes what the other uses. -/
def passesBy (x : Dale) (f : MInst) (e : QEnt) : Bool :=
  let g := decM e.word
  let u := usesMmul f x.fused
  let v := usesMmul g x.fused
  wop e.word == 1 && f.part != 0 && g.part != 0 && f.part != g.part
    && !(u.writes.any fun o => v.writes.contains o || v.reads.contains o) && !(v.writes.any fun o => u.reads.contains o)

/-- The MMUL in the MX queue that may run (R91): its entry, and the queue without it. -/
def mxTake (x : Dale) (f : MInst) : List QEnt → Option (QEnt × List QEnt)
  | [] => none
  | e :: rest =>
    if wop e.word = 1 ∧ decM e.word = f then some (e, rest)
    else if passesBy x f e then (mxTake x f rest).map fun r => (r.1, e :: r.2)
    else none

/-- MMUL: the first of its partition in the MX queue runs, or, with the queue empty, one issued now. -/
def mmulState (d : Nat) (f : MInst) (flt : ArrayFault) (s : State) : State :=
  match queueOf (dale s d) 1 with
  | [] => unitRun s d 1 0x01 (encM 1 0x01 f) (fun w => decide (decM w = f)) (mmulCheck d f) (mmulBody d f flt)
  | q =>
    match mxTake (dale s d) f q with
    | some (e, rest) => (mmulBody d f flt e.pc (updDale s d fun y => setQueue y 1 rest)).getD s
    | none => s

/-! ### Meanings -/

/-- The meaning of MMUL. -/
def execMmul (d : Nat) (f : MInst) (flt : ArrayFault) (s : State) : Host.Outcome State Fault Refusal :=
  guardUnit (d < 512) (mmulState d f flt s)

/-- The meaning of MFUSE. -/
def execMfuse (d : Nat) (f : RInst) (s : State) : Host.Outcome State Fault Refusal :=
  guardUnit (d < 512) (mfuseState d f s)

end Sys2Proof.Machine
end

