-- ==== Sys2Proof/Machine/NetOps.lean ====
section
/-! DEFINITION. Operations of a network interface that units use: where an address is served (R555), route entries and
minimal routes (R264, R268), paths and their reverse (R265, R269), request tags (R554), and the packets a unit hands to its
interface. -/
namespace Sys2Proof.Machine

/-- Col index of a position. -/
def colIx (cx cy : Nat) : Nat := cy * 34 + cx

/-- The col of the gather engine of a stack (R15). -/
def gatherCol (s : Nat) : Nat := colIx (8 * (s % 4) + 4) (if s < 4 then 0 else 17)
/-- The col of the k-th col of a stack's controller (R15, R289). -/
def hbmCol (s k : Nat) : Nat := if s < 4 then colIx (8 * s + 1 + k) 0 else colIx (8 * s - 31 + k) 17
def cmdCol : Nat := colIx 0 0
def securityCol : Nat := colIx 33 0
def saddleCol : Nat := colIx 0 17
def configCol : Nat := colIx 33 17
/-- The first border col of an edge die: 0 W0, 1 W1, 2 E0, 3 E1 (R555). -/
def dieCol : Nat → Nat
  | 0 => colIx 0 1 | 1 => colIx 0 9 | 2 => colIx 33 1 | _ => colIx 33 9

/-- The event source of the unit at a col (R493): its dale, or the border unit. -/
def colSource (c : Nat) : Nat :=
  match colDale c with
  | some d => daleSource d
  | none =>
    let cx := c % 34
    let cy := c / 34
    if c = cmdCol then srcCmd else if c = securityCol then srcSecurity else if c = saddleCol then srcSaddle
    else if c = configCol then srcConfig
    else if cy = 0 then unitSource 4 ((cx - 1) / 8)
    else if cy = 17 then unitSource 4 ((cx + 31) / 8)
    else unitSource 6 ((if cx = 33 then 2 else 0) + (if cy ≥ 9 then 1 else 0))

/-- The col that serves a control-window address (R555). -/
def windowCol (a : Nat) : Nat :=
  let o := a - 0x020000000000
  if o < 0x10000 then saddleCol
  else if o < 0x20000 then daleCol ((o - 0x10000) / 0x80)
  else if o < 0x30000 then daleCol ((o - 0x20000) / 0x10 % 512)
  else if o < 0x40000 then cmdCol
  else if o < 0x50000 then gatherCol ((o - 0x40000) / 0x1000 % 8)
  else if o < 0x59900 then (o - 0x50000) / 0x40
  else if o < 0x70000 then configCol
  else if o < 0x80000 then hbmCol ((o - 0x70000) / 0x1000 % 8) 0
  else if o < 0xB0000 then configCol
  else if o < 0xC0000 then saddleCol
  else if o < 0xCA000 then dieCol ((o - 0xC0000) / 0x100 / 36)
  else if o < 0xD0000 then dieCol (if (o - 0xCA000) / 0x100 < 16 then (o - 0xCA000) / 0x400 else (o - 0xCA000) / 0x100 % 4)
  else if o < 0xE0000 then cmdCol
  else if o < 0xF0000 then
    if o % 0x20 < 8 ∨ 0x18 ≤ o % 0x20 then daleCol ((o - 0xE0000) / 0x20 % 512) else cmdCol
  else saddleCol

/-- The control windows of the chapters, by first and last offset (R30, R72, R198, R248, R281, R310, R340, R348, R383, R412,
R428, R448, R473, R500). -/
def windowRanges : List (Nat × Nat) :=
  [(0, 0x1FFFF), (0x20000, 0x21FFF), (0x30000, 0x30FFF), (0x40000, 0x47FFF), (0x50000, 0x6FFFF), (0x70000, 0x77FFF),
   (0x80000, 0x90FFF), (0xA0000, 0xA0FFF), (0xB0000, 0xB1FFF), (0xC0000, 0xCFFFF), (0xD0000, 0xDFFFF), (0xE0000, 0xE3FFF),
   (0xF0000, 0xFFFFF), (0x200000, 0x400FFF)]

/-- Whether an address lies in a control window. -/
def inWindow (a : Nat) : Bool :=
  0x020000000000 ≤ a && windowRanges.any fun r => r.1 ≤ a - 0x020000000000 && a - 0x020000000000 ≤ r.2

/-- The regions of R7 and R419. -/
inductive Region where
  | hbm
  | store (d off : Nat)
  | window
  | peer
  | nowhere
deriving DecidableEq, Repr

/-- The region a device physical address lies in (R7, R8). -/
def regionOf (a : Nat) : Region :=
  if a ≤ 0x0047FFFFFFFF then .hbm
  else if 0x010000000000 ≤ a ∧ a ≤ 0x01001FFFFFFF then
    .store ((a - 0x010000000000) / 0x100000) ((a - 0x010000000000) % 0x100000)
  else if inWindow a then .window
  else if 0x021000000000 ≤ a ∧ a ≤ 0x021FFFFFFFFF then .peer
  else .nowhere

/-- The pseudo-channel of an HBM address (R289). -/
def pseudoOf (a : Nat) : Nat := a / 256 % 256

/-- The route index of an address of a region (R263, R555). -/
def routeIndex (a : Nat) : Nat :=
  match regionOf a with
  | .hbm => pseudoOf a
  | .store d _ => 0x100 + daleCol d
  | _ => 0x100 + windowCol a

/-- The col an index of the fixed ranges leads to (R263). -/
def indexCol (ix : Nat) : Nat := if ix < 0x100 then hbmCol (ix / 32) (ix % 32 / 4) else ix - 0x100

/-- The codes of a straight leg after its first move: single steps, or runs of eight where `runs` (R265). -/
def legCodes (runs : Bool) (n : Nat) : List Nat :=
  if runs then List.replicate (n / 8) 3 ++ List.replicate (n % 8) 0 else List.replicate n 0

/-- The codes of a path from one col to another, along x first (R258, R268, log entry 14). -/
def pathCodes (c t : Nat) : List Nat :=
  let dx : Int := (t % 34 : Nat) - (c % 34 : Nat)
  let dy : Int := (t / 34 : Nat) - (c / 34 : Nat)
  let dirX := if dx < 0 then 3 else 1
  let dirY := if dy < 0 then 2 else 0
  let runs := decide (dx.natAbs + dy.natAbs > 24)
  let turn := if (dirX + 3) % 4 = dirY then 1 else 2
  if dx = 0 then dirY :: legCodes runs (dy.natAbs - 1)
  else if dy = 0 then dirX :: legCodes runs (dx.natAbs - 1)
  else (dirX :: legCodes runs (dx.natAbs - 1)) ++ (turn :: legCodes runs (dy.natAbs - 1))

/-- Codes packed two bits each, hop 0 lowest (R260). -/
def packCodes (cs : List Nat) : Nat := cs.foldr (fun c n => c + 4 * n) 0

/-- The minimal route entry of an index of interface c (R268); the entry of its own col is invalid. -/
def minimalRoute (c ix : Nat) : Nat :=
  let t := indexCol ix
  if t = c then 0
  else
    let cs := pathCodes c t
    let plane := if ix < 0x100 then ix % 2 else t % 2
    2 ^ 127 + plane * 2 ^ 125 + 1 * 2 ^ 122 + cs.length * 2 ^ 117 + t * 2 ^ 97 + packCodes cs * 2 ^ 48

/-- An entry of an interface's route table. -/
def routeEntry (s : State) (c ix : Nat) : Nat :=
  let n := ni s c
  if n.filled && ix < 0x364 then tget (minimalRoute c ix) n.routes ix else tget 0 n.routes ix

/-- Fields of a route entry (R264). -/
def rtValid (e : Nat) : Bool := e.testBit 127
def rtMcast (e : Nat) : Bool := e.testBit 126
def rtPlane (e : Nat) : Nat := bitsOf e 125 125
def rtPrio (e : Nat) : Nat := bitsOf e 123 122
def rtHops (e : Nat) : Nat := bitsOf e 121 117
def rtSpur (e : Nat) : Nat := bitsOf e 116 114
def rtLeaves (e : Nat) : Nat := bitsOf e 113 107
def rtDest (e : Nat) : Nat := bitsOf e 106 97
def rtTurns (e : Nat) : Nat := bitsOf e 95 48
def rtBranch (e : Nat) : Nat := bitsOf e 47 0

/-- A TAG that no outstanding request of the interface holds, searched upward from a free value (R554). -/
def freeTag (used : List Nat) : Nat → Nat → Nat
  | 0, t => t % 4096
  | fuel + 1, t => if used.contains (t % 4096) then freeTag used fuel (t + 1) else t % 4096

/-- The types of R261. -/
def tyRead : Nat := 0x01
def tyWrite : Nat := 0x02
def tyReadResp : Nat := 0x03
def tyWriteAck : Nat := 0x04
def tyMcast : Nat := 0x05
def tyTrace : Nat := 0x06
def tySeminc : Nat := 0x10
def tySemincAck : Nat := 0x11
def tyRun : Nat := 0x12
def tyEndReport : Nat := 0x13
def tyMcastReady : Nat := 0x14
def tyMcastAck : Nat := 0x15
def tyMcastCancel : Nat := 0x16
def tyCtrlRead : Nat := 0x18
def tyCtrlWrite : Nat := 0x19
def tyCtrlResp : Nat := 0x1A
def tyDrainReq : Nat := 0x1B
def tyDrainDone : Nat := 0x1C

/-- Whether a type travels on the data planes (R261). -/
def onData (t : Nat) : Bool := t ≤ 0x06

/-- The virtual channel of a type (R257). -/
def vcOf (t : Nat) : Nat :=
  if t = tyReadResp ∨ t = tyWriteAck ∨ t = tySemincAck ∨ t = tyEndReport ∨ t = tyMcastAck then 1
  else if t = tyMcast ∨ t = tyCtrlRead ∨ t = tyCtrlWrite ∨ t = tyDrainReq then 2
  else if t = tyTrace ∨ t = tyCtrlResp ∨ t = tyDrainDone then 3
  else 0

/-- Whether a type is one of R261. -/
def typeKnown (t : Nat) : Bool := (1 ≤ t && t ≤ 6) || (0x10 ≤ t && t ≤ 0x16) || (0x18 ≤ t && t ≤ 0x1C)

/-- Bytes of a flit of a plane, and the flits of a packet (R259). -/
def flitBytes (plane : Nat) : Nat := if plane < 2 then 128 else 32
def flitsOf (p : Packet) : Nat := max 1 ((16 * p.len + flitBytes p.plane - 1) / flitBytes p.plane)

/-! ### Paths (R265, R266, R269) -/

/-- The col a move leads to: 0 north, 1 east, 2 south, 3 west. -/
def moveCol (c dir : Nat) : Nat :=
  match dir % 4 with
  | 0 => c + 34
  | 1 => c + 1
  | 2 => c - 34
  | _ => c - 1

/-- The cols a spur visits. -/
def spurCols (c dir : Nat) : Nat → List Nat
  | 0 => []
  | n + 1 => moveCol c dir :: spurCols (moveCol c dir) dir n

/-- The cols a route passes, each with the direction it leaves by and the branch code consumed there. -/
def walkRoute (turns branch hops : Nat) : Nat → Nat → Nat → Nat → Nat → List (Nat × Nat × Nat)
  | 0, _, _, _, _ => []
  | fuel + 1, hop, run, dir, c =>
    if run > 0 then (c, dir, 0) :: walkRoute turns branch hops fuel hop (run - 1) dir (moveCol c dir)
    else if hop ≥ hops then [(c, 4, 0)]
    else
      let code := turns / 4 ^ hop % 4
      let b := branch / 4 ^ hop % 4
      let dir' := if hop = 0 then code else if code = 1 then (dir + 3) % 4 else if code = 2 then (dir + 1) % 4 else dir
      let run' := if hop ≠ 0 ∧ code = 3 then 7 else 0
      (c, dir', b) :: walkRoute turns branch hops fuel (hop + 1) run' dir' (moveCol c dir')

/-- The leaf cols of a multicast entry from a col: final col, drops and spurs (R266). -/
def leafCols (e c : Nat) : List Nat :=
  (walkRoute (rtTurns e) (rtBranch e) (rtHops e) 200 0 0 0 c).flatMap fun st =>
    let (p, dir, b) := st
    if dir = 4 then [p]
    else if b = 1 then [p]
    else if b = 2 then spurCols p ((dir + 3) % 4) (rtSpur e + 1)
    else if b = 3 then spurCols p ((dir + 1) % 4) (rtSpur e + 1)
    else []

/-- The moves by which a packet came to a col: along its route as far as the col, or as far as its spur and along that. -/
def movesTo (p : Packet) (c : Nat) : List Nat :=
  let n := if p.spur then p.spurLen + 1 - p.spurLeft else 0
  let fork := (spurCols c (p.dir + 2) n).getLast?.getD c
  ((walkRoute p.turns 0 p.hops 200 0 0 0 p.srcCol).takeWhile fun e => e.1 != fork).filterMap
    (fun e => if e.2.1 < 4 then some e.2.1 else none) ++ List.replicate n (p.dir % 4)

/-- The code that turns one direction into another (R265). -/
def turnCode (from' to' : Nat) : Nat := if to' = from' then 0 else if to' = (from' + 3) % 4 then 1 else 2

/-- Codes of a list of moves after a direction; runs of eight straight moves take code 3 when `runs`. -/
def moveCodes (runs : Bool) : Nat → Nat → List Nat → List Nat
  | 0, _, _ => []
  | _, _, [] => []
  | fuel + 1, dir, m :: rest =>
    if runs && m == dir && (rest.take 7).length == 7 && (rest.take 7).all (· == dir) then
      3 :: moveCodes runs fuel dir (rest.drop 7)
    else turnCode dir m :: moveCodes runs fuel m rest

/-- The codes of the reverse of a list of moves (R269). -/
def reverseCodes (moves : List Nat) : List Nat :=
  match moves.reverse.map fun d => (d + 2) % 4 with
  | [] => []
  | m :: rest => m :: moveCodes (decide (rest.length ≥ 24)) 200 m rest

/-! ### Packets -/

/-- A packet along a route entry; the plane is 2, the command plane, for the command types. -/
def mkPacket (e typ src tag : Nat) (addr len status epoch aux : Nat) (poison : Bool) (payload : List Byte) : Packet :=
  { plane := if onData typ then rtPlane e else 2, prio := rtPrio e, age := 0, typ := typ, len := len,
    hops := rtHops e, hop := 0, run := 0, turns := rtTurns e, srcCol := src, tag := tag, status := status,
    epoch := epoch, addr := addr, spurLen := rtSpur e, spurLeft := 0, spur := false, aux := aux, poison := poison,
    payload := payload, dir := 0, hdrBad := 0, dataBad := 0 }

/-- An answer to a packet from the unit at a col: the reverse path, the request's PRIO, TAG and EPOCH, and its plane or, for an
answer of the command plane, that plane; the group of a multicast goes back in AUX (R260, R269, R554). -/
def answerPacket (p : Packet) (c typ status : Nat) (poison : Bool) (payload : List Byte) : Packet :=
  let cs := reverseCodes (movesTo p c)
  { plane := if onData typ then p.plane else 2, prio := p.prio, age := 0, typ := typ, len := (payload.length + 15) / 16,
    hops := cs.length, hop := 0, run := 0, turns := packCodes cs, srcCol := c, tag := p.tag, status := status, epoch := p.epoch,
    addr := 0, spurLen := 0, spurLeft := 0, spur := false, aux := if typ = tyMcastAck then p.aux else 0, poison := poison,
    payload := payload, dir := 0, hdrBad := 0, dataBad := 0 }

/-- Queue a packet at an interface for injection. -/
def queuePacket (s : State) (c : Nat) (p : Packet) : State :=
  updNi s c fun n => { n with toInject := n.toInject ++ [p] }

/-- Hand a packet of a unit to its interface: in absorb mode it takes none (R277). -/
def handPacket (s : State) (c : Nat) (p : Packet) : State := if 2 ≤ (ni s c).state then s else queuePacket s c p

/-- Answer a packet. -/
def sendAnswer (s : State) (p : Packet) (c typ : Nat) (st : Status) (poison : Bool) (payload : List Byte) : State :=
  queuePacket s c (answerPacket p c typ (statusCode st) poison payload)

/-- A TAG of an interface that no outstanding request of it holds (R554). -/
def takeTag (s : State) (c : Nat) : Nat × State :=
  let (fr, s1) := takeFree s
  (freeTag ((ni s1 c).out.map fun r => r.tag) 4096 (fr % 4096), s1)

/-- Hand a request of a unit to its interface: a free TAG is assigned and the request is outstanding (R554). none when no
valid route leads there, or the interface takes no request: absorbing, or draining and a dale's (R277, R278). -/
def handRequest (s : State) (c ix typ addr len aux : Nat) (poison : Bool) (payload : List Byte) (epoch : Nat)
    (o : Origin) (keepLen : Nat) : Option State :=
  let e := routeEntry s c ix
  if !rtValid e || decide (2 ≤ (ni s c).state) || ((ni s c).state == 1 && decide (o.dale < 512)) then none
  else
    let (tag, s1) := takeTag s c
    let n := ni s1 c
    let p := mkPacket e typ c tag addr len 0 epoch aux poison payload
    let r : Request := ⟨tag, typ, addr, keepLen, o.dale, o.chan, o.key, o.no, false⟩
    some (setNi s1 c { n with toInject := n.toInject ++ [p], out := n.out ++ [r], requests := n.requests + 1 })

/-- Hand a request that awaits no answer (MCAST_READY, MCAST_CANCEL) from a dale to a col, when a route leads there. -/
def handNotice (s : State) (d c typ status epoch aux : Nat) (payload : List Byte) : State :=
  let e := routeEntry s (daleCol d) (0x100 + c)
  if !rtValid e || decide (2 ≤ (ni s (daleCol d)).state) then s
  else
    let (tag, s1) := takeTag s (daleCol d)
    updNi (queuePacket s1 (daleCol d)
      (mkPacket e typ (daleCol d) tag 0 ((payload.length + 15) / 16) status epoch aux false payload)) (daleCol d)
      fun n => { n with requests := n.requests + 1 }

/-- The epoch of the step in progress in a dale (R419). -/
def daleEpoch (s : State) (d : Nat) : Nat :=
  match (dale s d).pipe with
  | some p => (pipe s p).epoch
  | none => 0

end Sys2Proof.Machine
end

