-- ==== Sys2Proof/Machine/StreamOps.lean ====
section
/-! DEFINITION. What a stream channel does with a block (R228-R240, R331-R334): its descriptor and checks, the
pieces of R236, conversion (R233), transposition (R234), delivery to a slot, halts and completion. -/
namespace Sys2Proof.Machine

/-! ### Channels -/

/-- A channel of a dale. -/
def chanOf (x : Dale) (c : Nat) : Channel := tget Channel.reset x.channels c
def setChan (x : Dale) (c : Nat) (v : Channel) : Dale := { x with channels := tset Channel.reset x.channels c v }
def updChan (s : State) (d c : Nat) (f : Channel → Channel) : State :=
  updDale s d fun x => setChan x c (f (chanOf x c))

/-- The block a channel is carrying out. -/
def frontBlock (s : State) (d c : Nat) : Option Block := (chanOf (dale s d) c).blocks.head?

/-- Replace the block a channel is carrying out. -/
def setFront (s : State) (d c : Nat) (b : Block) : State :=
  updChan s d c fun h => { h with blocks := b :: h.blocks.tail }

/-! ### Descriptors -/

/-- Whether reserved fields and ranges of R229 and R230 are kept. -/
def descOk (w0 w1 w3 : W64) : Bool :=
  let kind := wbits w1 63 60
  let space := wbits w0 63 63
  wbits w0 62 52 == 0 && (space == 0 || wbits w0 51 48 == 0)
    && wbits w1 56 52 == 0 && wbits w1 34 32 == 0 && wbits w1 18 0 == 0
    && 1 ≤ wbits w1 47 35 && wbits w1 47 35 ≤ 4096 && 1 ≤ wbits w1 31 19 && wbits w1 31 19 ≤ 4096
    && (fmtOfCode (wbits w1 51 48)).isSome
    && (kind == 0 || wbits w1 58 58 == 0)
    && (match kind with
        | 0 => w3 == 0#64
        | 1 => space == 1 && wbits w1 59 59 == 0 && wbits w3 42 40 == 0
        | 2 => space == 1 && wbits w3 37 0 == 0
        | 3 => wbits w0 51 0 == 0 && wbits w3 46 0 == 0
        | _ => false)

/-- The block that a descriptor states, bound to a slot (R229). A list that broke gives no words, a descriptor read
marked or uncorrectable gives one (log entry 21): kinds 17 and 16, which no descriptor can state. -/
def blockOf (desc : List W64) (slot no pc : Nat) : Block :=
  let w0 := desc.getD 0 0#64
  let w1 := desc.getD 1 0#64
  let w2 := desc.getD 2 0#64
  let w3 := desc.getD 3 0#64
  { kind := if desc.length = 4 then wbits w1 63 60 else if desc.length = 1 then 16 else 17,
    outbound := wbits w1 59 59 == 1 && wbits w1 63 60 != 2 && wbits w1 63 60 != 3, transpose := wbits w1 58 58 == 1, slot := slot,
    rows := wbits w1 47 35, elems := wbits w1 31 19, fmt := (fmtOfCode (wbits w1 51 48)).getD .fp32,
    space := wbits w0 63 63, addr := wbits w0 51 0, rowStride := wbits w2 63 32, elemStride := wbits w2 31 0,
    args := w3.toNat, bad := desc.length != 4 || !descOk w0 w1 w3, no := no, pc := pc, begun := false, next := 0,
    waiting := 0, raw := [], done := 0, marked := 0, sent := [], ready := [], acked := [], came := none }

/-- The slot of a block, if it has one. -/
def blockSlot (x : Dale) (b : Block) : Option Slot := if isOperand b then none else slotOf x b.slot

/-- Whether a block passes the checks against its slot (R231, R232, R234, R332). -/
def blockFits (b : Block) (t : Option Slot) : Bool :=
  match t with
  | none => isOperand b && !b.bad && b.kind == 0 && !b.transpose && !isPort b && b.outbound == decide (18 ≤ b.slot)
  | some t =>
    !b.bad && b.rows ≤ t.rows && elemsBytes t.fmt b.elems ≤ t.rowBytes
      && (b.elemStride == 0 || fmtBits b.fmt != 4)
      && (!b.transpose || (b.rows % 64 == 0 && b.elems % 64 == 0 && fmtBits b.fmt ∈ [8, 16, 32] && b.fmt == t.fmt))
      && (!isPort b || (b.rowStride == 0 && b.elemStride == 0 && !b.transpose && b.addr % 0x1000 == 0))

/-! ### Remote layout (R233, R234, R236) -/

/-- The key of a byte of a remote row. -/
def rawKey (row off : Nat) : Nat := row * 65536 + off

/-- Address and length of the piece that starts at a byte of a remote row: pieces end at every 256-byte boundary
(R236) and, with an element stride, at every element. -/
def pieceAt (b : Block) (row off : Nat) : Nat × Nat :=
  let base := b.addr + row * b.rowStride
  if b.elemStride = 0 then
    let a := base + off
    (a, min (256 - a % 256) (rowLen b row - off))
  else
    let esz := fmtBits b.fmt / 8
    let a := base + off / esz * b.elemStride + off % esz
    (a, min (256 - a % 256) (esz - off % esz))

/-- The next piece after one of a length. -/
def pieceNext (b : Block) (len : Nat) : Nat :=
  let off := b.next % 65536 + len
  if off ≥ rowLen b (b.next / 65536) then (b.next / 65536 + 1) * 65536 else b.next / 65536 * 65536 + off

/-! ### Conversion (R233) -/

/-- The single value an encoding stands for; a pair's is rounded to FP32 (R71). -/
def elemValue (f : Fmt) (bits : Nat) : Fp :=
  match f with
  | .pair => val32 (fadd (BitVec.ofNat 32 bits) (BitVec.ofNat 32 (bits / 2 ^ 32)))
  | g => fpDecode g bits

/-- A word of a floating format under the clamped column of R55: a finite value copies. -/
def clampWord (f : Fmt) (bits : Nat) : Conv :=
  match fpDecode f bits with
  | .fin _ _ _ => ⟨bits, false, false⟩
  | v => convTo f false none v

/-- An element of a format as a stream delivers it in another: its encoding, saturations and NaNs counted.
`clampSame` applies the clamped column to equal floating formats. A single value that enters a pair becomes its sum word with a
comp word of +0, which R71 does not state (DESIGN CHOICE, log entry 61). -/
def streamConv (src dst : Fmt) (prop clampSame : Bool) (bits : Nat) : Nat × Nat × Nat :=
  let n (b : Bool) : Nat := if b then 1 else 0
  if src = dst then
    if clampSame && !fmtIsInt src then
      match src with
      | .pair =>
        let c1 := clampWord .fp32 (bits % 2 ^ 32)
        let c2 := clampWord .fp32 (bits / 2 ^ 32)
        (c1.bits + c2.bits * 2 ^ 32, n c1.sat + n c2.sat, n c1.nan + n c2.nan)
      | g =>
        let c := clampWord g bits
        (c.bits, n c.sat, n c.nan)
    else (bits, 0, 0)
  else
    match dst with
    | .pair =>
      let c := convTo .fp32 prop none (elemValue src bits)
      (c.bits, n c.sat, n c.nan)
    | g =>
      let c := convTo g prop none (elemValue src bits)
      (c.bits, n c.sat, n c.nan)

/-- An element read from a tensor (R52): a NaN of a clamped tensor enters as +0 and is counted, word by word in a pair. -/
def readElem (f : Fmt) (cls : Bool) (bits : Nat) : Nat × Nat :=
  let word (g : Fmt) (w : Nat) : Nat × Nat := if !cls && fpIsNan (fpDecode g w) then (0, 1) else (w, 0)
  if fmtIsInt f then (bits, 0)
  else match f with
    | .pair =>
      let lo := word .fp32 (bits % 2 ^ 32)
      let hi := word .fp32 (bits / 2 ^ 32)
      (lo.1 + hi.1 * 2 ^ 32, lo.2 + hi.2)
    | g => word g bits

/-- Convert the elements of a row: encodings, saturations, NaNs. -/
def convRow (src dst : Fmt) (prop clampSame : Bool) (es : List Nat) : List Nat × Nat × Nat :=
  es.foldr (fun e acc =>
    let (b, st, nn) := streamConv src dst prop clampSame e
    (b :: acc.1, acc.2.1 + st, acc.2.2 + nn)) ([], 0, 0)

/-- Convert the elements read from a row of a slot: by the slot's class, then to the target (R52). -/
def convFrom (t : Slot) (dst : Fmt) (prop clampSame : Bool) (es : List Nat) : List Nat × Nat × Nat :=
  let rs := es.map (readElem t.fmt t.cls)
  let (out, sats, nans) := convRow t.fmt dst prop clampSame (rs.map fun r => r.1)
  (out, sats, nans + (rs.map fun r => r.2).sum)

/-! ### Events and halts -/

/-- Whether a dale is the partner of a pair: what it sends outward stays in it (R436). -/
def isShadow (s : State) (d : Nat) : Bool := (dale s d).isPartner

/-- The leaf dales of a dale's multicast block: none where its route is no multicast route. -/
def leafDales (s : State) (d : Nat) (b : Block) : List Nat :=
  let e := routeEntry s (daleCol d) (b.args / 2 ^ 52)
  if rtValid e && rtMcast e then (leafCols e (daleCol d)).filterMap colDale else []

/-- The group of a multicast block, and the sender a MCAST_RECV names (R230). -/
def groupOf (b : Block) : Nat := if b.kind = 2 then b.args / 2 ^ 38 % 256 else b.args / 2 ^ 47 % 256
def senderOf (b : Block) : Nat := b.args / 2 ^ 55

/-- The channel of a dale whose front block has begun and satisfies a condition. -/
def channelWith (x : Dale) (f : Block → Bool) : Option Nat :=
  (x.channels.find? fun c => match c.2.blocks.head? with | some b => b.begun && f b | none => false).map (·.1)

/-- Why the unit at a col is in absorb mode, if it is (R276). -/
def absorbStatus (s : State) (c : Nat) : Option Status :=
  match (ni s c).state with
  | 2 => some .targetIsolated
  | 3 => some .domainOff
  | _ => none

/-- Poison every row of a slot (R240). -/
def poisonSlot (s : State) (d k : Nat) : State :=
  match slotOf (dale s d) k with
  | none => s
  | some t => (List.range t.rows).foldl (fun u r => markRow u d k r) s

/-- Poison every row of the slot of a block that never moved (R240). -/
def poisonBlock (s : State) (d : Nat) (b : Block) : State := if isOperand b then s else poisonSlot s d b.slot

/-- Mark the rows that a halted block has not delivered (R240): of an inbound one its own, of one whose descriptor was never
read every row of the slot. -/
def markUndone (s : State) (d : Nat) (b : Block) : State :=
  if isOperand b then s
  else if 16 ≤ b.kind then poisonSlot s d b.slot
  else if b.outbound || b.kind == 2 then s
  else (List.range b.rows).foldl (fun u r => if b.done.testBit r then u else markRow u d b.slot r) s

/-- The first row a block has not delivered. -/
def firstUndone (b : Block) : Nat := ((List.range b.rows).find? fun r => !b.done.testBit r).getD 0

/-- The channel's port queue is free again. -/
def unbindPort (s : State) (d : Nat) (b : Block) : State :=
  if isPort b then
    updDale s d fun x =>
      if b.outbound then
        { x with portOut := tset PortQueue.reset x.portOut (portQueue b) { tget PortQueue.reset x.portOut (portQueue b) with bound := none } }
      else
        { x with portIn := tset PortQueue.reset x.portIn (portQueue b) { tget PortQueue.reset x.portIn (portQueue b) with bound := none } }
  else s

/-- Halt a channel (R240): the rows its block has not delivered are marked with their fill bits set, every later block
bound to it poisons its whole slot and completes, and event 0x0801 is handed over. -/
def haltOne (s : State) (d c cause : Nat) (st : Status) (row addr : Nat) : State :=
  let ch := chanOf (dale s d) c
  let s1 := updChan s d c fun h => { h with halted := some st, blocks := [], lost := 0 }
  let s2 :=
    match ch.blocks with
    | [] => s1
    | b :: rest => rest.foldl (fun u e => poisonBlock u d e) (unbindPort (markUndone s1 d b) d b)
  odBump (emitDale (updDale s2 d smRetire) d 0x0801 sevError [(4, c), (3, cause), (8, statusCode st), (13, row), (32, addr)]) 0x5000 3 1

/-- A cancel reaches a leaf (R238, R239): its MCAST_RECV of the sender and group halts with the sender's status (cause 6 of
R240), or will when it begins (log entry 67). -/
def cancelLeaf (s : State) (d sender group : Nat) (st : Status) : State :=
  match channelWith (dale s d) fun b => b.kind == 3 && senderOf b == sender && groupOf b == group with
  | some c =>
    match frontBlock s d c with
    | some b => haltOne s d c 6 st (firstUndone b) b.addr
    | none => s
  | none => updDale s d fun x => { x with cancels := x.cancels ++ [(sender, group, st)] }

/-- Cancel the group of a multicast block (R238, R239): a cancel to every leaf that has not acknowledged the block. READYs that
the group still sends are for the cancelled block (log entry 67). -/
def cancelGroup (s : State) (d : Nat) (b : Block) (st : Status) : State :=
  let g := groupOf b
  let s1 := updDale s d fun x =>
    { x with cancels := x.cancels ++ [(512, g, st)], readies := x.readies.filter fun r => r.2.2.2 != g }
  ((leafDales s d b).filter fun l => !b.acked.contains l).foldl (fun t l =>
    if l = d then cancelLeaf t d d g st
    else handNotice t d (daleCol l) tyMcastCancel (statusCode st) (daleEpoch t d) g []) s1

/-- Halt a channel for a cause of its own (R240): a multicast sender cancels its group. -/
def haltChannel (s : State) (d c cause : Nat) (st : Status) (row addr : Nat) : State :=
  let t := haltOne s d c cause st row addr
  match frontBlock s d c with
  | some b => if b.kind = 2 then cancelGroup t d b st else t
  | none => t

/-! ### The multicast exchange (R238, R239) -/

/-- A leaf's READY reaches its sender: it counts for the block of its group, or waits for that to begin; another shape halts
the sender. -/
def mcastReady (s : State) (d leaf rows elems group : Nat) : State :=
  match channelWith (dale s d) fun b => b.kind == 2 && groupOf b == group && !b.ready.contains leaf with
  | some c =>
    match frontBlock s d c with
    | some b =>
      if rows ≠ b.rows ∨ elems ≠ b.elems then haltChannel s d c 4 .formatError 0 b.addr
      else setFront s d c { b with ready := b.ready ++ [leaf] }
    | none => s
  | none =>
    if (dale s d).cancels.any fun e => e.1 == 512 && e.2.1 == group then s
    else updDale s d fun x => { x with readies := x.readies ++ [(leaf, rows, elems, group)] }

/-- A leaf's acknowledgement reaches its sender; an absorbed leaf's status is latched with event 0x0802 (R239). -/
def noteAck (s : State) (d leaf group status : Nat) : State :=
  match channelWith (dale s d) fun b => b.kind == 2 && groupOf b == group && !b.acked.contains leaf with
  | some c =>
    match frontBlock s d c with
    | some b =>
      let s1 := setFront s d c { b with acked := b.acked ++ [leaf] }
      if status = 0 then s1
      else
        emitDale (updChan s1 d c fun h => { h with latched := if h.latched.isSome then h.latched else some (statusOf status) })
          d 0x0802 sevWarning [(4, c), (8, group), (16, leaf), (8, status)]
    | none => s
  | none => s

/-- A leaf acknowledges its block to the sender, back along the path of the data (R238, R269); in its own dale at once. -/
def sendMcastAck (s : State) (d : Nat) (b : Block) : State :=
  if senderOf b = d then noteAck s d d (groupOf b) 0
  else
    match b.came with
    | some p => handPacket s (daleCol d) (answerPacket p (daleCol d) tyMcastAck 0 false [])
    | none => s

/-- The READYs of a group that came before its block began: the first of each leaf, and the others. -/
def earlyReadies (group : Nat) (rs : List (Nat × Nat × Nat × Nat)) : List (Nat × Nat × Nat × Nat) × List (Nat × Nat × Nat × Nat) :=
  rs.foldl (fun acc r =>
    if r.2.2.2 == group && !acc.1.any (fun q => q.1 == r.1) then (acc.1 ++ [r], acc.2) else (acc.1, acc.2 ++ [r])) ([], [])

/-! ### Signatures (R437) -/

/-- The signature of a block. -/
def blockSig (b : Block) : Nat := crc32 (b.sent ++ leBytes 8 b.addr ++ leBytes 8 b.sent.length)

/-- SHADOW_SIG of a dale (R448). -/
def shadowSigAddr (d : Nat) : Nat := 0x0200000E0000 + 0x20 * d

/-- Form a signature: the partner sends it to the primary, the primary keeps it for the comparison (R437). -/
def formSig (s : State) (d sig : Nat) : State :=
  let x := dale s d
  match x.partner with
  | none => s
  | some p =>
    let s1 := updDale s d fun y => { y with sigs := y.sigs ++ [sig] }
    if x.isPartner then
      match handRequest s1 (daleCol d) (0x100 + daleCol p) tyCtrlWrite (shadowSigAddr p) 1 0 false (leBytes 16 sig)
          (daleEpoch s d) ⟨d, 0xFF, 0, 0⟩ 4 with
      | some t => t
      | none => s1
    else s1

/-! ### Beginning and completing a block -/

/-- Clear a slot's fill bits but for the rows from `n` on, which are set (R177, R232). -/
def clearFill (s : State) (d k n : Nat) : State :=
  match slotOf (dale s d) k with
  | none => s
  | some t => updDale s d fun x => setSlot x k { t with fill := ones t.rows - ones (min n t.rows) }

/-- Bind the port queue of a block to its channel, unless another block holds it. -/
def bindPort (s : State) (d c : Nat) (b : Block) : Option State :=
  if !isPort b then some s
  else
    let x := dale s d
    let q := portQueue b
    if b.outbound then
      let p := tget PortQueue.reset x.portOut q
      if p.bound.isSome then none
      else some (setDale s d { x with portOut := tset PortQueue.reset x.portOut q { p with bound := some c } })
    else
      let p := tget PortQueue.reset x.portIn q
      if p.bound.isSome then none
      else some (setDale s d { x with portIn := tset PortQueue.reset x.portIn q { p with bound := some c } })

/-- A MCAST_RECV begins (R238 step 1): it sends READY to its sender, in its own dale at once; a group cancelled before halts
it. -/
def beginRecv (s : State) (d c : Nat) (b : Block) : State :=
  match (dale s d).cancels.find? fun e => e.1 == senderOf b && e.2.1 == groupOf b with
  | some e => haltOne (updDale s d fun x => { x with cancels := x.cancels.erase e }) d c 6 e.2.2 0 b.addr
  | none =>
    if senderOf b = d then mcastReady s d d b.rows b.elems (groupOf b)
    else
      handNotice s d (daleCol (senderOf b)) tyMcastReady 0 (daleEpoch s d) (groupOf b)
        (leBytes 2 b.rows ++ leBytes 2 b.elems ++ List.replicate 12 0#8)

/-- A MCAST_SEND begins (R238 step 2): its route's leaves are checked, and READYs that came early count. -/
def beginSend (s : State) (d c : Nat) (b : Block) : State :=
  let e := routeEntry s (daleCol d) (b.args / 2 ^ 52)
  let (early, others) := earlyReadies (groupOf b) (dale s d).readies
  if !rtValid e || !rtMcast e || rtLeaves e != b.args / 2 ^ 46 % 64 + 1
      || early.any (fun r => r.2.1 != b.rows || r.2.2.1 != b.elems) then
    haltChannel s d c 4 .formatError 0 b.addr
  else
    setFront (updDale s d fun x =>
      { x with readies := others, cancels := x.cancels.filter fun e => !(e.1 == 512 && e.2.1 == groupOf b) })
      d c { b with ready := early.map fun r => r.1 }

/-- What a multicast block does when it begins. -/
def beginMcast (s : State) (d c : Nat) (b : Block) : State :=
  if b.kind = 3 then beginRecv s d c b else if b.kind = 2 then beginSend s d c b else s

/-- Why a port may bind no new block (R336, R338), with the cause of R240. -/
def portRefusal (x : Dale) : Option (Nat × Status) :=
  if x.portLive ≠ 1 then some (3, .domainOff)
  else match x.portOff with
    | some st => some (5, st)
    | none => none

/-- Take up the block at the front of a channel, if it has not begun: check it (R232), clear the fill bits of an
inbound one (R177). -/
def startFront (s : State) (d c : Nat) : State :=
  match frontBlock s d c with
  | none => s
  | some b =>
    if b.begun then s
    else if b.kind == 16 then haltChannel s d c 1 .uncorrectable 0 b.addr
    else if !blockFits b (blockSlot (dale s d) b) then haltChannel s d c 4 .formatError 0 b.addr
    else
      match (if isPort b then portRefusal (dale s d) else none), bindPort s d c b with
      | some (cause, st), _ => haltChannel s d c cause st 0 b.addr
      | none, none => s
      | none, some s1 =>
        let b1 := { b with begun := true }
        let s2 := setFront s1 d c b1
        let s3 := if b.outbound || b.kind == 2 || isOperand b then s2 else clearFill s2 d b.slot b.rows
        beginMcast s3 d c b1

/-- Start every channel of a dale whose front block waited for its port. -/
def startAll (s : State) (d : Nat) : State :=
  (dale s d).channels.foldl (fun t c => startFront t d c.1) s

/-- Complete the block at the front of a channel (R228): a leaf acknowledges its sender (R238), an outbound block
forms its signature (R437), and the next block begins. -/
def completeBlock (s : State) (d c : Nat) : State :=
  match frontBlock s d c with
  | none => s
  | some b =>
    let s1 := updDale (unbindPort (updChan s d c fun h => { h with blocks := h.blocks.tail }) d b) d smRetire
    let s2 :=
      if b.kind = 3 then sendMcastAck s1 d b
      else if b.outbound then formSig s1 d (blockSig b)
      else s1
    if isPort b then startAll s2 d else startFront s2 d c

/-! ### Inbound data -/

/-- The stream bytes that a row of a block takes: keys from `a`, `n` of them (R234 for a transposed group). -/
def rowKeys (b : Block) (r : Nat) : List Nat :=
  if isPort b then
    let bits := fmtBits b.fmt
    let lo := r * b.elems * bits / 8
    let hi := ((r + 1) * b.elems * bits + 7) / 8
    (List.range (hi - lo)).map (lo + ·)
  else if b.transpose then
    let esz := fmtBits b.fmt / 8
    (List.range b.elems).flatMap fun i => (List.range (64 * esz)).map fun k => rawKey i (r / 64 * 64 * esz + k)
  else (List.range (remBytes b)).map (rawKey r)

/-- Whether every byte a row needs has arrived. -/
def rowArrived (b : Block) (r : Nat) : Bool := (rowKeys b r).all fun k => b.raw.any fun e => e.1 == k

/-- The bytes of a packed run of a block's raw data. -/
def rawField (b : Block) (key n : Nat) : Nat := leNat ((List.range n).map fun i => tget 0#8 b.raw (key + i))

/-- The remote encoding of slot element (r, c), out of what has arrived. -/
def rawElem (b : Block) (r c : Nat) : Nat :=
  let bits := fmtBits b.fmt
  let at4 (key n : Nat) : Nat := let v := rawField b (key + n / 2) 1; if n % 2 = 0 then v % 16 else v / 16
  if isPort b then
    let n := r * b.elems + c
    if bits = 4 then at4 0 n else rawField b (n * (bits / 8)) (bits / 8)
  else if b.transpose then rawField b (rawKey c (r * (bits / 8))) (bits / 8)
  else if bits = 4 then at4 (rawKey r 0) c
  else rawField b (rawKey r (c * (bits / 8))) (bits / 8)

/-- Fill a slot row that has arrived (R233): convert its elements, write it, set its fill bit and its mark. -/
def fillRow (s : State) (d c : Nat) (b : Block) (t : Slot) (r : Nat) : State :=
  let es := (List.range b.elems).map (rawElem b r)
  let (out, sats, nans) := convRow b.fmt t.fmt t.cls (!t.cls) es
  let s1 := countNan (countSat s d sats 3 (fmtCode t.fmt)) d nans
  let bs := outBytes s1 d t r out
  let s2 := writeRow s1 d b.slot r bs (b.marked.testBit r) b.pc
  let s3 := odBump s2 0x5000 1 bs.length
  match frontBlock s3 d c with
  | some b' => setFront s3 d c { b' with done := bitPut b'.done r true }
  | none => s3

/-- Fill every slot row of a channel's block that has all its bytes, and complete the block after its last (R228). -/
def fillArrived (s : State) (d c : Nat) : State :=
  match frontBlock s d c with
  | none => s
  | some b =>
    match blockSlot (dale s d) b with
    | none => s
    | some t =>
      let s1 := (List.range b.rows).foldl (fun u r =>
        if b.done.testBit r || !rowArrived b r then u else fillRow u d c b t r) s
      match frontBlock s1 d c with
      | none => s1
      | some b1 => if b1.done % 2 ^ b1.rows = ones b1.rows then completeBlock s1 d c else s1

/-- The rows of the slot that bytes of a remote row fall in. -/
def rowsOfBytes (b : Block) (row off n : Nat) : List Nat :=
  let bits := fmtBits b.fmt
  if isPort b then
    (List.range b.rows).filter fun r => decide (r * b.elems * bits < (off + n) * 8) && decide (off * 8 < (r + 1) * b.elems * bits)
  else if b.transpose then
    (List.range b.rows).filter fun r => decide (r * bits < (off + n) * 8) && decide (off * 8 < (r + 1) * bits)
  else [row]

/-- The slot row of the byte at a key of a block's remote layout. -/
def slotRowOf (b : Block) (key : Nat) : Nat := (rowsOfBytes b (key / 65536) (key % 65536) 1).headD (key / 65536)

/-- Take bytes of a remote row into the front block (R233), marking the rows they fall in when they carry a mark
(R433). -/
def takeBytes (b : Block) (row off : Nat) (bs : List Byte) (poison : Bool) : Block :=
  let raw := (List.range bs.length).foldl (fun t i => tins t (rawKey row off + i) (bs.getD i 0#8)) b.raw
  let marked := if poison then (rowsOfBytes b row off bs.length).foldl (fun m r => bitPut m r true) b.marked else b.marked
  { b with raw := raw, marked := marked }

/-- A multicast sender relays the rows that have arrived whole (R238): MCAST_DATA along its route, the slot row in
TAG, the group in AUX. -/
def relayRow (s : State) (d : Nat) (b : Block) (row : Nat) : State :=
  let e := routeEntry s (daleCol d) (b.args / 2 ^ 52)
  let bs := (List.range (remBytes b)).map fun i => tget 0#8 b.raw (rawKey row i)
  (List.range ((bs.length + 255) / 256)).foldl (fun t i =>
    let part := (bs.drop (256 * i)).take 256
    let p := mkPacket e tyMcast (daleCol d) row (rtBranch e) ((part.length + 15) / 16) 0 (daleEpoch s d)
      (groupOf b) (b.marked.testBit row) part
    handPacket t (daleCol d) p) s

/-- Relay every row of a sender's block that has arrived and is not yet relayed. -/
def relayArrived (s : State) (d c : Nat) : State :=
  match frontBlock s d c with
  | none => s
  | some b =>
    (List.range b.rows).foldl (fun u r =>
      if b.done.testBit r || !rowArrived b r then u
      else
        let u1 := relayRow u d b r
        match frontBlock u1 d c with
        | some b' => setFront u1 d c { b' with done := bitPut b'.done r true }
        | none => u1) s

/-- A multicast sender completes when every leaf has acknowledged and every row is relayed. -/
def checkMcast (s : State) (d ch : Nat) : State :=
  match frontBlock s d ch with
  | some b =>
    if b.kind = 2 && b.begun && b.done % 2 ^ b.rows == ones b.rows && (leafDales s d b).all (fun l => b.acked.contains l) then
      completeBlock s d ch
    else s
  | none => s

/-- Every multicast sender of a dale that may complete does. -/
def checkMcasts (s : State) (d : Nat) : State := (dale s d).channels.foldl (fun t c => checkMcast t d c.1) s

/-- A piece of an inbound or multicast block arrives (R233, R236): the request it answers is outstanding no longer, which for
the one request of a gathered row is when the row is whole (R241). -/
def deliverPiece (s : State) (d c row off : Nat) (bs : List Byte) (poison : Bool) : State :=
  match frontBlock s d c with
  | none => s
  | some b =>
    let b0 := takeBytes b row off bs poison
    let b1 := if b.kind = 1 ∧ rowArrived b0 row = false then b0 else { b0 with waiting := b0.waiting - 1 }
    let s1 := setFront s d c b1
    if b.kind = 2 then relayArrived s1 d c else fillArrived s1 d c

/-- The block number that a piece belongs to still is the channel's front block. -/
def isFront (s : State) (d c no : Nat) : Bool :=
  match frontBlock s d c with
  | some b => b.no == no && b.begun
  | none => false

/-- An outbound block completes when its last piece is acknowledged (R228). -/
def checkOutbound (s : State) (d c : Nat) : State :=
  match frontBlock s d c with
  | some b => if b.outbound && !isPort b && allIssued b && b.waiting == 0 then completeBlock s d c else s
  | none => s

/-- An outbound piece is acknowledged. -/
def ackPiece (s : State) (d c len : Nat) : State :=
  match frontBlock s d c with
  | some b => checkOutbound (odBump (setFront s d c { b with waiting := b.waiting - 1 }) 0x5000 2 len) d c
  | none => s

/-! ### Outbound data -/

/-- The slot rows that an outbound piece reads. -/
def rowsOfPiece (b : Block) (row off len : Nat) : List Nat :=
  if b.transpose then
    let esz := fmtBits b.fmt / 8
    let lo := off / esz / 64 * 64
    let hi := ((off + len - 1) / esz / 64 + 1) * 64
    (List.range (min hi b.rows - lo)).map (lo + ·)
  else [row]

/-- Elements of a slot row, with the row's mark and the store's word marks (R432, R433). -/
def slotElems (s : State) (d : Nat) (b : Block) (t : Slot) (r : Nat) : State × List Nat × Bool :=
  let (s1, bs, m) := readRow s d t r (elemsBytes t.fmt b.elems) 2 b.pc
  (s1, (List.range b.elems).map (elemBits t.fmt bs), m)

/-- The slot row bytes an outbound block would read, or the keys a set instruction left with it. -/
def operandRowBytes (b : Block) (row : Nat) : List Byte :=
  (List.range (rowLen b row)).map fun i => tget 0#8 b.raw (rawKey row i)

/-- The bytes of remote row `row` of an outbound block, converted, with whether any row it was read from is marked;
conversions are counted when `count` holds (R233). -/
def outRow (s : State) (d : Nat) (b : Block) (t : Slot) (row : Nat) (count : Bool) : State × List Byte × Bool :=
  let (s1, es, m) :=
    if b.transpose then
      (List.range b.rows).foldl (fun (acc : State × List Nat × Bool) r =>
        let (u, es, m) := slotElems acc.1 d b t r
        (u, acc.2.1 ++ [es.getD row 0], acc.2.2 || m)) (s, [], false)
    else slotElems s d b t row
  let (out, sats, nans) := convFrom t b.fmt false false es
  let s2 := if count then countNan (countSat s1 d sats 3 (fmtCode b.fmt)) d nans else s1
  (s2, packElems b.fmt out, m)

/-- Count a marked row that an outbound block sends (R434). -/
def countPoisonSent (s : State) (d c : Nat) : State :=
  odBump (updDale s d fun x =>
    { x with poisonSent := holdAdd x.poisonSent 1, poisonChan := if x.poisonSent = 0 then c else x.poisonChan }) 0x7820 5 1

/-! ### Dale ports (R332-R334) -/

/-- The bytes of beat `k` of an outbound port block, and whether a row they come from is marked. -/
def portBeat (s : State) (d : Nat) (b : Block) (t : Slot) (k : Nat) : State × List Byte × Bool :=
  let per := 256 / fmtBits b.fmt
  let ns := (List.range per).filterMap fun i => if k * per + i < b.rows * b.elems then some (k * per + i) else none
  let (s1, es, m) := ns.foldl (fun (acc : State × List Nat × Bool) n =>
    let (u, row, m) := slotElems acc.1 d b t (n / b.elems)
    (u, acc.2.1 ++ [row.getD (n % b.elems) 0], acc.2.2 || m)) (s, [], false)
  let (out, sats, nans) := convFrom t b.fmt false false es
  (countNan (countSat s1 d sats 3 (fmtCode b.fmt)) d nans, packElems b.fmt out, m)

/-- The slot rows that beat `k` carries bytes of. -/
def portBeatRows (b : Block) (k : Nat) : List Nat :=
  let per := 256 / fmtBits b.fmt
  let lo := k * per / b.elems
  let hi := (min ((k + 1) * per) (b.rows * b.elems) - 1) / b.elems
  (List.range (hi + 1 - lo)).map (lo + ·)

/-- Move one beat of the bound outbound block into its port queue when there is room and its rows are filled. -/
def pumpBeat (s : State) (d c : Nat) : State :=
  match frontBlock s d c with
  | none => s
  | some b =>
    let q := tget PortQueue.reset (dale s d).portOut (portQueue b)
    match slotOf (dale s d) b.slot with
    | none => s
    | some t =>
      if isPort b && b.outbound && b.begun && q.bound == some c && q.beats.length < 16 && b.next * 32 < portBytes b
          && !unitWriterPending (dale s d) b.slot && (portBeatRows b b.next).all (fun r => t.fill.testBit r) then
        let (s1, bs, m) := portBeat s d b t b.next
        let last := decide ((b.next + 1) * 32 ≥ portBytes b)
        let s2 := setFront s1 d c { b with next := b.next + 1, waiting := b.waiting + 1, sent := b.sent ++ bs }
        let s3 := if m then countPoisonSent s2 d c else s2
        updDale s3 d fun x =>
          let p := tget PortQueue.reset x.portOut (portQueue b)
          { x with portOut := tset PortQueue.reset x.portOut (portQueue b) { p with beats := p.beats ++ [(bs, m, last)] } }
      else s

/-- Drop the first beat of a port queue. -/
def popBeat (p : PortQueue) : PortQueue := { p with beats := p.beats.tail }

/-- The partner's outbound port block reaches no steppe: its beats are taken at once (R436). -/
def shadowBeat (s : State) (d c : Nat) : State :=
  if isShadow s d then
    match frontBlock s d c with
    | some b =>
      if isPort b && b.outbound then
        let s1 := updDale s d fun x =>
          { x with portOut := tset PortQueue.reset x.portOut (portQueue b) (popBeat (tget PortQueue.reset x.portOut (portQueue b))) }
        let s2 := setFront s1 d c { b with waiting := 0 }
        if b.next * 32 ≥ portBytes b then completeBlock s2 d c else s2
      else s
    | none => s
  else s

/-- Move beats of a dale's outbound port blocks into their queues: one on each channel. -/
def pumpPorts (s : State) (d : Nat) : State :=
  (dale s d).channels.foldl (fun t c => shadowBeat (pumpBeat t d c.1) d c.1) s

/-- Bytes of an inbound port block still to come. -/
def portLeft (b : Block) : Nat := portBytes b - b.next

/-- Move the first beat of an inbound queue into the slot of the block bound to it (R332, R334): bytes beyond the
block's count stay in the queue. -/
def drainBeat (s : State) (d q : Nat) : State :=
  let p := tget PortQueue.reset (dale s d).portIn q
  match p.bound, p.beats with
  | some c, (bs, poison, last) :: rest =>
    match frontBlock s d c with
    | none => s
    | some b =>
      let n := min bs.length (portLeft b)
      let left := bs.drop n
      -- the parity of the beat is checked as it enters the store: a failure marks the rows its bytes fall in
      let bad := (dale s d).badBytes.find? fun e => e.1 == 0x44 + q && e.2.1 == 0
      let s0 := updDale s d fun x =>
        { x with portIn := tset PortQueue.reset x.portIn q { p with beats := if left.isEmpty then rest else (left, poison, last) :: rest },
                 badBytes := if bad.isSome then x.badBytes.filter (fun e => !(e.1 == 0x44 + q && e.2.1 == 0)) else x.badBytes }
      let s1 :=
        match bad with
        | some e =>
          let a := 0x020000080014 + 0x1000 * (d % 32 / 2)
          odBump (emitDale (winSet s0 a (holdAdd (winGet s0 a) 1)) d 0x0B02 sevError
            [(1, 1), (2, q), (5, e.2.2), (4, c), (13, (rowsOfBytes b 0 b.next n).headD 0)]) 0x5800 2 1
        | none => s0
      let b1 := takeBytes { b with next := b.next + n } 0 b.next (bs.take n) (poison || bad.isSome)
      fillArrived (setFront s1 d c b1) d c
  | _, _ => s

/-- Drain what an inbound queue holds into the blocks bound to it, at most `fuel` beats. -/
def drainPort (d q : Nat) : Nat → State → State
  | 0, s => s
  | fuel + 1, s => drainPort d q fuel (drainBeat s d q)

/-- Everything the ports of a dale can move now. -/
def portMoves (s : State) (d : Nat) : State :=
  (List.range 4).foldl (fun t q => drainPort d q 17 t) (pumpPorts (startAll s d) d)

end Sys2Proof.Machine
end

