-- ==== Sys2Proof/Machine/Stream.lean ====
section
/-! DEFINITION. The stream engine's commands (R228-R240): SSTART, TCOPY, the fetch of block lists, the issue of
requests, and multicast rows. -/
namespace Sys2Proof.Machine

/-! ### SSTART (R228, R231) -/

/-- What an SSTART finds at its channel when it is next to issue. -/
inductive Peek where
  /-- The block has not been fetched yet. -/
  | wait
  /-- A new list opens first. -/
  | opens (off : Nat)
  /-- The words of the block it takes; none where the channel is halted or the list is broken. -/
  | takes (desc : List W64)
deriving DecidableEq, Repr

/-- Look at the channel of an SSTART (R228, R231): a register other than x0 opens a list, x0 continues it. -/
def sstartPeek (x : Dale) (f : RInst) : Peek :=
  let ch := chanOf x (immR f % 16)
  if ch.halted.isSome then .takes []
  else if f.s % 32 ≠ 0 ∧ !ch.opening then
    let off := (xget x f.s).toNat
    if off % 32 ≠ 0 ∨ off > 0xBFFE0 then .takes [] else .opens off
  else if !ch.isOpen ∨ ch.ended then .takes []
  else
    match ch.fetched with
    | [] => .wait
    | w :: _ => .takes w

/-- Open a list (R228): what was fetched of the old one is dropped. -/
def openList (s : State) (d c off : Nat) : State :=
  updChan s d c fun h => { h with isOpen := true, opening := true, listOff := off, fetched := [], ended := false }

/-- The channel after an SSTART took what `sstartPeek` showed. -/
def takeBlock (s : State) (d c : Nat) : State :=
  updChan s d c fun h =>
    match h.fetched with
    | [] => h
    | w :: rest => { h with opening := false, fetched := rest, ended := wbits (w.getD 1 0#64) 57 57 == 1 }

/-- Bind a block to its slot and start it (R228); on a halted channel the instruction completes at once and poisons
every row of its slot (R240). -/
def sstartBind (s : State) (d : Nat) (f : RInst) (desc : List W64) (no pc : Nat) : State :=
  let c := immR f % 16
  if (chanOf (dale s d) c).halted.isSome then updDale (poisonSlot s d (f.d % 16)) d smRetire
  else
    let b := blockOf desc (f.d % 16) no pc
    portMoves (startFront (updChan s d c fun h => { h with blocks := h.blocks ++ [b] }) d c) d

/-- Whether an entry of the SM queue is an instruction of class 6 with an OP and fields. -/
def smIs (e : QEnt) (o : Nat) (f : RInst) : Bool := wclass e.word == 6 && wop e.word == o && decide (decR e.word = f)

/-- SSTART: the next instruction of the SM queue that its unit has not begun, binding the block it took at issue; with none,
one that issues now and takes its block now. It stays in the queue until it completes (R172, R228). -/
def sstartState (d : Nat) (f : RInst) (s : State) : State :=
  let x := dale s d
  let c := immR f % 16
  match smNext x with
  | some h =>
    if smIs h 1 f && !smConflict x (some c) f.d (!descReads h.desc) then
      sstartBind (updDale s d (smBegin h.no)) d f h.desc h.no h.pc
    else s
  | none =>
    if canIssue s d && decide ((queueOf x 6).length < 16) then
      match sstartPeek x f with
      | .wait => s
      | .opens off => openList s d c off
      | .takes desc =>
        if hazard x (encR 6 1 f) desc || smConflict x (some c) f.d (!descReads desc) then s
        else
          sstartBind (updDale (issued (takeBlock s d c) d) d (smPush ⟨x.pc, encR 6 1 f, x.issueNo, desc, true⟩)) d f desc
            x.issueNo x.pc
    else s

/-! ### TCOPY -/

/-- Elements that a row of a slot holds. -/
def rowElems (t : Slot) : Nat := t.rowBytes * 8 / fmtBits t.fmt

/-- The check of TCOPY at issue: both slots valid, and a transposed read between equal formats of 8, 16 or 32 bits
(R94, R234). -/
def tcopyCheck (d : Nat) (f : RInst) (s : State) (pc : Nat) : Option State :=
  match slotOf (dale s d) f.a, slotOf (dale s d) f.d with
  | some a, some t =>
    if f.imm.getLsbD 0 && (a.fmt != t.fmt || !(fmtBits a.fmt ∈ [8, 16, 32])) then some (refuse s d 0x09 6 2 pc) else none
  | _, _ => some (refuse s d 0x09 6 2 pc)

/-- The rows a TCOPY writes: the elements of each, and whether it is marked. -/
def tcopyRows (s : State) (d pc : Nat) (a t : Slot) (trans : Bool) : State × List (List Nat × Bool) :=
  let (s1, rows) := (List.range a.rows).foldl (fun (acc : State × List (List Nat × Bool)) r =>
    let (u, bs, m) := readRow acc.1 d a r a.rowBytes 2 pc
    (u, acc.2 ++ [((List.range (rowElems a)).map (elemBits a.fmt bs), m)])) (s, [])
  if trans then
    let marked := rows.any fun r => r.2
    (s1, (List.range (min t.rows (rowElems a))).map fun i =>
      ((rows.take (rowElems t)).map fun r => r.1.getD i 0, marked))
  else (s1, (rows.take t.rows).map fun r => (r.1.take (rowElems t), r.2))

/-- The effect of TCOPY (R177, R186, R233): it waits for the rows of its source. -/
def tcopyBody (d : Nat) (f : RInst) (pc : Nat) (s : State) : Option State :=
  match slotOf (dale s d) f.a, slotOf (dale s d) f.d with
  | some a, some t =>
    if smConflict (dale s d) none f.a false || smConflict (dale s d) none f.d true || !filledTo a a.rows then none
    else
      let (s1, rows) := tcopyRows s d pc a t (f.imm.getLsbD 0)
      let s2 := clearFill s1 d (f.d % 16) a.rows
      let s3 := (List.range rows.length).foldl (fun u r =>
        let (es, m) := rows.getD r ([], false)
        let (out, sats, nans) := convFrom a t.fmt t.cls (!t.cls) es
        let u1 := countNan (countSat u d sats 3 (fmtCode t.fmt)) d nans
        writeRow u1 d (f.d % 16) r (outBytes u1 d t r out) m pc) s2
      some (fillAll s3 d (f.d % 16))
  | _, _ => some s

/-- TCOPY with its place in the SM queue marked as begun: its effect, and what is now complete leaves the queue. -/
def tcopyRun (d : Nat) (f : RInst) (pc : Nat) (s : State) : Option State :=
  (tcopyBody d f pc s).map fun t => updDale t d smRetire

/-- TCOPY (R186): the next of the SM queue that has not begun, or one that issues now; it leaves the queue behind those before
it (R172). -/
def tcopyState (d : Nat) (f : RInst) (s : State) : State :=
  let x := dale s d
  match smNext x with
  | some h => if smIs h 2 f then (tcopyRun d f h.pc (updDale s d (smBegin h.no))).getD s else s
  | none =>
    if canIssue s d && !hazard x (encR 6 2 f) [] && decide ((queueOf x 6).length < 16) then
      match tcopyCheck d f s x.pc with
      | some t => t
      | none => (tcopyRun d f x.pc (updDale (issued s d) d (smPush ⟨x.pc, encR 6 2 f, x.issueNo, [], true⟩))).getD s
    else s

/-! ### Block lists (R231) -/

/-- Read the descriptors of a burst: at most `fuel` from an offset. A LINK moves the list and ends the burst, the
list's final block ends it too; a broken list ends with a block of no words, a bad word with a block of one. -/
def fetchBurst (d : Nat) : Nat → State → Nat → List (List W64) → State × Nat × List (List W64)
  | 0, s, off, acc => (s, off, acc)
  | fuel + 1, s, off, acc =>
    if off % 32 ≠ 0 ∨ off > 0xBFFE0 then (s, off, acc ++ [[]])
    else
      let (s1, bs, m) := storeRead s d off 32 2 0
      if m then (s1, off, acc ++ [[0#64]])
      else
        let ws := (List.range 4).map fun i => BitVec.ofNat 64 (fieldAt bs (8 * i) 8)
        let w0 := ws.getD 0 0#64
        let w1 := ws.getD 1 0#64
        if wbits w1 63 60 = 15 then
          if wbits w0 62 52 = 0 ∧ wbits w1 56 52 = 0 ∧ wbits w1 34 32 = 0 ∧ wbits w1 18 0 = 0 ∧ ws.getD 3 0#64 = 0#64 then
            (s1, wbits w0 19 0, acc)
          else (s1, off, acc ++ [[]])
        else if wbits w1 57 57 = 1 then (s1, off + 32, acc ++ [ws])
        else fetchBurst d fuel s1 (off + 32) (acc ++ [ws])

/-- STREAM_LIST_FETCH (R231): a burst of 16 descriptors, when none is fetched ahead and the list goes on. A list
found broken with nothing bound or fetched halts the channel at once (R240). -/
def streamListFetchState (d ch : Nat) (s : State) : State :=
  let h := chanOf (dale s d) ch
  if !h.isOpen || h.ended || h.halted.isSome || !h.fetched.isEmpty || !daleOn s d || (dale s d).isolated then s
  else
    let (s1, off, got) := fetchBurst d 16 s h.listOff []
    let s2 := updChan s1 d ch fun c => { c with listOff := off, fetched := got }
    if h.blocks.isEmpty then
      match got.head? with
      | some [] => haltChannel s2 d ch 4 .formatError 0 off
      | some [_] => haltChannel s2 d ch 1 .uncorrectable 0 off
      | _ => s2
    else s2

/-! ### Requests (R235, R236) -/

/-- Requests of a dale's channels outstanding: reads and writes (R236). -/
def outstanding (x : Dale) (wr : Bool) : Nat :=
  (x.channels.map fun c => (c.2.blocks.filter fun b => b.outbound == wr && !isPort b).foldl (fun n b => n + b.waiting) 0).sum

/-- Whether every leaf of a multicast block is ready: by its READY, or by being isolated or off (R238, R239). -/
def leavesReady (s : State) (d : Nat) (b : Block) : Bool :=
  (leafDales s d b).all fun l => b.ready.contains l || (absorbStatus s (daleCol l)).isSome

/-- Whether a channel has a request ready (R235). -/
def requestReady (s : State) (d c : Nat) : Bool :=
  match frontBlock s d c with
  | none => false
  | some b =>
    b.begun && !isPort b && b.kind != 3 && !allIssued b &&
    (if b.outbound then
      match blockSlot (dale s d) b with
      | none => isOperand b && outstanding (dale s d) true < 64
      | some t =>
        let (_, len) := pieceAt b (b.next / 65536) (b.next % 65536)
        outstanding (dale s d) true < 64 && !unitWriterPending (dale s d) b.slot && (rowsOfPiece b (b.next / 65536) (b.next % 65536) len).all fun r => t.fill.testBit r
    else outstanding (dale s d) false < 256 && (b.kind != 2 || leavesReady s d b))

/-- The slack of a channel (R235). -/
def chanSlack (s : State) (d c : Nat) : Nat :=
  let x := dale s d
  match frontBlock s d c with
  | none => 4096
  | some b =>
    if b.outbound || b.kind == 2 then
      -- an instruction waits at issue to write the slot the channel is reading
      match tget none x.imem (x.pc / 8) with
      | some w =>
        let desc :=
          if wclass w.word = 6 ∧ wop w.word = 1 then match sstartPeek x (decR w.word) with | .takes t => some t | _ => none
          else some []
        if canIssue s d && !isOperand b
            && ((desc.map fun t => (usesOf x (fusedAt x) w.word t).writes.contains (ot b.slot)).getD false) then 0
        else 4096
      | none => 4096
    else
      match slotReader x b.slot, blockSlot x b with
      | some true, some t => if filledTo t t.rows then popcount t.rows t.fill else 0
      | some false, some t => popcount t.rows t.fill
      | _, _ => if isOperand b then 0 else 4096

/-- The channel that wins an arbitration among candidates (R235): one that lost 16 in a row, else the lowest slack,
ties to the lower number. -/
def arbitrate (s : State) (d : Nat) (cs : List Nat) : Option Nat :=
  match cs.find? fun c => (chanOf (dale s d) c).lost ≥ 16 with
  | some c => some c
  | none =>
    cs.foldl (fun best c =>
      match best with
      | none => some c
      | some b => if chanSlack s d c < chanSlack s d b then some c else some b) none

/-- The cause of R240 that a refusing answer gives, and none for an answer that serves. -/
def answerCause (st : Status) (read : Bool) : Option Nat :=
  match st with
  | .done => none
  | .poisoned => if read then none else some 5
  | .uncorrectable => some 1
  | .targetIsolated => some 2
  | .domainOff => some 3
  | .drained => some 5
  | _ => some 4

/-- Bytes that a block's answer brings reach its channel: the piece at `key` of block `no`. -/
def pieceRead (s : State) (o : Origin) (st : Status) (bs : List Byte) (poison : Bool) : State :=
  if isFront s o.dale o.chan o.no then
    match frontBlock s o.dale o.chan, answerCause st true with
    | some b, some cause => haltChannel s o.dale o.chan cause st (slotRowOf b o.key) (pieceAt b (o.key / 65536) (o.key % 65536)).1
    | _, _ => deliverPiece s o.dale o.chan (o.key / 65536) (o.key % 65536) bs (poison || st == .poisoned)
  else s

/-- A write's acknowledgement reaches its channel. -/
def pieceWritten (s : State) (o : Origin) (st : Status) : State :=
  if isFront s o.dale o.chan o.no then
    match frontBlock s o.dale o.chan with
    | none => s
    | some b =>
      let (addr, len) := pieceAt b (o.key / 65536) (o.key % 65536)
      match answerCause st false with
      | some cause => haltChannel s o.dale o.chan cause st (slotRowOf b o.key) addr
      | none => ackPiece s o.dale o.chan len
  else s

/-- What reading words of a dale store will find: 0 good, 1 marked, 2 uncorrectable (R301, R432). -/
def storeOutcome (s : State) (d off n : Nat) : Nat :=
  (wordsOf (daleBase d + off) n).foldl (fun m w =>
    max m (match eccDecode (wordAt s w) (synOf s w) with | .poison => 1 | .uncorrectable => 2 | _ => 0)) 0

/-- The window register of an aperture: word 0 and word 1 (R428). -/
def apertureWord (s : State) (a k : Nat) : Nat := winGet s (0x0200000D1000 + 0x10 * a + 8 * k)
/-- A relay entry (R420, R428). -/
def relayEntry (s : State) (p : Nat) : Nat := winGet s (0x0200000D3000 + 2 * p)

/-- The peer message that a write through an aperture makes (R419), or none where the aperture does not allow it. -/
def apertureMsg (s : State) (addr : Nat) (bs : List Byte) (poison : Bool) (pipeline epoch tag : Nat) : Option PeerMsg :=
  let o := (addr - 0x021000000000) % 2 ^ 28
  let a := (addr - 0x021000000000) / 2 ^ 28
  let w0 := apertureWord s a 0
  let w1 := apertureWord s a 1
  let mk (op arg : Nat) (pl : List Byte) : PeerMsg :=
    { opcode := op, src := winGet s 0x0200000D0000 % 4096, dst := bitsOf w0 59 48, rvc := false, poison := poison,
      hopsLeft := bitsOf w1 63 60, pipeline := pipeline, epoch := epoch, bytes := pl.length, tag := tag, arg := arg,
      payload := pl }
  if !w0.testBit 63 then none
  else
    match bitsOf w0 62 61 with
    | 0 => some (mk 0x01 ((bitsOf w0 47 0 + o) % 2 ^ 48) bs)
    | 1 =>
      if o = 0 ∧ bs.length = 4 then some (mk 0x0B (leNat bs * 2 ^ 16 + bitsOf w1 49 41 * 2 ^ 6 + bitsOf w1 40 36) [])
      else none
    | 2 => some (mk 0x02 (bitsOf w1 59 54 * 2 ^ 42 + bitsOf w1 53 50 * 2 ^ 38 + o) bs)
    | _ => none

/-- A peer port that refuses traffic (R221): its status. -/
def peerOff (s : State) (port : Nat) : Option Status := tget none s.cp.off (2 * 65536 + port)

/-- A message waits at a peer port for its flits (R416). -/
def queuePeer (s : State) (port : Nat) (m : PeerMsg) : State :=
  let p := tget PeerPort.reset s.peers port
  { s with peers := tset PeerPort.reset s.peers port { p with out := p.out ++ [m] } }

/-- A message of this device leaves by a port and is outstanding until its ACK (R423), with the piece or access it serves. -/
def sendPeer (s : State) (port : Nat) (m : PeerMsg) (o : Option Origin) : State :=
  let s1 := queuePeer s port m
  { s1 with peerOut := s1.peerOut ++ [⟨port, m, o⟩] }

/-- Send a peer message by the port its relay entry names (R420); none when the entry is not valid. -/
def peerSend (s : State) (m : PeerMsg) (o : Option Origin) : Option State :=
  let e := relayEntry s m.dst
  if e.testBit 15 then
    let s1 := sendPeer s (e % 16) m o
    some (if o.isSome then updPipe s1 m.pipeline fun p => { p with ports := (p.ports.filter (· != e % 16 * 4096 + m.dst)) ++ [e % 16 * 4096 + m.dst] } else s1)
  else none

/-- A free message TAG of the peer ports. -/
def peerTag (s : State) : Nat × State :=
  let (fr, s1) := takeFree s
  (freeTag (s.peerOut.map fun p => p.msg.tag) 4096 (fr % 4096), s1)

/-- The piece that the front block of a channel requests next goes out to where its address is served. -/
def issuePiece (s : State) (d c : Nat) (b : Block) : State :=
  let row := b.next / 65536
  let off := b.next % 65536
  let (addr, len) := pieceAt b row off
  let o : Origin := ⟨d, c, b.next, b.no⟩
  let b1 := { b with next := pieceNext b len, waiting := b.waiting + 1 }
  let bad (t : State) : State := haltChannel t d c 4 .formatError (slotRowOf b b.next) addr
  if b.outbound then
      let (s1, bs, m) :=
        match blockSlot (dale s d) b with
        | none => (s, operandRowBytes b row, b.marked.testBit row)
        | some t => outRow s d b t row (off == 0)
      let part := bytesAt bs off len
      let s2 := setFront s1 d c { b1 with sent := b.sent ++ part }
      let s3 := if m && off == 0 then countPoisonSent s2 d c else s2
      if isShadow s d then checkOutbound (setFront s3 d c { b1 with sent := b.sent ++ part, waiting := b.waiting }) d c
      else if b.space = 0 then
        if addr + len > 2 ^ 52 then bad s3 else { s3 with ext := s3.ext ++ [⟨true, addr, len, part, m, o, [], [], .done⟩] }
      else
        match regionOf addr with
        | .nowhere => bad s3
        | .peer =>
          let (tag, s4) := peerTag s3
          match apertureMsg s4 addr part m ((dale s4 d).pipe.getD 0) (daleEpoch s4 d) tag with
          | none => bad s4
          | some msg =>
            match peerOff s4 (relayEntry s4 msg.dst % 16) with
            | some st => haltChannel s4 d c 5 st (slotRowOf b b.next) addr
            | none => (peerSend s4 msg (some o)).getD (bad s4)
        | .store d' so =>
          if d' = d then
            if so ≥ storeBytes then ackPiece s3 d c len
            else ackPiece (storeWrite s3 d so part m b.pc).1 d c len
          else (handRequest s3 (daleCol d) (routeIndex addr) tyWrite addr ((len + 15) / 16) (len - 1) m part
                  (daleEpoch s3 d) o len).getD (bad s3)
        | _ => (handRequest s3 (daleCol d) (routeIndex addr) tyWrite addr ((len + 15) / 16) (len - 1) m part
                  (daleEpoch s3 d) o len).getD (bad s3)
  else
    let s1 := setFront s d c b1
    if b.space = 0 then
      if addr + len > 2 ^ 52 then bad s1 else { s1 with ext := s1.ext ++ [⟨false, addr, len, List.replicate len 0#8, false, o, [], [], .done⟩] }
    else
      match regionOf addr with
      | .nowhere => bad s1
      | .peer => bad s1
      | .store d' so =>
        if d' = d then
          if so ≥ storeBytes then pieceRead s1 o .done (List.replicate len 0#8) false
          else
            let out := storeOutcome s1 d so len
            let (s2, bs, m) := storeRead s1 d so len 2 b.pc
            pieceRead s2 o (if out = 2 then .uncorrectable else .done) bs m
        else (handRequest s1 (daleCol d) (routeIndex addr) tyRead addr 0 (len - 1) false [] (daleEpoch s1 d) o len).getD (bad s1)
      | _ => (handRequest s1 (daleCol d) (routeIndex addr) tyRead addr 0 (len - 1) false [] (daleEpoch s1 d) o len).getD (bad s1)

/-- The gather engine that a block names, its mode, and its key's size in bytes (R230, R241). -/
def gatherEngine (b : Block) : Nat := b.args / 2 ^ 45 % 8
def gatherIdentity (b : Block) : Bool := b.args.testBit 44
def gatherKeyBytes (b : Block) : Nat := if b.args.testBit 43 then 8 else 4

/-- A gather engine that refuses requests (R221, R298): with the cause of R240. -/
def gatherOff (s : State) (e : Nat) : Option (Nat × Status) :=
  if !domainOn s (144 + e) || (ni s (gatherCol e)).state != 0 then some (3, .domainOff)
  else (tget none s.cp.off (65536 + e)).map fun st => (5, st)

/-- Send the key of a slot row to the block's gather engine (R241): one request for the row. -/
def issueKey (s : State) (d c : Nat) (b : Block) : State :=
  let row := b.next / 65536
  let koff := b.args / 2 ^ 20 % 2 ^ 20 + row * gatherKeyBytes b
  let b1 := { b with next := (row + 1) * 65536, waiting := b.waiting + 1 }
  match gatherOff s (gatherEngine b) with
  | some (cause, st) => haltChannel s d c cause st row b.addr
  | none =>
    if koff + gatherKeyBytes b > storeBytes then haltChannel s d c 4 .formatError row koff
    else
      let (s1, bs, m) := storeRead s d koff (gatherKeyBytes b) 2 b.pc
      if m then haltChannel s1 d c 1 .uncorrectable row koff
      else
        let g := tget Gather.reset s1.gathers (gatherEngine b)
        let l : Lookup := ⟨d, c, b.no, row, leNat bs, remBytes b⟩
        setFront { s1 with gathers := tset Gather.reset s1.gathers (gatherEngine b) { g with waiting := g.waiting ++ [l] } } d c b1

/-- STREAM_REQUEST_ISSUE (R235): the stream engine issues one request for the channel that wins; beats of the dale's
ports move beside it (R333). -/
def streamRequestIssueState (d : Nat) (s0 : State) : State :=
  if !daleOn s0 d || (dale s0 d).isolated || (ni s0 (daleCol d)).state != 0 then s0
  else
    let s := portMoves s0 d
    let cs := (List.range 16).filter (requestReady s d)
    match arbitrate s d cs with
    | none => s
    | some w =>
      let s1 := cs.foldl (fun t c => updChan t d c fun h => { h with lost := if c = w then 0 else h.lost + 1 }) s
      match frontBlock s1 d w with
      | none => s1
      | some b => if b.kind = 1 then issueKey s1 d w b else issuePiece s1 d w b

/-! ### Multicast data (R238) -/

/-- A multicast row's bytes reach a leaf (R238): the next bytes of the slot row in TAG, for the channel whose
MCAST_RECV names the sender and the group. -/
def mcastDeliver (s : State) (d : Nat) (p : Packet) : State :=
  match channelWith (dale s d) fun b => b.kind == 3 && daleCol (senderOf b) == p.srcCol && groupOf b == p.aux with
  | none => s
  | some c =>
    match frontBlock s d c with
    | none => s
    | some b =>
      let off := (b.raw.filter fun e => e.1 / 65536 == p.tag).length
      let n := min p.payload.length (remBytes b - off)
      checkMcasts (fillArrived (setFront s d c { takeBytes b p.tag off (p.payload.take n) p.poison with came := some p }) d c) d

/-! ### Meanings -/

/-- The meaning of SSTART. -/
def execSstart (d : Nat) (f : RInst) (s : State) : Host.Outcome State Fault Refusal :=
  guardUnit (d < 512) (sstartState d f s)

/-- The meaning of TCOPY. -/
def execTcopy (d : Nat) (f : RInst) (s : State) : Host.Outcome State Fault Refusal :=
  guardUnit (d < 512) (tcopyState d f s)

/-- The meaning of STREAM_LIST_FETCH. -/
def execStreamListFetch (d : Nat) (ch : Nat) (s : State) : Host.Outcome State Fault Refusal :=
  guardUnit (d < 512 ∧ ch < 16) (streamListFetchState d ch s)

/-- The meaning of STREAM_REQUEST_ISSUE. -/
def execStreamRequestIssue (d : Nat) (s : State) : Host.Outcome State Fault Refusal :=
  guardUnit (d < 512) (streamRequestIssueState d s)

end Sys2Proof.Machine
end

