-- ==== Sys2Proof/Machine/SetUnit.lean ====
section
/-! DEFINITION. The sorted-set unit (R114-R116): its operands as slots or channel blocks, the windows of 64 keys, and
SINTER, SMERGE and SDIFF. -/
namespace Sys2Proof.Machine

/-- The three operations of R114. -/
inductive SetOp where
  | inter | merge | diff
deriving DecidableEq, Repr

/-- The operand codes of a set instruction: input A, input B, output, and positions when POS is set (R186). -/
def setCodes (f : RInst) : List (Nat × Nat) :=
  [(16, f.a % 32), (17, f.b % 32), (18, f.d % 32)] ++ (if f.imm.getLsbD 5 then [(19, immR f % 32)] else [])

/-- Bytes of a key. -/
def setKeyBytes (f : RInst) : Nat := if f.imm.getLsbD 6 then 8 else 4

/-- The check at issue: a slot operand must be a valid slot (R191 reason 0x09). -/
def setCheck (d op : Nat) (f : RInst) (s : State) (pc : Nat) : Option State :=
  if (setCodes f).any fun c => c.2 < 16 && (slotOf (dale s d) c.2).isNone then some (refuse s d 0x09 3 op pc) else none

/-- Take the next block of each channel operand at issue, in operand order: each with its channel and its words. none
while a block is not fetched. A halted channel, a closed list or one that ended gives a block of no words. -/
def setTake (s : State) (d : Nat) : List (Nat × Nat) → Option (State × List (Nat × Nat × List W64))
  | [] => some (s, [])
  | (role, code) :: rest =>
    if code < 16 then setTake s d rest
    else
      let c := code - 16
      let ch := chanOf (dale s d) c
      let got : Option (List W64) :=
        if ch.halted.isSome || !ch.isOpen || ch.ended then some [] else ch.fetched.head?
      match got with
      | none => none
      | some w =>
        match setTake (takeBlock s d c) d rest with
        | none => none
        | some (t, l) => some (t, (role, c, w) :: l)

/-- The words a queue entry keeps of the blocks taken: role, channel, count, words. -/
def packTakes (l : List (Nat × Nat × List W64)) : List W64 :=
  l.flatMap fun e => BitVec.ofNat 64 e.1 :: BitVec.ofNat 64 e.2.1 :: BitVec.ofNat 64 e.2.2.length :: e.2.2

/-- The blocks back out of an entry's words; `fuel` bounds their number. -/
def unpackTakes : Nat → List W64 → List (Nat × Nat × List W64)
  | fuel + 1, r :: c :: n :: rest => (r.toNat, c.toNat, rest.take n.toNat) :: unpackTakes fuel (rest.drop n.toNat)
  | _, _ => []

/-- Bind the input blocks of the set instruction at the head of its queue to their channels, once every SSTART issued
before it on those channels is bound. -/
def setBindOne (d no pc : Nat) (s : State) (e : Nat × Nat × List W64) : State :=
  let (role, c, w) := e
  let ch := chanOf (dale s d) c
  if role ≥ 18 || ch.halted.isSome || ch.blocks.any (fun b => b.no == no && b.slot == role) then s
  else if (queueOf (dale s d) 6).any fun q => !q.begun && q.no < no && wop q.word == 1 && wbits q.word 3 0 == c then s
  else startFront (updChan s d c fun h => { h with blocks := h.blocks ++ [blockOf w role no pc] }) d c

/-- What an input gives: nothing yet, or its bytes with the first marked row read, as the object and row of a POISON trap. -/
inductive SetIn where
  | wait
  | bytes (bs : List Byte) (mark : Option (Nat × Nat))
deriving DecidableEq, Repr

/-- The bytes of a slot input. -/
def setSlotIn (s : State) (d pc code : Nat) : State × SetIn :=
  match slotOf (dale s d) code with
  | none => (s, .bytes [] none)
  | some t =>
    if smWriterPending (dale s d) code || !filledTo t t.rows then (s, .wait)
    else
      let (s1, bs, bad) := (List.range t.rows).foldl (fun (acc : State × List Byte × Option (Nat × Nat)) r =>
        let (u, b, m) := readRow acc.1 d t r t.rowBytes 1 pc
        (u, acc.2.1 ++ b, if m && acc.2.2.isNone then some (code, r) else acc.2.2)) (s, [], none)
      (s1, .bytes bs bad)

/-- The bytes of a channel input, once the block bound for it has arrived whole; a halted channel gives none, marked. -/
def setChanIn (s : State) (d no role c code : Nat) : SetIn :=
  let ch := chanOf (dale s d) c
  if ch.halted.isSome then .bytes [] (some (code, 0))
  else
    match ch.blocks.head? with
    | none => .wait
    | some b =>
      if b.no == no && b.slot == role && b.begun && (List.range b.rows).all (rowArrived b) then
        .bytes ((List.range b.rows).flatMap fun r => (List.range (remBytes b)).map fun i => tget 0#8 b.raw (rawKey r i))
          (((List.range b.rows).find? fun r => b.marked.testBit r).map fun r => (code, r))
      else .wait

/-- An input of a set instruction. -/
def setIn (s : State) (d no pc role code : Nat) : State × SetIn :=
  if code < 16 then setSlotIn s d pc code else (s, setChanIn s d no role (code - 16) code)

/-- The keys of an input. -/
def setKeys (n : Nat) (bs : List Byte) : List Nat := (List.range (bs.length / n)).map fun i => fieldAt bs (n * i) n

/-- Progress of an operation: keys left of A and B with their positions, the last keys consumed, the output with
positions, keys consumed, and the failure of R116: input, position, key. -/
structure SetRun where
  a    : List (Nat × Nat)
  b    : List (Nat × Nat)
  la   : Option Nat
  lb   : Option Nat
  out  : List (Nat × Nat × Nat)
  used : Nat
  bad  : Option (Nat × Nat × Nat)
deriving DecidableEq, Repr

/-- The first key of a window that does not ascend, against the key before it (R116). -/
def setUnsorted : Option Nat → List (Nat × Nat) → Option (Nat × Nat)
  | _, [] => none
  | prev, (k, i) :: rest =>
    match prev with
    | some p => if k ≤ p then some (i, k) else setUnsorted (some k) rest
    | none => setUnsorted (some k) rest

/-- The results of the keys consumed from both windows, ascending (R114). -/
def setMerge (op : SetOp) : Nat → List (Nat × Nat) → List (Nat × Nat) → List (Nat × Nat × Nat)
  | 0, _, _ => []
  | fuel + 1, a, b =>
    let absent : Nat := 0xFFFFFFFF
    match a, b with
    | [], [] => []
    | (k, i) :: ra, [] =>
      match op with
      | .inter => []
      | _ => (k, i, absent) :: setMerge op fuel ra []
    | [], (k, j) :: rb =>
      match op with
      | .merge => (k, absent, j) :: setMerge op fuel [] rb
      | _ => []
    | (k, i) :: ra, (l, j) :: rb =>
      if k = l then
        match op with
        | .diff => setMerge op fuel ra rb
        | _ => (k, i, j) :: setMerge op fuel ra rb
      else if k < l then
        match op with
        | .inter => setMerge op fuel ra ((l, j) :: rb)
        | _ => (k, i, absent) :: setMerge op fuel ra ((l, j) :: rb)
      else
        match op with
        | .merge => (l, absent, j) :: setMerge op fuel ((k, i) :: ra) rb
        | _ => setMerge op fuel ((k, i) :: ra) rb

/-- The last key of a window that does not hold its input's final key (R115). -/
def setBound (l w : List (Nat × Nat)) : Option Nat := if l.length ≤ 64 then none else (w.getLast?).map fun e => e.1

/-- One step of the unit (R115, R116). -/
def setStep (op : SetOp) (r : SetRun) : SetRun :=
  let wa := r.a.take 64
  let wb := r.b.take 64
  match setUnsorted r.la wa, setUnsorted r.lb wb with
  | some (i, k), _ => { r with bad := some (0, i, k) }
  | none, some (i, k) => { r with bad := some (1, i, k) }
  | none, none =>
    let le (k : Nat) : Bool :=
      match setBound r.a wa, setBound r.b wb with
      | none, none => true
      | some x, none => k ≤ x
      | none, some y => k ≤ y
      | some x, some y => k ≤ min x y
    let ca := wa.filter fun e => le e.1
    let cb := wb.filter fun e => le e.1
    { r with a := r.a.drop ca.length, b := r.b.drop cb.length,
             la := match ca.getLast? with | some e => some e.1 | none => r.la,
             lb := match cb.getLast? with | some e => some e.1 | none => r.lb,
             out := r.out ++ setMerge op 129 ca cb, used := r.used + ca.length + cb.length }

/-- Whether an operation has ended (R114). -/
def setEnded (op : SetOp) (r : SetRun) : Bool :=
  r.bad.isSome ||
  (match op with
   | .inter => r.a.isEmpty || r.b.isEmpty
   | .merge => r.a.isEmpty && r.b.isEmpty
   | .diff => r.a.isEmpty)

/-- Run an operation to its end, in at most `fuel` steps. -/
def setLoop (op : SetOp) : Nat → SetRun → SetRun
  | 0, r => r
  | fuel + 1, r => if setEnded op r then r else setLoop op fuel (setStep op r)

/-- An operation over two key lists. -/
def setRun (op : SetOp) (a b : List Nat) : SetRun :=
  setLoop op ((a.length + b.length) / 64 + 4)
    ⟨(List.range a.length).map (fun i => (a.getD i 0, i)), (List.range b.length).map (fun i => (b.getD i 0, i)), none, none, [], 0, none⟩

/-- Write output bytes to a slot, row after row, and set the fill bits of the rows not written (R177); keys beyond the
slot's rows have no place. After a failure or marked data every row takes a mark (R556): any could have held other keys. -/
def setSlotOut (s : State) (d pc code : Nat) (bs : List Byte) (marked : Bool) : State :=
  match slotOf (dale s d) code with
  | none => s
  | some t =>
    let n := min t.rows ((bs.length + t.rowBytes - 1) / t.rowBytes)
    let s1 := (List.range n).foldl (fun u r =>
      writeRow u d code r (bytesAt bs (r * t.rowBytes) (min t.rowBytes (bs.length - r * t.rowBytes))) marked pc)
      (clearFill s d code 0)
    let s2 := if marked then (List.range t.rows).foldl (fun u r => markRow u d code r) s1 else s1
    fillAll s2 d code

/-- Give output bytes to the block taken from a channel: they leave by it (R186), with marks after a failure (R556). -/
def setChanOut (s : State) (d no pc role c : Nat) (w : List W64) (bs : List Byte) (marked : Bool) : State :=
  let ch := chanOf (dale s d) c
  if ch.halted.isSome then s
  else
    let b := blockOf w role no pc
    let n := min bs.length (b.rows * remBytes b)
    let raw := (List.range n).map fun i => (rawKey (i / remBytes b) (i % remBytes b), bs.getD i 0#8)
    let b1 := { b with raw := raw, marked := if marked then ones b.rows else 0 }
    checkOutbound (startFront (updChan s d c fun h => { h with blocks := h.blocks ++ [b1] }) d c) d c

/-- Write one output of a set instruction. -/
def setOut (s : State) (d no pc role code : Nat) (takes : List (Nat × Nat × List W64)) (bs : List Byte) (marked : Bool) :
    State :=
  if code < 16 then setSlotOut s d pc code bs marked
  else setChanOut s d no pc role (code - 16) (((takes.find? fun e => e.1 == role).map fun e => e.2.2).getD []) bs marked

/-- Complete the channel blocks an instruction read. -/
def setRelease (s : State) (d no : Nat) (f : RInst) : State :=
  ([(16, f.a % 32), (17, f.b % 32)] : List (Nat × Nat)).foldl (fun t e =>
    if e.2 < 16 then t
    else if isFront t d (e.2 - 16) no then completeBlock t d (e.2 - 16) else t) s

/-- The outputs of a set instruction: keys, and positions when POS is set (R114). -/
def setOuts (s : State) (d : Nat) (f : RInst) (e : QEnt) (takes : List (Nat × Nat × List W64)) (r : SetRun) (marked : Bool) : State :=
  let t1 := setOut s d e.no e.pc 18 (f.d % 32) takes (r.out.flatMap fun o => leBytes (setKeyBytes f) o.1) marked
  if f.imm.getLsbD 5 then
    setOut t1 d e.no e.pc 19 (immR f % 32) takes (r.out.flatMap fun o => leBytes 4 o.2.1 ++ leBytes 4 o.2.2) marked
  else t1

/-- An input that does not ascend ends the operation (R116): event 0x0301 and the trap. -/
def setUnsortedEnd (s : State) (d pc : Nat) (r : SetRun) : State :=
  match r.bad with
  | none => s
  | some (input, pos, key) =>
    trapDale (odBump (emitDale s d 0x0301 sevError [(1, input), (32, pos), (32, key), (32, pc)]) 0x4200 2 1)
      d causeUnsorted .formatError pc

/-- The effect of a set instruction whose inputs are there. It runs to its end; what it read marked and a parity failure of its
windows mark its outputs, zero its count and trap, in this order before an unsorted input (R116, R123, R556). -/
def setEffect (s : State) (d : Nat) (op : SetOp) (f : RInst) (e : QEnt) (takes : List (Nat × Nat × List W64))
    (a b : List Byte) (mark : Option (Nat × Nat)) : State :=
  let n := setKeyBytes f
  let r := setRun op (setKeys n a) (setKeys n b)
  let bad := parityBad (dale s d) [(3, 0), (3, 1)]
  let fails := mark.isSome || bad.isSome
  let s1 := setOuts (odBump s 0x4200 1 r.used) d f e takes r fails
  let s2 := updDale s1 d fun x => if fails then xput x f.s 0#64 else xputN x f.s r.out.length
  let s3 := match mark with
    | some (o, row) => trapPoison s2 d o row e.pc
    | none => s2
  let s4 := match bad with
    | some p => updDale (parityTrap s3 d e.pc p) d fun x => freshParity x 3
    | none => s3
  setUnsortedEnd s4 d e.pc r

/-- Advance the set instruction at the head of its queue: bind its input blocks, and run it when both inputs are
there. -/
def setAdvance (s : State) (d : Nat) (op : SetOp) : State :=
  match queueOf (dale s d) 3 with
  | [] => s
  | e :: rest =>
    let f := decR e.word
    let takes := unpackTakes 4 e.desc
    let s1 := takes.foldl (setBindOne d e.no e.pc) s
    let (s2, ia) := setIn s1 d e.no e.pc 16 (f.a % 32)
    let (s3, ib) := setIn s2 d e.no e.pc 17 (f.b % 32)
    let fin (t : State) : State := setRelease (updDale t d fun x => setQueue x 3 rest) d e.no f
    match ia, ib with
    | .wait, _ => s1
    | _, .wait => s1
    | .bytes a ma, .bytes b mb => fin (setEffect s3 d op f e takes a b (ma.orElse fun _ => mb))

/-- Issue a set instruction into its queue: it takes its blocks now. -/
def setIssue (s : State) (d opc : Nat) (f : RInst) : Option State :=
  let x := dale s d
  match setTake s d (setCodes f) with
  | none => none
  | some (t, takes) =>
    some (updDale (issued t d) d fun y => setQueue y 3 (queueOf y 3 ++ [⟨x.pc, encR 3 opc f, x.issueNo, packTakes takes, false⟩]))

/-- A set instruction: issue it when its queue is empty, and advance the one at the head when it is this one. -/
def runSet (s : State) (d opc : Nat) (op : SetOp) (f : RInst) : State :=
  let x := dale s d
  match queueOf x 3 with
  | [] =>
    if canIssue s d && !hazard x (encR 3 opc f) [] then
      match setCheck d opc f s x.pc with
      | some t => t
      | none =>
        match setIssue s d opc f with
        | none => s
        | some t => setAdvance t d op
    else s
  | e :: _ => if wclass e.word = 3 ∧ wop e.word = opc ∧ decR e.word = f then setAdvance s d op else s

/-- SINTER, SMERGE and SDIFF (R114). -/
def sinterState (d : Nat) (f : RInst) (s : State) : State := runSet s d 0x01 .inter f
def smergeState (d : Nat) (f : RInst) (s : State) : State := runSet s d 0x02 .merge f
def sdiffState (d : Nat) (f : RInst) (s : State) : State := runSet s d 0x03 .diff f

/-! ### Meanings -/

/-- The meaning of SINTER. -/
def execSinter (d : Nat) (f : RInst) (s : State) : Host.Outcome State Fault Refusal :=
  guardUnit (d < 512) (sinterState d f s)

/-- The meaning of SMERGE. -/
def execSmerge (d : Nat) (f : RInst) (s : State) : Host.Outcome State Fault Refusal :=
  guardUnit (d < 512) (smergeState d f s)

/-- The meaning of SDIFF. -/
def execSdiff (d : Nat) (f : RInst) (s : State) : Host.Outcome State Fault Refusal :=
  guardUnit (d < 512) (sdiffState d f s)

end Sys2Proof.Machine
end

