-- ==== Sys2Proof/Machine/SteppeOps.lean ====
section
/-! DEFINITION. What the steppe shares with pipelines, configuration and power (R323-R343): sectors and regions, the
dale ports of a sector, and cutting a region. -/
namespace Sys2Proof.Machine

/-! ### Sectors and regions -/

/-- A sector, and its change. -/
def sector (s : State) (k : Nat) : Sector := tget Sector.reset s.sectors k
def setSector (s : State) (k : Nat) (v : Sector) : State := { s with sectors := tset Sector.reset s.sectors k v }
def updSector (s : State) (k : Nat) (f : Sector → Sector) : State := setSector s k (f (sector s k))

/-- A clock generator, and its change. -/
def clockGen (s : State) (g : Nat) : ClockGen := tget ClockGen.reset s.clocks g
def setClock (s : State) (g : Nat) (c : ClockGen) : State := { s with clocks := tset ClockGen.reset s.clocks g c }

/-- The dales whose ports a sector serves (R14, R313). -/
def sectorDales (k : Nat) : List Nat := (List.range 16).flatMap fun y => [y * 32 + 2 * k, y * 32 + 2 * k + 1]

/-- The sector a dale borders (R14). -/
def sectorOf (d : Nat) : Nat := d % 32 / 2

/-- SECTOR_REGION of a sector (R348). -/
def sectorRegion (s : State) (k : Nat) : Nat := winGet s (0x0200000A0040 + 4 * k)

/-- The sectors of a region (R343). -/
def regionSectors (r : Nat) : List Nat :=
  if r < 16 then [r]
  else if r < 24 then [2 * (r - 16), 2 * (r - 16) + 1]
  else if r < 28 then (List.range 4).map (4 * (r - 24) + ·)
  else if r < 30 then (List.range 8).map (8 * (r - 28) + ·)
  else if r = 30 then List.range 16 else []

/-- The dales that border a region. -/
def regionDales (r : Nat) : List Nat := (regionSectors r).flatMap sectorDales

/-- Whether a region holds a design (R348). -/
def regionConfigured (s : State) (r : Nat) : Bool :=
  !(regionSectors r).isEmpty && (regionSectors r).all fun k => (sectorRegion s k).testBit 5 && sectorRegion s k % 32 == r

/-- How a region is disabled (R221, R336). -/
def regionOff (s : State) (r : Nat) : Option Status := tget none s.cp.off (3 * 65536 + r)

/-- Why a region is held as under a cut: a failure (R360), a cut (R336), or a halted pipeline (R337). -/
def regionHeld (s : State) (r : Nat) : Bool :=
  ((regionSectors r).any fun k => (sectorRegion s k).testBit 7) || regionOff s r == some .poisoned
    || s.pipes.any fun e =>
      (e.2.stages.any fun g => g.kind == 2 && g.location == r)
        && (e.2.st == .halted || (e.2.st == .running && e.2.halting.isSome)
              || (e.2.st == .disabled && e.2.disable == some .poisoned))

/-- Whether a sector's reset trees are held asserted (R323). -/
def sectorHeld (s : State) (k : Nat) : Bool := (sectorRegion s k).testBit 5 && regionHeld s (sectorRegion s k % 32)

/-- Whether they are, or a commit under way holds them (R323, R355). -/
def treesHeld (s : State) (k : Nat) : Bool := sectorHeld s k || (sector s k).commits

/-- Whether a design runs in a sector: powered, configured, not held in reset. -/
def sectorRuns (s : State) (k : Nat) : Bool := domainOn s (128 + k) && (sectorRegion s k).testBit 5 && !treesHeld s k

/-- FLOOR_MV (R319, R340). -/
def floorMv (s : State) : Nat :=
  (List.range 16).foldl (fun m k =>
    if domainOn s (128 + k) && (sectorRegion s k).testBit 5 then max m (sector s k).floor else m) 0

/-- SECTOR_STATE (R340). -/
def sectorState (s : State) (k : Nat) : Nat :=
  let st := if !domainOn s (128 + k) then 0 else if sectorHeld s k then 3 else if (sectorRegion s k).testBit 5 then 2 else 1
  st + (if st ≥ 2 then (sector s k).floor * 2 ^ 16 else 0)

/-- PORT_ABSORB (R340): ports that bind no block because of power or configuration. -/
def portAbsorb (s : State) (k : Nat) : Nat :=
  (List.range 32).foldl (fun m i =>
    if (dale s (i / 2 * 32 + 2 * k + i % 2)).portLive = 0 then m + 2 ^ i else m) 0

/-! ### Ports -/

/-- The channels of a dale whose front block is bound to a port. -/
def portChannels (x : Dale) : List Nat :=
  x.channels.filterMap fun c =>
    match c.2.blocks.head? with
    | some b => if b.begun && isPort b then some c.1 else none
    | none => none

/-- Beats a dale's port queues hold. -/
def portBeats (x : Dale) : Nat := ((x.portOut ++ x.portIn).map fun e => e.2.beats.length).sum

/-- Whether nothing is bound to a dale's ports and their queues are empty (R338). -/
def portIdle (x : Dale) : Bool := (portChannels x).isEmpty && portBeats x == 0

/-- Empty the port queues of a dale and halt the blocks bound to them (R336, R338); blocks that wait for the port are
taken up, and refused. -/
def discardPorts (s : State) (d cause : Nat) (st : Status) : State :=
  let cs := portChannels (dale s d)
  let s1 := updDale s d fun x =>
    { x with portOut := x.portOut.map fun e => (e.1, { e.2 with beats := [] }),
             portIn := x.portIn.map fun e => (e.1, { e.2 with beats := [] }) }
  startAll (cs.foldl (fun t c => haltChannel t d c cause st 0 ((frontBlock t d c).elim 0 (·.addr))) s1) d

/-- Empty the queue controllers of a sector (R329, R336). -/
def emptyQueues (s : State) (k : Nat) : State :=
  updSector s k fun v => { v with queues := v.queues.map fun e => (e.1, { e.2 with words := [], overflow := false, underflow := false }) }

/-- Treat a region as under a cut (R336, R337, R360). -/
def cutRegion (s : State) (r : Nat) : State :=
  let s1 := (regionSectors r).foldl emptyQueues s
  (regionDales r).foldl (fun t d =>
    discardPorts (updDale t d fun x => { x with portOff := some .poisoned }) d 5 .poisoned) s1

/-- A region's ports follow what holds it: a cut, a drain, or nothing (R336, R337). -/
def releaseRegion (s : State) (r : Nat) : State :=
  if regionHeld s r then s
  else (regionDales r).foldl (fun t d => updDale t d fun x => { x with portOff := regionOff s r }) s

end Sys2Proof.Machine
end

