-- ==== Sys2Proof/Machine/Pipeline.lean ====
section
/-! DEFINITION. What the command processor and the sequencers share of a pipeline's step (R192, R214, R218): its
dales, their parts, stopping issue, and why a step halts. -/
namespace Sys2Proof.Machine

/-- The dales of a stage: one, or both of a pair; none for a steppe region (R209). -/
def stageDales (g : Stage) : List Nat :=
  match g.kind with
  | 0 => [g.location]
  | 1 => [g.location, g.partner]
  | _ => []

/-- The dales of a pipeline, in ascending PATH order. -/
def pipeDales (p : Pipe) : List Nat :=
  (List.range 512).filterMap fun i => if (p.stages.flatMap stageDales).contains (daleAt i) then some (daleAt i) else none

/-- The steppe regions of a pipeline. -/
def pipeRegions (p : Pipe) : List Nat := p.stages.filterMap fun g => if g.kind = 2 then some g.location else none

/-- The basin an event of a pipeline names (R23). -/
def pipeSource (p : Pipe) : Nat := smallestBasin (pipeDales p)

/-- The status of a dale's part of a step (R192). -/
def partStatus (x : Dale) : Status :=
  match x.trap with
  | some t => t.status
  | none => if x.mxWest || x.mxEast then statusOf x.mxStatus else .done

/-- Requests of a dale's interface that await an answer: remote writes and increments (R183). -/
def awaiting (s : State) (d : Nat) : Bool := (ni s (daleCol d)).out.any fun r => r.dale == d

/-- Whether a dale has completed every instruction issued to it (R183, R189, R218). -/
def drained (s : State) (d : Nat) : Bool :=
  let x := dale s d
  x.blocked.isNone && [1, 2, 3, 4, 5, 6, 7].all (queueIdle x) && !awaiting s d

/-- Stop issue in a dale (R218 step 1, R444 step 1). -/
def stopIssue (s : State) (d : Nat) : State := updDale s d fun x => { x with stopped := true }

/-- A step of a pipeline begins to halt (R218): issue stops in every stage dale not at END; one that has trapped has stopped by
itself and reports. The first cause stands (R219): none for a dale's own report, or the status of a watchdog, an abort or a cut. -/
def haltPipe (s : State) (p : Nat) (cause : Option Status) : State :=
  let q := pipe s p
  if q.st = .running ∧ q.halting = none then
    let s1 := setPipe s p { q with halting := some cause }
    let s2 := (pipeDales q).foldl (fun t d =>
      if (dale t d).report.isSome || (dale t d).trap.isSome then t else stopIssue t d) s1
    (pipeRegions q).foldl cutRegion s2
  else s

/-- The command processor receives a dale's report of its part (R214); a status other than DONE halts the step. -/
def reportDale (s : State) (d : Nat) (st : Status) : State :=
  match (dale s d).pipe with
  | none => s
  | some p =>
    let q := pipe s p
    if q.st = .running ∧ tget none q.reports d = none then
      let s1 := setPipe s p { q with reports := tins q.reports d (some st) }
      if st = .done then s1 else haltPipe s1 p none
    else s

/-- Why a unit's dale will not answer: isolated, or its Basin-1 off (R40, R190). -/
def daleGone (s : State) (d : Nat) : Option Status :=
  if (dale s d).isolated then some .targetIsolated else if !daleOn s d then some .domainOff else none

end Sys2Proof.Machine
end

