-- ==== Sys2Proof/Machine/Sync.lean ====
section
/-! DEFINITION. Synchronisation (R37-R45, R173, R181, R436): neighbour lines, barrier channels, semaphores, and the
blocking and queued instructions that use them. -/
namespace Sys2Proof.Machine

/-! ### Blocking instructions -/

/-- The k-th blocking instruction of a dale completes (R173, R436): an ARRIVE writes its predicate. -/
def finishWait (s : State) (d : Nat) (deg : Bool) : State :=
  updDale s d fun x =>
    match x.blocked with
    | none => x
    | some e =>
      let y := if wop e.word = 3 then pput x (decI e.word).d (BitVec.ofNat 256 (if deg then 2 ^ 256 - 1 else 0)) else x
      { y with blocked := none, degraded := if deg then x.degraded ++ [x.waits] else x.degraded, waits := x.waits + 1 }

/-- The partner of a pair completes its blocking instruction once its primary has completed as many (R436). -/
def partnerFollows (s : State) (d : Nat) : State :=
  let x := dale s d
  match x.partner with
  | none => s
  | some p =>
    let y := dale s p
    if x.isPartner && x.blocked.isSome && x.waits < y.waits then finishWait s d (y.degraded.contains x.waits) else s

/-- Complete a blocking instruction of a dale, and let a partner follow. -/
def completeWait (s : State) (d : Nat) (deg : Bool) : State :=
  let s1 := finishWait s d deg
  match (dale s d).partner with
  | some p => if (dale s d).isPartner then s1 else partnerFollows s1 p
  | none => s1

/-- The key of an inbound line (R38). -/
def lineKey (dir line : Nat) : Nat := dir % 4 * 4 + line % 4
def inboundOf (x : Dale) (k : Nat) : Nat := tget 0 x.inbound k
def setInbound (x : Dale) (k v : Nat) : Dale := { x with inbound := tset 0 x.inbound k v }
def semOf (x : Dale) (k : Nat) : Nat := tget 0 x.sem (k % 32)
def setSem (x : Dale) (k v : Nat) : Dale := { x with sem := tset 0 x.sem (k % 32) v }

/-- The direction and line of a SIGNAL or WAIT, and the fields of SEMWAIT and ARRIVE (R186). -/
def lineDir (f : IInst) : Nat := immI f % 4
def lineNo (f : IInst) : Nat := immI f / 4 % 4
def semNo (f : IInst) : Nat := immI f % 32
def semN (f : IInst) : Nat := immI f / 32
def arriveLevel (f : IInst) : Nat := immI f % 8
def arriveChan (f : IInst) : Nat := immI f / 8 % 8

/-- Let a dale's blocking WAIT or SEMWAIT complete if it can (R38, R44). -/
def retryBlocked (s : State) (d : Nat) : State :=
  let x := dale s d
  match x.blocked with
  | none => s
  | some e =>
    let f := decI e.word
    if x.isPartner then partnerFollows s d
    else if wop e.word = 2 then
      let k := lineKey (lineDir f) (lineNo f)
      if inboundOf x k > 0 then completeWait (setDale s d (setInbound x k (inboundOf x k - 1))) d false else s
    else if wop e.word = 4 then
      if semOf x (semNo f) ≥ semN f then
        completeWait (setDale s d (setSem x (semNo f) (semOf x (semNo f) - semN f))) d false
      else s
    else s

/-- Add to a semaphore (R44, R45): an increment past the maximum saturates it with event 0x0104. -/
def semAdd (s : State) (d k amount initiator : Nat) : State :=
  if amount = 0 then s
  else
    let v := semOf (dale s d) k + amount
    let s1 := updDale s d fun x => setSem x k (min v 0xFFFFFFFF)
    let s2 :=
      if v > 0xFFFFFFFF then
        emitDale s1 d 0x0104 sevWarning [(5, k), (32, amount), (10, initiator)]
      else s1
    retryBlocked s2 d

/-! ### Barriers -/

/-- The key of the barrier channel of a dale's enclosing basin (R41). -/
def barrierKey (level d ch : Nat) : Nat := (level * 512 + pathOf d / basinSize level) * 8 + ch
/-- The member dales of a barrier channel's basin. -/
def barrierMembers (key : Nat) : List Nat :=
  let n := basinSize (key / 4096)
  (List.range n).map fun i => daleAt (key / 8 % 512 * n + i)

def barrierOf (s : State) (key : Nat) : Barrier := tget Barrier.reset s.barriers key
def setBarrier (s : State) (key : Nat) (b : Barrier) : State :=
  { s with barriers := tset Barrier.reset s.barriers key b }

/-- The mask a barrier channel has by placement or by default, without partners of pairs (R41, R436). -/
def barrierMask (s : State) (key : Nat) : List Nat :=
  ((barrierOf s key).mask.getD (barrierMembers key)).filter fun d => !isShadow s d

/-- The participants that are left in it (R43). -/
def participants' (s : State) (key : Nat) : List Nat :=
  (barrierMask s key).filter fun d => !(barrierOf s key).removed.contains d

/-- Release a barrier when every participant has arrived (R41-R43): the release is degraded once a participant was
removed; arrivals that waited count for the next generation. -/
def barrierRelease (s : State) (key : Nat) : State :=
  let b := barrierOf s key
  let ps := participants' s key
  if !ps.isEmpty && ps.all (fun d => b.arrived.contains d) then
    let deg := (barrierMask s key).any fun d => b.removed.contains d
    let s1 := setBarrier s key { b with arrived := b.second, second := [] }
    b.arrived.foldl (fun t d =>
      match (dale t d).blocked with
      | some e => if wop e.word = 3 ∧ barrierKey (arriveLevel (decI e.word)) d (arriveChan (decI e.word)) = key then completeWait t d deg else t
      | none => t) s1
  else s

/-- A dale arrives (R41, R42). What an ARRIVE of a dale outside the participant mask does is open: the model holds it with the
arrivals and releases it with the participants (DESIGN CHOICE, log entry 59). -/
def barrierArrive (s : State) (key d : Nat) : State :=
  let b := barrierOf s key
  if b.arrived.contains d then setBarrier s key { b with second := b.second ++ [d] }
  else barrierRelease (setBarrier s key { b with arrived := b.arrived ++ [d] }) key

/-- Every barrier channel that can hold a dale. -/
def barrierKeysOf (d : Nat) : List Nat :=
  [1, 2, 3, 4, 5].flatMap fun l => (List.range 8).map fun ch => barrierKey l d ch

/-- Remove an isolated dale from every barrier mask that holds it (R43), with event 0x0103 for each. -/
def barrierRemove (s : State) (d : Nat) : State :=
  (barrierKeysOf d).foldl (fun t key =>
    if (participants' t key).contains d then
      let b := barrierOf t key
      let t1 := setBarrier t key { b with removed := b.removed ++ [d], arrived := b.arrived.filter (· != d), second := b.second.filter (· != d) }
      let t2 := emitPlain t1 0x0103 sevWarning (enclosing (key / 4096) d) [(3, key), (16, d), (16, (participants' t1 key).length)]
      barrierRelease t2 key
    else t) s

/-! ### Lines whose neighbour is gone (R40) -/

/-- Record a SIGNAL or WAIT ended by a neighbour that is gone, and trap (R40, R190). -/
def trapGone (s : State) (d dir line : Nat) (st : Status) (n pc : Nat) : State :=
  trapDale (emitDale s d 0x0102 sevWarning [(2, dir), (2, line), (8, statusCode st), (16, n)]) d causeSyncGone st pc

/-- A neighbour of a dale is gone: what the dale has pending on the lines towards it ends (R40). -/
def syncGone (s : State) (d dir : Nat) (st : Status) (n : Nat) : State :=
  let x := dale s d
  let s1 :=
    match x.blocked with
    | some e =>
      if wop e.word = 2 ∧ lineDir (decI e.word) = dir then
        trapGone (updDale s d fun y => { y with blocked := none }) d dir (lineNo (decI e.word)) st n e.pc
      else s
    | none => s
  let mine := (queueOf x 7).filter fun e => wop e.word == 1 && lineDir (decI e.word) == dir
  let s2 := updDale s1 d fun y => setQueue y 7 ((queueOf y 7).filter fun e => !(wop e.word == 1 && lineDir (decI e.word) == dir))
  mine.foldl (fun t e => trapGone t d dir (lineNo (decI e.word)) st n e.pc) s2

/-- A dale is gone for its four neighbours. -/
def neighboursGone (s : State) (n : Nat) (st : Status) : State :=
  (List.range 4).foldl (fun t dir =>
    match neighbour n dir with
    | some d => syncGone t d ((dir + 2) % 4) st n
    | none => t) s

/-! ### The synchronisation instructions -/

/-- The checks of SIGNAL and WAIT at issue (R39, R40, R191): the line's direction, the grid's edge, a neighbour gone. -/
def lineCheck (d : Nat) (inboundLine : Bool) (opc : Nat) (f : IInst) (s : State) (pc : Nat) : Option State :=
  let line := lineNo f
  if inboundLine != decide (2 ≤ line) then some (refuse s d 0x08 7 opc pc)
  else
    match neighbour d (lineDir f) with
    | none => some (unissue s d causeSyncEdge .formatError pc 0x0101 [(2, lineDir f), (2, line), (32, pc)])
    | some n =>
      match daleGone s n with
      | some st => some (trapGone s d (lineDir f) line st n pc)
      | none => none

/-- Whether every stream instruction issued before one has completed (R181). -/
def streamsDone (x : Dale) (no : Nat) : Bool :=
  (queueOf x 6).all (fun e => no ≤ e.no) && x.channels.all fun c => c.2.blocks.all fun b => no ≤ b.no

/-- Run a queued instruction of the synchronisation unit: the head of SY, or one issued now. `body` gets its place in
the order of issue and its address. -/
def syRun (s : State) (d opc : Nat) (f : IInst) (check : State → Nat → Option State) (body : Nat → Nat → State → Option State) :
    State :=
  let x := dale s d
  let ready (no : Nat) : Bool := !f.ord || streamsDone x no
  match queueOf x 7 with
  | [] =>
    if canIssue s d && !hazard x (encI 7 opc f) [] then
      match check s x.pc with
      | some t => t
      | none => if ready x.issueNo then (body x.issueNo x.pc (issued s d)).getD s else s
    else s
  | h :: rest =>
    if wclass h.word = 7 ∧ wop h.word = opc ∧ decI h.word = f ∧ ready h.no then
      (body h.no h.pc (updDale s d fun y => setQueue y 7 rest)).getD s
    else s

/-- The effect of SIGNAL (R38): one more pending signal at the neighbour, unless 15 are. The partner's stay in it. -/
def signalBody (d : Nat) (f : IInst) (_ pc : Nat) (s : State) : Option State :=
  if isShadow s d then some s
  else
    match neighbour d (lineDir f) with
    | none => some s
    | some n =>
      match daleGone s n with
      | some st => some (trapGone s d (lineDir f) (lineNo f) st n pc)
      | none =>
        let k := lineKey (lineDir f + 2) (lineNo f + 2)
        if inboundOf (dale s n) k ≥ 15 then none
        else some (retryBlocked (updDale s n fun x => setInbound x k (inboundOf x k + 1)) n)

/-- SIGNAL (R38). -/
def signalState (d : Nat) (f : IInst) (s : State) : State :=
  syRun s d 0x01 f (lineCheck d false 0x01 f) (signalBody d f)

/-- SEMINC's target dale (R186). -/
def semincTarget (x : Dale) (d : Nat) (f : IInst) : Nat := if f.imm.getLsbD 5 then d else (xget x f.a).toNat % 65536

/-- The check of SEMINC at issue (R191). -/
def semincCheck (d : Nat) (f : IInst) (s : State) (pc : Nat) : Option State :=
  if semincTarget (dale s d) d f > 511 then some (refuse s d 0x08 7 0x05 pc) else none

/-- The effect of SEMINC (R44): the dale's own semaphore at once, another's by a SEMINC packet, whose answer ends it.
The partner's stay in it (R436). -/
def semincBody (d : Nat) (f : IInst) (_ pc : Nat) (s : State) : Option State :=
  let x := dale s d
  let t := semincTarget x d f
  let amount := (xget x f.b).toNat % 2 ^ 32
  if isShadow s d then some s
  else if t = d then some (semAdd s d (semNo f) amount (daleCol d))
  else
    some ((handRequest s (daleCol d) (0x100 + daleCol t) tySeminc 0 1 (semNo f) false (leBytes 16 amount) (daleEpoch s d)
      ⟨d, 0xFE, t * 32 + semNo f, pc⟩ 0).getD s)

/-- SEMINC (R44). -/
def semincState (d : Nat) (f : IInst) (s : State) : State :=
  syRun s d 0x05 f (semincCheck d f) (semincBody d f)

/-- Issue a blocking instruction (R173): it enters the synchronisation unit and may complete at once. -/
def blockRun (s : State) (d opc : Nat) (f : IInst) (check : State → Nat → Option State) (enter : State → State) : State :=
  let x := dale s d
  if canIssue s d && !hazard x (encI 7 opc f) [] then
    match check s x.pc with
    | some t => t
    | none =>
      let s1 := issued s d
      enter (updDale s1 d fun y => { y with blocked := some ⟨x.pc, encI 7 opc f, x.issueNo, [], false⟩ })
  else s

/-- WAIT (R38): blocks while the inbound count is 0, then subtracts 1. -/
def waitState (d : Nat) (f : IInst) (s : State) : State :=
  blockRun s d 0x02 f (lineCheck d true 0x02 f) fun t => retryBlocked t d

/-- SEMWAIT (R44): blocks until the semaphore is at least n, then subtracts n. -/
def semwaitState (d : Nat) (f : IInst) (s : State) : State :=
  blockRun s d 0x04 f (fun _ _ => none) fun t => retryBlocked t d

/-- ARRIVE (R41): blocks until every participant has arrived; its predicate tells a degraded release (R43). -/
def arriveState (d : Nat) (f : IInst) (s : State) : State :=
  blockRun s d 0x03 f
    (fun t pc => if arriveLevel f = 0 ∨ 5 < arriveLevel f then some (refuse t d 0x08 7 0x03 pc) else none)
    fun t => if isShadow t d then partnerFollows t d else barrierArrive t (barrierKey (arriveLevel f) d (arriveChan f)) d

/-! ### Meanings -/

/-- The meaning of SIGNAL. -/
def execSignal (d : Nat) (f : IInst) (s : State) : Host.Outcome State Fault Refusal :=
  guardUnit (d < 512) (signalState d f s)

/-- The meaning of WAIT. -/
def execWait (d : Nat) (f : IInst) (s : State) : Host.Outcome State Fault Refusal :=
  guardUnit (d < 512) (waitState d f s)

/-- The meaning of ARRIVE. -/
def execArrive (d : Nat) (f : IInst) (s : State) : Host.Outcome State Fault Refusal :=
  guardUnit (d < 512) (arriveState d f s)

/-- The meaning of SEMWAIT. -/
def execSemwait (d : Nat) (f : IInst) (s : State) : Host.Outcome State Fault Refusal :=
  guardUnit (d < 512) (semwaitState d f s)

/-- The meaning of SEMINC. -/
def execSeminc (d : Nat) (f : IInst) (s : State) : Host.Outcome State Fault Refusal :=
  guardUnit (d < 512) (semincState d f s)

end Sys2Proof.Machine
end

