-- ==== Sys2Proof/Machine/Sequencer.lean ====
section
/-! DEFINITION. The sequencer (R170-R171, R175-R176, R180, R183-R186, R189-R194): scalar and control instructions,
tile slot descriptors, END, and the fetch of the next instruction. -/
namespace Sys2Proof.Machine

/-! ### Scalar arithmetic (R186) -/

/-- Nothing refuses an instruction. -/
def noTrap (_ : State) (_ : Nat) : Option State := none

/-- An instruction whose result is a function of two scalar operands. -/
def aluRR (s : State) (d o : Nat) (f : RInst) (fn : W64 → W64 → W64) : State :=
  seqRun s d (encR 0 o f) noTrap fun _ t => updDale t d fun x => xput x f.d (fn (xget x f.a) (xget x f.b))

/-- An instruction whose result is a function of a scalar operand and the sign-extended immediate. -/
def aluRI (s : State) (d o : Nat) (f : IInst) (fn : W64 → W64 → W64) : State :=
  seqRun s d (encI 0 o f) noTrap fun _ t => updDale t d fun x => xput x f.d (fn (xget x f.a) (sextI f))

/-- Shifts by the low six bits of an amount (R186). -/
def shl64 (a b : W64) : W64 := a <<< (b.toNat % 64)
def shr64 (a b : W64) : W64 := a >>> (b.toNat % 64)
def sra64 (a b : W64) : W64 := a.sshiftRight (b.toNat % 64)

def addState (d : Nat) (f : RInst) (s : State) : State := aluRR s d 0x08 f (· + ·)
def subState (d : Nat) (f : RInst) (s : State) : State := aluRR s d 0x09 f (· - ·)
def andState (d : Nat) (f : RInst) (s : State) : State := aluRR s d 0x0A f (· &&& ·)
def orState (d : Nat) (f : RInst) (s : State) : State := aluRR s d 0x0B f (· ||| ·)
def xorState (d : Nat) (f : RInst) (s : State) : State := aluRR s d 0x0C f (· ^^^ ·)
def shlState (d : Nat) (f : RInst) (s : State) : State := aluRR s d 0x0D f shl64
def shrState (d : Nat) (f : RInst) (s : State) : State := aluRR s d 0x0E f shr64
def sraState (d : Nat) (f : RInst) (s : State) : State := aluRR s d 0x0F f sra64
def addiState (d : Nat) (f : IInst) (s : State) : State := aluRI s d 0x10 f (· + ·)
def subiState (d : Nat) (f : IInst) (s : State) : State := aluRI s d 0x11 f (· - ·)
def andiState (d : Nat) (f : IInst) (s : State) : State := aluRI s d 0x12 f (· &&& ·)
def oriState (d : Nat) (f : IInst) (s : State) : State := aluRI s d 0x13 f (· ||| ·)
def xoriState (d : Nat) (f : IInst) (s : State) : State := aluRI s d 0x14 f (· ^^^ ·)
def shliState (d : Nat) (f : IInst) (s : State) : State := aluRI s d 0x15 f shl64
def shriState (d : Nat) (f : IInst) (s : State) : State := aluRI s d 0x16 f shr64
def sraiState (d : Nat) (f : IInst) (s : State) : State := aluRI s d 0x17 f sra64

/-- MUL: the low 64 bits of the product. -/
def mulState (d : Nat) (f : RInst) (s : State) : State := aluRR s d 0x18 f (· * ·)

/-- LI: the sign-extended immediate. -/
def liState (d : Nat) (f : IInst) (s : State) : State :=
  seqRun s d (encI 0 0x19 f) noTrap fun _ t => updDale t d fun x => xput x f.d (sextI f)

/-- LIH: the high half from the immediate, the low half kept. -/
def lihState (d : Nat) (f : IInst) (s : State) : State :=
  seqRun s d (encI 0 0x1A f) noTrap fun _ t => updDale t d fun x =>
    xputN x f.d (immI f * 2 ^ 32 + (xget x f.d).toNat % 2 ^ 32)

/-- NOP. -/
def nopState (d : Nat) (f : IInst) (s : State) : State := seqRun s d (encI 0 0x01 f) noTrap fun _ t => t

/-- ILLEGAL: class 0 OP 0x00, the decoding of an unwritten word, traps INVALID (R186, R190, R193). -/
def illegalState (d : Nat) (_ : IInst) (s : State) : State :=
  let x := dale s d
  if canIssue s d then
    invalid s d (if (tget none x.imem (x.pc / 8)).isSome then 1 else 0) 0 0 x.pc
  else s

/-! ### Control and status registers (R184) -/

/-- A control and status register. -/
def csrRead (x : Dale) (d n : Nat) : Option Nat :=
  match n with
  | 0x000 => some d
  | 0x010 => some x.stepCount
  | 0x011 => some x.stallCount
  | 0x012 => some ((if x.mxWest then 1 else 0) + (if x.mxEast then 2 else 0) + x.mxStatus * 2 ^ 8)
  | 0x013 => some x.imemCorr
  | 0x020 => some (x.dither.substream * 2 ^ 32 + x.dither.tensorId)
  | 0x021 => some x.dither.base
  | _ => none

/-- CSRR: an unknown number is refused (R191 reason 0x07). The registers are read before this issue counts in STEP_COUNT
(DEDUCED, log entry 48). -/
def csrrState (d : Nat) (f : IInst) (s : State) : State :=
  let n := immI f % 4096
  seqRun s d (encI 0 0x04 f)
    (fun t pc => if (csrRead (dale t d) d n).isNone then some (refuse t d 0x07 0 0x04 pc) else none)
    fun _ t => updDale t d fun x => xputN x f.d ((csrRead (dale s d) d n).getD 0)

/-! ### Loads and stores (R180, R186) -/

/-- The offset of a scalar access: a multiple of 8 within the dale window (R7); anything else is refused. -/
def accessOff (x : Dale) (f : IInst) : Option Nat :=
  let a := (xget x f.a + sextI f).toNat
  if a % 8 = 0 ∧ a < 0x100000 then some a else none

/-- The check of LD and ST (R191 reason 0x09). -/
def accessCheck (d o : Nat) (f : IInst) (s : State) (pc : Nat) : Option State :=
  if (accessOff (dale s d) f).isNone then some (refuse s d 0x09 0 o pc) else none

/-- The read of LD at an offset of the store: a marked row or a bad word traps POISON, xD zero (R433, R432). -/
def ldRead (d n off pc : Nat) (t : State) : State :=
  let row := markedRow (dale t d) off 8
  let r := storeRead t d off 8 0 pc
  match row with
  | some (k, i) => trapPoison (zeroDests r.1 d [.x n]) d k i pc
  | none =>
    if r.2.2 then trapPoison (zeroDests r.1 d [.x n]) d (0x80 + n) 0 pc
    else updDale r.1 d fun x => xputN x n (leNat r.2.1)

/-- What LD does once issued: 64 bits into xD (R177, R432); offsets past the store read 0 (R8, R6). -/
def ldBody (d : Nat) (f : IInst) (pc : Nat) (t : State) : State :=
  match accessOff (dale t d) f with
  | none => t
  | some off => if storeBytes ≤ off then updDale t d fun x => xputN x f.d 0 else ldRead d f.d off pc t

/-- LD: 64 bits into xD (R177, R432). -/
def ldState (d : Nat) (f : IInst) (s : State) : State :=
  seqRun s d (encI 0 0x20 f) (accessCheck d 0x20 f) (ldBody d f)

/-- ST: 64 bits of xB (R177, R432); offsets past the store ignore it (R8, R6). -/
def stState (d : Nat) (f : IInst) (s : State) : State :=
  seqRun s d (encI 0 0x21 f) (accessCheck d 0x21 f) fun pc t =>
    match accessOff (dale t d) f with
    | none => t
    | some off => if storeBytes ≤ off then t else localStore t d [(off, leBytes 8 (xget (dale t d) f.b).toNat)] pc

/-! ### Branches and jumps (R171, R194) -/

/-- The target of a branch from an address: instructions counted from the branch itself. -/
def branchTarget (pc : Nat) (f : IInst) : Int := pc + 8 * simmI f

/-- A branch that is taken to a target outside instruction memory traps INVALID (R194). -/
def branchCheck (d o : Nat) (f : IInst) (taken : Dale → Bool) (s : State) (pc : Nat) : Option State :=
  let t := branchTarget pc f
  if taken (dale s d) && (decide (t < 0) || decide (t > 0xFFF8)) then some (invalid s d 2 0 o pc) else none

/-- A conditional branch. -/
def branch (s : State) (d o : Nat) (f : IInst) (taken : Dale → Bool) : State :=
  seqRun s d (encI 0 o f) (branchCheck d o f taken) fun pc t =>
    updDale t d fun x => if taken x then { x with pc := (branchTarget pc f).toNat } else x

def beqState (d : Nat) (f : IInst) (s : State) : State := branch s d 0x28 f fun x => xget x f.a == xget x f.b
def bneState (d : Nat) (f : IInst) (s : State) : State := branch s d 0x29 f fun x => xget x f.a != xget x f.b
def bltState (d : Nat) (f : IInst) (s : State) : State := branch s d 0x2A f fun x => decide ((xget x f.a).toInt < (xget x f.b).toInt)
def bgeState (d : Nat) (f : IInst) (s : State) : State := branch s d 0x2B f fun x => decide ((xget x f.b).toInt ≤ (xget x f.a).toInt)
def bltuState (d : Nat) (f : IInst) (s : State) : State := branch s d 0x2C f fun x => decide ((xget x f.a).toNat < (xget x f.b).toNat)
def bgeuState (d : Nat) (f : IInst) (s : State) : State := branch s d 0x2D f fun x => decide ((xget x f.b).toNat ≤ (xget x f.a).toNat)
def bpanyState (d : Nat) (f : IInst) (s : State) : State := branch s d 0x30 f fun x => pget x f.a != 0#256
def bpnoneState (d : Nat) (f : IInst) (s : State) : State := branch s d 0x31 f fun x => pget x f.a == 0#256

/-- JAL: the return address and the jump. -/
def jalState (d : Nat) (f : IInst) (s : State) : State :=
  seqRun s d (encI 0 0x2E f) (branchCheck d 0x2E f fun _ => true) fun pc t =>
    updDale t d fun x => { xputN x f.d (pc + 8) with pc := (branchTarget pc f).toNat }

/-- JR: a target that is misaligned or has a bit above bit 15 traps INVALID at the JR (R194). -/
def jrState (d : Nat) (f : IInst) (s : State) : State :=
  seqRun s d (encI 0 0x2F f)
    (fun t pc =>
      let a := (xget (dale t d) f.a).toNat
      if a % 8 ≠ 0 then some (invalid t d 3 0 0x2F pc) else if a > 0xFFFF then some (invalid t d 2 0 0x2F pc) else none)
    fun _ t => updDale t d fun x => { x with pc := (xget x f.a).toNat }

/-! ### Tile slot descriptors (R175, R176) -/

/-- The slot that four descriptor words state, or the cause of event 0x0605 that refuses them: 0 alignment, 1 range,
2 format, 3 scale, 4 overlap. ROWS 0 makes the slot invalid (R175), and its other fields are checked all the same. -/
def slotOfWords (x : Dale) (k : Nat) (w : List W64) : Nat ⊕ Option Slot :=
  let w0 := w.getD 0 0#64
  let w1 := w.getD 1 0#64
  let w2 := w.getD 2 0#64
  let w3 := w.getD 3 0#64
  let rows := wbits w0 50 38
  let rb := wbits w0 35 24
  let base := wbits w0 19 0
  let scale := BitVec.ofNat 32 (wbits w1 63 32)
  if base % 64 ≠ 0 ∨ rb % 4 ≠ 0 then .inl 0
  else if rows > 4096 ∨ (rows ≠ 0 ∧ (rb < 4 ∨ 2048 < rb)) ∨ base + rows * rb > storeBytes then .inl 1
  else
    match fmtOfCode (wbits w0 55 52) with
    | none => .inl 2
    | some fmt =>
      if !isFinite32 scale then .inl 3
      else if rows = 0 then .inr none
      else if (List.range 16).any fun j => j ≠ k && (match slotOf x j with
          | some t => t.base < base + rows * rb && base < slotEnd t
          | none => false) then .inl 4
      else
        .inr (some ⟨fmt, w0.getLsbD 51, rows, rb, base, scale, wbits w1 31 0, wbits w2 63 48, wbits w2 47 0, wbits w3 63 32,
          ones rows, 0⟩)

/-- A descriptor TDESC does not take (R176): cause and address in the error record. -/
def tdescBad (d k cause : Nat) (t : State) (pc : Nat) : State :=
  unissue t d causeTileSlot .formatError pc 0x0605 [(4, k), (3, cause), (32, pc)]

/-- The four words of a descriptor read from the store. -/
def tdescWords (bs : List Byte) : List W64 := (List.range 4).map fun i => BitVec.ofNat 64 (fieldAt bs (8 * i) 8)

/-- TDESC's check of the descriptor at an offset: a bad word traps POISON, a bad descriptor FORMAT_ERROR. -/
def tdescCheck (d k off : Nat) (t : State) (pc : Nat) : Option State :=
  let r := storeRead t d off 32 0 pc
  if r.2.2 then some (trapPoison r.1 d k 0 pc)
  else
    match slotOfWords (dale t d) k (tdescWords r.2.1) with
    | .inl cause => some (tdescBad d k cause r.1 pc)
    | .inr _ => none

/-- TDESC once issued: the slot takes the descriptor. -/
def tdescBody (d k off pc : Nat) (t : State) : State :=
  let r := storeRead t d off 32 0 pc
  match slotOfWords (dale t d) k (tdescWords r.2.1) with
  | .inl _ => r.1
  | .inr t' => updDale r.1 d fun x => { x with t := tset none x.t k t' }

/-- TDESC (R176): refused descriptors leave the slot and trap TILE_SLOT. -/
def tdescState (d : Nat) (f : IInst) (s : State) : State :=
  let k := f.d % 16
  let off := (xget (dale s d) f.a + sextI f).toNat
  if off % 32 ≠ 0 then seqRun s d (encI 0 0x05 f) (fun t pc => some (tdescBad d k 0 t pc)) fun _ t => t
  else if off + 32 > storeBytes then seqRun s d (encI 0 0x05 f) (fun t pc => some (tdescBad d k 1 t pc)) fun _ t => t
  else seqRun s d (encI 0 0x05 f) (tdescCheck d k off) (tdescBody d k off)

/-! ### QSYNC and END (R180, R183) -/

/-- QSYNC waits at issue until every queue of its mask has completed what was issued before (R180). -/
def qsyncState (d : Nat) (f : IInst) (s : State) : State :=
  let x := dale s d
  if ((List.range 8).all fun k => !(immI f).testBit k || queueIdle x k) then
    seqRun s d (encI 0 0x03 f) noTrap fun _ t => t
  else s

/-- The signature of a dale at END (R437): CRC-32 over PC and x1 to x31, each as 8 bytes. -/
def endSig (x : Dale) (pc : Nat) : Nat :=
  crc32 (leBytes 8 pc ++ (List.range 31).flatMap fun i => leBytes 8 (xget x (i + 1)).toNat)

/-- Send a dale's report to the command processor (R183, R189, R214): the answer to its run signal, back along its path (R261,
R269). A dale that runs a known-answer kernel was sent none and reports none. -/
def sendReport (s : State) (d : Nat) (st : Status) : State :=
  match (dale s d).runPkt with
  | some p => updDale (sendAnswer s p (daleCol d) tyEndReport st false []) d fun x => { x with runPkt := none }
  | none => s

/-- A dale's part of the step ends with a status (R183, R192). -/
def endPart (s : State) (d : Nat) (st : Status) : State :=
  updDale s d fun x => { x with report := some st, running := false }

/-- The outcome of comparing the signatures of a pair so far (R437, R438): the ordinal of the first that differs, and
whether all are compared. -/
def compareSigs : Nat → List Nat → List Nat → Option Nat × Bool
  | _, [], [] => (none, true)
  | k, a :: as, b :: bs => if a = b then compareSigs (k + 1) as bs else (some k, false)
  | _, _, _ => (none, false)

/-- A shadow mismatch (R438): both parts end CHECK_MISMATCH, the pipeline halts, event 0x1003 is handed over once for
the pair with a strike for each dale. `kind` is 1 for END. -/
def shadowMismatch (s : State) (p k kind : Nat) : State :=
  let x := dale s p
  match x.partner with
  | none => s
  | some q =>
    if x.report = some .checkMismatch then s
    else
      let s1 := endPart (endPart s p .checkMismatch) q .checkMismatch
      let detail := packDetail [(16, p), (16, q), (8, x.pipe.getD 0), (16, daleEpoch s p), (16, k), (1, kind)]
      let s2 := emit (markStruck (markStruck s1 p) q)
        ⟨0x1003, sevError, smallestBasin [p, q], detail, cmdOfDale s p, strikeOf x p (6 * 2 ^ 20) ++ strikeOf (dale s q) q (6 * 2 ^ 20)⟩
      sendReport (sendReport (odBump s2 0x7820 1 1) p .checkMismatch) q .checkMismatch

/-- Compare the signatures of the pair of a primary (R437, R438), and report both parts once both are at END and
every signature agrees. -/
def comparePair (s : State) (p kind : Nat) : State :=
  let x := dale s p
  match x.partner with
  | none => s
  | some q =>
    let y := dale s q
    match compareSigs 0 x.sigs x.sigsSeen with
    | (some k, _) => shadowMismatch s p k kind
    | (none, all) =>
      if x.report.isSome && y.report.isSome && x.report != some .checkMismatch then
        if x.sigs.length ≠ y.sigs.length then shadowMismatch s p (min x.sigs.length y.sigs.length) 1
        else if all then
          sendReport (sendReport s p (x.report.getD .done)) q (y.report.getD .done)
        else s
      else s

/-- END (R183): waits at issue for every queue and every acknowledgement, ends the dale's part, and reports it; a pair
reports once its signatures are compared (R437). -/
def endStepState (d : Nat) (f : IInst) (s : State) : State :=
  if !drained s d then s
  else
    seqRun s d (encI 0 0x02 f) noTrap fun pc t =>
      let x := dale t d
      let t1 := endPart t d (partStatus x)
      match x.partner with
      | none => sendReport t1 d (partStatus x)
      | some q => comparePair (formSig t1 d (endSig x pc)) (if x.isPartner then q else d) 1

/-! ### Fetch (R170, R193) -/

/-- Whether the opcode map lists a class and OP (R186). -/
def opListed (cls o : Nat) : Bool :=
  match cls with
  | 0 => (1 ≤ o && o ≤ 5) || (0x08 ≤ o && o ≤ 0x1A) || (o == 0x20 || o == 0x21) || (0x28 ≤ o && o ≤ 0x31)
  | 1 => o == 1 || o == 2
  | 2 => o ≤ 0x16 || (0x18 ≤ o && o ≤ 0x1B) || (0x20 ≤ o && o ≤ 0x2D) || (0x30 ≤ o && o ≤ 0x33)
  | 3 => 1 ≤ o && o ≤ 3
  | 4 => 1 ≤ o && o ≤ 9
  | 5 => (1 ≤ o && o ≤ 4) || (8 ≤ o && o ≤ 0x0A)
  | 6 => o == 1 || o == 2
  | 7 => 1 ≤ o && o ≤ 5
  | _ => false

/-- An instruction the sequencer itself executes. -/
def seqExec (s : State) (d : Nat) (w : W64) : State :=
  let r := decR w
  let i := decI w
  match wop w with
  | 0x01 => nopState d i s | 0x02 => endStepState d i s | 0x03 => qsyncState d i s | 0x04 => csrrState d i s
  | 0x05 => tdescState d i s
  | 0x08 => addState d r s | 0x09 => subState d r s | 0x0A => andState d r s | 0x0B => orState d r s
  | 0x0C => xorState d r s | 0x0D => shlState d r s | 0x0E => shrState d r s | 0x0F => sraState d r s
  | 0x10 => addiState d i s | 0x11 => subiState d i s | 0x12 => andiState d i s | 0x13 => oriState d i s
  | 0x14 => xoriState d i s | 0x15 => shliState d i s | 0x16 => shriState d i s | 0x17 => sraiState d i s
  | 0x18 => mulState d r s | 0x19 => liState d i s | 0x1A => lihState d i s
  | 0x20 => ldState d i s | 0x21 => stState d i s
  | 0x28 => beqState d i s | 0x29 => bneState d i s | 0x2A => bltState d i s | 0x2B => bgeState d i s
  | 0x2C => bltuState d i s | 0x2D => bgeuState d i s | 0x2E => jalState d i s | 0x2F => jrState d i s
  | 0x30 => bpanyState d i s | 0x31 => bpnoneState d i s
  | _ => s

/-- The check at issue of an instruction that goes to a queue (R170, R191). -/
def queueCheck (d : Nat) (w : W64) (s : State) (pc : Nat) : Option State :=
  let r := decR w
  let o := wop w
  match wclass w with
  | 1 => if o = 1 then mmulCheck d (decM w) s pc else none
  | 2 => vecCheck d o r s pc
  | 4 => if o = 1 then sfnCheck d r s pc else none
  | 5 => if o ≤ 4 then drawCheck d o r s pc else none
  | 6 => if o = 2 then tcopyCheck d r s pc else none
  | 7 => if o = 1 then lineCheck d false 0x01 (decI w) s pc else semincCheck d (decI w) s pc
  | _ => none

/-- Put an instruction into the queue of its class (R170, R172): there is room and no hazard. -/
def enqueue (s : State) (d : Nat) (w : W64) (desc : List W64) : State :=
  let x := dale s d
  updDale (issued s d) d fun y => setQueue y (wclass w) (queueOf y (wclass w) ++ [⟨x.pc, w, x.issueNo, desc, false⟩])

/-- Issue an instruction to its unit's queue, or leave the state when it must wait (R170). -/
def queueIssue (s : State) (d : Nat) (w : W64) : State :=
  let x := dale s d
  let cls := wclass w
  if (queueOf x cls).length ≥ queueDepth cls then s
  else if cls = 6 ∧ wop w = 1 then
    let r := decR w
    match sstartPeek x r with
    | .wait => s
    | .opens off => openList s d (immR r % 16) off
    | .takes desc => if hazard x w desc then s else enqueue (takeBlock s d (immR r % 16)) d w desc
  else if hazard x w [] then s
  else if cls = 3 then
    match setCheck d (wop w) (decR w) s x.pc with
    | some t => t
    | none => (setIssue s d (wop w) (decR w)).getD s
  else
    match queueCheck d w s x.pc with
    | some t => t
    | none => enqueue s d w []

/-- A blocking instruction (R173). -/
def blockIssue (s : State) (d : Nat) (w : W64) : State :=
  let i := decI w
  match wop w with
  | 0x02 => waitState d i s
  | 0x03 => arriveState d i s
  | _ => semwaitState d i s

/-- Count a step of a running command step in which nothing issued (R184). -/
def stalled (s : State) (d : Nat) : State :=
  updDale s d fun x => { x with stallCount := (x.stallCount + 1) % 2 ^ 64 }

/-- Issue the fetched word (R170, R190): an unlisted class or OP traps INVALID. -/
def issueWord (s : State) (d : Nat) (w : W64) : State :=
  if !opListed (wclass w) (wop w) then invalid s d 1 (wclass w) (wop w) (dale s d).pc
  else if wclass w = 0 then seqExec s d w
  else if wclass w = 7 ∧ (wop w = 2 ∨ wop w = 3 ∨ wop w = 4) then blockIssue s d w
  else queueIssue s d w

/-- Correct a single error of an instruction word on fetch (R193): written back, counted, event 0x0606 once per word per
placement. -/
def imemCorrect (s : State) (d k : Nat) (w : ImemWord) (v : Nat) : State :=
  let s1 := updDale s d fun x =>
    { x with imem := tins x.imem k (some ⟨BitVec.ofNat 64 v, 0, true⟩), imemCorr := holdAdd x.imemCorr 1 }
  let s2 := odBump s1 0x4400 3 1
  if w.recorded then s2 else emitDale s2 d 0x0606 sevInfo [(16, 8 * k), (8, w.synd)]

/-- An instruction word that fails SECDED traps FETCH_UNCORRECTABLE with a strike (R190, R442). -/
def fetchFail (s : State) (d pc synd : Nat) : State :=
  let s1 := emitStrike s d 0x0601 sevError [(32, pc), (8, synd)] 4 (pc / 8)
  trapDale (odBump s1 0x4400 4 1) d causeFetch .uncorrectable pc

/-- Fetch the next word and issue it when it may (R170, R193, R194). -/
def fetchIssue (s : State) (d : Nat) : State :=
  let x := dale s d
  if x.pc > 0xFFF8 then invalid s d 2 0 0 x.pc
  else
    match tget none x.imem (x.pc / 8) with
    | none => invalid s d 0 0 0 x.pc
    | some w =>
      match eccDecode w.word.toNat w.synd with
      | .clean => issueWord s d w.word
      | .corrected v => issueWord (imemCorrect s d (x.pc / 8) w v) d (BitVec.ofNat 64 v)
      | _ => fetchFail s d x.pc w.synd

/-! ### Issue gaps (R459) -/

/-- The fields of a rule (R462). -/
def ruleValid (r : Nat) : Bool := r.testBit 127
def ruleAction (r : Nat) : Nat := bitsOf r 126 124
def ruleView (r : Nat) : Nat := bitsOf r 123 122
def ruleCmp (r : Nat) : Bool := r.testBit 121
def ruleInput (r : Nat) : Nat := bitsOf r 120 110
def ruleHold (r : Nat) : Nat := bitsOf r 109 98
def ruleThreshold (r : Nat) : Int := (bitsOf r 95 64 : Int) - (if r.testBit 95 then 2 ^ 32 else 0)
def ruleHyst (r : Nat) : Nat := bitsOf r 63 48
def ruleArgA (r : Nat) : Nat := bitsOf r 47 32
def ruleArgB (r : Nat) : Nat := bitsOf r 31 16

/-- RULES_ACTIVE (R473). -/
def rulesActive (s : State) : Nat := winGet s 0x0200000F0050

/-- The issue gap of a dale, in 256ths: the largest of the device gap and those of the active ISSUE_GAP rules whose basin encloses it. -/
def issueGap (s : State) (d : Nat) : Nat :=
  (List.range 64).foldl (fun g i =>
    let r := s.power.rules.getD i 0
    if (rulesActive s).testBit i && ruleAction r == 1 && inBasin (ruleArgB r) d then max g (ruleArgA r % 256) else g) s.power.gap

/-- Whether a dale is held in a step: of every 256 of its steps, as many as its gap. -/
def gapHolds (s : State) (d : Nat) : Bool := ((dale s d).stepCount + (dale s d).stallCount) % 256 < issueGap s d

/-- A held step counts in STALL_COUNT, and in lockstep freeze mode as a freeze step of R88. -/
def heldStep (s : State) (d : Nat) : State :=
  if (dale s d).lockstep then odBump (stalled s d) 0x4010 5 1 else stalled s d

/-- SEQUENCER_FETCH: a step of a dale's sequencer; one in which nothing issues counts in STALL_COUNT (R184), as the step of a
trap at issue does, and one that an issue gap holds. -/
def sequencerFetchState (d : Nat) (s : State) : State :=
  let x := dale s d
  if !canIssue s d then
    if x.running && daleOn s d && !x.isolated then stalled s d else s
  else if gapHolds s d then heldStep s d
  else
    let t := fetchIssue s d
    if (dale t d).issueNo = x.issueNo then stalled t d else t

/-- TRAP_DRAINED (R189): a trapped dale whose issued instructions have completed reports its trap and holds; one whose issue was
stopped for a halting step is not asked (R218). -/
def trapDrainedState (d : Nat) (s : State) : State :=
  match (dale s d).trap with
  | none => s
  | some t =>
    if t.reported || !drained s d then s
    else
      let s1 := updDale s d fun x => { x with trap := some { t with reported := true }, report := some t.status, running := false }
      if (dale s d).stopped then s1 else sendReport s1 d t.status

/-! ### Meanings -/

/-- The meaning of SEQUENCER_FETCH. -/
def execSequencerFetch (d : Nat) (s : State) : Host.Outcome State Fault Refusal :=
  guardUnit (d < 512) (sequencerFetchState d s)

/-- The meaning of TRAP_DRAINED. -/
def execTrapDrained (d : Nat) (s : State) : Host.Outcome State Fault Refusal :=
  guardUnit (d < 512) (trapDrainedState d s)

/-- The meaning of ILLEGAL. -/
def execIllegal (d : Nat) (f : IInst) (s : State) : Host.Outcome State Fault Refusal :=
  guardUnit (d < 512) (illegalState d f s)

/-- The meaning of NOP. -/
def execNop (d : Nat) (f : IInst) (s : State) : Host.Outcome State Fault Refusal :=
  guardUnit (d < 512) (nopState d f s)

/-- The meaning of END. -/
def execEndStep (d : Nat) (f : IInst) (s : State) : Host.Outcome State Fault Refusal :=
  guardUnit (d < 512) (endStepState d f s)

/-- The meaning of QSYNC. -/
def execQsync (d : Nat) (f : IInst) (s : State) : Host.Outcome State Fault Refusal :=
  guardUnit (d < 512) (qsyncState d f s)

/-- The meaning of CSRR. -/
def execCsrr (d : Nat) (f : IInst) (s : State) : Host.Outcome State Fault Refusal :=
  guardUnit (d < 512) (csrrState d f s)

/-- The meaning of TDESC. -/
def execTdesc (d : Nat) (f : IInst) (s : State) : Host.Outcome State Fault Refusal :=
  guardUnit (d < 512) (tdescState d f s)

/-- The meaning of ADD. -/
def execAdd (d : Nat) (f : RInst) (s : State) : Host.Outcome State Fault Refusal :=
  guardUnit (d < 512) (addState d f s)

/-- The meaning of SUB. -/
def execSub (d : Nat) (f : RInst) (s : State) : Host.Outcome State Fault Refusal :=
  guardUnit (d < 512) (subState d f s)

/-- The meaning of AND. -/
def execAnd (d : Nat) (f : RInst) (s : State) : Host.Outcome State Fault Refusal :=
  guardUnit (d < 512) (andState d f s)

/-- The meaning of OR. -/
def execOr (d : Nat) (f : RInst) (s : State) : Host.Outcome State Fault Refusal :=
  guardUnit (d < 512) (orState d f s)

/-- The meaning of XOR. -/
def execXor (d : Nat) (f : RInst) (s : State) : Host.Outcome State Fault Refusal :=
  guardUnit (d < 512) (xorState d f s)

/-- The meaning of SHL. -/
def execShl (d : Nat) (f : RInst) (s : State) : Host.Outcome State Fault Refusal :=
  guardUnit (d < 512) (shlState d f s)

/-- The meaning of SHR. -/
def execShr (d : Nat) (f : RInst) (s : State) : Host.Outcome State Fault Refusal :=
  guardUnit (d < 512) (shrState d f s)

/-- The meaning of SRA. -/
def execSra (d : Nat) (f : RInst) (s : State) : Host.Outcome State Fault Refusal :=
  guardUnit (d < 512) (sraState d f s)

/-- The meaning of ADDI. -/
def execAddi (d : Nat) (f : IInst) (s : State) : Host.Outcome State Fault Refusal :=
  guardUnit (d < 512) (addiState d f s)

/-- The meaning of SUBI. -/
def execSubi (d : Nat) (f : IInst) (s : State) : Host.Outcome State Fault Refusal :=
  guardUnit (d < 512) (subiState d f s)

/-- The meaning of ANDI. -/
def execAndi (d : Nat) (f : IInst) (s : State) : Host.Outcome State Fault Refusal :=
  guardUnit (d < 512) (andiState d f s)

/-- The meaning of ORI. -/
def execOri (d : Nat) (f : IInst) (s : State) : Host.Outcome State Fault Refusal :=
  guardUnit (d < 512) (oriState d f s)

/-- The meaning of XORI. -/
def execXori (d : Nat) (f : IInst) (s : State) : Host.Outcome State Fault Refusal :=
  guardUnit (d < 512) (xoriState d f s)

/-- The meaning of SHLI. -/
def execShli (d : Nat) (f : IInst) (s : State) : Host.Outcome State Fault Refusal :=
  guardUnit (d < 512) (shliState d f s)

/-- The meaning of SHRI. -/
def execShri (d : Nat) (f : IInst) (s : State) : Host.Outcome State Fault Refusal :=
  guardUnit (d < 512) (shriState d f s)

/-- The meaning of SRAI. -/
def execSrai (d : Nat) (f : IInst) (s : State) : Host.Outcome State Fault Refusal :=
  guardUnit (d < 512) (sraiState d f s)

/-- The meaning of MUL. -/
def execMul (d : Nat) (f : RInst) (s : State) : Host.Outcome State Fault Refusal :=
  guardUnit (d < 512) (mulState d f s)

/-- The meaning of LI. -/
def execLi (d : Nat) (f : IInst) (s : State) : Host.Outcome State Fault Refusal :=
  guardUnit (d < 512) (liState d f s)

/-- The meaning of LIH. -/
def execLih (d : Nat) (f : IInst) (s : State) : Host.Outcome State Fault Refusal :=
  guardUnit (d < 512) (lihState d f s)

/-- The meaning of LD. -/
def execLd (d : Nat) (f : IInst) (s : State) : Host.Outcome State Fault Refusal :=
  guardUnit (d < 512) (ldState d f s)

/-- The meaning of ST. -/
def execSt (d : Nat) (f : IInst) (s : State) : Host.Outcome State Fault Refusal :=
  guardUnit (d < 512) (stState d f s)

/-- The meaning of BEQ. -/
def execBeq (d : Nat) (f : IInst) (s : State) : Host.Outcome State Fault Refusal :=
  guardUnit (d < 512) (beqState d f s)

/-- The meaning of BNE. -/
def execBne (d : Nat) (f : IInst) (s : State) : Host.Outcome State Fault Refusal :=
  guardUnit (d < 512) (bneState d f s)

/-- The meaning of BLT. -/
def execBlt (d : Nat) (f : IInst) (s : State) : Host.Outcome State Fault Refusal :=
  guardUnit (d < 512) (bltState d f s)

/-- The meaning of BGE. -/
def execBge (d : Nat) (f : IInst) (s : State) : Host.Outcome State Fault Refusal :=
  guardUnit (d < 512) (bgeState d f s)

/-- The meaning of BLTU. -/
def execBltu (d : Nat) (f : IInst) (s : State) : Host.Outcome State Fault Refusal :=
  guardUnit (d < 512) (bltuState d f s)

/-- The meaning of BGEU. -/
def execBgeu (d : Nat) (f : IInst) (s : State) : Host.Outcome State Fault Refusal :=
  guardUnit (d < 512) (bgeuState d f s)

/-- The meaning of JAL. -/
def execJal (d : Nat) (f : IInst) (s : State) : Host.Outcome State Fault Refusal :=
  guardUnit (d < 512) (jalState d f s)

/-- The meaning of JR. -/
def execJr (d : Nat) (f : IInst) (s : State) : Host.Outcome State Fault Refusal :=
  guardUnit (d < 512) (jrState d f s)

/-- The meaning of BPANY. -/
def execBpany (d : Nat) (f : IInst) (s : State) : Host.Outcome State Fault Refusal :=
  guardUnit (d < 512) (bpanyState d f s)

/-- The meaning of BPNONE. -/
def execBpnone (d : Nat) (f : IInst) (s : State) : Host.Outcome State Fault Refusal :=
  guardUnit (d < 512) (bpnoneState d f s)

end Sys2Proof.Machine
end

