-- ==== Sys2Proof/Machine/HbmOps.lean ====
section
/-! DEFINITION. What the memory controllers share (R288-R308, R371): the address map, reads and writes of HBM with their
check bits, the queue of requests, answers over the network and over Heonlink, and accesses by device physical address. -/
namespace Sys2Proof.Machine

/-! ### Link agents -/

/-- A sub-link's agent. -/
def agent (s : State) (j : Nat) : Agent := tget Agent.reset s.heon j
def setAgent (s : State) (j : Nat) (a : Agent) : State := { s with heon := tset Agent.reset s.heon j a }
def updAgent (s : State) (j : Nat) (f : Agent → Agent) : State := setAgent s j (f (agent s j))

/-- The sub-link of a line (R364). -/
def subOf (a : Nat) : Nat := a / 64 % 4

/-- A message without data. -/
def heonMsg (op tag addr value status st : Nat) (follows : Bool) (poison : Nat) : HeonMsg :=
  ⟨op, tag, addr, value, status, st, poison, follows, [], []⟩

/-- Queue a message for a sub-link. -/
def sendHost (s : State) (j : Nat) (m : HeonMsg) : State := updAgent s j fun a => { a with toHost := a.toHost ++ [m] }

/-! ### The address map (R288, R289) -/

/-- The stack of an HBM address, and its in-stack pseudo-channel. -/
def stackOf (a : Nat) : Nat := pseudoOf a / 32
def pcOf (a : Nat) : Nat := pseudoOf a % 32

/-- The bank of an address within its pseudo-channel, 16 per SID. -/
def bankOf (a : Nat) : Nat :=
  let bg := Nat.xor (a / 2 ^ 16) (a / 2 ^ 22) % 4
  let bk := Nat.xor (a / 2 ^ 20) (a / 2 ^ 24) % 4
  (a / 2 ^ 35 % 16) % 3 * 16 + bg * 4 + bk

/-- The row of an address. -/
def rowOf (a : Nat) : Nat := (a / 2 ^ 35 % 16) / 3 * 8192 + a / 2 ^ 22 % 8192

/-- The address of the n-th 32-byte access of a pseudo-channel, in ascending order (R309). -/
def accessAddr (stack pc n : Nat) : Nat := n / 8 * 65536 + (stack * 32 + pc) * 256 + n % 8 * 32
/-- Accesses of a pseudo-channel. -/
def accessCount : Nat := 37748736

/-! ### Controllers -/

/-- A controller. -/
def stk (s : State) (k : Nat) : Stack := tget Stack.reset s.hbm k
def setStk (s : State) (k : Nat) (v : Stack) : State := { s with hbm := tset Stack.reset s.hbm k v }
def updStk (s : State) (k : Nat) (f : Stack → Stack) : State := setStk s k (f (stk s k))

/-- The HBM window of a stack (R310). -/
def hbmWin (k off : Nat) : Nat := 0x020000070000 + 0x1000 * k + off

/-- Whether an address's pseudo-channel has finished its fill (R307). -/
def filled (s : State) (a : Nat) : Bool := (winGet s (hbmWin (stackOf a) 0)).testBit (pcOf a)

/-- The source of a stack's events (R493). -/
def stackSource (k : Nat) : Nat := unitSource 4 k

/-- Count a correction (R305): CE_COUNT, LAST_CE, OD 0x301s.01 and event 0x0A01 at each multiple of OD 0x3000.03. -/
def hbmCorrected (s : State) (a : Nat) : State :=
  let k := stackOf a
  let ce := hbmWin k (0x20 + 8 * pcOf a)
  let s1 := winSet (winSet s ce (holdAdd (winGet s ce) 1)) (hbmWin k 0x18) (a / 8 * 8)
  let s2 := odBump s1 (0x3010 + k) 1 1
  let total := odRaw s2 (odKey (0x3010 + k) 1)
  let step := odRaw s2 0x300003
  if step ≠ 0 ∧ total % step = 0 then emitPlain s2 0x0A01 sevInfo (stackSource k) [(3, k), (32, total), (48, a / 8 * 8)] else s2

/-- Count an uncorrectable word (R306). -/
def hbmUe (s : State) (a : Nat) : State :=
  let k := stackOf a
  let ue := hbmWin k (0x24 + 8 * pcOf a)
  odBump (winSet (winSet s ue (holdAdd (winGet s ue) 1)) (hbmWin k 0x10) (a / 8 * 8 + statusCode .uncorrectable * 2 ^ 48))
    (0x3010 + k) 2 1

/-- Write a word's poison mark (R306): LAST_UE and OD 0x301s.03. -/
def hbmPoison (s : State) (a : Nat) : State :=
  let k := stackOf a
  odBump (winSet (setSyn s a poisonSyn) (hbmWin k 0x10) (a / 8 * 8 + statusCode .poisoned * 2 ^ 48)) (0x3010 + k) 3 1

/-- The worse of two outcomes of a read (R301). -/
def worse (a b : Status) : Status :=
  if a = .uncorrectable ∨ b = .uncorrectable then .uncorrectable else if a = .poisoned ∨ b = .poisoned then .poisoned else .done

/-- Read the word of HBM that holds an address (R301, R305, R306): the state after and the outcome. -/
def hbmWord (s : State) (a : Nat) : State × Status :=
  match eccDecode (wordAt s a) (synOf s a) with
  | .clean => (s, .done)
  | .corrected w => (hbmCorrected (setSyn (memPut s (a / 8 * 8) (leBytes 8 w)) a 0) a, .done)
  | .poison => (s, .poisoned)
  | .uncorrectable => (hbmUe s a, .uncorrectable)

/-- Event 0x0A02, once for a response or an access (R306). -/
def hbmUeEvent (s0 s : State) (finder : Nat) (ws : List Nat) (src : Nat) : State :=
  match ws.find? fun w => eccDecode (wordAt s0 w) (synOf s0 w) = .uncorrectable with
  | some w => emitPlain s 0x0A02 sevError (stackSource (stackOf w)) [(3, stackOf w), (1, finder), (48, w), (8, synOf s0 w), (10, src)]
  | none => s

/-- One word of a read: the state after and the worst outcome so far (R301). -/
def hbmReadStep (acc : State × Status) (w : Nat) : State × Status :=
  let r := hbmWord acc.1 w
  (r.1, worse acc.2 r.2)

/-- The words of a demand read of HBM in order: the state with every word corrected, and the outcome. -/
def hbmReadWords (s : State) (a n : Nat) : State × Status := (wordsOf a n).foldl hbmReadStep (s, .done)

/-- Whether a write is queued to the 32-byte access of an address (R305). -/
def writeQueued (s : State) (a : Nat) : Bool :=
  (stk s (stackOf a)).queue.any fun r => r.wr && decide (r.addr / 32 ≤ a / 32 ∧ a / 32 ≤ (r.addr + r.len - 1) / 32)

/-- Corrected words are not written back where a write to their access is queued, since it supersedes them (R305): those words stay
as they were in `s0`. -/
def keepQueued (s0 s : State) (ws : List Nat) : State :=
  (ws.filter (writeQueued s0)).foldl (fun t w => setSyn (memPut t w (memBytes s0 w 8)) w (synOf s0 w)) s

/-- The requests a read makes: none crosses a 256-byte boundary (R236). -/
def blocksOf (a n : Nat) : List (Nat × Nat) :=
  if n = 0 then []
  else
    (List.range ((a + n - 1) / 256 - a / 256 + 1)).map fun i =>
      let lo := max a ((a / 256 + i) * 256)
      (lo, min (a + n) ((a / 256 + i + 1) * 256) - lo)

/-- The state after a demand read of HBM: words corrected and counted, and event 0x0A02 for each request whose response found a
word not correctable (R306). -/
def hbmAfter (s : State) (a n src : Nat) : State :=
  (blocksOf a n).foldl (fun t b => hbmUeEvent s t 0 (wordsOf b.1 b.2) src) (keepQueued s (hbmReadWords s a n).1 (wordsOf a n))

/-- A demand read of HBM (R301-R306): the state after, the bytes, and the outcome. -/
def hbmRead (s : State) (a n src : Nat) : State × List Byte × Status :=
  (hbmAfter s a n src, memBytes (hbmReadWords s a n).1 a n, (hbmReadWords s a n).2)

/-- Event 0x0A03 (R303, R304). -/
def poisonEvent (s : State) (cause a src : Nat) : State :=
  emitPlain s 0x0A03 sevWarning (stackSource (stackOf a)) [(3, stackOf a), (2, cause), (48, a / 8 * 8), (10, src)]

/-- One word a write covers in part (R302): the state after reading it, and the words found marked or bad. -/
def hbmMergeStep (acc : State × List Nat) (w : Nat) : State × List Nat :=
  let r := hbmWord acc.1 w
  (r.1, if r.2 = .done then acc.2 else acc.2 ++ [w])

/-- A write of words of HBM (R302-R304), those of `part` covered in part and so read and merged first: the state after and the
status of its acknowledgement. `put` writes the bytes, and `hit` tells a word with a byte whose parity failed. -/
def hbmPut (s : State) (a : Nat) (ws part : List Nat) (put : State → State) (poison : Bool) (hit : Nat → Bool) (src : Nat) :
    State × Status :=
  let (s1, marked) := part.foldl hbmMergeStep (s, [])
  let s2 := put (hbmUeEvent s s1 0 part src)
  let s3 := ws.foldl (fun t w => if poison || marked.contains w || hit w then hbmPoison t w else setSyn t w 0) s2
  if poison then (poisonEvent s3 0 (ws.headD a) src, .done)
  else
    let s4 := match ws.find? hit with | some w => poisonEvent s3 1 w src | none => s3
    match marked with
    | [] => (s4, .done)
    | w :: _ => (poisonEvent s4 2 w src, .uncorrectable)

/-- Whether a byte of a word is among those that fail parity, numbered from an address. -/
def hitBy (a : Nat) (bad : List Nat) (w : Nat) : Bool := bad.any fun i => (a + i) / 8 * 8 == w

/-- A write of consecutive bytes of HBM (R302-R304). `bad` are bytes whose parity failed. -/
def hbmWrite (s : State) (a : Nat) (bs : List Byte) (poison : Bool) (bad : List Nat) (src : Nat) : State × Status :=
  let n := bs.length
  let ws := wordsOf a n
  hbmPut s a ws (ws.filter fun w => !(decide (a ≤ w) && decide (w + 8 ≤ a + n))) (fun t => memPut t a bs) poison
    (hitBy a (bad.filter (· < n))) src

/-- A write of the bytes of a line that a BYTE_MASK selects (R304, R371): a word of which it selects some is read and merged once. -/
def hbmWriteMask (s : State) (a : Nat) (bs : List Byte) (mask : Nat) (poison : Bool) (bad : List Nat) (src : Nat) : State × Status :=
  let on (w : Nat) : Nat := mask / 2 ^ (w - a) % 256
  let ws := (wordsOf a 64).filter fun w => on w != 0
  let put (t : State) : State :=
    ((List.range 64).filter mask.testBit).foldl (fun u i => memPut u (a + i) (bytesAt bs i 1)) t
  hbmPut s a ws (ws.filter fun w => on w != 255) put poison (hitBy a (bad.filter mask.testBit)) src

/-- Add a request to its controller's queue, in arrival order, with its arrival time and its port's target (R291, R293). -/
def hbmEnqueue (s : State) (r : HbmReq) : State :=
  updStk s (stackOf r.addr) fun k =>
    { k with queue := k.queue ++ [{ r with at_ := k.clock, target := odRaw s (0x300101 + r.port) }] }

/-! ### Marked rows of slots (R433) -/

/-- A network write changed bytes of a dale store: rows it covers whole become good with good data, and rows it touches
become marked with marked data. -/
def remarkRows (s : State) (d off n : Nat) (poison : Bool) : State :=
  updDale s d fun x =>
    (List.range 16).foldl (fun x k =>
      match slotOf x k with
      | none => x
      | some t =>
        let p := (List.range t.rows).foldl (fun p r =>
          let lo := t.base + r * t.rowBytes
          let hi := lo + t.rowBytes
          if poison then (if off < hi ∧ lo < off + n then bitPut p r true else p)
          else if off ≤ lo ∧ hi ≤ off + n then bitPut p r false
          else p) t.poison
        if p = t.poison then x else setSlot x k { t with poison := p }) x

/-- A network write into a dale's store (R432, R433), made also into the partner's of a pair (R436): the status of its
acknowledgement. -/
def daleWrite (s : State) (d off : Nat) (bs : List Byte) (poison : Bool) : State × Status :=
  let ws := bs.take (storeBytes - off)
  let (s1, bad) := storeWrite s d off ws poison 0
  let s2 := remarkRows s1 d off ws.length poison
  match (dale s d).partner with
  | some q =>
    if (dale s d).isPartner then (s2, if bad then .uncorrectable else .done)
    else
      let (s3, bad2) := storeWrite s2 q off ws poison 0
      (remarkRows s3 q off ws.length poison, if bad || bad2 then .uncorrectable else .done)
  | none => (s2, if bad then .uncorrectable else .done)

/-- A read of a dale's store by another unit (R301, R432): the reserved offsets past it read 0 (R6, R8). -/
def daleRead (s : State) (d off n : Nat) : State × List Byte × Status :=
  let k := min n (storeBytes - off)
  let o := storeOutcome s d off k
  let (s1, bs, m) := storeRead s d off k 2 0
  (s1, bytesAt bs 0 n, if o = 2 then .uncorrectable else if m then .poisoned else .done)

/-! ### Accesses by device physical address (R7-R9) -/

/-- Whether an address range lies in HBM or in one dale's window. -/
def inMemory (a n : Nat) : Bool :=
  match regionOf a, regionOf (a + n - 1) with
  | .hbm, .hbm => true
  | .store d _, .store e _ => d == e
  | _, _ => false

/-- Read device memory as one action of the command processor or another unit of the edge (log entry 31): the status
tells a range outside memory, a store that is gone, or the outcome of the words. -/
def readPhys (s : State) (a n : Nat) : State × List Byte × Status :=
  if n = 0 then (s, [], .done)
  else if !inMemory a n then (s, List.replicate n 0#8, .formatError)
  else
    match regionOf a with
    | .store d o =>
      match daleGone s d with
      | some st => (s, List.replicate n 0#8, st)
      | none => daleRead s d o n
    | _ => hbmRead s a n cmdCol

/-- Write device memory as one action. -/
def writePhys (s : State) (a : Nat) (bs : List Byte) (poison : Bool) : State × Status :=
  if bs.isEmpty then (s, .done)
  else if !inMemory a bs.length then (s, .formatError)
  else
    match regionOf a with
    | .store d o =>
      match daleGone s d with
      | some st => (s, st)
      | none => daleWrite s d o bs poison
    | _ =>
      (blocksOf a bs.length).foldl (fun (acc : State × Status) b =>
        let r := hbmWrite acc.1 b.1 (bytesAt bs (b.1 - a) b.2) poison [] cmdCol
        (r.1, worse acc.2 r.2)) (s, .done)

end Sys2Proof.Machine
end

