-- ==== Sys2Proof/Machine/Gather.lean ====
section
/-! DEFINITION. The gather engines (R241-R252): lookups, their misses, and reloads of the hot-key directory. -/
namespace Sys2Proof.Machine

/-- A gather engine. -/
def gather (s : State) (k : Nat) : Gather := tget Gather.reset s.gathers k
def setGather (s : State) (k : Nat) (g : Gather) : State := { s with gathers := tset Gather.reset s.gathers k g }
def updGather (s : State) (k : Nat) (f : Gather → Gather) : State := setGather s k (f (gather s k))
def gatherSource (k : Nat) : Nat := unitSource 5 k

/-- The position hash of R243. -/
def gatherHash (seed key : Nat) : Nat :=
  let m := 2 ^ 64
  let x0 := Nat.xor key seed % m
  let x1 := Nat.xor x0 (x0 / 2 ^ 29)
  let x2 := x1 * 0x8F3A61C9E25D07B5 % m
  let x3 := Nat.xor x2 (x2 / 2 ^ 32)
  let x4 := x3 * 0xA3C59E274F816B4D % m
  x4 / 2 ^ 49

/-- The position of a key in a way under seeds (R243). -/
def gatherPos (seeds : Tab Nat) (key w : Nat) : Nat := w * 32768 + gatherHash (tget 0 seeds w) key

/-- The seeds and the entries of a bank. -/
def bankSeeds (g : Gather) (b : Nat) : Tab Nat := if b = 0 then g.seeds0 else g.seeds1
def bankTab (g : Gather) (b : Nat) : Tab Nat := if b = 0 then g.bank0 else g.bank1
def bankSyn (g : Gather) (b : Nat) : Tab Nat := if b = 0 then g.syn0 else g.syn1
def setBank (g : Gather) (b : Nat) (t : Tab Nat) (y : Tab Nat) : Gather :=
  if b = 0 then { g with bank0 := t, syn0 := y } else { g with bank1 := t, syn1 := y }

/-- Fields of a directory entry (R242). -/
def deValid (e : Nat) : Bool := e.testBit 84
def deLines (e : Nat) : Nat := bitsOf e 83 81
def deSlot (e : Nat) : Nat := bitsOf e 80 64
def deKey (e : Nat) : Nat := e % 2 ^ 64

/-- Read an entry of the live bank: a corrected one is corrected in place, an uncorrectable one holds no key (R246). -/
def readEntry (g : Gather) (pos : Nat) : Gather × Nat :=
  let e := tget 0 (bankTab g g.live) pos
  let half (i : Nat) : EccOutcome := eccDecode (e / 2 ^ (64 * i) % 2 ^ 64) (tget 0 (bankSyn g g.live) (pos * 2 + i))
  let val (i : Nat) : Option Nat :=
    match half i with
    | .clean => some (e / 2 ^ (64 * i) % 2 ^ 64)
    | .corrected w => some w
    | _ => none
  match val 0, val 1 with
  | some lo, some hi =>
    let v := lo + hi * 2 ^ 64
    (if half 0 = .clean ∧ half 1 = .clean then g
     else setBank g g.live (tset 0 (bankTab g g.live) pos v)
      (tset 0 (tset 0 (bankSyn g g.live) (pos * 2) 0) (pos * 2 + 1) 0), v)
  | _, _ => (g, 0)

/-- The entry a key hits in the live bank for rows of `n` bytes (R244). -/
def gatherFind (g : Gather) (key n : Nat) : Gather × Option Nat :=
  (List.range 4).foldl (fun (acc : Gather × Option Nat) w =>
    let (g1, e) := readEntry acc.1 (gatherPos (bankSeeds g g.live) key w)
    (g1, match acc.2 with
      | some e0 => some e0
      | none => if deValid e && deKey e == key && n ≤ 64 * 2 ^ deLines e then some e else none)) (g, none)

/-- What reading a cache line's words finds. -/
inductive LineRead where
  | good (g : Gather) (bytes : List Byte) (poison : Bool)
  | bad (syn : Nat)
deriving DecidableEq, Repr

/-- Read a cache line (R246): corrected in place; a marked word carries its mark. -/
def readLine (g : Gather) (line : Nat) : LineRead :=
  (List.range 8).foldl (fun acc i =>
    match acc with
    | .bad y => .bad y
    | .good g bs po =>
      let w := tget 0 g.lines (line * 8 + i)
      let y := tget 0 g.lineSyn (line * 8 + i)
      match eccDecode w y with
      | .clean => .good g (bs ++ leBytes 8 w) po
      | .corrected v =>
        .good { g with lines := tset 0 g.lines (line * 8 + i) v, lineSyn := tset 0 g.lineSyn (line * 8 + i) 0 } (bs ++ leBytes 8 v) po
      | .poison => .good g (bs ++ leBytes 8 w) true
      | .uncorrectable => .bad y) (.good g [] false)

/-- Read the lines of a row: its bytes and mark, or the line that failed with its syndrome (0 for one marked bad before). -/
def readLines (g : Gather) : Nat → Nat → List Byte → Bool → Gather × (List Byte × Bool) ⊕ Nat × Nat
  | _, 0, bs, po => .inl (g, bs, po)
  | line, n + 1, bs, po =>
    if g.bad.contains line then .inr (line, 0)
    else
      match readLine g line with
      | .good g1 b p => readLines g1 (line + 1) n (bs ++ b) (po || p)
      | .bad y => .inr (line, y)

/-- The key under which a miss piece is known (origin of R292). -/
def missKey (d ch row off : Nat) : Nat := ((d * 16 + ch) * 4096 + row) * 65536 + off

/-- The reads a row takes that starts at an address (R236). -/
def piecesOf (addr n : Nat) : Nat := (addr % 256 + n + 255) / 256

/-- Issue the reads of a missed row (R244, R292): its own stack at port 4, others through the engine's interface. -/
def gatherMissIssue (s : State) (k : Nat) (l : Lookup) (addr : Nat) : State :=
  (List.range (piecesOf addr l.len)).foldl (fun t i =>
    let lo := if i = 0 then addr else (addr / 256 + i) * 256
    let hi := min (addr + l.len) ((addr / 256 + i + 1) * 256)
    let o : Origin := ⟨1024 + k, 0, missKey l.dale l.chan l.row (lo - addr), l.no⟩
    let t1 := updGather t k fun g => { g with misses := g.misses ++ [(g.epoch, { l with len := hi - lo, key := lo - addr })] }
    if stackOf lo = k then
      hbmEnqueue t1 ⟨0, 4, 700 + k, false, lo, hi - lo, [], false, gatherCol k, none, some o, none, false, 0⟩
    else
      match handRequest t1 (gatherCol k) (routeIndex lo) tyRead lo 0 (hi - lo - 1) false [] 0 o (hi - lo) with
      | some u => u
      | none => haltChannel t1 l.dale l.chan 4 .formatError l.row lo) s

/-- A miss's data returns (R244): the piece reaches its row, or halts the channel. -/
def gatherMissReturn (s : State) (o : Origin) (addr : Nat) (st : Status) (bs : List Byte) (poison : Bool) : State :=
  let k := o.dale - 1024
  let off := o.key % 65536
  let row := o.key / 65536 % 4096
  let ch := o.key / (65536 * 4096) % 16
  let d := o.key / (65536 * 4096 * 16)
  let s1 := updGather s k fun g =>
    match g.misses.find? fun m => m.2.dale == d && m.2.chan == ch && m.2.row == row && m.2.no == o.no && m.2.key == off with
    | some m => { g with misses := g.misses.erase m }
    | none => g
  match answerCause st true with
  | some cause => if isFront s1 d ch o.no then haltChannel s1 d ch cause st row addr else s1
  | none => pieceRead s1 ⟨d, ch, row * 65536 + off, o.no⟩ st bs poison

/-- Serve a lookup that does not hit (R244). `bad` says that its line failed (R246). -/
def gatherMiss (s : State) (k : Nat) (l : Lookup) (b : Block) (bad : Bool) : State :=
  let s1 := odBump s (0x5100 + k) 3 1
  if gatherIdentity b then
    if bad then haltChannel s1 l.dale l.chan 1 .uncorrectable l.row b.addr
    else
      let off := b.args % 2 ^ 20 + l.row / 8
      if off ≥ storeBytes then haltChannel s1 l.dale l.chan 4 .formatError l.row off
      else
        let v := (memGet s1 (daleBase l.dale + off)).toNat
        let s2 := (storeWrite s1 l.dale off (leBytes 1 (bitPut v (l.row % 8) true)) false b.pc).1
        pieceRead s2 ⟨l.dale, l.chan, l.row * 65536, l.no⟩ .done (List.replicate l.len 0#8) false
  else
    let addr := b.addr + l.key * b.rowStride
    if addr + l.len > 0x4800000000 then haltChannel s1 l.dale l.chan 4 .formatError l.row addr
    else gatherMissIssue s1 k l addr

/-- Clear the miss bit of a hit in identity mode (R244). -/
def clearMiss (s : State) (l : Lookup) (b : Block) : State :=
  let off := b.args % 2 ^ 20 + l.row / 8
  if gatherIdentity b && decide (off < storeBytes) then
    let v := (memGet s (daleBase l.dale + off)).toNat
    (storeWrite s l.dale off (leBytes 1 (bitPut v (l.row % 8) false)) false b.pc).1
  else s

/-- Read a lookup's four positions and serve it (R244, R246). -/
def gatherServe (s : State) (k : Nat) (l : Lookup) (b : Block) : State :=
  let key := Nat.xor l.key (b.args / 2 ^ 48 * 2 ^ 48)
  let (g1, hit) := gatherFind (gather s k) key l.len
  let s1 := odBump (setGather s k g1) (0x5100 + k) 1 1
  match hit with
  | none => gatherMiss s1 k l b false
  | some e =>
    match readLines g1 (deSlot e) ((l.len + 63) / 64) [] false with
    | .inl (g2, bs, po) =>
      let s2 := clearMiss (odBump (setGather s1 k g2) (0x5100 + k) 2 1) l b
      pieceRead s2 ⟨l.dale, l.chan, l.row * 65536, l.no⟩ .done (bs.take l.len) po
    | .inr (line, syn) =>
      if g1.bad.contains line then gatherMiss s1 k l b true
      else
        let s2 := odBump (updGather s1 k fun g => { g with bad := g.bad ++ [line] }) (0x5100 + k) 4 1
        let s3 := emitPlain s2 0x0805 sevError (gatherSource k) [(3, k), (17, line), (8, syn), (16, g1.epoch)]
        gatherMiss s3 k l b true

/-- Whether the engine has places for the reads of a lookup, should it miss (R236). -/
def gatherRoom (s : State) (k : Nat) (l : Lookup) : Bool :=
  match frontBlock s l.dale l.chan with
  | some b => gatherIdentity b || decide ((gather s k).misses.length + piecesOf (b.addr + l.key * b.rowStride) l.len ≤ 2048)
  | none => true

/-- GATHER_LOOKUP (R244): the engine takes a waiting lookup of a row when it has places for its reads (R236); a lookup whose
block is gone is dropped. -/
def gatherLookupState (stack d ch row : Nat) (s : State) : State :=
  let g := gather s stack
  match g.waiting.find? fun l => l.dale == d && l.chan == ch && l.row == row with
  | none => s
  | some l =>
    if !domainOn s (144 + stack) || !gatherRoom s stack l then s
    else
      let s1 := setGather s stack { g with waiting := g.waiting.erase l }
      if isFront s1 d ch l.no then
        match frontBlock s1 d ch with
        | some b => gatherServe s1 stack l b
        | none => s1
      else s1

/-! ### Reload (R248-R252) -/

/-- The directory window of an engine (R248). -/
def dirWin (k off : Nat) : Nat := 0x020000040000 + 0x1000 * k + off

/-- RELOAD_CTRL (R248, R250): refused while a reload runs; GO starts one. -/
def reloadCtrlState (stack value : Nat) (s : State) : State :=
  let g := gather s stack
  if g.phase ≠ 0 ∨ value % 2 ^ 18 > 131072 then answer s .formatError 0
  else
    let s1 := winSet s (dirWin stack 0x18) (value % 2 ^ 18)
    answer (if value.testBit 31 then setGather s1 stack { g with phase := 1 } else s1) .done 0

/-- End a reload without effect (R252). -/
def refuseReload (s : State) (k cause : Nat) (st : Status) (ix : Nat) : State :=
  let b := 1 - (gather s k).live
  emitPlain (updGather s k fun g => { setBank g b [] [] with phase := 0, status := st }) 0x0804 sevError (gatherSource k)
    [(3, k), (3, cause), (8, statusCode st), (18, ix)]

/-- The cache slots the live bank references (R250 step 5). -/
def liveSlots (g : Gather) : List Nat :=
  (bankTab g g.live).flatMap fun e => if deValid e.2 then (List.range (2 ^ deLines e.2)).map (deSlot e.2 + ·) else []

/-- The fault of an entry of a bank image, if any (R252 causes 1 and 3). -/
def entryCause (seeds : Tab Nat) (pos e : Nat) : Option Nat :=
  if e / 2 ^ 85 % 2 ^ 43 ≠ 0 ∨ (deValid e = true ∧ (deLines e > 5 ∨ deSlot e + 2 ^ deLines e > 131072)) then some 3
  else if deValid e && gatherPos seeds (deKey e) (pos / 32768) != pos then some 1
  else none

/-- Check a bank image entry by entry (R252): the first fault and its position; a key met at two positions is cause 2. -/
def imageFault (seeds : Tab Nat) : List (Nat × Nat) → List Nat → Option (Nat × Nat)
  | [], _ => none
  | (pos, e) :: rest, seen =>
    match entryCause seeds pos e with
    | some c => some (c, pos)
    | none =>
      if deValid e then
        if seen.contains (deKey e) then some (2, pos) else imageFault seeds rest (deKey e :: seen)
      else imageFault seeds rest seen

/-- The fault of a run (R249, R252): cause and status. -/
def runFault (g : Gather) (w0 w1 : Nat) : Option Nat :=
  let src := w0 % 2 ^ 48
  let n := bitsOf w1 49 32
  let slot := w1 % 2 ^ 17
  if src % 64 ≠ 0 ∨ src + 64 * n > 0x4800000000 then some 5
  else if w0 / 2 ^ 48 ≠ 0 ∨ bitsOf w1 63 50 ≠ 0 ∨ bitsOf w1 31 17 ≠ 0 ∨ n = 0 ∨ n > 131072 ∨ slot + n > 131072 then some 4
  else if (liveSlots g).any fun x => decide (slot ≤ x) && decide (x < slot + n) then some 4
  else none

/-- Copy a line of a run into the cache; false where its words are uncorrectable (R252 cause 6). -/
def loadLine (s : State) (k src line : Nat) : State × Bool :=
  let (s1, bs, st) := hbmRead s src 64 (gatherCol k)
  if st = .uncorrectable then (s1, false)
  else
    (updGather s1 k fun g =>
      { g with
        lines := (List.range 8).foldl (fun t i => tset 0 t (line * 8 + i) (fieldAt bs (8 * i) 8)) g.lines,
        lineSyn := (List.range 8).foldl (fun t i => tset 0 t (line * 8 + i) (if synOf s1 (src + 8 * i) = poisonSyn then poisonSyn else 0)) g.lineSyn,
        bad := g.bad.filter (· != line) }, true)

/-- One line of a run, unless a line before it failed. -/
def loadRunLine (k w0 w1 : Nat) (acc : State × Bool) (j : Nat) : State × Bool :=
  if acc.2 then loadLine acc.1 k (w0 % 2 ^ 48 + 64 * j) (w1 % 2 ^ 17 + j) else acc

/-- The lines of a run in order: the state after, and whether all were written. -/
def loadRun (s : State) (k w0 w1 : Nat) : State × Bool := (List.range (bitsOf w1 49 32)).foldl (loadRunLine k w0 w1) (s, true)

/-- The first run that fails its check, with the cause (R250 step 3, R252). -/
def firstRunFault (g : Gather) : List (Nat × Nat × Nat) → Option (Nat × Nat)
  | [] => none
  | (i, w0, w1) :: rest =>
    match runFault g w0 w1 with
    | some c => some (c, i)
    | none => firstRunFault g rest

/-- Write the runs in order (R250 step 4): the state after, and the first run whose data could not be read. -/
def loadRuns (k : Nat) : List (Nat × Nat × Nat) → State → State × Option (Nat × Nat)
  | [], s => (s, none)
  | (i, w0, w1) :: rest, s =>
    if (loadRun s k w0 w1).2 then loadRuns k rest (loadRun s k w0 w1).1 else ((loadRun s k w0 w1).1, some (6, i))

/-- The bank image as positions and entries, listed where not zero. -/
def imageEntries (bs : List Byte) : List (Nat × Nat) :=
  (List.range 131072).filterMap fun i =>
    let e := fieldAt bs (16 * i) 16
    if e = 0 then none else some (i, e)

/-- The status of a cause of R252. -/
def reloadStatus (c : Nat) : Status := if c = 6 then .uncorrectable else .formatError

/-- RELOAD_STATUS of a load of the runs: phase 3 when every line is written, else the first failure (R250, R252). -/
def reloadLoaded (stack : Nat) (r : State × Option (Nat × Nat)) : State :=
  match r.2 with
  | none => updGather r.1 stack fun g => { g with phase := 3 }
  | some (c, i) => refuseReload r.1 stack c (reloadStatus c) i

/-- The shadow bank takes the checked image (R250 step 3). -/
def reloadBank (s : State) (stack n : Nat) (seeds : Tab Nat) (es : List (Nat × Nat)) : State :=
  updGather s stack fun g =>
    let g1 := setBank g (1 - g.live) es []
    let g2 := if g.live = 1 then { g1 with seeds0 := seeds } else { g1 with seeds1 := seeds }
    { g2 with phase := 2, runs := n }

/-- The run list as its index and two words. -/
def runList (n : Nat) (lst : List Byte) : List (Nat × Nat × Nat) :=
  (List.range n).map fun i => (i, fieldAt lst (16 * i) 8, fieldAt lst (16 * i + 8) 8)

/-- The runs, read, checked, and once every one passes written (R250 steps 3 and 4). -/
def reloadRuns (stack list n : Nat) (seeds : Tab Nat) (es : List (Nat × Nat)) (s : State) : State :=
  let r := hbmRead s list (16 * n) (gatherCol stack)
  if r.2.2 ≠ .done then refuseReload r.1 stack 6 .uncorrectable 0
  else
    match firstRunFault (gather r.1 stack) (runList n r.2.1) with
    | some (c, i) => refuseReload r.1 stack c .formatError i
    | none => reloadLoaded stack (loadRuns stack (runList n r.2.1) (reloadBank r.1 stack n seeds es))

/-- The image, read and checked (R250 steps 2 and 3). -/
def reloadImage (stack dir list n : Nat) (seeds : Tab Nat) (s : State) : State :=
  let r := hbmRead s dir 2097152 (gatherCol stack)
  if r.2.2 ≠ .done then refuseReload r.1 stack 6 .uncorrectable 0
  else
    match imageFault seeds (imageEntries r.2.1) [] with
    | some (c, pos) => refuseReload r.1 stack c .formatError pos
    | none => reloadRuns stack list n seeds (imageEntries r.2.1) r.1

/-- RELOAD_DRAINED (R250 steps 2 to 4): with no lookup of an older epoch left, the engine reads and checks the image and
the runs, and writes the lines. -/
def reloadDrainedState (stack : Nat) (s : State) : State :=
  let g := gather s stack
  if g.phase ≠ 1 ∨ g.misses.any (fun m => m.1 != g.epoch) ∨ !domainOn s (144 + stack) then s
  else
    let dir := winGet s (dirWin stack 0x08)
    let list := winGet s (dirWin stack 0x10)
    let n := winGet s (dirWin stack 0x18)
    if dir % 64 ≠ 0 ∨ dir + 2097152 > 0x4800000000 ∨ list % 16 ≠ 0 ∨ list + 16 * n > 0x4800000000 then
      refuseReload s stack 5 .formatError 0
    else
      reloadImage stack dir list n ((List.range 4).foldl (fun t w => tset 0 t w (winGet s (dirWin stack (0x20 + 8 * w)))) []) s

/-- RELOAD_FILLED (R250 steps 5 and 6): the shadow bank goes live, the epoch advances, event 0x0803. -/
def reloadFilledState (stack : Nat) (s : State) : State :=
  let g := gather s stack
  if g.phase ≠ 3 then s
  else
    let e := (g.epoch + 1) % 65536
    let valid := ((bankTab g (1 - g.live)).filter fun e => deValid e.2).length
    let s1 := setGather s stack { g with live := 1 - g.live, epoch := e, phase := 0, status := .done, made := e }
    emitPlain (odBump s1 (0x5100 + stack) 6 1) 0x0803 sevInfo (gatherSource stack)
      [(3, stack), (16, e), (18, valid), (18, g.runs)]

/-- The engine after its domain wakes (R298): no valid entry, and an epoch one above. -/
def gatherWake (s : State) (k : Nat) : State :=
  updGather s k fun g => { Gather.reset with epoch := (g.epoch + 1) % 65536 }

/-! ### Meanings -/

/-- The meaning of GATHER_LOOKUP. -/
def execGatherLookup (stack : Nat) (d : Nat) (ch : Nat) (row : Nat) (s : State) : Host.Outcome State Fault Refusal :=
  guardUnit (stack < 8 ∧ d < 512 ∧ ch < 16) (gatherLookupState stack d ch row s)

/-- The meaning of RELOAD_CTRL. -/
def execReloadCtrl (stack : Nat) (value : Nat) (s : State) : Host.Outcome State Fault Refusal :=
  guardUnit (stack < 8) (reloadCtrlState stack value s)

/-- The meaning of RELOAD_DRAINED. -/
def execReloadDrained (stack : Nat) (s : State) : Host.Outcome State Fault Refusal :=
  guardUnit (stack < 8) (reloadDrainedState stack s)

/-- The meaning of RELOAD_FILLED. -/
def execReloadFilled (stack : Nat) (s : State) : Host.Outcome State Fault Refusal :=
  guardUnit (stack < 8) (reloadFilledState stack s)

end Sys2Proof.Machine
end

