-- ==== Sys2Proof/Machine/Hbm.lean ====
section
/-! DEFINITION. The memory controllers' commands (R291-R309, R375-R378, R528): DRAM commands to a pseudo-channel, refresh,
temperature, patrol scrub, training, fill, and the snoop limit. -/
namespace Sys2Proof.Machine

/-! ### The presence filter (R375, R376) -/

/-- The lines an access touches. -/
def linesOf (a n : Nat) : List Nat :=
  if n = 0 then [] else (List.range ((a + n - 1) / 64 - a / 64 + 1)).map fun i => (a / 64 + i) * 64

/-- Whether the filter records a line, and whether as owned. -/
def filterOf (k : Stack) (line : Nat) : Option Bool := (k.filter.find? fun e => e.1 == line).map (·.2)

/-- Ask the host for a line (R376): once while the snoop is outstanding. -/
def snoopLine (s : State) (k line : Nat) (inv : Bool) : State :=
  if (stk s k).snoops.any fun e => e.1 == line then s
  else
    sendHost (updStk s k fun v => { v with snoops := v.snoops ++ [(line, inv, false)] }) (subOf line)
      (heonMsg (if inv then 0x11 else 0x10) (line / 64 % 4096) line 0 0 0 false 0)

/-- Lines on which a request must wait for the host (R376); patrol scrub is no unit's request, and waits for none. -/
def heldLines (k : Stack) (r : HbmReq) : List Nat :=
  if r.port = 5 then []
  else if r.host.isSome then (linesOf r.addr r.len).filter fun l => k.snoops.any fun e => e.1 == l
  else (linesOf r.addr r.len).filter fun l =>
    match filterOf k l with
    | some owned => r.wr || owned
    | none => k.snoops.any fun e => e.1 == l

/-- Whether the host may cache a line (R375). -/
def cacheable (s : State) (line : Nat) : Bool := s.hostWin.1 ≤ line && line + 64 ≤ s.hostWin.1 + s.hostWin.2

/-- The set of a line (R375). -/
def filterSet (line : Nat) : Nat := line / 2 ^ 13 % 8192

/-- The line that must leave the filter before another of its set can enter: the one allocated longest ago (R375). -/
def filterVictim (k : Stack) (line : Nat) : Option Nat :=
  let same := k.filter.filter fun e => filterSet e.1 == filterSet line
  if (filterOf k line).isSome || same.length < 8 then none else (same.head?).map (·.1)

/-- A line enters the filter or changes how it is held. -/
def filterPut (k : Stack) (line : Nat) (owned : Bool) : Stack :=
  if (filterOf k line).isSome then { k with filter := k.filter.map fun e => if e.1 = line then (line, owned) else e }
  else { k with filter := k.filter ++ [(line, owned)] }

/-- Whether a host request takes a line into the filter. -/
def allocates (s : State) (r : HbmReq) : Bool :=
  match r.host with
  | some (_, m) => (m.op = 0x01 ∨ m.op = 0x02) && cacheable s r.addr
  | none => false

/-- The snoops a request needs before it can be served (R375, R376). -/
def needSnoops (s : State) (k : Nat) (r : HbmReq) : List (Nat × Bool) :=
  let v := stk s k
  if r.host.isSome then
    match (if allocates s r then filterVictim v r.addr else none) with
    | some w => [(w, true)]
    | none => []
  else (heldLines v r).map fun l => (l, r.wr)

/-- Whether a request must still wait. -/
def mustWait (s : State) (k : Nat) (r : HbmReq) : Bool :=
  !(needSnoops s k r).isEmpty || !(heldLines (stk s k) r).isEmpty

/-! ### Choice (R293, R294) -/

/-- A request's own urgency; one of port 5 never rises above 1. -/
def urgency (now : Nat) (r : HbmReq) : Nat :=
  let target : Int := r.target
  let slack : Int := r.at_ + target - now
  let u := if slack ≤ 0 then 3 else if 4 * slack < target then 2 else if 2 * slack < target then 1 else 0
  if r.port = 5 then min 1 u else u

/-- The urgency a request takes on: the highest of its source's requests to the pseudo-channel (R294). -/
def urgencyOf (now : Nat) (q : List HbmReq) (r : HbmReq) : Nat :=
  (q.filter fun e => e.src == r.src).foldl (fun m e => max m (urgency now e)) 0

/-- The key of a bank's row and table. -/
def bankKey (a : Nat) : Nat := pcOf a * 64 + bankOf a

/-- Whether a request hits an open row. -/
def rowHit (k : Stack) (r : HbmReq) : Bool := tget none k.rows (bankKey r.addr) == some (rowOf r.addr)

/-- The request served next among those that can issue (R293): urgency, then row hit, then age. -/
def hbmPick (s : State) (k now : Nat) (q : List HbmReq) : Option HbmReq :=
  let v := stk s k
  let first := q.filter fun r => (q.find? fun e => e.src == r.src) == some r
  (first.filter fun r => !mustWait s k r).foldl (fun best r =>
    match best with
    | none => some r
    | some b =>
      let ub := urgencyOf now q b
      let ur := urgencyOf now q r
      if ur > ub || (ur == ub && rowHit v r && !rowHit v b) then some r else some b) none

/-! ### Row disturbance (R297) -/

/-- The lowest count of a table and its place. -/
def lowest (t : List (Nat × Nat)) : Nat × Nat :=
  (List.range t.length).foldl (fun (b : Nat × Nat) i =>
    let c := (t.getD i (0, 0)).2
    if c < b.1 then (c, i) else b) ((t.getD 0 (0, 0)).2, 0)

/-- Steps 1 to 3 of R297: an activate of a row counts in its bank's table. -/
def countRow (t : List (Nat × Nat)) (row : Nat) : List (Nat × Nat) :=
  if t.any fun e => e.1 == row then t.map fun e => if e.1 = row then (row, e.2 + 1) else e
  else if t.length < 32 then t ++ [(row, 1)]
  else
    let (c, i) := lowest t
    t.set i (row, c + 1)

/-- Rows refreshed beside a row: r - 1, r + 1, r - 2 and r + 2, those that exist (R297). -/
def neighbourRows (row : Nat) : List Nat :=
  (if row ≥ 1 then [row - 1] else []) ++ [row + 1].filter (· < 24576) ++ (if row ≥ 2 then [row - 2] else [])
    ++ [row + 2].filter (· < 24576)

/-- What an activate does: a bank's table, the activates made and the refreshes of neighbours made. -/
structure Activates where
  table : List (Nat × Nat)
  made  : Nat
  fired : Nat
deriving DecidableEq, Repr

/-- An activate of a row (R297): it counts, and when the row's count reaches 2,048 its neighbours are activated, which are
activates of their own rows, and its count falls to the lowest of the table. `n` bounds how far refreshes cause one another
(log entry 72). -/
def countActivate : Nat → Activates → Nat → Activates
  | 0, a, row => { a with table := countRow a.table row, made := a.made + 1 }
  | n + 1, a, row =>
    let t := countRow a.table row
    if t.contains (row, 2048) then
      let b := (neighbourRows row).foldl (countActivate n) ⟨t, a.made + 1, a.fired + 1⟩
      let low := (lowest b.table).1
      { b with table := b.table.map fun e => if e.1 = row then (row, low) else e }
    else { a with table := t, made := a.made + 1 }

/-- Activate a row: it opens, and counts (R296, R297). -/
def activateRow (s : State) (k a : Nat) : State :=
  let v := stk s k
  let b := bankKey a
  let r := countActivate 32 ⟨tget [] v.counts b, 0, 0⟩ (rowOf a)
  let s1 := setStk s k { v with rows := tset none v.rows b (some (rowOf a)), counts := tset [] v.counts b r.table,
                                raa := tset 0 v.raa b (tget 0 v.raa b + r.made) }
  if r.fired = 0 then s1 else odBump s1 (0x3010 + k) 4 r.fired

/-- Whether a bank's rolling activate count has reached the stack's RAA limit, so that RFMpb is due (R296). -/
def rfmDue (v : Stack) (b : Nat) : Bool :=
  let n := tget 0 v.raa b
  if n = 0 then false else decide (Config.raaLimit ≤ n)

/-- RFMpb to a bank whose row is closed (R296): it counts, and the rolling count starts again (log entry 72). -/
def rfmBank (s : State) (k b : Nat) : State :=
  odBump (updStk s k fun v => { v with raa := tset 0 v.raa b 0 }) (0x3010 + k) 5 1

/-! ### Serving (R295, R301-R304, R372) -/

/-- Write what a request carries (R302-R304): a host WR_NC its BYTE_MASK, others all of it. -/
def hbmStore (s : State) (r : HbmReq) (bad : List Nat) : State × Status :=
  match r.host with
  | some (_, m) =>
    if m.op = 0x0A ∨ m.op = 0x0B then hbmWrite s r.addr r.bytes r.poison bad r.src
    else hbmWriteMask s r.addr r.bytes m.value r.poison bad r.src
  | none => hbmWrite s r.addr r.bytes r.poison bad r.src

/-- Whether a request writes all of a word. -/
def coversWord (r : HbmReq) (w : Nat) : Bool :=
  r.wr && decide (r.addr ≤ w ∧ w + 8 ≤ r.addr + r.len)
    && match r.host with
       | some (_, m) => m.op == 0x0A || m.op == 0x0B || m.value / 2 ^ (w - r.addr) % 256 == 255
       | none => true

/-- Whether two accesses share bytes. -/
def overlaps (a n b m : Nat) : Bool := decide (a < b + m ∧ b < a + n)

/-- A demand read that finds writes to its bytes queued before it (R295): it returns what those writes leave, and reads from the
DRAM, for R305 and R306, only the words they do not cover whole. -/
def forwardRead (s : State) (earlier : List HbmReq) (r : HbmReq) : State × List Byte × Status :=
  let ws := (wordsOf r.addr r.len).filter fun w => !earlier.any fun e => coversWord e w
  let read := ws.foldl hbmReadStep (s, .done)
  let after := hbmUeEvent s (keepQueued s read.1 ws) 0 ws r.src
  let written := earlier.foldl (fun t e => (hbmStore t e []).1) read.1
  let st := (wordsOf r.addr r.len).foldl (fun m w => worse m (hbmWord written w).2) read.2
  (after, memBytes written r.addr r.len, st)

/-- The demand read of a request, with the writes queued before it. -/
def hbmDemand (s : State) (q : List HbmReq) (r : HbmReq) : State × List Byte × Status :=
  match (q.takeWhile (· != r)).filter fun e => e.wr && overlaps e.addr e.len r.addr r.len with
  | [] => hbmRead s r.addr r.len r.src
  | es => forwardRead s es r

/-- The STATE granted to a host read (R372, R375). -/
def grantState (s : State) (r : HbmReq) (op : Nat) : Nat := if allocates s r then (if op = 0x02 then 2 else 1) else 0

/-- Answer a served request. -/
def hbmReply (s : State) (k : Nat) (r : HbmReq) (st : Status) (bs : List Byte) (poison : Bool) : State :=
  match r.pkt, r.org, r.host with
  | some p, _, _ =>
    if p.typ = tyTrace then s
    else sendAnswer s p r.col (if r.wr then tyWriteAck else tyReadResp) st (poison || st == .poisoned || st == .uncorrectable) bs
  | none, some o, _ => gatherMissReturn s o r.addr st bs (poison || st == .poisoned)
  | none, none, some (j, m) =>
    if r.wr then sendHost s j (heonMsg 0x19 m.tag 0 0 (statusCode st) 0 false 0)
    else if m.op = 0x08 ∨ m.op = 0x09 then
      sendHost s j (heonMsg 0x1B m.tag 0 (leNat bs) (statusCode st) 0 false (if poison || st == .poisoned || st == .uncorrectable then 1 else 0))
    else
      let g := grantState s r m.op
      let s1 := if g = 0 then s else updStk s k fun v => filterPut v r.addr (g == 2)
      let po := if poison || st == .poisoned || st == .uncorrectable then 1 else 0
      let s2 := sendHost s1 j { heonMsg 0x20 0 0 0 0 0 false po with tags := [m.tag], lines := [bs] }
      sendHost s2 j (heonMsg 0x18 m.tag 0 0 (statusCode st) g true po)
  | none, none, none => s

/-- Patrol scrub of one word (R309). `again` says that the second read of an uncorrectable access is clean. -/
def scrubWord (s : State) (k w : Nat) (again : Bool) : State :=
  match eccDecode (wordAt s w) (synOf s w) with
  | .clean => s
  | .poison => s
  | .corrected v =>
    updStk (hbmCorrected (setSyn (memPut s w (leBytes 8 v)) w 0) w) k fun x => { x with scrubCe := x.scrubCe + 1 }
  | .uncorrectable =>
    if again then updStk (hbmCorrected (setSyn s w 0) w) k fun x => { x with scrubCe := x.scrubCe + 1 }
    else updStk (hbmPoison (hbmUe s w) w) k fun x => { x with scrubPo := x.scrubPo + 1 }

/-- The end of a scrub pass (R309, R310): event 0x0A04 and SCRUB_STATE. -/
def scrubPassEnd (s : State) (k : Nat) : State :=
  let v := stk s k
  let n := min (winGet s (hbmWin k 0x08) % 2 ^ 24 + 1) (2 ^ 24 - 1)
  let s1 := winSet s (hbmWin k 0x08) n
  let s2 := emitPlain s1 0x0A04 sevInfo (stackSource k) [(3, k), (24, n), (32, v.scrubCe), (16, v.scrubPo)]
  updStk s2 k fun x => { x with scrub := [], scrubCe := 0, scrubPo := 0 }

/-- Accesses a pass has done, of all pseudo-channels. -/
def scrubDone (v : Stack) : Nat := v.scrub.foldl (fun n e => n + e.2) 0

/-- The read of a patrol scrub is served (R309, R306): its words are corrected or marked, and the pass goes on. -/
def scrubServe (s : State) (k : Nat) (r : HbmReq) : State :=
  let ws := wordsOf r.addr 32
  let s1 := ws.foldl (fun t w => scrubWord t k w r.again) s
  let s2 := if r.again then s1 else
    match ws.find? fun w => eccDecode (wordAt s w) (synOf s w) == .uncorrectable with
    | some w => poisonEvent (hbmUeEvent s s1 1 ws (hbmCol k 0)) 3 w (hbmCol k 0)
    | none => s1
  let pc := pcOf r.addr
  let s3 := updStk s2 k fun x => { x with scrub := tset 0 x.scrub pc (tget 0 x.scrub pc + 1) }
  let done := scrubDone (stk s3 k)
  if done = accessCount * 32 then scrubPassEnd s3 k
  else winSet s3 (hbmWin k 0x08) (winGet s3 (hbmWin k 0x08) % 2 ^ 24 + done * 100 / (accessCount * 32) * 2 ^ 24)

/-- The column access of a request whose row is open: data moves and the request is answered. `severity` is the report of the
stack's on-die ECC with data read (R287), `bad` the bytes of a write that fail parity at the controller (R302). -/
def hbmServe (s : State) (k : Nat) (r : HbmReq) (severity : Bool) (bad : List Nat) : State :=
  let v := stk s k
  let s1 := setStk s k { v with queue := v.queue.erase r }
  if r.wr then
    let (s2, st) := hbmStore s1 r bad
    hbmReply s2 k r st [] false
  else
    let s2 := if severity then odBump s1 (0x3010 + k) 6 1 else s1
    if r.port = 5 then scrubServe s2 k r
    else
      let (s3, bs, st) := hbmDemand s2 v.queue r
      hbmReply s3 k r st bs false

/-- HBM_COMMAND_ISSUE (R293): with the request chosen, the row of its bank is closed, opened, or accessed; an RFMpb that is due
goes before the row opens (R296). Requests wait until the PHY is trained (R298) and the pseudo-channel filled (R307); requests of lines the host holds wait for its snoops (R376). -/
def hbmCommandIssueState (stack pc now : Nat) (severity : Bool) (bad : List Nat) (s0 : State) : State :=
  let s := updStk s0 stack fun v => { v with clock := max v.clock now }
  if !domainOn s (144 + stack) || !(stk s stack).trained || !(winGet s (hbmWin stack 0)).testBit pc then s
  else
    let q := (stk s stack).queue.filter fun r => pcOf r.addr == pc
    let s1 := q.foldl (fun t r => (needSnoops t stack r).foldl (fun u l => snoopLine u stack l.1 l.2) t) s
    match hbmPick s1 stack now q with
    | none => s1
    | some r =>
      match tget none (stk s1 stack).rows (bankKey r.addr) with
      | none =>
        if rfmDue (stk s1 stack) (bankKey r.addr) then rfmBank s1 stack (bankKey r.addr) else activateRow s1 stack r.addr
      | some row =>
        if row = rowOf r.addr then hbmServe s1 stack r severity bad
        else updStk s1 stack fun v => { v with rows := tset none v.rows (bankKey r.addr) none }

/-- HBM_REFRESH (R296, R297): REFpb closes the bank and lowers its rolling activate count (log entry 72); the start of a refresh
window clears its table. -/
def hbmRefreshState (stack pc bank : Nat) (window : Bool) (s : State) : State :=
  if !domainOn s (144 + stack) then s
  else
    updStk s stack fun v =>
      { v with rows := tset none v.rows (pc * 64 + bank) none,
               counts := if window then tset [] v.counts (pc * 64 + bank) [] else v.counts,
               raa := tset 0 v.raa (pc * 64 + bank) (tget 0 v.raa (pc * 64 + bank) - Config.raaLimit) }

/-- HBM_TEMP_READ (R296, R310): STACK_TEMP, and event 0x0A06 on a change of window. -/
def hbmTempReadState (stack : Nat) (celsius : Int) (s : State) : State :=
  if !domainOn s (144 + stack) then s
  else
    let old := winGet s (hbmWin stack 0x120)
    let hot := decide (celsius > 85)
    let t := (celsius % 65536).toNat
    let s1 := winSet s (hbmWin stack 0x120) (t + (if hot then 2 ^ 31 else 0))
    if hot != old.testBit 31 then
      emitPlain s1 0x0A06 sevWarning (stackSource stack) [(3, stack), (1, if hot then 1 else 0), (16, t)]
    else s1

/-- The source of patrol scrub's requests, which is no col. -/
def scrubSource : Nat := 1000

/-- HBM_SCRUB_ACCESS (R309, R291): the next access of a pseudo-channel is asked for through port 5, one at a time; a period of 0 holds from the next pass (R311). `secondClean`
says that a second read of an uncorrectable access would be clean. -/
def hbmScrubAccessState (stack pc : Nat) (secondClean : Bool) (s : State) : State :=
  let v := stk s stack
  let n := tget 0 v.scrub pc
  let a := accessAddr stack pc n
  if !domainOn s (144 + stack) || !v.trained || winGet s (hbmWin stack 0) != 0xFFFFFFFF || (odRaw s 0x300002 == 0 && scrubDone v == 0) || n ≥ accessCount
      || v.queue.any (fun r => r.port == 5 && pcOf r.addr == pc) then s
  else hbmEnqueue s ⟨0, 5, scrubSource, false, a, 32, [], false, hbmCol stack 0, none, none, none, secondClean, 0⟩

/-- HBM_FILL_DONE (R307): every pseudo-channel is filled, with event 0x0A05. -/
def hbmFillDoneState (stack micros : Nat) (s : State) : State :=
  if !domainOn s (144 + stack) || !(stk s stack).trained || winGet s (hbmWin stack 0) == 0xFFFFFFFF then s
  else
    emitPlain (winSet s (hbmWin stack 0) 0xFFFFFFFF) 0x0A05 sevInfo (stackSource stack) [(3, stack), (32, micros)]

/-- HOST_SNOOP_TIMEOUT (R377): the line is marked, the filter entry drops, and event 0x0D05 is handed over; held requests
are then served from HBM. -/
def hostSnoopTimeoutState (stack line : Nat) (s : State) : State :=
  match (stk s stack).snoops.find? fun e => e.1 == line with
  | none => s
  | some (_, inv, _) =>
    let s1 := (wordsOf line 64).foldl hbmPoison s
    let s2 := updStk s1 stack fun v =>
      { v with filter := v.filter.filter (fun e => e.1 != line), snoops := v.snoops.filter (fun e => e.1 != line) }
    emitPlain s2 0x0D05 sevError (stackSource stack) [(3, stack), (42, line / 64), (1, if inv then 1 else 0)]

/-! ### Meanings -/

/-- The meaning of HBM_COMMAND_ISSUE. -/
def execHbmCommandIssue (stack : Nat) (pc : Nat) (now : Nat) (severity : Bool) (bad : List Nat) (s : State) : Host.Outcome State Fault Refusal :=
  guardUnit (stack < 8 ∧ pc < 32) (hbmCommandIssueState stack pc now severity bad s)

/-- The meaning of HBM_REFRESH. -/
def execHbmRefresh (stack : Nat) (pc : Nat) (bank : Nat) (window : Bool) (s : State) : Host.Outcome State Fault Refusal :=
  guardUnit (stack < 8 ∧ pc < 32 ∧ bank < 48) (hbmRefreshState stack pc bank window s)

/-- The meaning of HBM_TEMP_READ. -/
def execHbmTempRead (stack : Nat) (celsius : Int) (s : State) : Host.Outcome State Fault Refusal :=
  guardUnit (stack < 8) (hbmTempReadState stack celsius s)

/-- The meaning of HBM_SCRUB_ACCESS. -/
def execHbmScrubAccess (stack : Nat) (pc : Nat) (secondClean : Bool) (s : State) : Host.Outcome State Fault Refusal :=
  guardUnit (stack < 8 ∧ pc < 32) (hbmScrubAccessState stack pc secondClean s)

/-- The meaning of HOST_SNOOP_TIMEOUT. -/
def execHostSnoopTimeout (stack : Nat) (line : Nat) (s : State) : Host.Outcome State Fault Refusal :=
  guardUnit (stack < 8) (hostSnoopTimeoutState stack line s)

end Sys2Proof.Machine
end

