-- ==== Sys2Proof/Machine/StepOps.lean ====
section
/-! DEFINITION. What the command processor's commands share (R202, R213-R224, R421-R426): commands in flight and their
outcomes, its reads and writes of memory, markers of check epochs, the commit and the retraction of steps, halts, strikes
and isolation (R442-R444). -/
namespace Sys2Proof.Machine

/-! ### Commands in flight -/

/-- Change the command of a place in the order of fetch. -/
def updCmd (s : State) (seq : Nat) (f : Cmd → Cmd) : State :=
  { s with cp := { s.cp with inflight := s.cp.inflight.map fun c => if c.seq = seq then f c else c } }

/-- The command of a place in the order of fetch. -/
def cmdAt (s : State) (seq : Nat) : Option Cmd := s.cp.inflight.find? fun c => c.seq == seq

/-- The undecided command in flight with a tag and one of some opcodes. -/
def cmdOf (s : State) (tag : Nat) (ops : List Nat) : Option Cmd :=
  s.cp.inflight.find? fun c => c.tag == tag && !c.dup && ops.contains c.opcode && c.outcome.isNone

/-- Decide a command's outcome, once (R219). -/
def decideCmd (s : State) (seq : Nat) (o : Outcome) : State :=
  match cmdAt s seq with
  | some c =>
    if c.outcome.isSome then s
    else
      let s1 := updCmd s seq fun c => { c with committed := true, outcome := some o, finish := s.cp.nextFin }
      { s1 with cp := { s1.cp with nextFin := s1.cp.nextFin + 1 } }
  | none => s

/-- The BASIN field where no basin decided (R207). -/
def noBasin : Nat := 0xFFFF

/-- An outcome without a deciding basin. -/
def plainOutcome (st : Status) (a b : Nat) : Outcome := ⟨st, a, b, noBasin, 0⟩

/-- Hand an event of a command. -/
def emitCmd (s : State) (seq code sev : Nat) (detail : List (Nat × Nat)) : State :=
  emit s ⟨code, sev, srcCmd, packDetail detail, some seq, []⟩

/-- Whether a command names a pipeline (R204, R205). -/
def namesPipeline (c : Cmd) : Bool := 1 ≤ c.opcode && c.opcode ≤ 5

/-- Whether a FENCE in flight holds a later command (R217). -/
def fenceHolds (e c : Cmd) : Bool :=
  e.opcode == 0x09 && e.outcome.isNone && e.seq < c.seq && (e.w2.testBit 0 || e.queue == c.queue)
    && c.opcode != 0x06 && c.opcode != 0x07

/-- Whether an earlier DISABLE_FUNCTION of a command's pipeline is not yet taken up; the command processor takes it up as soon as
it fetches it, and so before the command (R217, R221). -/
def disableFirst (e c : Cmd) : Bool :=
  e.opcode == 0x07 && e.outcome.isNone && !e.taken && e.seq < c.seq && namesPipeline c && e.w2 % 256 == 0 && bitsOf e.w2 23 8 == c.pipe

/-- Whether a command may be taken up (R216, R217). -/
def cmdReady (s : State) (c : Cmd) : Bool :=
  s.cp.inflight.all fun e =>
    !(e.seq < c.seq && namesPipeline e && namesPipeline c && e.pipe == c.pipe && (e.outcome.isNone || e.taken))
      && !fenceHolds e c && !disableFirst e c

/-! ### Reads and writes of memory by the command processor (R204, R373) -/

/-- Whether a line of companion memory is wanted by a reader already. -/
def lineAsked (s : State) (reader line : Nat) : Bool :=
  s.ext.any fun e => !e.wr && e.origin == ⟨2048, 0, reader, line⟩

/-- A line a reader holds, or that the companion cache holds (R373). -/
def lineHeld (s : State) (reader line : Nat) : Option (List Byte × Bool) :=
  match s.cp.got.find? fun e => e.1 == reader && e.2.1 == line with
  | some e => some (e.2.2.1, e.2.2.2)
  | none => ((agent s (subOf line)).cache.find? fun e => e.1 == line).map fun e => (e.2, false)

/-- Read memory by an address argument (R204). Companion lines not held are asked for, and the read answers none. -/
def cpRead (s : State) (reader arg n : Nat) : State × Option (List Byte × Status) :=
  if arg.testBit 63 then
    let (s1, bs, st) := readPhys s (arg % 2 ^ 48) n
    (s1, some (bs, st))
  else
    let a := arg % 2 ^ 52
    let ls := linesOf a n
    let missing := ls.filter fun l => (lineHeld s reader l).isNone
    if missing.isEmpty then
      let all := ls.flatMap fun l => ((lineHeld s reader l).map (·.1)).getD []
      let bad := ls.any fun l => ((lineHeld s reader l).map (·.2)).getD false
      (s, some (bytesAt all (a % 64) n, if bad then .poisoned else .done))
    else
      let want := missing.filter fun l => !lineAsked s reader l
      ({ s with ext := s.ext ++ want.map fun l => ⟨false, l, 64, List.replicate 64 0#8, false, ⟨2048, 0, reader, l⟩, [], [], .done⟩ }, none)

/-- The lines a reader holds are given up. -/
def dropLines (s : State) (reader : Nat) : State :=
  { s with cp := { s.cp with got := s.cp.got.filter fun e => e.1 != reader } }

/-- The reader of a command, and of the fetch of a ring. -/
def readerOf (seq : Nat) : Nat := seq + 16

/-- Write memory by an address argument for a command: companion writes await their COMP (R379). -/
def cpWrite (s : State) (seq arg : Nat) (bs : List Byte) (poison : Bool) : State × Status :=
  if arg.testBit 63 then writePhys s (arg % 2 ^ 48) bs poison
  else if bs.isEmpty then (s, .done)
  else
    ({ s with ext := s.ext ++ [⟨true, arg % 2 ^ 52, bs.length, bs, poison, ⟨2048, 1, seq, 0⟩, [], [], .done⟩] }, .done)

/-- Whether companion writes of a command still await their COMP. -/
def writesPending (s : State) (seq : Nat) : Bool := s.ext.any fun e => e.wr && e.origin == ⟨2048, 1, seq, 0⟩

/-! ### Dales and regions of placements -/

/-- Pipelines that hold a dale, and that hold a region. -/
def holdsDale (q : Pipe) (d : Nat) : Bool := (q.stages.flatMap stageDales).contains d
def holderOfRegion (s : State) (r : Nat) : Option Nat := (s.pipes.find? fun e => (pipeRegions e.2).contains r).map (·.1)

/-! ### Check epochs (R421-R426) -/

/-- Send a marker of a step or of a host epoch to a destination by a port (R421). -/
def sendMarker (s : State) (commit : Bool) (pipeline epoch portDst : Nat) : State :=
  let (tag, s1) := peerTag s
  sendPeer s1 (portDst / 4096)
    { opcode := if commit then 0x09 else 0x0A, src := winGet s 0x0200000D0000 % 4096, dst := portDst % 4096, rvc := false,
      poison := false, hopsLeft := 15, pipeline := pipeline, epoch := epoch, bytes := 0, tag := tag, arg := 0, payload := [] } none

/-- Send the markers of a step on every port and to every destination that carried its messages. -/
def sendMarkers (s : State) (commit : Bool) (pipeline epoch : Nat) (ports : List Nat) : State :=
  ports.foldl (fun t pd => sendMarker t commit pipeline epoch pd) s

/-- The optimistically applied epochs open now: port, source, pipeline, epoch (R426). -/
def openOptimistic (s : State) : List (Nat × Nat × Nat × Nat) :=
  s.peers.flatMap fun e => (e.2.epochs.filter (·.applied)).map fun q => (e.1, q.src, q.pipeline, q.epoch)

/-! ### Commit, retraction and halts (R214, R218) -/

/-- LAST_SPAN of a dale with the last epoch committed (R448). -/
def spanCommit (span epoch : Nat) : Nat := span / 2 ^ 16 * 2 ^ 16 + epoch % 65536

/-- A step is committed under its epoch (R214): its markers go out, and the RUN_STEP counts it. -/
def commitStep (s : State) (p epoch : Nat) (ports : List Nat) : State :=
  let q := pipe s p
  let s1 := sendMarkers (setPipe s p { q with committed := epoch }) true p epoch ports
  let s2 := (pipeDales q).foldl (fun t d => updDale t d fun x => { x with lastSpan := spanCommit x.lastSpan epoch }) s1
  match s2.cp.inflight.find? fun c => c.opcode == 0x03 && c.pipe == p && c.taken with
  | some c => updCmd s2 c.seq fun c => { c with stepsDone := c.stepsDone + 1 }
  | none => s2

/-- The status of a halted step and the PATH that decided it (R218, R219): that of a watchdog, an abort, a cut or a retraction that
came first; else an isolated stage dale; else the first report other than DONE in ascending PATH order. -/
def haltOutcome (s : State) (q : Pipe) : Status × Nat :=
  let ds := pipeDales q
  let isolated := ds.find? fun d => (dale s d).isolated
  match q.halting, isolated with
  | some (some st), _ => (st, noBasin)
  | _, some d => (.basinDegraded, daleSource d)
  | _, none =>
    match ds.find? fun d => (tget none q.reports d).getD .done != .done with
    | some d => ((tget none q.reports d).getD .done, daleSource d)
    | none => (.done, noBasin)

/-- The cuts of a pipeline in flight complete POISONED, once their last affected command has committed (R205, R221). -/
def settleCuts (s : State) (p : Nat) : State :=
  (s.cp.inflight.filter fun c => c.opcode == 0x07 && c.taken && c.w2 % 256 == 0 && bitsOf c.w2 23 8 == p && bitsOf c.w2 25 24 == 1).foldl
    (fun t c => decideCmd t c.seq (plainOutcome .poisoned 0 c.failed)) s

/-- A pipeline enters HALTED (R218 step 4): event 0x0705, and the RUN_STEP's outcome. -/
def enterHalted (s : State) (p : Nat) (st : Status) (basin epoch : Nat) : State :=
  let q := pipe s p
  let s0 := setPipe s p { q with st := if q.disable.isSome && !q.draining && !q.affected then .disabled else .halted, haltStatus := st, haltBasin := basin,
                                 run := none, halting := none, inStep := false, reports := [] }
  let s1 := (pipeRegions q).foldl cutRegion s0
  let s2 := odBump (emit s1 ⟨0x0705, sevWarning, pipeSource q, packDetail [(8, p), (8, statusCode st), (16, basin), (16, epoch)], q.run, []⟩) 0x4510 5 1
  match q.run with
  | some seq => settleCuts (decideCmd s2 seq ⟨st, 0, ((cmdAt s2 seq).map fun c => c.w2 % 65536).getD 0, basin, epoch⟩) p
  | none => settleCuts s2 p

/-- Halt a pipeline for a cause from outside its dales (R218, R220, R221, R388): a step in progress begins to halt; between
steps the pipeline halts at once. -/
def haltNow (s : State) (p : Nat) (st : Status) : State :=
  let q := pipe s p
  if q.st ≠ .running then s
  else if q.inStep then haltPipe s p (some st)
  else enterHalted s p st noBasin ((q.epoch + 65535) % 65536)

/-- Whether a stage dale is finished with a halting or ended step. -/
def dalePartDone (s : State) (q : Pipe) (d : Nat) : Bool :=
  (tget none q.reports d).isSome || (dale s d).isolated || (q.halting.isSome && (dale s d).stopped && drained s d)

/-- What a dale sends with the end of a step: the count of marked rows it sent (R434). -/
def poisonReport (s : State) (p epoch d : Nat) : State :=
  let x := dale s d
  if x.poisonSent = 0 then s
  else
    updDale (emitDale s d 0x1006 sevWarning [(8, p), (16, epoch), (4, x.poisonChan), (16, x.poisonSent)]) d
      fun y => { y with poisonSent := 0 }

/-- A RUN_STEP whose last step has ended and been decided completes (R213, R426). -/
def finishRun (s : State) (p : Nat) : State :=
  let q := pipe s p
  match q.run with
  | none => s
  | some seq =>
    match cmdAt s seq with
    | none => s
    | some c =>
      if !q.inStep && q.deferred.isEmpty && c.stepsDone ≥ c.w2 % 65536 then
        decideCmd (setPipe s p { q with st := .idle, run := none }) seq
          ⟨.done, c.stepsDone, c.w2 % 65536, noBasin, (q.epoch + 65535) % 65536⟩
      else s

/-- Deferred steps whose epochs are all decided commit, in order (R426). -/
def settleDeferred (p : Nat) : Nat → State → State
  | 0, s => s
  | fuel + 1, s =>
    match (pipe s p).deferred with
    | d :: rest =>
      if d.waits.isEmpty then
        settleDeferred p fuel (commitStep (updPipe s p fun q => { q with deferred := rest }) p d.epoch d.ports)
      else s
    | [] => s

/-- An optimistic epoch committed: every step that waited for it waits no longer (R426). -/
def optimisticCommit (s : State) (e : Nat × Nat × Nat × Nat) : State :=
  s.pipes.foldl (fun t k =>
    let p := k.1
    let t1 := updPipe t p fun q => { q with deferred := q.deferred.map fun d => { d with waits := d.waits.filter (· != e) } }
    finishRun (settleDeferred p ((pipe t1 p).deferred.length) t1) p) s

/-- Replace a decided RUN_STEP's status by RETRACTED, its record not yet written (R426). -/
def retractRecord (s : State) (p : Nat) (seq : Nat) (epoch : Nat) : State :=
  updCmd s seq fun c =>
    if c.pipe = p then { c with outcome := c.outcome.map fun o => { o with status := .retracted, basin := noBasin, epoch := epoch } } else c

/-- An optimistic epoch was retracted (R426): each pipeline with a step that waited for it retracts that step and every
later one, halts with RETRACTED, and event 0x0F06 is handed over. -/
def optimisticRetract (s : State) (e : Nat × Nat × Nat × Nat) : State :=
  s.pipes.foldl (fun t k =>
    let p := k.1
    let q := pipe t p
    match q.deferred.find? fun d => d.waits.contains e with
    | none => t
    | some d0 =>
      let gone := q.deferred.dropWhile fun d => d.epoch != d0.epoch
      let t1 := gone.foldl (fun u d => sendMarkers u false p d.epoch d.ports) t
      let t2 := setPipe t1 p { q with deferred := q.deferred.takeWhile fun d => d.epoch != d0.epoch }
      let t3 := emit t2 ⟨0x0F06, sevWarning, srcCmd, packDetail [(8, p), (16, d0.epoch), (12, e.2.1), (16, e.2.2.2)], q.run, []⟩
      if q.st = .running then
        if q.inStep then haltPipe t3 p (some .retracted) else enterHalted t3 p .retracted noBasin d0.epoch
      else
        match (t3.cp.inflight.find? fun c => c.opcode == 0x03 && c.pipe == p && c.taken).map (·.seq) with
        | some seq => retractRecord t3 p seq d0.epoch
        | none => t3) s

/-! ### Absorb mode (R276, R277) -/

/-- A packet partly injected as its interface completes it: zero bytes beyond those sent, and POISON (R277). -/
def completedZero (e : Option (Packet × Nat)) : Option (Packet × Nat) :=
  e.map fun q => ({ q.1 with payload := bytesAt (q.1.payload.take (flitBytes q.1.plane * q.2)) 0 (16 * q.1.len), poison := true }, q.2)

/-- A col puts its unit into absorb mode, for isolation (2) or a domain switched off (3): event 0x0903; the interface takes
nothing further from the unit, completes what it had partly injected, and consumes answers still to come. -/
def enterAbsorb (s : State) (c mode : Nat) : State :=
  let st : Status := if mode = 2 then .targetIsolated else .domainOff
  let s1 := updNi s c fun n =>
    { n with state := mode, out := [], toInject := [], episode := 0, sending := n.sending.map fun e => (e.1, completedZero e.2) }
  emitPlain s1 0x0903 sevWarning (colSource c) [(10, c), (8, statusCode st), (8, (ni s c).sending.length)]

/-! ### Strikes and isolation (R442-R445) -/

/-- The operating seconds (R470). -/
def opSeconds (s : State) : Nat := winGet s 0x0200000F0070

/-- The pipelines that a dale is part of. -/
def pipesOfDale (s : State) (d : Nat) : List Nat :=
  (s.pipes.filter fun e => e.2.st != .empty && holdsDale e.2 d).map (·.1)

/-- A pipeline loses a dale (R444 step 4). -/
def degradePipe (s : State) (p d : Nat) : State :=
  let s1 := updPipe s p fun q => { q with affected := true }
  let q := pipe s1 p
  if q.st = .running then
    if q.inStep then haltPipe s1 p none else enterHalted s1 p .basinDegraded (daleSource d) ((q.epoch + 65535) % 65536)
  else (pipeRegions q).foldl cutRegion (setPipe s1 p { q with st := .halted, haltStatus := .basinDegraded, haltBasin := daleSource d })

/-- Isolate a dale for a trigger of R443 (R444): issue stops, its col absorbs, it leaves every barrier, its neighbours'
lines end, the pipelines that hold it halt, and event 0x1002 is handed over for each. -/
def isolate (s : State) (d trigger first : Nat) : State :=
  if (dale s d).isolated then s
  else
    let s1 := enterAbsorb (stopIssue s d) (daleCol d) 2
    let s2 := updDale s1 d fun x => { x with isolated := true }
    let s3 := neighboursGone (barrierRemove s2 d) d .targetIsolated
    let ps := pipesOfDale s3 d
    let s4 := ps.foldl (fun t p => degradePipe t p d) s3
    let x := dale s4 d
    let ev (t : State) (p last : Nat) : State :=
      emit t ⟨0x1002, sevError, daleSource d,
        packDetail [(3, trigger), (8, p), (16, first), (16, last), (8, ps.length), (24, x.lastSig)], cmdOfDale s d, []⟩
    if ps.isEmpty then ev s4 0xFF (x.lastSpan % 65536) else ps.foldl (fun t p => ev t p (pipe t p).committed) s4

/-- The first epoch of a dale's most recent placement (R448). -/
def spanFirst (x : Dale) : Nat := x.lastSpan / 2 ^ 16 % 65536

/-- The strikes of a dale within the window of OD 0x7810.01 (R443). -/
def recentStrikes (s : State) (x : Dale) : List (Nat × Nat × Nat) :=
  x.strikes.filter fun k => decide (opSeconds s ≤ k.1 + odRaw s 0x781001)

/-- A dale takes a strike (R442): event 0x1001; triggers 1 and 2 of R443. -/
def giveStrike (s : State) (d sig code : Nat) : State :=
  let x := dale s d
  if x.isolated then s
  else
    let epoch := daleEpoch s d
    let ks := recentStrikes s x ++ [(opSeconds s, sig, epoch)]
    let s1 := updDale s d fun y => { y with strikes := ks, lastSig := sig }
    let s2 := odBump (emitDale s1 d 0x1001 sevWarning
      [(24, sig), (8, ks.length), (16, code), (8, x.pipe.getD 0xFF), (16, epoch)]) 0x7820 4 1
    let same := ks.filter fun k => k.2.1 == sig
    if same.length ≥ 2 && sig / 2 ^ 20 != 6 then isolate s2 d 1 ((same.head?.map (·.2.2)).getD 0)
    else if ks.length ≥ odRaw s2 0x781002 then isolate s2 d 2 ((ks.head?.map (·.2.2)).getD 0)
    else s2

/-- HALT_LIMIT_EXPIRED (R443 trigger 4): a dale whose issue is stopped has not completed what it issued. -/
def haltLimitExpiredState (d : Nat) (s : State) : State :=
  let x := dale s d
  if x.stopped && !drained s d then isolate s d 4 (spanFirst x) else s

/-- ISOLATE_DALE (R443 trigger 5, R449): a write with bit 15 set isolates the dale of [8:0]; other values are refused. -/
def isolateDaleState (value : Nat) (s : State) : State :=
  if value < 65536 ∧ value.testBit 15 ∧ value % 2 ^ 15 < 512 then
    answer (isolate s (value % 512) 5 (spanFirst (dale s (value % 512)))) .done 0
  else answer s .formatError 0

/-! ### Meanings -/

/-- The meaning of HALT_LIMIT_EXPIRED. -/
def execHaltLimitExpired (d : Nat) (s : State) : Host.Outcome State Fault Refusal :=
  guardUnit (d < 512) (haltLimitExpiredState d s)

/-- The meaning of ISOLATE_DALE. -/
def execIsolateDale (value : Nat) (s : State) : Host.Outcome State Fault Refusal :=
  .next (isolateDaleState value s)

end Sys2Proof.Machine
end

