-- ==== Sys2Proof/Machine/Envelope.lean ====
section
/-! DEFINITION. What the security engine checks (R505-R518): keys, security-version counters, the signed envelope and its
body, and the measurement registers. -/
namespace Sys2Proof.Machine

/-- Change the security engine. -/
def updSec (s : State) (f : Sec → Sec) : State := { s with sec := f s.sec }

/-- A digest of 256 bits (R505). -/
def digest32 (bs : List Byte) : List Byte := shake256 32 bs

/-- The vendor root's digest in OTP (R507). -/
def vendorRootDigest : List Byte := digest32 Config.vendorRootKey

/-- Owner slot states of R508 and OD 0x9001: 0 EMPTY, 1 VALID, 2 REVOKED. -/
def ownerState (s : State) (k : Nat) : Nat :=
  if s.sec.revoked.testBit k then 2 else if s.sec.programmed.testBit k then 1 else 0

/-- The key of an index, if it is usable: 0 the vendor root, 1 to 4 a VALID owner slot whose key is present (R509). -/
def keyOf (s : State) (k : Nat) : Option (List Byte) :=
  match tget [] s.sec.keys k with
  | [] => none
  | key => if k = 0 ∨ (k ≤ 4 ∧ ownerState s k = 1) then some key else none

/-- Whether a signature by a key index verifies (R505). -/
def sigOk (s : State) (k : Nat) (msg sig : List Byte) : Bool :=
  match keyOf s k with
  | some key => Config.slhVerify key msg sig
  | none => false

/-- A security-version counter (R513). -/
def svnOf (s : State) (c : Nat) : Nat := tget 0 s.sec.svn c

/-- A measurement register. -/
def mrOf (s : State) (i : Nat) : List Byte := tget (List.replicate 32 0#8) s.sec.mr i

/-- Extend a measurement register (R518). -/
def extendMr (s : State) (i : Nat) (d : List Byte) : State :=
  updSec s fun e =>
    { e with mr := tset (List.replicate 32 0#8) e.mr i (digest32 (mrOf s i ++ leBytes 1 i ++ d)),
             mrCount := tset 0 e.mrCount i (tget 0 e.mrCount i + 1) }

/-! ### Envelope fields (R515, R516) -/

def envKey (bs : List Byte) : Nat := fieldAt bs 5 1
def envType (bs : List Byte) : Nat := fieldAt bs 6 1
def envSvn (bs : List Byte) : Nat := fieldAt bs 8 4
def envDigest (bs : List Byte) : List Byte := bytesAt bs 0x10 32
def envBody (bs : List Byte) : List Byte := bs.drop 0x74C0
def bodySlots (b : List Byte) : Nat := fieldAt b 0 1
def tableFirst (b : List Byte) : Nat := fieldAt b 4 4
def tableCount (b : List Byte) : Nat := fieldAt b 8 4
/-- Entry i of a body: its slot number and the slot's 128 bytes. -/
def bodySlot (b : List Byte) (i : Nat) : Nat × List Byte := (fieldAt b (16 + 132 * i) 1, bytesAt b (20 + 132 * i) 128)
def bodyEntries (b : List Byte) : List (Nat × List Byte) := (List.range (bodySlots b)).map (bodySlot b)
/-- Table entry i of a body. -/
def bodyTable (b : List Byte) (i : Nat) : Nat := fieldAt b (16 + 132 * bodySlots b + 16 * i) 16

/-- Whether a slot's program uses EVAL (R144). -/
def usesEval (slot : List Byte) : Bool := (List.range (slotSteps slot)).any fun i => slotStep slot i / 2 ^ 26 == 0x0A

/-- The opcodes of R144. -/
def stepOpOk (o : Nat) : Bool := (1 ≤ o && o ≤ 0x0B) || o == 0x3F

/-- Whether a slot keeps R143 and R144; its reserved bits are ignored (R6). -/
def slotOk (slot : List Byte) : Bool :=
  let f := slotFunc slot
  (f ≤ 0x16 || 0x80 ≤ f) && slotTable slot != 3 && 1 ≤ slotOctN slot && 1 ≤ slotSteps slot && slotSteps slot ≤ 30
    && (List.range (slotSteps slot)).all fun i => stepOpOk (slotStep slot i / 2 ^ 26)

/-- Whether a slot names, by EVAL, a slot that itself uses EVAL (R144). -/
def evalChain (slots : Tab (Option (List Byte))) (slot : List Byte) : Bool :=
  (List.range (slotSteps slot)).any fun i =>
    let w := slotStep slot i
    w / 2 ^ 26 == 0x0A && ((tget none slots (w % 32)).map usesEval).getD false

/-- The slots with those of a body loaded. -/
def slotsWith (slots : Tab (Option (List Byte))) (b : List Byte) : Tab (Option (List Byte)) :=
  (bodyEntries b).foldl (fun t e => tset none t e.1 (some e.2)) slots

/-- Whether no slot names, once a body is loaded over others, a slot that itself uses EVAL (R144). -/
def chainsOk (slots : Tab (Option (List Byte))) (b : List Byte) : Bool :=
  let t := slotsWith slots b
  (List.range 32).all fun k => ((tget none t k).map fun x => !evalChain t x).getD true

/-- Whether a body keeps R516, R143 and R144. -/
def bodyOk (typ key : Nat) (b : List Byte) : Bool :=
  let es := bodyEntries b
  let ns := es.map (·.1)
  16 ≤ b.length && fieldAt b 1 3 == 0 && fieldAt b 12 4 == 0
    && b.length == 16 + 132 * bodySlots b + 16 * tableCount b
    && (List.range (bodySlots b)).all (fun i => fieldAt b (17 + 132 * i) 3 == 0)
    && ns.eraseDups.length == ns.length
    && (if typ = 1 then (List.range 23).all (fun k => ns.contains k) && ns.length == 23 && tableCount b == 0
        else ns.all (fun k => if key = 0 then k < 32 else 23 ≤ k && k < 32) && tableFirst b + tableCount b ≤ 1024)
    && es.all fun e => slotOk e.2

/-- The check of R517 that refuses an envelope, if one does, with its status. -/
def envFault (s : State) (typ : Nat) (bs : List Byte) : Option (Nat × Status) :=
  let b := envBody bs
  let counter := if typ = 0 then 1 else 3
  if fieldAt bs 0 4 ≠ 0x4D474953 ∨ fieldAt bs 4 1 ≠ 1 ∨ envType bs ≠ typ ∨ fieldAt bs 0x0C 4 ≠ bs.length ∨ bs.length < 0x74C0
      ∨ fieldAt bs 7 1 ≠ 0 ∨ fieldAt bs 0x38 8 ≠ 0 ∨ fieldAt bs 0x74A0 32 ≠ 0 then some (1, .formatError)
  else if fieldAt bs 0x30 8 ≠ 0 ∧ fieldAt bs 0x30 8 ≠ Config.uid then some (2, .authFail)
  else if envKey bs > 4 ∨ (typ ≠ 2 ∧ envKey bs ≠ 0) ∨ (keyOf s (envKey bs)).isNone then some (3, .authFail)
  else if envSvn bs < svnOf s counter then some (4, .authFail)
  else if !sigOk s (envKey bs) (bs.take 0x40) (bytesAt bs 0x40 29792) then some (5, .authFail)
  else if digest32 b ≠ envDigest bs then some (6, .authFail)
  else if typ ≠ 0 ∧ bodyOk typ (envKey bs) b = false then some (7, .formatError)
  else if typ ≠ 0 ∧ (bodyEntries b).any (fun e => slotVersion e.2 < svnOf s 3) = true then some (8, .authFail)
  else none

/-- Event 0x1302 when a signature names a key that is absent from both copies of the key store (R509). -/
def keyAbsent (s : State) (k : Nat) : State :=
  if k ≤ 4 ∧ tget [] s.sec.keys k = [] ∧ (k = 0 ∨ ownerState s k = 1) then
    emitPlain s 0x1302 sevError srcSecurity [(3, k), (1, if s.sec.storeBad.contains 0 && s.sec.storeBad.contains 1 then 0 else 1)]
  else s

/-- Event 0x1301 of a refused envelope of TYPE 0 or 1 (R517, R524). -/
def imageRefused (s0 : State) (bs : List Byte) (f : Nat × Status) : State :=
  let s := if f.1 = 3 then keyAbsent s0 (envKey bs) else s0
  odBump (emitPlain s 0x1301 sevError srcSecurity [(2, envType bs), (4, f.1), (8, statusCode f.2), (3, envKey bs), (32, envSvn bs)]) 0x9030 1 1

/-- Write a body's slots and table entries into a dale, with fresh parity (R145, R146, R148, R516); of a slot of the base image
it replaces the program (R142). -/
def loadBody (s : State) (d : Nat) (b : List Byte) : State :=
  let ks := (bodyEntries b).map (·.1)
  let loaded (e : Nat × Nat × Nat) : Bool :=
    (e.1 == 0x10 && ks.contains e.2.1) || (e.1 == 0x11 && tableFirst b ≤ e.2.1 && e.2.1 < tableFirst b + tableCount b)
  updDale s d fun x =>
    { x with
      sfSlots := slotsWith x.sfSlots b,
      sfOver := (ks.filter (· < 23)).foldl (fun m k => Nat.lor m (2 ^ k)) x.sfOver,
      tableRam := (List.range (tableCount b)).foldl (fun t i => tset 0 t (tableFirst b + i) (bodyTable b i)) x.tableRam,
      badBytes := x.badBytes.filter fun e => !loaded e }

end Sys2Proof.Machine
end

