-- ==== Sys2Proof/Machine/LaneOps.lean ====
section
/-! DEFINITION. What the serial lanes share with the links above them and with power (R393, R404-R410): lanes and
groups, their stages, training, retraining, and reaching or leaving ACTIVE. -/
namespace Sys2Proof.Machine

/-- A lane, and its change. -/
def sLane (s : State) (n : Nat) : SerialLane := tget SerialLane.reset s.lanes n
def setLane (s : State) (n : Nat) (v : SerialLane) : State := { s with lanes := tset SerialLane.reset s.lanes n v }
def updLane (s : State) (n : Nat) (f : SerialLane → SerialLane) : State := setLane s n (f (sLane s n))

/-- A group, and its change. -/
def lgroup (s : State) (g : Nat) : LaneGroup := tget LaneGroup.reset s.groupsL g
def setGroup (s : State) (g : Nat) (v : LaneGroup) : State := { s with groupsL := tset LaneGroup.reset s.groupsL g v }
def updGroup (s : State) (g : Nat) (f : LaneGroup → LaneGroup) : State := setGroup s g (f (lgroup s g))

/-- The die of a group and its lanes (R393). -/
def groupDie (g : Nat) : Nat := if g < 16 then g / 4 else g - 16
def groupLanes (g : Nat) : List Nat :=
  if g < 16 then (List.range 8).map fun k => groupDie g * 36 + 8 * (g % 4) + k
  else (List.range 4).map fun k => groupDie g * 36 + 32 + k
def groupN (g : Nat) : Nat := if g < 16 then 8 else 4

/-- The group of a lane, and its position k (R393, R395). -/
def laneGroup (n : Nat) : Nat := if n % 36 < 32 then n / 36 * 4 + n % 36 / 8 else 16 + n / 36
def laneK (n : Nat) : Nat := if n % 36 < 32 then n % 36 % 8 else n % 36 - 32

/-- The event source of a group's die (R493). -/
def dieSource (g : Nat) : Nat := unitSource 6 (groupDie g)

/-- The domains a group needs: its two quads, or the core of its die (R393, R451). -/
def groupDomains (g : Nat) : List Nat :=
  if g < 16 then [152 + 9 * (g / 4) + 2 * (g % 4), 152 + 9 * (g / 4) + 2 * (g % 4) + 1] else [152 + 9 * (g - 16) + 8]
def groupPowered (s : State) (g : Nat) : Bool := (groupDomains g).all (domainOn s)

/-- PORT_ENABLE (R413): sub-links are always enabled. -/
def portEnabled (s : State) (g : Nat) : Bool := 16 ≤ g || (odRaw s 0x680003).testBit g

/-- Whether a group carries codewords (R404). -/
def groupActive (s : State) (g : Nat) : Bool := (lgroup s g).stage == 5

/-- Put every lane of a group in a stage. -/
def setStages (s : State) (g st : Nat) : State :=
  (groupLanes g).foldl (fun t n => updLane t n fun l => { l with stage := st }) s

/-- The link above a group is up or down (R387). -/
def linkUp (s : State) (g : Nat) (up : Bool) : State :=
  updAgent s (if g < 16 then 4 + g else g - 16) fun a =>
    { a with up := up, fresh := a.fresh || up, told := a.told && !up }

/-- A group goes to OFF at once (R404, R413). -/
def groupToOff (s : State) (g : Nat) : State :=
  linkUp (updGroup (setStages s g 0) g fun v =>
    { v with stage := 0, txIdle := false, rxIdle := false, deep := 0, next := 0, nak := false, ack := false, again := false }) g false

/-- A group leaves OFF for DETECT (R404). -/
def groupToDetect (s : State) (g : Nat) : State :=
  updGroup ((groupLanes g).foldl (fun t n => updLane t n fun l => { l with stage := 1, detected := false }) s) g fun v =>
    { v with stage := 1, fast := false }

/-- A group whose domain is on and whose port is enabled leaves OFF (R404). -/
def groupWakes (s : State) (g : Nat) : State :=
  if (lgroup s g).stage = 0 ∧ groupPowered s g ∧ portEnabled s g then groupToDetect s g else s

/-- The lanes of a group begin TRAIN, from stored coefficients or from their initial ones, each with a fresh non-zero
seed (R397, R406, R407); while the random source holds draws the seed waits as 0 (R522). -/
def groupToTrain (s : State) (g : Nat) (fast : Bool) : State :=
  let s1 := (groupLanes g).foldl (fun t n =>
    let (v, t1) := takeFree t
    updLane (if s.sec.held then { t with sec := { t.sec with heldDraws := t.sec.heldDraws + 1 } } else t1) n fun l =>
      { l with stage := 2, control := none, run := 0, ready := false, exch := none, exchRun := 0, found := false,
               coefs := if fast then l.kept else [0, 0, 0, 0], status := 0, txRun := (0, 0), rxRun := (0, 0), txStuffs := 0,
               seed := if s.sec.held then 0 else 1 + v % (2 ^ 31 - 1) }) s
  linkUp (updGroup s1 g fun v => { v with stage := 2, fast := fast, ack := false, txIdle := false, rxIdle := false, deep := 0, next := 0, nak := false }) g false

/-- A group leaves ACTIVE or IDLE to retrain (R407): event 0x0E03. -/
def groupRetrains (s : State) (g cause k : Nat) : State :=
  if groupActive s g then
    let s1 := updGroup s g fun v => { v with retrains := holdAdd v.retrains 1, again := true, cause := cause }
    groupToTrain (odBump (emitPlain s1 0x0E03 sevWarning (dieSource g) [(5, g), (3, cause), (3, k)]) 0x6810 3 1) g true
  else s

/-- A stage that did not complete or an exchange that failed (R408): OFF, and event 0x0E02 at the first failure and at
every 1,000th in a row. -/
def groupFails (s : State) (g : Nat) (exchange : Bool) : State :=
  let v := lgroup s g
  let n := v.fails + 1
  let mask := (groupLanes g).foldl (fun m l => if (sLane s l).stage = 3 ∨ v.stage = 4 then m + 2 ^ laneK l else m) 0
  let s1 := if n = 1 ∨ n % 1000 = 0 then
      emitPlain s 0x0E02 sevError (dieSource g) [(5, g), (4, v.stage), (8, mask), (1, if exchange then 1 else 0), (32, n)]
    else s
  updGroup (groupToOff s1 g) g fun v => { v with fails := n }

/-- A group reaches ACTIVE (R406): event 0x0E01; a sub-link that retrained records event 0x0D02 (R387), and goes on. -/
def groupBecomesActive (s : State) (g micros : Nat) : State :=
  let v := lgroup s g
  let s1 := emitPlain s 0x0E01 sevInfo (dieSource g) [(5, g), (1, if v.fast then 1 else 0), (32, micros), (32, v.uid)]
  let s2 := if 16 ≤ g ∧ v.again then
      odBump (emitPlain s1 0x0D02 sevWarning (dieSource g) [(2, g - 16), (1, if v.cause = 3 then 0 else 1), (32, micros)]) (0x6010 + (g - 16)) 5 1
    else s1
  let s3 := if g < 16 then { s2 with peers := tset PeerPort.reset s2.peers g { tget PeerPort.reset s2.peers g with down := false } } else s2
  let s4 := (groupLanes g).foldl (fun t n => updLane t n fun l => { l with kept := l.coefs }) s3
  linkUp (updGroup s4 g fun v => { v with stage := 5, fails := 0, stored := true, again := false, carry := [], ack := true }) g true

end Sys2Proof.Machine
end

