-- ==== Sys2Proof/Machine/PowerOps.lean ====
section
/-! DEFINITION. Switching power domains (R451-R455): what a domain holds, gates and wakes, deferral, drains, and the state a
domain loses. -/
namespace Sys2Proof.Machine

/-- Change the power side of the saddle. -/
def updPower (s : State) (f : Power → Power) : State := { s with power := f s.power }

/-- What a domain is doing. -/
def switchOf (s : State) (n : Nat) : Option Switch := tget none s.power.sw n
def setSwitch (s : State) (n : Nat) (w : Option Switch) : State := updPower s fun p => { p with sw := tset none p.sw n w }

/-- Set or clear a domain's bit of DOMAIN_ON (R473). -/
def setDomainOn (s : State) (n : Nat) (on : Bool) : State :=
  winSet s (domainOnAddr n) (bitPut (winGet s (domainOnAddr n)) (n % 32) on)

/-- The dales of a Basin-1. -/
def basin1Dales (g : Nat) : List Nat := (List.range 4).map fun i => daleAt (4 * g + i)

/-- The col of a peer port (R415). -/
def peerCol (g : Nat) : Nat := colIx (if g / 4 < 2 then 0 else 33) ((if g / 4 % 2 = 0 then 1 else 9) + 2 * (g % 4) + 1)

/-- The cols of an edge die that are no port's (R15, R415). -/
def dieCols (die : Nat) : List Nat := (List.range 4).map fun i => dieCol die + 68 * i

/-- The groups with a lane in a quad domain (R393). -/
def quadGroup (n : Nat) : Nat := (n - 152) / 9 * 4 + (n - 152) % 9 / 2

/-- Whether a domain is a lane quad, and whether it is an edge-die core (R451). -/
def isQuad (n : Nat) : Bool := 152 ≤ n && n < 188 && (n - 152) % 9 != 8
def isEdgeCore (n : Nat) : Bool := 152 ≤ n && n < 188 && (n - 152) % 9 == 8

/-- The interfaces of a domain's units (R278). -/
def domainCols (n : Nat) : List Nat :=
  if n < 128 then (basin1Dales n).map daleCol
  else if 144 ≤ n ∧ n < 152 then (List.range 8).map (hbmCol (n - 144))
  else if isQuad n then [peerCol (quadGroup n)]
  else if isEdgeCore n then dieCols ((n - 152) / 9)
  else if n = 196 then [cmdCol]
  else if n = 197 then [securityCol]
  else []

/-- Domains a GATE or WAKE may name (R452, R464). -/
def switchable (n : Nat) : Bool := n < 188 && !isEdgeCore n

/-- The pipeline that keeps a domain on (R454). -/
def gateHolder (s : State) (n : Nat) : Option Nat :=
  (s.pipes.find? fun e =>
    e.2.st != .empty &&
      (if n < 128 then (basin1Dales n).any (holdsDale e.2)
       else if n < 144 then (pipeRegions e.2).any fun r => (regionSectors r).contains (n - 128)
       else false)).map (·.1)

/-! ### Loss at switch-off -/

/-- A dale after its power was lost (R308, R455): counters, isolation, strikes and LAST_SPAN stay. -/
def daleLoss (x : Dale) : Dale :=
  { Dale.reset with
    imemCorr := x.imemCorr, satCount := x.satCount, nanCount := x.nanCount, satLast := x.satLast, isolated := x.isolated, strikes := x.strikes,
    lastSig := x.lastSig, lastSpan := x.lastSpan, storeCe := x.storeCe, storeUe := x.storeUe, portLive := x.portLive, portOff := x.portOff }

/-- Memory without the bytes of a range. -/
def forgetRange (s : State) (a n : Nat) : State :=
  { s with mem := s.mem.filter fun c => !(decide (a ≤ c.1) && decide (c.1 < a + n)),
           synd := s.synd.filter fun c => !(decide (a / 8 ≤ c.1) && decide (c.1 < (a + n) / 8)) }

/-- A sector loses its design (R339); its ports are in absorb. -/
def sectorLoss (s : State) (k : Nat) : State :=
  let s1 := winSet (odPut (setSector s k Sector.reset) (odKey 0x5920 (k + 1)) 0) (0x0200000A0040 + 4 * k) 0
  (sectorDales k).foldl (fun t d => updDale t d fun x => { x with portLive := 0, portOut := [], portIn := [] }) s1

/-- A stack's controller and gather engine after their power was lost (R298): contents kept in self-refresh, the directory
empty and its epoch advanced. -/
def stackLoss (s : State) (k : Nat) : State :=
  let s1 := updStk s k fun v => { Stack.reset with scrub := v.scrub, scrubCe := v.scrubCe, scrubPo := v.scrubPo, tries := v.tries }
  updGather s1 k fun g => { Gather.reset with epoch := (g.epoch + 1) % 65536, live := g.live }

/-- What a domain loses when its switches open. -/
def domainLoss (s : State) (n : Nat) : State :=
  if n < 128 then
    (basin1Dales n).foldl (fun t d =>
      let t1 := updNi (updDale t d daleLoss) (daleCol d) fun v => { v with filled := false, routes := [], buckets := [], levels := [], out := [], toInject := [], sending := [], drain := none }
      forgetRange t1 (daleBase d) storeBytes) s
  else if n < 144 then sectorLoss s (n - 128)
  else if n < 152 then stackLoss s (n - 144)
  else if isQuad n then groupToOff s (quadGroup n)
  else if isEdgeCore n then
    (List.range 4).foldl (fun t i => groupToOff t ((n - 152) / 9 * 4 + i)) (groupToOff s (16 + (n - 152) / 9))
  else s

/-! ### Gates and wakes -/

/-- Send DRAIN_REQ to an interface (R278). -/
def sendDrain (s : State) (c : Nat) : State :=
  (handRequest s saddleCol (0x100 + c) tyDrainReq 0 0 0 false [] 0 ⟨5000, 0, c, 0⟩ 0).getD s

/-- Units of a domain whose drain is awaited: dales' ports of a sector, else interfaces. -/
def drainUnits (n : Nat) : List Nat := if 128 ≤ n ∧ n < 144 then sectorDales (n - 128) else domainCols n

/-- A domain starts switching off (R453 steps 1 and 2). -/
def startOff (s : State) (n by_ rule : Nat) : State :=
  (domainCols n).foldl sendDrain (setSwitch s n (some ⟨true, false, by_, rule, drainUnits n, false, none⟩))

/-- A WAKE closes a domain's switches (R455). -/
def startOn (s : State) (n by_ rule : Nat) : State := setSwitch s n (some ⟨false, false, by_, rule, [], false, none⟩)

/-- A GATE of a domain (R453, R454). Requester 0 rule, 1 host, 2 sleep. -/
def gateDomain (s : State) (n by_ rule : Nat) : State :=
  if s.power.stopped then s
  else
    match switchOf s n with
    | some w => if w.off then s else setSwitch s n (some { w with next := some (by_, rule) })
    | none =>
      if !domainOn s n then s
      else
        match gateHolder s n with
        | some p =>
          emitPlain (setSwitch s n (some ⟨true, true, by_, rule, [], false, none⟩)) 0x1103 sevWarning srcSaddle [(8, n), (8, p), (2, by_)]
        | none => startOff s n by_ rule

/-- A WAKE of a domain (R454, R455). -/
def wakeDomain (s : State) (n by_ rule : Nat) : State :=
  if s.power.stopped then s
  else
    match switchOf s n with
    | some w => if w.off && !w.deferred then setSwitch s n (some { w with next := some (by_, rule) }) else s
    | none => if domainOn s n then s else startOn s n by_ rule

/-- Deferred GATEs whose last pipeline is released start (R454). -/
def retryGates (s : State) : State :=
  s.power.sw.foldl (fun t e =>
    match switchOf t e.1 with
    | some w => if w.deferred && (gateHolder t e.1).isNone then startOff t e.1 w.by_ w.rule else t
    | none => t) s

/-- The order in which device sleep switches domains off (R472): groups of domains. -/
def sleepOrder : List (List Nat) :=
  [List.range 128, (List.range 16).map (128 + ·), ((List.range 36).map (152 + ·)).filter isQuad, (List.range 8).map (144 + ·),
   ((List.range 36).map (152 + ·)).filter isEdgeCore, (List.range 8).map (188 + ·), [196], [197]]

/-- Step 5 of R453: the switches open, the lines towards dales now off end (R40), with event 0x1101; a WAKE that waits starts. -/
def switchOff (s : State) (n : Nat) : State :=
  match switchOf s n with
  | none => s
  | some w =>
    let s0 := setSwitch (setDomainOn (domainLoss s n) n false) n none
    let s1 := if n < 128 then (basin1Dales n).foldl (fun t d => neighboursGone t d .domainOff) s0 else s0
    let s2 := odBump (emitPlain s1 0x1101 sevInfo srcSaddle [(8, n), (2, w.by_), (6, w.rule), (1, if w.forced then 1 else 0)]) 0x2010 1 1
    match w.next with
    | some (b, r) => startOn s2 n b r
    | none => s2

/-- Device sleep goes on to its next group of domains, or ends (R472). Domains without a drain go off at once. -/
def sleepNext : Nat → State → State
  | 0, s => s
  | fuel + 1, s =>
    if s.power.sleep ≠ 1 then s
    else
      match sleepOrder.find? fun ns => ns.any (domainOn s) with
      | none => updPower s fun p => { p with sleep := 2 }
      | some ns =>
        let s1 := ns.foldl (fun t n => if domainOn t n then gateDomain t n 2 0 else t) s
        let s2 := ns.foldl (fun t n =>
          match switchOf t n with
          | some w => if w.off && !w.deferred && w.waits.isEmpty then switchOff t n else t
          | none => t) s1
        if ns.any (domainOn s2) then s2 else sleepNext fuel s2

/-- A unit of a domain has drained: once none is awaited the domain switches off (R453). -/
def unitDrained (s : State) (n u : Nat) (forced : Bool) : State :=
  match switchOf s n with
  | some w =>
    if w.off && !w.deferred && w.waits.contains u then
      let w1 := { w with waits := w.waits.filter (· != u), forced := w.forced || forced }
      let s1 := setSwitch s n (some w1)
      if w1.waits.isEmpty then sleepNext 10 (switchOff s1 n) else s1
    else s
  | none => s

/-- The switching domain that waits for a col, or for a dale's ports. -/
def domainOfCol (s : State) (c : Nat) : Option Nat :=
  (s.power.sw.find? fun e =>
    match e.2 with
    | some w => w.off && !w.deferred && !(decide (128 ≤ e.1) && decide (e.1 < 144)) && w.waits.contains c
    | none => false).map (·.1)

end Sys2Proof.Machine
end

