-- ==== Sys2Proof/Machine/Logic.lean ====
section
/-! DEFINITION. The logic cells, the cluster registers and the handshake cells of the steppe (R313-R315, R321-R324), and the tick
by which they move: what a step does on an empty queue (log entry 73). -/
namespace Sys2Proof.Machine

/-! ### Logic cells (R314) -/

/-- Whether a cell is in shift mode; its table, 64 bits, and whether it holds two tables of five inputs. -/
def cellShifts (v : Sector) (i : Nat) : Bool := Config.cellShift v.design i
def cellTable (v : Sector) (i : Nat) : Nat := Config.cellTable v.design i
def cellSplit (v : Sector) (i : Nat) : Bool := Config.cellSplit v.design i

/-- What the table of a cell gives for six inputs: its two outputs, which differ when it holds two tables sharing five of them. -/
def lutOut (table : Nat) (split : Bool) (ins : Nat) : Bool × Bool :=
  if split then (table.testBit (ins % 32), table.testBit (32 + ins % 32)) else (table.testBit (ins % 64), table.testBit (ins % 64))

/-- A shift register after a clock, what it gives at a tap address (a delay of the address plus one), and its cascade output. -/
def shiftOn (shift : Nat) (b : Bool) : Nat := (shift * 2 + if b then 1 else 0) % 2 ^ 32
def shiftTap (shift tap : Nat) : Bool := shift.testBit (tap % 32)
def cascade (shift : Nat) : Bool := shift.testBit 31

/-- The values the configuration gives a cell's registers, and whether the reset of each is asynchronous (R315). -/
def cellStart (v : Sector) (i : Nat) : Cell := ⟨(Config.cellInit v.design i).testBit 0, (Config.cellInit v.design i).testBit 1, 0⟩
def resetAsync (v : Sector) (i r : Nat) : Bool := (Config.cellInit v.design i).testBit (2 + r)

/-- A cell of a sector; one that has not moved holds what the configuration gives it. -/
def logicCell (v : Sector) (i : Nat) : Cell := tget (cellStart v i) v.cells i
def logicPut (v : Sector) (i : Nat) (c : Cell) (t : Tab Cell) : Tab Cell := tset (cellStart v i) t i c

/-- The clock tree and the reset tree of a cluster (R315). -/
def clockTree (v : Sector) (cluster : Nat) : Nat := Config.clusterTrees v.design cluster % 4
def resetTree (v : Sector) (cluster : Nat) : Nat := Config.clusterTrees v.design cluster / 4 % 4

/-- Entries a queue controller holds in its shape, a power of two of 1,024, and its flags (R329): EMPTY, FULL, ALMOST_EMPTY and
ALMOST_FULL by the levels AE and AF of the configuration, OVERFLOW and UNDERFLOW. -/
def queueEntries (v : Sector) (mem : Nat) : Nat := 1024 * 2 ^ (Config.bramShape v.design mem 0 % 4)
def queueFlags (v : Sector) (mem : Nat) (q : MemQueue) : List Bool :=
  let n := q.words.length
  [n = 0, queueEntries v mem ≤ n, n ≤ (Config.queueLevels v.design mem).1, (Config.queueLevels v.design mem).2 ≤ n, q.overflow, q.underflow]

/-- What a sector presents to the routing (R313, R329): registers and shift registers of cells, requests of handshake cells, and
the outputs of queue controllers. -/
def signals (v : Sector) : List Nat :=
  v.cells.map (fun e => e.1 * 2 ^ 34 + (if e.2.r0 then 2 ^ 33 else 0) + (if e.2.r1 then 2 ^ 32 else 0) + e.2.shift)
    ++ v.joins.map (fun e => e.1 * 2 + if e.2.line.getLastD false then 1 else 0)
    ++ v.queues.map fun e => (e.1 * 2 ^ 72 + e.2.out) * 64 + (queueFlags v e.1 e.2).foldl (fun n b => n * 2 + if b then 1 else 0) 0

/-- What the routing brings a cell: six inputs, a tap address, data to shift and whether it is the cascade of the cell before, and
the two clock enables (log entry 40). -/
structure Pins where
  ins     : Nat
  tap     : Nat
  data    : Bool
  chained : Bool
  en0     : Bool
  en1     : Bool
deriving DecidableEq, Repr

def cellPins (v : Sector) (i : Nat) : Pins :=
  let p := Config.cellPins v.design i (signals v)
  ⟨p % 64, p / 64 % 32, p.testBit 11, p.testBit 12, p.testBit 13, p.testBit 14⟩

/-- A cell at an edge of its cluster's clock (R314, R315): registers whose clock enable is set take the outputs of the table; in shift
mode one register shifts, and the other stays free. -/
def cellEdge (v : Sector) (i : Nat) : Cell :=
  let c := logicCell v i
  let p := cellPins v i
  if cellShifts v i then
    let b := if p.chained && i % 16 != 0 then cascade (logicCell v (i - 1)).shift else p.data
    { r0 := if p.en0 then shiftTap c.shift p.tap else c.r0, r1 := c.r1, shift := if p.en1 then shiftOn c.shift b else c.shift }
  else
    let o := lutOut (cellTable v i) (cellSplit v i) p.ins
    { c with r0 := if p.en0 then o.1 else c.r0, r1 := if p.en1 then o.2 else c.r1 }

/-- A cell whose reset tree is asserted (R315, R323): registers of asynchronous reset take their values at once, others at an edge. -/
def cellReset (v : Sector) (i : Nat) (edge : Bool) : Cell :=
  let c := logicCell v i
  let z := cellStart v i
  { c with r0 := if edge || resetAsync v i 0 then z.r0 else c.r0, r1 := if edge || resetAsync v i 1 then z.r1 else c.r1 }

/-! ### Delays (R316-R318, R325), in units of 10 ps at the nominal point -/

/-- The lowest level whose unit contains two logic cells of the device (R317): sector * 98,304 + block * 256 + cluster * 16 + cell. -/
def routeLevel (a b : Nat) : Nat := if a / 16 = b / 16 then 0 else if a / 256 = b / 256 then 1 else if a / 98304 = b / 98304 then 2 else 3

/-- The delay of a route of a level (R316). -/
def routeDelay (level : Nat) : Nat := [12, 30, 75].getD level 190

/-- A path's nominal delay without setup and skew: LUTs and routes by level (R316, R317). -/
def dataDelay (luts : Nat) (levels : List Nat) : Nat := 9 + 10 * luts + (levels.map routeDelay).sum

/-- The nominal delay D of a register-to-register path (R317): with setup and skew. -/
def pathDelay (luts : Nat) (levels : List Nat) : Nat := dataDelay luts levels + 6 + 8

/-- f_t of the row of R318's table that a floor in mV uses, in 10 M steps/s: between two rows, the lower. -/
def floorSteps (mv : Nat) : Nat :=
  if mv < 600 then 76 else if mv < 650 then 105 else if mv < 720 then 136 else if mv < 780 then 174 else if mv < 850 then 198 else 222

/-- R318's condition: a clock of 12.5 MHz * n carries a path of delay d at a floor. -/
def floorMeets (n d mv : Nat) : Bool := (d * 190 + 5 * floorSteps mv) * n ≤ 8000 * floorSteps mv

/-- R325: a matched delay of some taps is safe for a data path of a delay. -/
def stageSafe (taps d : Nat) : Bool := 11 * d ≤ 10 * (taps * routeDelay 0)

/-! ### Handshake cells (R324) -/

/-- The two-input C-element: its output follows its inputs where they agree, and is kept where they differ. -/
def cElement (req ack out : Bool) : Bool := if req == ack then req else out

/-- The taps of a cluster's matched delay, 1 to 64. -/
def joinTaps (v : Sector) (cluster : Nat) : Nat := 1 + Config.joinTaps v.design cluster % 64

/-- A handshake cell moves: its C-element joins request and acknowledge, and the delay carries the result a tap onward; the last
entry of the delay is the request output. -/
def joinMoves (v : Sector) (cluster : Nat) : Handshake :=
  let p := Config.joinPins v.design cluster (signals v)
  let h := tget Handshake.reset v.joins cluster
  let out := cElement (p.testBit 0) (p.testBit 1) h.out
  ⟨out, (out :: h.line).take (joinTaps v cluster)⟩

/-! ### The tick (R321-R323; log entry 73) -/

/-- A generator at a tick of 800 MHz: a locked one has N of 64 edges. -/
def clockTicks (c : ClockGen) : Bool := c.locked && decide (64 ≤ c.phase + c.n)
def clockNext (c : ClockGen) : ClockGen := if c.locked then { c with phase := (c.phase + c.n) % 64 } else c

/-- Edges of its release clock for which a tree stays asserted: those of a pulse, and the stages of R25 (R323). -/
def pulseEdges : Nat := 16
def syncEdges : Nat := 3

/-- Whether a reset tree of a sector is asserted. -/
def treeAsserted (s : State) (k r : Nat) : Bool := treesHeld s k || tget 0 (sector s k).asserted r != 0

/-- The cells of a cluster after a tick. -/
def clusterTick (v : Sector) (asserted edge : Nat → Bool) (t : Tab Cell) (cluster : Nat) : Tab Cell :=
  let rst := asserted (resetTree v cluster)
  let e := edge (clockTree v cluster)
  if !rst && !e then t
  else
    (List.range 16).foldl (fun t j =>
      let i := cluster * 16 + j
      logicPut v i (if rst then cellReset v i e else cellEdge v i) t) t

/-- Reset trees at a tick: a tree that is held waits for the stages of R25, and one released is an edge nearer its end. -/
def treesTick (v : Sector) (held : Bool) (edge : Nat → Bool) : Tab Nat :=
  (List.range 4).foldl (fun t r =>
    let n := if held then max syncEdges (tget 0 t r) else tget 0 t r
    tset 0 t r (if !held && edge (Config.releaseClock v.design r % 4) then n - 1 else n)) v.asserted

/-- A sector's clocked and self-timed cells at a tick; one without a design has none. -/
def sectorTick (edge : Nat → Bool) (s : State) (k : Nat) : State :=
  if !domainOn s (128 + k) || !(sectorRegion s k).testBit 5 then s
  else
    let v := sector s k
    setSector s k
      { v with cells := (List.range 6144).foldl (clusterTick v (treeAsserted s k) edge) v.cells,
               joins := (List.range 6144).foldl (fun t c => tset Handshake.reset t c (joinMoves v c)) v.joins,
               asserted := treesTick v (treesHeld s k) edge }

/-- A tick of the steppe. -/
def steppeTick (s : State) : State :=
  let edge (g : Nat) : Bool := clockTicks (clockGen s g)
  let s1 := (List.range 16).foldl (sectorTick edge) s
  (List.range 4).foldl (fun t g => if (clockGen t g).locked then setClock t g (clockNext (clockGen t g)) else t) s1

end Sys2Proof.Machine
end

