-- ==== Sys2Proof/Machine/Fabric.lean ====
section
/-! DEFINITION. The steppe's commands (R321-R340): clock generators, resets, block memories and queue controllers, beats at
the dale ports, and the drain of a sector's ports. -/
namespace Sys2Proof.Machine

/-- The event sources of a sector and of the whole steppe (R493). -/
def sectorSource (k : Nat) : Nat := unitSource 7 k
def srcSteppe : Nat := unitSource 8 0

/-- A register of a sector's page (R340). -/
def sectorWin (k off : Nat) : Nat := 0x020000080000 + 0x1000 * k + off

/-- Count in a register that holds at its maximum. -/
def winBump (s : State) (a : Nat) : State := winSet s a (holdAdd (winGet s a) 1)

/-! ### Clocks and resets -/

/-- CLOCK_UNLOCKED (R322): a locked generator stops, with event 0x0B03. -/
def clockUnlockedState (g : Nat) (s : State) : State :=
  let c := clockGen s g
  if c.locked then
    odBump (emitPlain (setClock s g { c with locked := false, lost := true }) 0x0B03 sevError srcSteppe [(2, g), (7, c.n)]) 0x5800 4 1
  else s

/-- The queue controllers whose write side a tree resets are emptied (R329). -/
def resetQueues (s : State) (k mask : Nat) : State :=
  updSector s k fun v =>
    { v with queues := v.queues.map fun e =>
        if mask.testBit (Config.queueTree v.design e.1 % 4) then (e.1, { e.2 with words := [], overflow := false, underflow := false }) else e }

/-- Assert reset trees for some edges of their release clocks (R323); one whose release clock carries no edge stays asserted. -/
def assertTrees (v : Sector) (mask edges : Nat) : Sector :=
  { v with asserted := (List.range 4).foldl (fun t r => if mask.testBit r then tset 0 t r (max edges (tget 0 t r)) else t) v.asserted }

/-- SECTOR_RESET (R323, R340): the trees of [3:0] are pulsed for 16 clocks, and released through the stages of R25. -/
def sectorResetState (k value : Nat) (s : State) : State :=
  if value ≥ 16 then answer s .formatError 0
  else answer (updSector (resetQueues s k value) k fun v => assertTrees v value (pulseEdges + syncEdges)) .done 0

/-- SECTOR_CLEAR (R340): 1 clears the sector's counters. -/
def sectorClearState (k value : Nat) (s : State) : State :=
  if value = 1 then
    answer (winSet (winSet (winSet s (sectorWin k 0x10) 0) (sectorWin k 0x14) 0) (sectorWin k 0x18) 0) .done 0
  else answer s .formatError 0

/-! ### Block memories (R326-R329) -/

/-- Whether a side moves that one of the clock trees drives, or that runs by handshake (R321, R322, R327, R331). -/
def sideRuns (s : State) (clock : Option Nat) : Bool :=
  match clock with
  | some g => (clockGen s (g % 4)).locked
  | none => true

/-- A part of a stored word: data bits above which its other bits stand. `sh` halves the 1,024 x 72 shape. -/
def bramPart (v sh part : Nat) : Nat :=
  let dw := 64 / 2 ^ sh
  let xw := 8 / 2 ^ sh
  v / 2 ^ (dw * part) % 2 ^ dw + v / 2 ^ (64 + xw * part) % 2 ^ xw * 2 ^ dw

/-- A stored word with a part replaced. -/
def bramMerge (v sh part w : Nat) : Nat :=
  let dw := 64 / 2 ^ sh
  let xw := 8 / 2 ^ sh
  let old := bramPart v sh part
  v - old % 2 ^ dw * 2 ^ (dw * part) - old / 2 ^ dw * 2 ^ (64 + xw * part)
    + w % 2 ^ dw * 2 ^ (dw * part) + w / 2 ^ dw % 2 ^ xw * 2 ^ (64 + xw * part)

/-- Bytes of the memory that a part of a word covers. -/
def bramBytes (sh word : Nat) : List Nat :=
  let n := 8 / 2 ^ sh
  (List.range n).map fun i => word * n + i

/-- BRAM_ACCESS (R326-R328): one access of a port in its shape. A read answers the word, with UNCORRECTABLE as its ERR; a
parity failure counts and records event 0x0B01 once for the memory. -/
def bramAccessState (k mem port : Nat) (wr : Bool) (word : Nat) (value : BitVec 72) (s : State) : State :=
  let v := sector s k
  let sh := Config.bramShape v.design mem port % 4
  let plain := Config.bramPlain v.design mem
  if !sectorRuns s k || !sideRuns s (Config.bramClock v.design mem port) || word ≥ 1024 * 2 ^ sh then s
  else
    let key := mem * 1024 + word / 2 ^ sh
    let part := word % 2 ^ sh
    if wr then
      setSector s k
        { v with mem := tset 0 v.mem key (bramMerge (tget 0 v.mem key) sh part (if plain then value.toNat else value.toNat % 2 ^ (64 / 2 ^ sh))),
                 memBad := v.memBad.filter fun b => !(b.1 == mem && (bramBytes sh word).contains b.2) }
    else
      let w := bramPart (tget 0 v.mem key) sh part
      match (if plain then none else v.memBad.find? fun b => b.1 == mem && (bramBytes sh word).contains b.2) with
      | none => answer s .done w
      | some b =>
        let s1 := odBump (winBump s (sectorWin k 0x10)) 0x5800 1 1
        let s2 :=
          if v.memSeen.contains mem then s1
          else
            updSector (emitPlain s1 0x0B01 sevError (sectorSource k)
              [(4, k), (8, mem), (1, port), (13, word), (3, b.2 % (8 / 2 ^ sh))]) k fun x => { x with memSeen := x.memSeen ++ [mem] }
        answer s2 .uncorrectable w

/-- An empty queue controller. -/
def MemQueue.reset : MemQueue := ⟨[], 0, false, false, false⟩


/-- Overflow or underflow of a queue controller (R329): counted, with event 0x0B04 the first time. -/
def queueFault (s : State) (k mem : Nat) (under : Bool) : State :=
  let q := tget MemQueue.reset (sector s k).queues mem
  let s1 := odBump (winBump s (sectorWin k 0x18)) 0x5800 3 1
  let s2 := if q.recorded then s1 else
    emitPlain s1 0x0B04 sevWarning (sectorSource k) [(4, k), (8, mem), (1, if under then 1 else 0)]
  let r : MemQueue := { q with overflow := q.overflow || !under, underflow := q.underflow || under, recorded := true }
  updSector s2 k fun v => { v with queues := tset MemQueue.reset v.queues mem r }

/-- QUEUE_ACCESS (R329): a write enters unless the queue is full; a read takes the oldest word unless it is empty. Either side moves
by its own clock (port 0 of the memory writes, port 1 reads). -/
def queueAccessState (k mem : Nat) (wr : Bool) (value : BitVec 72) (s : State) : State :=
  let q := tget MemQueue.reset (sector s k).queues mem
  let put (r : MemQueue) : State := updSector s k fun v => { v with queues := tset MemQueue.reset v.queues mem r }
  if !sectorRuns s k || !sideRuns s (Config.bramClock (sector s k).design mem (if wr then 0 else 1)) then s
  else if wr then
    if q.words.length ≥ queueEntries (sector s k) mem then queueFault s k mem false
    else put { q with words := q.words ++ [value.toNat] }
  else
    match q.words with
    | [] => answer (queueFault s k mem true) .done q.out
    | w :: rest => answer (put { q with words := rest, out := w }) .done w

/-! ### Beats (R331-R334) -/

/-- Whether the steppe side of a dale's ports moves: its design runs, and the side's clock, if it has one, is locked
(R322, R331; log entry 40). -/
def portSideRuns (s : State) (d : Nat) : Bool :=
  let k := sectorOf d
  sectorRuns s k && sideRuns s (Config.portClock (sector s k).design d)

/-- The beat of an outbound block that leaves is one beat nearer its end. -/
def beatTaken (s : State) (d c : Nat) : State :=
  match frontBlock s d c with
  | none => s
  | some b =>
    let s1 := setFront s d c { b with waiting := b.waiting - 1 }
    if b.waiting ≤ 1 ∧ b.next * 32 ≥ portBytes b then completeBlock s1 d c else s1

/-- PORT_BEAT_OUT (R331, R333, R334): the steppe takes the oldest beat of an outbound queue; its parity is checked as it
leaves. The answer is the beat: its data, with POISONED as its mark. -/
def portBeatOutState (d q : Nat) (s : State) : State :=
  let p := tget PortQueue.reset (dale s d).portOut q
  match p.beats with
  | [] => s
  | (bs, poison, last) :: rest =>
    if !portSideRuns s d then s
    else
      let bad := (dale s d).badBytes.find? fun e => e.1 == 0x40 + q && e.2.1 == 0
      let s1 := updDale s d fun x =>
        { x with portOut := tset PortQueue.reset x.portOut q { p with beats := rest },
                 badBytes := if bad.isSome then x.badBytes.filter (fun e => !(e.1 == 0x40 + q && e.2.1 == 0)) else x.badBytes }
      let c := p.bound.getD 0
      let row := match frontBlock s d c with
        | some b => (portBeatRows b (b.next - b.waiting)).headD 0
        | none => 0
      let s2 := match bad with
        | some e =>
          odBump (emitDale (winBump s1 (sectorWin (sectorOf d) 0x14)) d 0x0B02 sevError
            [(1, 0), (2, q), (5, e.2.2), (4, c), (13, row)]) 0x5800 2 1
        | none => s1
      let s3 := if p.bound.isSome then beatTaken s2 d c else s2
      answer (portMoves s3 d) (if poison || bad.isSome then .poisoned else .done) (leNat bs + (if last then 2 ^ 256 else 0))

/-- PORT_BEAT_IN (R331, R334): a beat of the design enters an inbound queue while there is room. -/
def portBeatInState (d q : Nat) (data : List Byte) (poison last : Bool) (s : State) : State :=
  let p := tget PortQueue.reset (dale s d).portIn q
  if !portSideRuns s d || data.isEmpty || data.length > 32 || p.beats.length ≥ 16 || (dale s d).portLive = 0 then s
  else
    portMoves (updDale s d fun x =>
      { x with portIn := tset PortQueue.reset x.portIn q { p with beats := p.beats ++ [(data, poison, last)] } }) d

/-! ### Drain of a sector's ports (R338) -/

/-- Whether a sector is switching off. -/
def sectorSwitching (s : State) (k : Nat) : Bool :=
  match switchOf s (128 + k) with
  | some w => w.off && !w.deferred
  | none => false

/-- PORT_DRAIN_REQUEST (R338 steps 1 and 2): the sector's ports bind no new block. -/
def portDrainRequestState (k : Nat) (s : State) : State :=
  if sectorSwitching s k then
    (sectorDales k).foldl (fun t d => updDale t d fun x => { x with portLive := if x.portLive = 1 then 2 else x.portLive }) s
  else s

/-- PORT_DRAINED (R338 steps 3 and 4): nothing bound and both queues empty, the port enters absorb and reports. -/
def portDrainedState (d : Nat) (s : State) : State :=
  let k := sectorOf d
  if sectorSwitching s k && (dale s d).portLive != 1 && portIdle (dale s d) then
    unitDrained (updDale s d fun x => { x with portLive := 0 }) (128 + k) d false
  else s

/-- PORT_DRAIN_FORCED (R338): queues are discarded, bound blocks halt with DOMAIN_OFF, and event 0x0B05 is handed over. -/
def portDrainForcedState (d : Nat) (s : State) : State :=
  let k := sectorOf d
  if sectorSwitching s k && (dale s d).portLive == 2 then
    let beats := portBeats (dale s d)
    let blocks := (portChannels (dale s d)).length
    let s1 := discardPorts (updDale s d fun x => { x with portLive := 0 }) d 3 .domainOff
    unitDrained (emitPlain s1 0x0B05 sevError (sectorSource k) [(4, k), (16, d), (16, beats), (8, blocks)]) (128 + k) d true
  else s

/-! ### Meanings -/

/-- The meaning of CLOCK_UNLOCKED. -/
def execClockUnlocked (g : Nat) (s : State) : Host.Outcome State Fault Refusal :=
  guardUnit (g < 4) (clockUnlockedState g s)

/-- The meaning of SECTOR_RESET. -/
def execSectorReset (k : Nat) (value : Nat) (s : State) : Host.Outcome State Fault Refusal :=
  guardUnit (k < 16) (sectorResetState k value s)

/-- The meaning of SECTOR_CLEAR. -/
def execSectorClear (k : Nat) (value : Nat) (s : State) : Host.Outcome State Fault Refusal :=
  guardUnit (k < 16) (sectorClearState k value s)

/-- The meaning of BRAM_ACCESS. -/
def execBramAccess (sector : Nat) (mem : Nat) (port : Nat) (wr : Bool) (word : Nat) (value : BitVec 72) (s : State) : Host.Outcome State Fault Refusal :=
  guardUnit (sector < 16 ∧ mem < 192 ∧ port < 2) (bramAccessState sector mem port wr word value s)

/-- The meaning of QUEUE_ACCESS. -/
def execQueueAccess (sector : Nat) (mem : Nat) (wr : Bool) (value : BitVec 72) (s : State) : Host.Outcome State Fault Refusal :=
  guardUnit (sector < 16 ∧ mem < 192) (queueAccessState sector mem wr value s)

/-- The meaning of PORT_BEAT_OUT. -/
def execPortBeatOut (d : Nat) (queue : Nat) (s : State) : Host.Outcome State Fault Refusal :=
  guardUnit (d < 512 ∧ queue < 4) (portBeatOutState d queue s)

/-- The meaning of PORT_BEAT_IN. -/
def execPortBeatIn (d : Nat) (queue : Nat) (data : List Byte) (poison : Bool) (last : Bool) (s : State) : Host.Outcome State Fault Refusal :=
  guardUnit (d < 512 ∧ queue < 4) (portBeatInState d queue data poison last s)

/-- The meaning of PORT_DRAIN_REQUEST. -/
def execPortDrainRequest (k : Nat) (s : State) : Host.Outcome State Fault Refusal :=
  guardUnit (k < 16) (portDrainRequestState k s)

/-- The meaning of PORT_DRAINED. -/
def execPortDrained (d : Nat) (s : State) : Host.Outcome State Fault Refusal :=
  guardUnit (d < 512) (portDrainedState d s)

/-- The meaning of PORT_DRAIN_FORCED. -/
def execPortDrainForced (d : Nat) (s : State) : Host.Outcome State Fault Refusal :=
  guardUnit (d < 512) (portDrainForcedState d s)

end Sys2Proof.Machine
end

