-- ==== Sys2Proof/Machine/Line.lean ====
section
/-! DEFINITION. The line coding of the serial lanes (R396-R402, R405, R406): symbols, the encoder, the scrambler, stuffing, and the
layouts of markers, training frames and exchange frames. -/
namespace Sys2Proof.Machine

/-! ### Symbols (R396 step 5) -/

/-- The PAM4 level of two consecutive bits, the first being the high bit, and back. -/
def pairSym (a b : Bool) : Nat := if a then (if b then 2 else 3) else if b then 1 else 0
def symFirst (m : Nat) : Bool := m == 2 || m == 3
def symSecond (m : Nat) : Bool := m == 1 || m == 2

/-- The symbols of a list of bits. -/
def symsOfBits : List Bool → List Nat
  | a :: b :: rest => pairSym a b :: symsOfBits rest
  | _ => []

/-- The n symbols of a value, least significant bit first, and the value of symbols. -/
def symsOf (n v : Nat) : List Nat := (List.range n).map fun i => pairSym (v.testBit (2 * i)) (v.testBit (2 * i + 1))
def valueOf : List Nat → Nat
  | [] => 0
  | m :: rest => (if symFirst m then 1 else 0) + (if symSecond m then 2 else 0) + 4 * valueOf rest

/-- The value of n symbols from a place. -/
def symField (syms : List Nat) (at_ n : Nat) : Nat := valueOf ((syms.drop at_).take n)

/-- A pattern of four symbols twelve times. -/
def twelve (a b c d : Nat) : List Nat := (List.range 12).flatMap fun _ => [a, b, c, d]

/-! ### Encoder, distribution and scrambler (R396, R397) -/

/-- The field GF(2^10) of IEEE 802.3 Clause 91, x^10 + x^3 + 1 (log entry 74). -/
def gfTwice (a : Nat) : Nat := if a < 512 then 2 * a else Nat.xor (2 * a % 1024) 9
def gfMul (a b : Nat) : Nat :=
  (List.range 10).foldl (fun m i => if b.testBit (9 - i) then Nat.xor (gfTwice m) a else gfTwice m) 0

/-- A polynomial, its leading coefficient first, times x + r. -/
def polyStep (p : List Nat) (r : Nat) : List Nat := List.zipWith Nat.xor (p ++ [0]) (0 :: p.map (gfMul r))

/-- The generator polynomial of RS(544,514) below its leading term: roots the powers 0 to 29 of the field's element 2. -/
def rsGenerator : List Nat :=
  (((List.range 30).foldl (fun (e : List Nat × Nat) _ => (polyStep e.1 e.2, gfTwice e.2)) ([1], 1)).1).drop 1

/-- One symbol into the encoder. -/
def rsStep (gen par : List Nat) (m : Nat) : List Nat :=
  let f := Nat.xor m (par.headD 0)
  List.zipWith Nat.xor (par.drop 1 ++ [0]) (gen.map (gfMul f))

/-- A codeword: its 514 message symbols, then 30 parity symbols. -/
def rsEncode (ms : List Nat) : List Nat := ms ++ ms.foldl (rsStep rsGenerator) (List.replicate 30 0)

/-- The message symbols of the 5,140 bits the link layer hands over. -/
def messageSyms (w : Nat) : List Nat := (List.range 514).map fun i => w / 2 ^ (10 * i) % 1024

/-- The symbols of a codeword that lane k of N carries. -/
def laneShare (n k : Nat) (cw : List Nat) : List Nat :=
  (List.range (cw.length / n)).map fun i => cw.getD (i * n + k) 0

/-- One step of the scrambler: bit i of its register is s(t - 1 - i). -/
def scramStep (r : Nat) : Nat × Bool :=
  let b := r.testBit 27 != r.testBit 30
  ((2 * r + if b then 1 else 0) % 2 ^ 31, b)

/-- Bits scrambled from a register, with the register after. -/
def scramble : List Bool → Nat → List Bool
  | [], _ => []
  | b :: rest, r => (b != (scramStep r).2) :: scramble rest (scramStep r).1

/-- The line symbols of a lane for the codewords since a marker, before stuffing. -/
def laneLine (n k seed : Nat) (words : List Nat) : List Nat :=
  let bits := words.flatMap fun w =>
    (laneShare n k (rsEncode (messageSyms w))).flatMap fun m => (List.range 10).map m.testBit
  symsOfBits (scramble bits seed)

/-! ### Stuffing (R401, R402) -/

/-- The stuff symbol after a run. -/
def stuffSym (m : Nat) : Nat := if m ≤ 1 then 3 else 0

/-- A run after one more symbol: the symbol and the run's length. -/
def runNext (r : Nat × Nat) (m : Nat) : Nat × Nat := if m = r.1 then (m, r.2 + 1) else (m, 1)

/-- Line symbols with a stuff symbol after the 32nd equal one, the run after, and the stuff symbols inserted. -/
def stuffLine : List Nat → Nat × Nat → List Nat × (Nat × Nat) × Nat
  | [], r => ([], r, 0)
  | m :: rest, r =>
    let r1 := runNext r m
    if r1.2 ≥ 32 then
      let o := stuffLine rest (stuffSym m, 1)
      (m :: stuffSym m :: o.1, o.2.1, o.2.2 + 1)
    else
      let o := stuffLine rest r1
      (m :: o.1, o.2.1, o.2.2)

/-- What a receiver makes of line symbols: the symbols kept, the run after, and the symbols discarded with those of them that are no
stuff symbol. -/
structure Unstuffed where
  kept  : List Nat
  run   : Nat × Nat
  gone  : Nat
  wrong : Nat
deriving DecidableEq, Repr

/-- Discard the symbol that follows any run of 32 equal symbols (R402). -/
def unstuffLine : List Nat → Nat × Nat → Unstuffed
  | [], r => ⟨[], r, 0, 0⟩
  | m :: rest, r =>
    if r.2 ≥ 32 then
      let o := unstuffLine rest (m, 1)
      { o with gone := o.gone + 1, wrong := if m = stuffSym r.1 then o.wrong else o.wrong + 1 }
    else
      let o := unstuffLine rest (runNext r m)
      { o with kept := m :: o.kept }

/-- A lane receives line symbols: stuff symbols removed and counted. -/
def laneReceives (s : State) (n : Nat) (syms : List Nat) : State × List Nat :=
  let l := sLane s n
  let o := unstuffLine syms l.rxRun
  (setLane s n { l with rxRun := o.run, stuffs := holdAdd l.stuffs o.gone, stuffErr := holdAdd l.stuffErr o.wrong }, o.kept)

/-! ### Markers (R398) -/

/-- MARK, and CHECK over LANE and STATE. -/
def markPattern : List Nat := twelve 3 0 2 1
def markerCheck (lane state : Nat) : Nat := crc16 (leBytes 2 lane ++ leBytes 2 state)

/-- The symbols of a marker, with the pads its STATE names. -/
def markerSyms (lane state : Nat) : List Nat :=
  markPattern ++ symsOf 8 lane ++ symsOf 8 state ++ symsOf 8 (markerCheck lane state)
    ++ (List.range (state / 256 % 256)).map fun i => if i % 2 = 0 then 0 else 3

/-- LANE and STATE of a marker that is accepted. -/
def markerOf (syms : List Nat) : Option (Nat × Nat) :=
  let lane := symField syms 48 8
  let state := symField syms 56 8
  if syms.take 48 = markPattern ∧ 72 ≤ syms.length ∧ symField syms 64 8 = markerCheck lane state then some (lane, state) else none

/-! ### Training and exchange frames (R405, R406) -/

/-- CONTROL of a training frame. -/
def trainOf (syms : List Nat) : Option TrainFrame :=
  if syms.take 48 = twelve 0 3 3 0 ∧ 80 ≤ syms.length then
    let c := symField syms 48 32
    some ⟨c.testBit 63, c.testBit 62, bitsOf c 15 8, bitsOf c 7 0⟩
  else none

/-- The capability record of an exchange frame: a marker with NEXT 0 and P 0, the record of 64 symbols, and its CRC of 8. -/
def exchOf (syms : List Nat) : Option ExchRecord :=
  let v := symField syms 72 64
  match markerOf syms with
  | none => none
  | some m =>
    if m.2 % 4 = 0 ∧ m.2 / 256 = 0 ∧ 144 ≤ syms.length ∧ symField syms 136 8 = crc16 (leBytes 16 v) then
      some { uid := bitsOf v 127 64, kind := bitsOf v 63 60, group := bitsOf v 59 55, lane := bitsOf v 54 52, lanes := bitsOf v 51 48,
             ack := v.testBit 47, seed := v % 2 ^ 31 }
    else none

/-! ### Equaliser coefficients (R405) -/

/-- One coefficient under a request: its value and the status that answers it, 0 not updated, 1 updated, 2 at limit. -/
def coefStep (i : Nat) (v : Int) (request : Nat) : Int × Nat :=
  match request with
  | 1 => if Config.coefLimit i true v then (v, 2) else (v + 1, 1)
  | 2 => if Config.coefLimit i false v then (v, 2) else (v - 1, 1)
  | _ => (v, 0)

/-- The transmitter's four coefficients after a CONTROL, and the status field that answers it; PRESET takes the initial ones. -/
def coefsAfter (coefs : List Int) (f : TrainFrame) : List Int × Nat :=
  if f.preset then ([0, 0, 0, 0], 0x55)
  else
    let es := (List.range 4).map fun i => coefStep i (coefs.getD i 0) (f.requests / 4 ^ i % 4)
    (es.map (·.1), (List.range 4).foldl (fun m i => m + (es.getD i (0, 0)).2 * 4 ^ i) 0)

end Sys2Proof.Machine
end

