-- ==== Sys2Proof/Machine/Lanes.lean ====
section
/-! DEFINITION. The commands of the serial lanes (R395-R413): detection, training, exchange, markers, codewords, Idle, Deep, test
and the registers that command them. -/
namespace Sys2Proof.Machine

/-! ### Bring-up (R404-R408) -/

/-- LANE_DETECT_PROBE (R404): once every lane of the group sees a far end, the group trains in full. -/
def laneDetectProbeState (n : Nat) (found : Bool) (s : State) : State :=
  let g := laneGroup n
  if (lgroup s g).stage = 1 ∧ (sLane s n).stage = 1 then
    let s1 := updLane s n fun l => { l with detected := found }
    if (groupLanes g).all fun m => (sLane s1 m).detected then groupToTrain s1 g false else s1
  else s

/-- A training frame is received (R405): its CONTROL is acted on with the third equal frame in a row. -/
def takeControl (l : SerialLane) (frame : TrainFrame) : SerialLane :=
  let run := if l.control = some frame then l.run + 1 else 1
  let l1 := { l with control := some frame, run := run }
  if run = 3 then
    let o := coefsAfter l.coefs frame
    { l1 with ready := frame.rxReady, coefs := o.1, status := o.2 }
  else l1

/-- Frame by frame, a lane in training (R404). -/
def trainStep (n : Nat) (frame : TrainFrame) (adapted inverted : Bool) (s : State) : State :=
  let g := laneGroup n
  let s0 := if (lgroup s g).stage = 8 then groupToTrain s g true else s
  let l := sLane s0 n
  if (lgroup s0 g).stage = 2 ∧ (l.stage = 2 ∨ l.stage = 3) then
    let s1 := setLane s0 n
      { takeControl l frame with
               stage := if adapted then 3 else l.stage, inverted := if adapted then inverted else l.inverted }
    if (groupLanes g).all fun m => (sLane s1 m).stage == 3 && (sLane s1 m).ready then
      updGroup s1 g fun v => { v with stage := 4 }
    else s1
  else s

/-- TRAINING_FRAME (R404, R405): its symbols, whether the lane has adapted, and whether its polarity is inverted. CONTROL counts
after three equal frames; an adapted lane locks; when every lane is locked and sees RX_READY the group exchanges. The first frame
after a wake from Deep begins the training (R410). -/
def trainingFrameState (n : Nat) (symbols : List Nat) (adapted inverted : Bool) (s : State) : State :=
  match trainOf symbols with
  | none => s
  | some frame => trainStep n frame adapted inverted s

/-- This end's KIND and the partner's that goes with it (R406). -/
def partnerKind (g : Nat) : Nat := if g < 16 then 0 else 2

/-- A valid record at its proper spacing (R406): records at their proper spacing are counted; a wrong KIND, LANES or set of LANE values fails the
exchange; with three equal records on every lane this end sends ACK, and with the partner's ACK on every lane the group is ACTIVE. -/
def takeRecord (g k : Nat) (r : ExchRecord) (micros : Nat) (s : State) : State :=
  let n := (groupLanes g).getD k 0
  let l := sLane s n
  let run := if l.exch = some r then l.exchRun + 1 else 1
  let s1 := setLane s n { l with found := true, exch := some r, exchRun := run, partner := r.lane }
  let ls := (groupLanes g).map fun m => sLane s1 m
  if run ≥ 3 ∧ (r.kind ≠ partnerKind g ∨ r.lanes ≠ groupN g) then groupFails s1 g true
  else
    let all3 := ls.all fun m => m.exchRun ≥ 3
    let ks := ls.map fun m => m.partner
    if all3 && !(List.range (groupN g)).all (fun i => ks.contains i) then groupFails s1 g true
    else
      let s2 := if all3 then
          updGroup s1 g fun v => { v with ack := true, uid := r.uid, info := r.group * 2 ^ 8 + r.kind }
        else s1
      if (lgroup s2 g).ack && ls.all (fun m => (m.exch.map (·.ack)).getD false) then groupBecomesActive s2 g micros else s2

/-- EXCHANGE_FRAME (R406): its symbols, whether it comes at its proper spacing, and the time of the training so far. -/
def exchangeFrameState (g k : Nat) (symbols : List Nat) (spaced : Bool) (micros : Nat) (s : State) : State :=
  let n := (groupLanes g).getD k 0
  let l := sLane s n
  if (lgroup s g).stage ≠ 4 then s
  else if !spaced then setLane s n { l with found := false, exch := none, exchRun := 0 }
  else
    match exchOf symbols with
    | none => setLane s n { l with found := true, exch := none, exchRun := 0 }
    | some r => takeRecord g k r micros s

/-- LANE_LOCK_LOST (R407 cause 0). -/
def laneLockLostState (n : Nat) (s : State) : State := groupRetrains s (laneGroup n) 0 (laneK n)

/-- MARKER_TIMEOUT (R400, R407 cause 1). -/
def markerTimeoutState (g : Nat) (s : State) : State := groupRetrains s g 1 0

/-- TRAIN_LIMIT_EXPIRED (R404, R407, R408). -/
def trainLimitExpiredState (g : Nat) (s : State) : State :=
  let st := (lgroup s g).stage
  if st = 1 ∨ st = 2 ∨ st = 3 ∨ st = 4 ∨ st = 8 then groupFails s g false else s

/-- TRAIN_RETRY (R408): after 10 ms in OFF the group detects again. -/
def trainRetryState (g : Nat) (s : State) : State := if (lgroup s g).fails > 0 then groupWakes s g else s

/-! ### Markers and codewords (R398-R403) -/

/-- Whether a port's link layer has no unacknowledged flit. -/
def linkQuiet (s : State) (g : Nat) : Bool :=
  let a := agent s (if g < 16 then 4 + g else g - 16)
  a.replay.isEmpty && a.txSlots.isEmpty

/-- A group enters Deep (R410): event 0x0E04. -/
def enterDeep (s : State) (g : Nat) (own : Bool) : State :=
  linkUp (updGroup (emitPlain s 0x0E04 sevInfo (dieSource g) [(5, g), (2, 0), (1, if own then 0 else 1)]) g fun v =>
    { v with stage := 7, deep := 0, next := 0 }) g false

/-- A Deep request of this end is refused (R410): event 0x0E04. -/
def deepRefused (s : State) (g : Nat) : State :=
  updGroup (emitPlain s 0x0E04 sevInfo (dieSource g) [(5, g), (2, 2), (1, 0)]) g fun v => { v with deep := 0, next := 0 }

/-- What a marker's NEXT says (R398, R409, R410). Deep requests: 1 asked by this end, 2 asked by the partner, 3 answered, 4
this end's acknowledged by the partner, 6 acknowledged before this end answered. -/
def markerNext (s : State) (g state : Nat) : State :=
  let v := lgroup s g
  match state % 4 with
  | 0 =>
    let s1 := setGroup s g { v with rxIdle := false }
    if state.testBit 3 ∧ v.deep = 1 then deepRefused s1 g else s1
  | 1 => setGroup s g { v with rxIdle := true }
  | 2 =>
    if 16 ≤ g then s
    else if v.deep = 1 ∨ v.deep = 4 ∨ linkQuiet s g then
      setGroup s g { v with deep := if v.deep = 0 then 2 else v.deep, next := if v.deep = 1 then v.next else 3 }
    else setGroup s g { v with nak := true, next := 0 }
  | _ =>
    if v.deep = 3 then enterDeep s g false
    else if v.deep = 1 then setGroup s g { v with deep := 4, next := 3 }
    else if v.deep = 2 then setGroup s g { v with deep := 6 }
    else s

/-- A valid marker (R395, R398, R400, R402, R409-R411): it gives the lane's order, shows a slip, and says what comes
next; a lane beyond its skew allowance retrains the group. In a manual search for framing two markers at their spacing are framing. -/
def takeMarker (g k lane state : Nat) (early skewOk : Bool) (s : State) : State :=
  let n := (groupLanes g).getD k 0
  let l := sLane s n
  if l.stage = 9 then
    if l.ctrl.testBit 7 then
      if early then setLane s n { l with run := 0 } else setLane s n { l with run := l.run + 1, found := l.found || decide (l.run ≥ 1) }
    else s
  else if (lgroup s g).stage ≠ 5 then s
  else
    let s1 := setLane s n { l with partner := lane % 8, slips := if early then holdAdd l.slips 1 else l.slips }
    if !skewOk then groupRetrains s1 g 2 k else markerNext s1 g state

/-- ALIGNMENT_MARKER: the line symbols at a place where the receiver looks for a marker, whether it comes before its proper place, and
whether the lane's skew is within its allowance. Stuff symbols are removed first (R402). -/
def alignmentMarkerState (g k : Nat) (symbols : List Nat) (early skewOk : Bool) (s : State) : State :=
  let n := (groupLanes g).getD k 0
  let r := if (sLane s n).stage = 9 ∨ (lgroup s g).stage = 5 then laneReceives s n symbols else (s, [])
  match markerOf r.2 with
  | none => r.1
  | some m => takeMarker g k m.1 m.2 early skewOk r.1

/-- What a lane has sent since its last marker: the run of its line symbols after the codewords, and its stuff symbols (R401). -/
def lineSince (s : State) (g k : Nat) (words : List Nat) : (Nat × Nat) × Nat :=
  let l := sLane s ((groupLanes g).getD k 0)
  let o := stuffLine (laneLine (groupN g) k l.seed words) l.txRun
  (o.2.1, l.txStuffs + o.2.2)

/-- A lane sends its marker (R398, R401). -/
def sendLaneMarker (s : State) (g k state : Nat) (run : Nat × Nat) : State :=
  let o := stuffLine (markerSyms (g * 8 + k) state) run
  updLane s ((groupLanes g).getD k 0) fun l => { l with txRun := o.2.1, txStuffs := o.2.2, sent := o.1 }

/-- MARKER_SEND (R399, R409, R410): the codewords since the last marker, as the link layer handed them over. Pads make up the stuffs of
each lane, at most 255 now and the excess with the next marker; NEXT 2 waits for a quiet link; NEXT 3 sent and received ends in Deep. -/
def markerSendState (g : Nat) (words : List Nat) (s : State) : State :=
  let v := lgroup s g
  if v.stage ≠ 5 then s
  else
    let ks := List.range (groupN g)
    let ls := ks.map fun k => lineSince s g k words
    let stuffed (k : Nat) : Nat := (ls.getD k ((0, 0), 0)).2
    let big := ks.foldl (fun m k => max m (stuffed k)) 0
    let want (k : Nat) : Nat := big - stuffed k + tget 0 v.carry k
    let pads := if v.txIdle then ks.map fun _ => 0 else ks.map fun k => min 255 (want k)
    let carry := if v.txIdle then v.carry else ks.foldl (fun t k => tset 0 t k (want k - min 255 (want k))) v.carry
    let next := if v.deep = 1 ∧ linkQuiet s g then 2 else v.next
    let s0 := ks.foldl (fun t k =>
      sendLaneMarker t g k (pads.getD k 0 * 256 + (if v.nak then 8 else 0) + next) (ls.getD k ((0, 0), 0)).1) s
    let s1 := setGroup s0 g { v with pads := pads, carry := carry, nak := false, next := next, deep := if v.deep = 2 then 3 else v.deep }
    if v.deep = 4 then enterDeep s1 g true else if v.deep = 6 then enterDeep s1 g false else s1

/-- The lane of a group with the most corrected symbols. -/
def worstLane (s : State) (g : Nat) : Nat :=
  (List.range (groupN g)).foldl (fun b k =>
    if (sLane s ((groupLanes g).getD k 0)).symErr > (sLane s ((groupLanes g).getD b 0)).symErr then k else b) 0

/-- CODEWORD_RECEIVED (R396, R402, R403): the line symbols of each lane for a codeword, and its symbols in error. Stuff symbols are
removed; up to 15 errors are corrected; more force a CRC failure on its flits, and event 0x0E05 at each multiple of 1,024. -/
def codewordReceivedState (g : Nat) (lines : List (List Nat)) (errors : List Nat) (s : State) : State :=
  let v := lgroup s g
  if v.stage ≠ 5 ∨ v.rxIdle = true then s
  else
    let at_ (k : Nat) : Nat := (groupLanes g).getD (k % groupN g) 0
    let s2 := (List.range (groupN g)).foldl (fun t k => (laneReceives t (at_ k) (lines.getD k [])).1) s
    if errors.isEmpty then updGroup s2 g fun v => { v with badWord := false }
    else if errors.length ≤ 15 then
      let s3 := errors.foldl (fun t e => updLane t (at_ e) fun l => { l with symErr := l.symErr + 1 }) s2
      odBump (updGroup s3 g fun v => { v with fecC := v.fecC + 1, badWord := false }) 0x6810 1 1
    else
      let n := v.fecU + 1
      let s3 := odBump (updGroup s2 g fun v => { v with fecU := n, badWord := true }) 0x6810 2 1
      if n % 1024 = 0 then emitPlain s3 0x0E05 sevWarning (dieSource g) [(5, g), (32, n), (3, worstLane s3 g)] else s3

/-! ### Idle and Deep (R409, R410) -/

/-- IDLE_ENTRY (R409). -/
def idleEntryState (g : Nat) (s : State) : State :=
  let v := lgroup s g
  if v.stage = 5 ∧ odRaw s 0x680001 ≠ 0 ∧ v.deep = 0 then setGroup s g { v with txIdle := true, next := 1 } else s

/-- IDLE_EXIT (R409): a flit leaves after one marker with NEXT 0. -/
def idleExitState (g : Nat) (s : State) : State :=
  let v := lgroup s g
  if v.stage = 5 ∧ v.txIdle = true then setGroup s g { v with txIdle := false, next := 0 } else s

/-- A write of 1 to GROUP_CMD (R407 cause 4). -/
def groupRetrainState (g : Nat) (s : State) : State := answer (groupRetrains s g 4 0) .done 0

/-- A write of 2 to GROUP_CMD (R410): refused for a sub-link. -/
def deepRequestState (g : Nat) (s : State) : State :=
  if 16 ≤ g then answer s .formatError 0
  else
    let v := lgroup s g
    answer (if v.stage = 5 ∧ v.deep = 0 then setGroup s g { v with deep := 1, next := if linkQuiet s g then 2 else v.next } else s) .done 0

/-- DEEP_REQUEST_TIMEOUT (R410): NEXT 2 could not be sent in 10 ms. -/
def deepRequestTimeoutState (g : Nat) (s : State) : State :=
  if (lgroup s g).deep = 1 ∧ (lgroup s g).next ≠ 2 then deepRefused s g else s

/-- A group leaves Deep (R410): event 0x0E04. -/
def leaveDeep (s : State) (g : Nat) (own : Bool) : State :=
  if (lgroup s g).stage = 7 then
    updGroup (emitPlain s 0x0E04 sevInfo (dieSource g) [(5, g), (2, 1), (1, if own then 0 else 1)]) g fun v => { v with stage := 8 }
  else s

/-- A write of 3 to GROUP_CMD, or a flit queued for the port (R410); outside DEEP it changes nothing. -/
def deepWakeState (g : Nat) (s : State) : State := answer (leaveDeep s g true) .done 0

/-- WAKE_BURST (R410): a burst of the partner; bursts that cross make one exit. -/
def wakeBurstState (g : Nat) (s : State) : State := leaveDeep s g false

/-! ### Test, and the registers (R411-R413) -/

/-- Values LANE_CTRL takes (R412); its reserved bits are ignored (R6). -/
def laneCtrlOk (v : Nat) : Bool := v < 256 && bitsOf v 6 4 ≤ 2 && bitsOf v 1 0 ≤ 1

/-- LANE_CTRL (R411, R412, log entry 41): taken only for a lane whose port is disabled, which is then in TEST; 0 leaves it. -/
def laneCtrlState (n written : Nat) (s : State) : State :=
  let value := written - 4 * bitsOf written 3 2
  let g := laneGroup n
  let l := sLane s n
  if 16 ≤ g ∨ portEnabled s g = true ∨ laneCtrlOk written = false ∨ groupPowered s g = false then answer s .formatError 0
  else
    answer (setLane s n { l with ctrl := value, stage := if value = 0 then 0 else 9, found := l.found && value.testBit 7, run := 0,
                                 testErr := if bitsOf value 6 4 = 0 then l.testErr else 0 }) .done 0

/-- LANE_BITSLIP (R411, R412): 1 moves the frame offset while MANUAL_FRAME is 1. -/
def laneBitslipState (n value : Nat) (s : State) : State :=
  let l := sLane s n
  if value = 1 ∧ l.stage = 9 ∧ l.ctrl.testBit 7 then
    answer (setLane s n { l with offset := (l.offset + 1) % 128, found := false, run := 0 }) .done 0
  else answer s .formatError 0

/-- GROUP_CLEAR (R412): 1 clears the counters of the group and its lanes. -/
def groupClearState (g value : Nat) (s : State) : State :=
  if value = 1 then
    let s1 := (groupLanes g).foldl (fun t n =>
      updLane t n fun l => { l with symErr := 0, stuffs := 0, stuffErr := 0, slips := 0, testErr := 0 }) s
    answer (updGroup s1 g fun v => { v with fecC := 0, fecU := 0, retrains := 0 }) .done 0
  else answer s .formatError 0

/-- A lane leaves TEST for its group's OFF when its port is enabled. -/
def leaveTest (s : State) (g : Nat) : State :=
  (groupLanes g).foldl (fun t n => updLane t n fun l => if l.stage = 9 then { l with stage := 0, ctrl := 0, found := false, run := 0 } else l) s

/-- PORT_ENABLE (R413): a cleared bit takes its port to OFF at once; a set bit lets it detect. -/
def portEnableState (value : Nat) (s : State) : State :=
  if value < 65536 then
    let s1 := odPut s 0x680003 value
    answer ((List.range 16).foldl (fun t g => if value.testBit g then groupWakes (leaveTest t g) g
      else if (lgroup t g).stage = 0 then t else groupToOff t g) s1) .done 0
  else answer s .formatError 0

/-! ### Meanings -/

/-- The meaning of LANE_DETECT_PROBE. -/
def execLaneDetectProbe (lane : Nat) (found : Bool) (s : State) : Host.Outcome State Fault Refusal :=
  guardUnit (lane < 144) (laneDetectProbeState lane found s)

/-- The meaning of TRAINING_FRAME. -/
def execTrainingFrame (lane : Nat) (symbols : List Nat) (adapted : Bool) (inverted : Bool) (s : State) : Host.Outcome State Fault Refusal :=
  guardUnit (lane < 144) (trainingFrameState lane symbols adapted inverted s)

/-- The meaning of EXCHANGE_FRAME. -/
def execExchangeFrame (group : Nat) (lane : Nat) (symbols : List Nat) (spaced : Bool) (micros : Nat) (s : State) : Host.Outcome State Fault Refusal :=
  guardUnit (group < 20 ∧ lane < groupN group) (exchangeFrameState group lane symbols spaced micros s)

/-- The meaning of ALIGNMENT_MARKER. -/
def execAlignmentMarker (group : Nat) (lane : Nat) (symbols : List Nat) (early : Bool) (skewOk : Bool) (s : State) : Host.Outcome State Fault Refusal :=
  guardUnit (group < 20 ∧ lane < groupN group) (alignmentMarkerState group lane symbols early skewOk s)

/-- The meaning of MARKER_SEND. -/
def execMarkerSend (group : Nat) (words : List Nat) (s : State) : Host.Outcome State Fault Refusal :=
  guardUnit (group < 20) (markerSendState group words s)

/-- The meaning of MARKER_TIMEOUT. -/
def execMarkerTimeout (group : Nat) (s : State) : Host.Outcome State Fault Refusal :=
  guardUnit (group < 20) (markerTimeoutState group s)

/-- The meaning of CODEWORD_RECEIVED. -/
def execCodewordReceived (group : Nat) (lines : List (List Nat)) (errors : List Nat) (s : State) : Host.Outcome State Fault Refusal :=
  guardUnit (group < 20) (codewordReceivedState group lines errors s)

/-- The meaning of LANE_LOCK_LOST. -/
def execLaneLockLost (lane : Nat) (s : State) : Host.Outcome State Fault Refusal :=
  guardUnit (lane < 144) (laneLockLostState lane s)

/-- The meaning of TRAIN_LIMIT_EXPIRED. -/
def execTrainLimitExpired (group : Nat) (s : State) : Host.Outcome State Fault Refusal :=
  guardUnit (group < 20) (trainLimitExpiredState group s)

/-- The meaning of TRAIN_RETRY. -/
def execTrainRetry (group : Nat) (s : State) : Host.Outcome State Fault Refusal :=
  guardUnit (group < 20) (trainRetryState group s)

/-- The meaning of IDLE_ENTRY. -/
def execIdleEntry (group : Nat) (s : State) : Host.Outcome State Fault Refusal :=
  guardUnit (group < 20) (idleEntryState group s)

/-- The meaning of IDLE_EXIT. -/
def execIdleExit (group : Nat) (s : State) : Host.Outcome State Fault Refusal :=
  guardUnit (group < 20) (idleExitState group s)

/-- The meaning of GROUP_RETRAIN. -/
def execGroupRetrain (group : Nat) (s : State) : Host.Outcome State Fault Refusal :=
  guardUnit (group < 20) (groupRetrainState group s)

/-- The meaning of DEEP_REQUEST. -/
def execDeepRequest (group : Nat) (s : State) : Host.Outcome State Fault Refusal :=
  guardUnit (group < 20) (deepRequestState group s)

/-- The meaning of DEEP_REQUEST_TIMEOUT. -/
def execDeepRequestTimeout (group : Nat) (s : State) : Host.Outcome State Fault Refusal :=
  guardUnit (group < 20) (deepRequestTimeoutState group s)

/-- The meaning of DEEP_WAKE. -/
def execDeepWake (group : Nat) (s : State) : Host.Outcome State Fault Refusal :=
  guardUnit (group < 20) (deepWakeState group s)

/-- The meaning of WAKE_BURST. -/
def execWakeBurst (group : Nat) (s : State) : Host.Outcome State Fault Refusal :=
  guardUnit (group < 20) (wakeBurstState group s)

/-- The meaning of LANE_CTRL. -/
def execLaneCtrl (lane : Nat) (value : Nat) (s : State) : Host.Outcome State Fault Refusal :=
  guardUnit (lane < 144) (laneCtrlState lane value s)

/-- The meaning of LANE_BITSLIP. -/
def execLaneBitslip (lane : Nat) (value : Nat) (s : State) : Host.Outcome State Fault Refusal :=
  guardUnit (lane < 144) (laneBitslipState lane value s)

/-- The meaning of GROUP_CLEAR. -/
def execGroupClear (group : Nat) (value : Nat) (s : State) : Host.Outcome State Fault Refusal :=
  guardUnit (group < 20) (groupClearState group value s)

/-- The meaning of PORT_ENABLE. -/
def execPortEnable (value : Nat) (s : State) : Host.Outcome State Fault Refusal :=
  .next (portEnableState value s)

end Sys2Proof.Machine
end

