-- ==== Sys2Proof/Machine/Command.lean ====
section
/-! DEFINITION. Command and completion rings (R198-R207), the fetch of descriptors, FENCE (R217) and the writing of
completion records. -/
namespace Sys2Proof.Machine

/-! ### Ring registers (R198, R199) -/

def cqWin (q off : Nat) : Nat := 0x020000030000 + 0x20 * q + off
def cplWin (c off : Nat) : Nat := 0x020000030200 + 0x20 * c + off

/-- Fields of CQ_CTRL and CPL_CTRL. -/
def ringOn (v : Nat) : Bool := v.testBit 31
def ringLog (v : Nat) : Nat := bitsOf v 20 16
def ringSize (v : Nat) : Nat := 2 ^ ringLog v
def cqPrio (v : Nat) : Nat := bitsOf v 9 8
def cqCpl (v : Nat) : Nat := v % 16
def cqCtrlOf (s : State) (q : Nat) : Nat := winGet s (cqWin q 8)
def cplCtrlOf (s : State) (c : Nat) : Nat := winGet s (cplWin c 8)

/-- What a control register keeps of a value written: reserved bits are ignored (R6). -/
def cqCtrlBits (v : Nat) : Nat := Nat.land v 0x801F030F
def cplCtrlBits (v : Nat) : Nat := Nat.land v 0x801F0010

/-- A ring write that R201 refuses: FORMAT_ERROR and event 0x0709. -/
def ringRefused (s : State) (a v : Nat) : State :=
  answer (emitPlain s 0x0709 sevWarning srcCmd [(12, a % 4096), (32, v)]) .formatError 0

/-- CQ_TAIL (R200, R201): the doorbell of a command ring. -/
def cqTailState (q value : Nat) (s : State) : State :=
  if value % 65536 < ringSize (cqCtrlOf s q) then answer (winSet s (cqWin q 0x10) (value % 65536)) .done 0
  else ringRefused s (cqWin q 0x10) value

/-- CPL_HEAD (R201, R203); an episode of a full ring lasts until a write frees an entry. -/
def cplHeadState (c value : Nat) (s : State) : State :=
  let n := ringSize (cplCtrlOf s c)
  if value % 65536 < n then
    let still := tget false s.cp.full c && (winGet s (cplWin c 0x10) + 1) % n == value % 65536
    answer { winSet s (cplWin c 0x14) (value % 65536) with cp := { s.cp with full := tset false s.cp.full c still } } .done 0
  else ringRefused s (cplWin c 0x14) value

/-- Whether a control value is one R201 takes: LOG2_SIZE in range, and no field but ENABLE changed while it is 1. -/
def ringCtrlOk (old new : Nat) : Bool :=
  4 ≤ ringLog new && ringLog new ≤ 16 && (!ringOn old || old % 2 ^ 31 == new % 2 ^ 31)

/-- CQ_CTRL (R199, R201). -/
def cqCtrlState (q value : Nat) (s : State) : State :=
  if ringCtrlOk (cqCtrlOf s q) (cqCtrlBits value) then answer (winSet s (cqWin q 8) (cqCtrlBits value)) .done 0
  else ringRefused s (cqWin q 8) value

/-- Whether a command in flight belongs to a queue that names a completion ring. -/
def cplInUse (s : State) (c : Nat) : Bool := s.cp.inflight.any fun e => cqCpl (cqCtrlOf s e.queue) == c

/-- CPL_CTRL (R199, R201, R203): setting ENABLE starts the ring's first pass. -/
def cplCtrlState (c value : Nat) (s : State) : State :=
  let old := cplCtrlOf s c
  let new := cplCtrlBits value
  if !ringCtrlOk old new || (ringOn old && !ringOn new && cplInUse s c) then ringRefused s (cplWin c 8) value
  else
    let s1 := winSet s (cplWin c 8) new
    if ringOn new && !ringOn old then
      let s2 := winSet s1 (cplWin c 0x10) 0
      answer { s2 with cp := { s2.cp with phase := tset false s2.cp.phase c true, full := tset false s2.cp.full c false } } .done 0
    else answer s1 .done 0

/-- A write of CQ_BASE or CPL_BASE: refused while the ring is enabled; the low twelve bits are not held (R198). -/
def ringBaseWrite (s : State) (a ctrl value : Nat) : State :=
  if ringOn ctrl then ringRefused s a value else answer (winSet s a (value % 2 ^ 52 / 4096 * 4096)) .done 0

/-! ### Descriptors (R204-R206) -/

/-- Whether an address argument sets no reserved bit (R204). -/
def addrArgOk (w : Nat) : Bool := if w.testBit 63 then bitsOf w 62 48 == 0 else bitsOf w 62 52 == 0

/-- Whether an opcode takes a basin (R205). -/
def takesTarget (o : Nat) : Bool := o == 4 || o == 5 || o == 8

/-- Whether the arguments of words 2 and 3 are in the range R205 and R221 give for the opcode. -/
def argsOk (o w2 w3 : Nat) : Bool :=
  match o with
  | 1 => addrArgOk w2 && w3 < 2 ^ 33 && (!w3.testBit 32 || w3 % 2 ^ 32 == 0)
  | 2 => w2 < 2 ^ 16 && w3 == 0
  | 3 => 1 ≤ w2 && w2 < 2 ^ 16 && w3 == 0
  | 4 | 5 => addrArgOk w2 && w3 < 2 ^ 32
  | 6 => w2 < 2 ^ 16 && w3 == 0
  | 7 =>
    let kind := w2 % 256
    let ix := bitsOf w2 23 8
    w2 < 2 ^ 26 && w3 == 0 && bitsOf w2 25 24 ≤ 2
      && (match kind with | 0 => ix ≤ 255 | 1 => ix ≤ 7 | 2 => ix ≤ 15 | 3 => ix ≤ 30 | _ => false)
  | 8 => w2 < 2 ^ 24 && w3 == 0
  | 9 => w2 < 2 && w3 == 0
  | _ => false

/-- Why R206 refuses a descriptor, if it does: some true for a malformed basin path. -/
def descFault (b : List Byte) : Option Bool :=
  let w0 := fieldAt b 0 8
  let o := w0 / 2 ^ 56
  let target := bitsOf w0 31 16
  if takesTarget o && !basinOk target then some true
  else if argsOk o (fieldAt b 16 8) (fieldAt b 24 8) && bitsOf w0 54 48 == 0 && w0 % 256 == 0
      && (1 ≤ o && o ≤ 5 || bitsOf w0 15 8 == 0) && (takesTarget o || target == 0)
      && [32, 40, 48, 56].all (fun i => fieldAt b i 8 == 0) then none
  else some false

/-- The command a descriptor makes. -/
def cmdOfDesc (s : State) (q ix : Nat) (b : List Byte) : Cmd :=
  let w0 := fieldAt b 0 8
  { tag := bitsOf w0 47 32, queue := q, index := ix, seq := s.cp.nextSeq, opcode := w0 / 2 ^ 56, notify := w0.testBit 55,
    target := bitsOf w0 31 16, pipe := bitsOf w0 15 8, cookie := fieldAt b 8 8, w2 := fieldAt b 16 8, w3 := fieldAt b 24 8,
    dup := false, taken := false, committed := false, stepsDone := 0, passed := 0, failed := 0, waited := [], outcome := none,
    firstEvent := none, finish := 0 }

/-- A command enters the flight; a refused one has its outcome at once, uncommitted (R206). -/
def enterFlight (s : State) (c : Cmd) (refused : Option Status) : State :=
  let c1 :=
    match refused with
    | some st => { c with outcome := some (plainOutcome st 0 0), finish := s.cp.nextFin }
    | none => c
  { s with cp := { s.cp with inflight := s.cp.inflight ++ [c1], nextSeq := s.cp.nextSeq + 1,
                             nextFin := if refused.isSome then s.cp.nextFin + 1 else s.cp.nextFin } }

/-- Event 0x0701 of a malformed descriptor, after that of R18 for a malformed basin path. -/
def descRefused (s : State) (c : Cmd) (path : Bool) : State :=
  let s1 := if path then emitCmd s c.seq 0x0106 sevError [(16, c.target), (16, c.tag)] else s
  emitCmd s1 c.seq 0x0701 sevError [(4, c.queue), (16, c.index), (8, c.opcode), (16, c.tag)]

/-- Take one descriptor of a ring (R206, R18): a malformed one, and one whose tag is in flight, is refused. -/
def acceptDesc (s : State) (q ix : Nat) (b : List Byte) (poison : Bool) : State :=
  let c := cmdOfDesc s q ix b
  if poison then enterFlight s c (some .poisoned)
  else
    let fault := descFault b
    let dup := s.cp.inflight.any fun e => e.tag == c.tag
    let s1 := match fault with | some path => descRefused s c path | none => s
    let s2 := if dup then emitCmd s1 c.seq 0x0702 sevWarning [(4, q), (16, ix), (16, c.tag)] else s1
    enterFlight s2 { c with dup := dup } (if dup || fault.isSome then some .formatError else none)

/-! ### COMMAND_FETCH (R202) -/

/-- Descriptors a ring holds that are not fetched. -/
def unfetched (s : State) (q : Nat) : Nat :=
  let n := ringSize (cqCtrlOf s q)
  (winGet s (cqWin q 0x10) + n - winGet s (cqWin q 0x14)) % n

/-- The ring fetched next: the highest PRIO, rings of equal PRIO in turn. -/
def pickRing (s : State) : Option Nat :=
  let qs := ((List.range 16).map fun i => (s.cp.rr + 1 + i) % 16).filter fun q => ringOn (cqCtrlOf s q) && 0 < unfetched s q
  let top := (qs.map fun q => cqPrio (cqCtrlOf s q)).foldl max 0
  qs.find? fun q => cqPrio (cqCtrlOf s q) == top

/-- Whether commands are taken at all: reduced service reached, the host not lost, the device not asleep. -/
def cpServes (s : State) : Bool := s.svc.testBit 0 && !s.svc.testBit 2 && s.power.sleep == 0 && !s.power.stopped

/-- Fetch up to n descriptors of a ring; it stops at a line of companion memory that has still to arrive. -/
def fetchDescs (q : Nat) : Nat → State → State
  | 0, s => s
  | n + 1, s =>
    let h := winGet s (cqWin q 0x14)
    match cpRead s q (winGet s (cqWin q 0) + 64 * h) 64 with
    | (s1, none) => s1
    | (s1, some (b, st)) =>
      fetchDescs q n (winSet (acceptDesc s1 q h b (st != .done)) (cqWin q 0x14) ((h + 1) % ringSize (cqCtrlOf s q)))

/-- COMMAND_FETCH: one fetch takes up to 8 descriptors of one ring, and never more than 1,024 in flight. -/
def commandFetchState (s : State) : State :=
  if !cpServes s then s
  else
    match pickRing s with
    | none => s
    | some q =>
      let n := min 8 (min (unfetched s q) (1024 - s.cp.inflight.length))
      let s1 := fetchDescs q n s
      if s1.cp.nextSeq = s.cp.nextSeq then s1
      else dropLines { s1 with cp := { s1.cp with rr := q } } q

/-! ### FENCE (R217) -/

/-- FENCE is taken up: it waits for the commands fetched before it from its ring, or from every ring. -/
def fenceState (tag : Nat) (s : State) : State :=
  match cmdOf s tag [0x09] with
  | none => s
  | some c =>
    if c.taken || !cmdReady s c then s
    else
      let es := s.cp.inflight.filter fun e => e.seq < c.seq && (c.w2.testBit 0 || e.queue == c.queue)
      updCmd s c.seq fun x => { x with taken := true, waited := es.map (·.seq) }

/-- FENCE_COMPLETE: every command it waits for has completed. -/
def fenceCompleteState (tag : Nat) (s : State) : State :=
  match cmdOf s tag [0x09] with
  | none => s
  | some c =>
    if c.taken && c.waited.all (fun q => (cmdAt s q).isNone) then decideCmd s c.seq (plainOutcome .done c.waited.length 0)
    else s

/-! ### Completion records (R203, R207) -/

/-- The completion ring of a command. -/
def ringOf (s : State) (c : Cmd) : Nat := cqCpl (cqCtrlOf s c.queue)

/-- Whether a decided command's record may be written: what it wrote is complete (R379), its events are numbered,
deferred steps are decided (R426), and an ABORT follows its target (R220). -/
def recordReady (s : State) (c : Cmd) : Bool :=
  c.outcome.isSome && !writesPending s c.seq && !s.handed.any (fun e => e.cmd == some c.seq)
    && (c.opcode != 0x03 || !c.taken || (pipe s c.pipe).deferred.isEmpty)
    && (c.opcode != 0x06 || !s.cp.inflight.any fun e => e.tag == c.w2 % 65536 && !e.dup && e.seq < c.seq)

/-- Whether a command's record is the next of its ring: the first finished of those ready. -/
def recordNext (s : State) (c : Cmd) : Bool :=
  recordReady s c && s.cp.inflight.all fun e =>
    !(recordReady s e && ringOf s e == ringOf s c && (e.finish < c.finish || (e.finish == c.finish && e.seq < c.seq)))

/-- The 32 bytes of a record (R207). -/
def recordBytes (c : Cmd) (o : Outcome) (phase : Bool) : List Byte :=
  let a := if c.opcode = 0x03 ∧ c.taken then c.stepsDone else o.detailA
  leBytes 8 (c.opcode * 2 ^ 56 + statusCode o.status * 2 ^ 48 + c.queue * 2 ^ 44 + (if phase then 2 ^ 40 else 0)
      + (if c.dup then 2 ^ 39 else 0) + c.index * 2 ^ 16 + c.tag)
    ++ leBytes 8 c.cookie ++ leBytes 8 (a % 2 ^ 32 * 2 ^ 32 + o.detailB % 2 ^ 32)
    ++ leBytes 8 (c.firstEvent.getD 0xFFFFFFFF * 2 ^ 32 + (if o.status = .done then noBasin else o.basin) * 2 ^ 16 + o.epoch % 65536)

/-- What the counters of R226 count of a record. -/
def countRecord (s : State) (st : Status) : State :=
  let s1 := odBump s 0x4510 2 1
  match st with
  | .aborted => odBump s1 0x4510 3 1
  | .nothingToAbort => odBump s1 0x4510 4 1
  | _ => s1

/-- Records a ring holds. -/
def heldRecords (s : State) (r : Nat) : Nat := (s.cp.inflight.filter fun e => e.outcome.isSome && ringOf s e == r).length

/-- Write one command's record to its ring, or hold it while the ring is full (R203). -/
def writeRecord (s : State) (c : Cmd) (o : Outcome) : State :=
  let r := ringOf s c
  let ctrl := cplCtrlOf s r
  let tail := winGet s (cplWin r 0x10)
  let next := (tail + 1) % ringSize ctrl
  if !ringOn ctrl then s
  else if next = winGet s (cplWin r 0x14) then
    if tget false s.cp.full r then s
    else
      emitPlain { s with cp := { s.cp with full := tset false s.cp.full r true } } 0x0706 sevWarning srcCmd
        [(4, r), (16, heldRecords s r)]
  else
    let phase := tget false s.cp.phase r
    let send := c.notify && ctrl.testBit 4
    let e : ExtReq := ⟨true, winGet s (cplWin r 0) + 32 * tail, 32, recordBytes c o phase, false,
                       ⟨2048, 2, r, if send then 1 else 0⟩, [], [], .done⟩
    let cp := { s.cp with inflight := s.cp.inflight.filter (fun x => x.seq != c.seq),
                          phase := tset false s.cp.phase r (if next = 0 then !phase else phase),
                          got := s.cp.got.filter (fun g => g.1 != readerOf c.seq) }
    countRecord (winSet { s with cp := cp, ext := s.ext ++ [e] } (cplWin r 0x10) next) o.status

/-- COMPLETION_WRITE: the record of the first finished command of a tag. -/
def completionWriteState (tag : Nat) (s : State) : State :=
  if s.svc.testBit 2 then s
  else
    match s.cp.inflight.find? fun c => c.tag == tag && recordNext s c with
    | some c => match c.outcome with | some o => writeRecord s c o | none => s
    | none => s

/-! ### Meanings -/

/-- The meaning of CQ_TAIL. -/
def execCqTail (q : Nat) (value : Nat) (s : State) : Host.Outcome State Fault Refusal :=
  guardUnit (q < 16) (cqTailState q value s)

/-- The meaning of CPL_HEAD. -/
def execCplHead (c : Nat) (value : Nat) (s : State) : Host.Outcome State Fault Refusal :=
  guardUnit (c < 16) (cplHeadState c value s)

/-- The meaning of CQ_CTRL. -/
def execCqCtrl (q : Nat) (value : Nat) (s : State) : Host.Outcome State Fault Refusal :=
  guardUnit (q < 16) (cqCtrlState q value s)

/-- The meaning of CPL_CTRL. -/
def execCplCtrl (c : Nat) (value : Nat) (s : State) : Host.Outcome State Fault Refusal :=
  guardUnit (c < 16) (cplCtrlState c value s)

/-- The meaning of COMMAND_FETCH. -/
def execCommandFetch (s : State) : Host.Outcome State Fault Refusal :=
  .next (commandFetchState s)

/-- The meaning of FENCE. -/
def execFence (tag : Nat) (s : State) : Host.Outcome State Fault Refusal :=
  .next (fenceState tag s)

/-- The meaning of FENCE_COMPLETE. -/
def execFenceComplete (tag : Nat) (s : State) : Host.Outcome State Fault Refusal :=
  .next (fenceCompleteState tag s)

/-- The meaning of COMPLETION_WRITE. -/
def execCompletionWrite (tag : Nat) (s : State) : Host.Outcome State Fault Refusal :=
  .next (completionWriteState tag s)

end Sys2Proof.Machine
end

