-- ==== Sys2Proof/Machine/Placement.lean ====
section
/-! DEFINITION. Placements (R209-R213): the image and its checks, LOAD_PLACEMENT with and without RELEASE, and
START_PIPELINE. -/
namespace Sys2Proof.Machine

/-! ### Refusals that every pipeline command shares (R213, R221) -/

/-- The status with which a disabled pipeline refuses a command fetched later (R221). -/
def disabledStatus (s : State) (c : Cmd) : Option Status :=
  match (pipe s c.pipe).disable with
  | some st => if (pipe s c.pipe).disableAt ≤ c.seq then some st else none
  | none => none

/-- A command of a pipeline completes at once with a status and changes nothing (R213). -/
def refuseCmd (s : State) (c : Cmd) (st : Status) (basin : Nat) : State :=
  decideCmd (updCmd s c.seq fun x => { x with taken := true }) c.seq
    ⟨st, 0, if c.opcode = 0x03 then c.w2 % 65536 else 0, basin, 0⟩

/-! ### The image (R209, R210) -/

/-- A section entry of a placement image and its data. -/
structure Section where
  typ   : Nat
  stage : Nat
  dest  : Nat
  data  : List Byte
deriving DecidableEq, Repr

def stageCount (img : List Byte) : Nat := fieldAt img 6 2
def sectionCount (img : List Byte) : Nat := fieldAt img 8 2
def stageEntry (img : List Byte) (k : Nat) : List Byte := bytesAt img (0x40 + 32 * k) 32
def sectionEntry (img : List Byte) (j : Nat) : List Byte := bytesAt img (0x40 + 32 * stageCount img + 16 * j) 16
/-- Where the section data begins. -/
def imageData (img : List Byte) : Nat := 0x40 + 32 * stageCount img + 16 * sectionCount img

/-- Whether the header is right (R209, R211). -/
def headerOk (img : List Byte) : Bool :=
  0x40 ≤ img.length && fieldAt img 0 4 == 0x4C504D4C && fieldAt img 4 1 == 1 && fieldAt img 5 1 == 0
    && 1 ≤ stageCount img && stageCount img ≤ 512 && sectionCount img ≤ 4096 && fieldAt img 0x0A 2 == 0
    && fieldAt img 0x0C 4 == img.length && fieldAt img 0x10 16 == 0 && imageData img ≤ img.length
    && bytesAt img 0x20 32 == digest32 (img.drop 0x40)

/-- Whether a stage entry is right (R209, R211). -/
def stageOk (s : State) (b : List Byte) : Bool :=
  let kind := fieldAt b 0 1
  let modes := fieldAt b 1 1
  let loc := fieldAt b 2 2
  let partner := fieldAt b 4 2
  kind ≤ 2 && modes < 16 && modes % 4 != 3 && modes / 4 != 3
    && (if kind = 2 then regionConfigured s loc else loc < 512)
    && (if kind = 1 then partner < 512 && partner != loc else partner == 0)
    && fieldAt b 6 2 % 8 == 0 && 1 ≤ fieldAt b 8 4 && fieldAt b 8 4 ≤ 95000 && fieldAt b 0x14 12 == 0

/-- A stage as its entry describes it; a mode that names none is taken from the dictionary (R90, R134). -/
def stageOf (s : State) (b : List Byte) (sync : List Byte) : Stage :=
  let modes := fieldAt b 1 1
  { kind := fieldAt b 0 1, lockstep := modes % 4 == 1 || (modes % 4 == 2 && odRaw s 0x400001 == 1),
    hd7 := modes / 4 == 1 || (modes / 4 == 2 && odRaw s 0x480001 == 1), location := fieldAt b 2 2,
    partner := fieldAt b 4 2, entry := fieldAt b 6 2, budget := fieldAt b 8 4, sig := fieldAt b 0x0C 4,
    spill := fieldAt b 0x10 4, sync := sync }

/-- A section of an image. -/
def sectionOf (img : List Byte) (j : Nat) : Section :=
  let e := sectionEntry img j
  ⟨fieldAt e 0 1, fieldAt e 2 2, fieldAt e 4 4, bytesAt img (fieldAt e 8 4) (fieldAt e 12 4)⟩

/-- A barrier mask of a SYNC section: level, channel and participants; the layout is the model's (log entry 42). -/
def syncMasks (data : List Byte) : List (Nat × Nat × List Nat) :=
  (List.range ((data.length - 128) / 72)).map fun i =>
    let o := 128 + 72 * i
    let m := fieldAt data (o + 8) 64
    (fieldAt data o 1, fieldAt data (o + 1) 1, ((List.range 512).filter fun p => m.testBit p).map daleAt)

/-- Whether a SYNC section fits its stage (log entry 42). -/
def syncOk (g : Stage) (data : List Byte) : Bool :=
  128 ≤ data.length && (data.length - 128) % 72 == 0
    && (List.range ((data.length - 128) / 72)).all (fun i => fieldAt data (130 + 72 * i) 6 == 0)
    && (syncMasks data).all fun m =>
      1 ≤ m.1 && m.1 ≤ 5 && m.2.1 < 8 && !m.2.2.isEmpty && m.2.2.all fun d => inBasin (enclosing m.1 g.location) d

/-- Whether a move stays inside the mesh. -/
def moveInside (c dir : Nat) : Bool :=
  match dir with
  | 0 => c / 34 < 17
  | 1 => c % 34 < 33
  | 2 => 0 < c / 34
  | _ => 0 < c % 34

/-- Whether every col of a spur lies inside the mesh. -/
def spurInside (dir : Nat) : Nat → Nat → Bool
  | _, 0 => true
  | c, n + 1 => moveInside c dir && spurInside dir (moveCol c dir) n

/-- The directions of the spurs of a step of a route. -/
def spurDir (dir b : Nat) : Option Nat :=
  if b = 2 then some ((dir + 3) % 4) else if b = 3 then some ((dir + 1) % 4) else none

/-- Whether no move west follows a move in another direction, counting spurs; a spur leaves a col before the path's own move from
it. The steps are cols, directions and branch codes; `other` says that an earlier move was not west. -/
def noWestAfter : Bool → List (Nat × Nat × Nat) → Bool
  | _, [] => true
  | other, st :: rest =>
    ((st.2.1 != 3 && spurDir st.2.1 st.2.2 != some 3) || !other) && noWestAfter (other || st.2.1 != 3) rest

/-- Whether a route entry of interface c keeps R267. -/
def routeOk (c ix e : Nat) : Bool :=
  let steps := walkRoute (rtTurns e) (rtBranch e) (rtHops e) 200 0 0 0 c
  let moves := steps.filter fun st => st.2.1 != 4
  let cols := steps.map (·.1)
  let leaves := leafCols e c
  !e.testBit 124 && !e.testBit 96 && 1 ≤ rtHops e && rtHops e ≤ 24 && rtTurns e / 4 ^ rtHops e == 0
    && rtBranch e / 4 ^ rtHops e == 0 && !(0x364 ≤ ix && ix < 0x400) && rtDest e < 612
    && moves.all (fun st => moveInside st.1 st.2.1) && cols.eraseDups.length == cols.length
    && cols.getLast? == some (rtDest e) && noWestAfter false moves
    && (if rtMcast e then
          moves.all (fun st => match spurDir st.2.1 st.2.2 with
            | some d => spurInside d st.1 (rtSpur e + 1)
            | none => true)
          && leaves.all (fun l => (colDale l).isSome) && leaves.eraseDups.length == leaves.length && rtLeaves e == leaves.length
        else rtBranch e == 0 && rtLeaves e == 0)

/-- Whether a token-bucket entry keeps R267. -/
def bucketOk (e : Nat) : Bool :=
  bitsOf e 30 21 == 0 && (!e.testBit 31 || (1 ≤ bitsOf e 20 12 && bitsOf e 20 12 ≤ 256 && 3 ≤ bitsOf e 11 0))

/-- The destinations a section writes, as an interval within its type, when the section is right (R210, R211, R267). -/
def sectionSpan (g : Stage) (x : Section) : Option (Nat × Nat) :=
  let n := x.data.length
  let cols := (stageDales g).map daleCol
  match x.typ with
  | 1 => if x.dest % 8 = 0 ∧ n % 8 = 0 ∧ x.dest + n ≤ 65536 then some (x.dest, x.dest + n) else none
  | 2 => if x.dest + n ≤ storeBytes then some (x.dest, x.dest + n) else none
  | 3 => some (0, 0)
  | 4 => if n = 16 then some (0, 1) else none
  | 5 => if syncOk g x.data then some (0, 1) else none
  | 6 =>
    if x.dest < 2 ^ 31 then
      let ok := x.dest + n / 16 ≤ 4096 && n % 16 == 0 && (List.range (n / 16)).all fun i =>
        cols.all fun c => routeOk c (x.dest + i) (fieldAt x.data (16 * i) 16)
      if ok then some (x.dest, x.dest + n / 16) else none
    else
      let p := x.dest - 2 ^ 31
      let ok := p + n / 4 ≤ 4 && n % 4 == 0 && (List.range (n / 4)).all fun i => bucketOk (fieldAt x.data (4 * i) 4)
      if ok then some (4096 + p, 4096 + p + n / 4) else none
  | _ => none

/-- Whether section j of an image is right, given those before it. -/
def sectionOk (s : State) (img : List Byte) (j : Nat) : Bool :=
  let e := sectionEntry img j
  let x := sectionOf img j
  let span (k : Nat) : Option (Nat × Nat) := sectionSpan (stageOf s (stageEntry img (sectionOf img k).stage) []) (sectionOf img k)
  fieldAt e 1 1 == 0 && x.stage < stageCount img && fieldAt (stageEntry img x.stage) 0 1 ≤ 1
    && imageData img ≤ fieldAt e 8 4 && fieldAt e 8 4 + fieldAt e 12 4 ≤ img.length
    && match span j with
       | none => false
       | some (lo, hi) =>
         (List.range j).all fun k =>
           let y := sectionOf img k
           !(y.typ == x.typ && y.stage == x.stage)
             || match span k with
                | some (a, b) => hi ≤ a || b ≤ lo
                | none => true

/-- The dales and the regions an image names, each with its stage. -/
def imageUnits (img : List Byte) (region : Bool) : List (Nat × Nat) :=
  (List.range (stageCount img)).flatMap fun k =>
    let b := stageEntry img k
    match fieldAt b 0 1 with
    | 0 => if region then [] else [(fieldAt b 2 2, k)]
    | 1 => if region then [] else [(fieldAt b 2 2, k), (fieldAt b 4 2, k)]
    | _ => if region then [(fieldAt b 2 2, k)] else []

/-- The stages of an image, with their SYNC data. -/
def imageStages (s : State) (img : List Byte) : List Stage :=
  (List.range (stageCount img)).map fun k =>
    let sync := ((List.range (sectionCount img)).map (sectionOf img)).find? fun x => x.typ == 5 && x.stage == k
    stageOf s (stageEntry img k) ((sync.map (·.data)).getD [])

/-- The micro-program sections of an image, with their places. -/
def imageMicro (img : List Byte) : List (Nat × Section) :=
  ((List.range (sectionCount img)).map fun j => (j, sectionOf img j)).filter fun e => e.2.typ == 3

/-- Whether a micro-program section fails R145: its signed image, or a slot that EVAL would reach and that uses EVAL, once the
stage's earlier sections are loaded too (R144). -/
def microBad (s : State) (img : List Byte) (j : Nat) (x : Section) : Bool :=
  (envFault s 2 x.data).isSome
    || (stageDales (stageOf s (stageEntry img x.stage) [])).any fun d =>
        let before := (imageMicro img).filter fun e => e.1 < j && e.2.stage == x.stage
        !chainsOk (before.foldl (fun t e => slotsWith t (envBody e.2.data)) (dale s d).sfSlots) (envBody x.data)

/-- Whether a dale is held by another pipeline. -/
def heldByOther (s : State) (p d : Nat) : Bool := match (dale s d).pipe with | some q => q != p | none => false

/-- The first failure of R211 in an image, with its status, stage and section. -/
def imageFaultOf (s : State) (p : Nat) (img : List Byte) : Option (Status × Nat × Nat) :=
  let none16 := 0xFFFF
  let ds := imageUnits img false
  let rs := imageUnits img true
  if !headerOk img then some (.formatError, none16, none16)
  else
    match (List.range (stageCount img)).find? fun k => !stageOk s (stageEntry img k) with
    | some k => some (.formatError, k, none16)
    | none =>
    match (List.range (sectionCount img)).find? fun j => !sectionOk s img j with
    | some j => some (.formatError, (sectionOf img j).stage, j)
    | none =>
    match (imageMicro img).find? fun e => microBad s img e.1 e.2 with
    | some e => some (.authFail, e.2.stage, e.1)
    | none =>
    match ds.find? fun e => (dale s e.1).isolated with
    | some e => some (.targetIsolated, e.2, none16)
    | none =>
    match ds.find? fun e => !daleOn s e.1 with
    | some e => some (.domainOff, e.2, none16)
    | none =>
    match ds.find? fun e => heldByOther s p e.1 with
    | some e => some (.noCapacity, e.2, none16)
    | none =>
    match rs.find? fun e => match holderOfRegion s e.1 with | some q => q != p | none => false with
    | some e => some (.noCapacity, e.2, none16)
    | none => if winGet s 0x0200000D0008 % 256 = p then some (.noCapacity, none16, none16) else none

/-! ### Applying a placement (R212) -/

/-- Close every channel's list of a dale (R228), and drop what its channels had received ahead of their use; LOAD_PLACEMENT and
RESTORE_CONTEXT also clear halts (R240). -/
def closeLists (clear : Bool) (x : Dale) : Dale :=
  { x with channels := x.channels.map fun c =>
      (c.1, { c.2 with isOpen := false, opening := false, fetched := [], ended := false,
                       halted := if clear then none else c.2.halted, latched := if clear then none else c.2.latched }),
           statsSent := [], readies := [], cancels := [] }

/-- Semaphores from the SYNC data of a stage, zero without any, and neighbour counts zero. -/
def syncDale (g : Stage) (x : Dale) : Dale :=
  (List.range 32).foldl (fun y k => setSem y k (fieldAt g.sync (4 * k) 4)) { x with sem := [], inbound := [] }

/-- Set, or return to their defaults, the barrier masks that a stage names (R41). -/
def syncBarriers (s : State) (g : Stage) (set : Bool) : State :=
  if g.sync.isEmpty then s
  else (syncMasks g.sync).foldl (fun t m =>
    let key := barrierKey m.1 g.location m.2.1
    setBarrier t key { barrierOf t key with mask := if set then some m.2.2 else none }) s

/-- A pipeline gives up its dales and regions (R212 step 1). -/
def releaseStages (s : State) (p : Nat) : State :=
  let q := pipe s p
  let s1 := q.stages.foldl (fun t g => syncBarriers t g false) s
  let s2 := (pipeDales q).foldl (fun t d =>
    updDale t d fun x => { x with pipe := none, partner := none, isPartner := false, running := false, stopped := false, report := none }) s1
  (pipeRegions q).foldl releaseRegion (setPipe s2 p { q with stages := [], affected := false })

/-- LAST_SPAN of a dale that a placement has reached and not yet run (R448): bit 62 marks it within the model. -/
def spanPlaced (p : Nat) : Nat := 2 ^ 63 + 2 ^ 62 + p * 2 ^ 40

/-- A stage dale as a placement leaves it before its sections (R212 step 2, R156, R193, R228, R268). -/
def placeDale (s : State) (p : Nat) (g : Stage) (d : Nat) : State :=
  let s1 := updDale s d fun x =>
    syncDale g (closeLists true
      { x with t := [], stepCount := 0, mxWest := false, mxEast := false, mxStatus := 0, imem := [], pc := g.entry, trap := none,
               rng := ⟨0, 0, false, false⟩, running := false, stopped := false, report := none, waits := 0, degraded := [],
               sigs := [], sigsSeen := [], badBytes := x.badBytes.filter fun b => b.1 != 0x20 && b.1 != 0x21, lockstep := g.lockstep, hd7 := g.hd7, pipe := some p, lastSpan := spanPlaced p,
               partner := if g.kind = 1 then some (if d = g.location then g.partner else g.location) else none,
               isPartner := g.kind == 1 && d != g.location })
  updNi s1 (daleCol d) fun n => { n with routes := [], buckets := [], levels := [] }

/-- Write a section's instructions (R193). -/
def writeImem (x : Dale) (addr : Nat) (data : List Byte) : Dale :=
  (List.range (data.length / 8)).foldl (fun y i =>
    { y with imem := tins y.imem (addr / 8 + i) (some ⟨BitVec.ofNat 64 (fieldAt data (8 * i) 8), 0, false⟩) }) x

/-- Write a section to one dale (R210, R212 step 3). -/
def writeSection (s : State) (x : Section) (d : Nat) : State :=
  match x.typ with
  | 1 => updDale s d fun y => writeImem y x.dest x.data
  | 2 => (storeWrite s d x.dest x.data false 0).1
  | 3 => loadBody s d (envBody x.data)
  | 4 => updDale s d fun y => freshParity { y with rng := { y.rng with key := fieldAt x.data 0 16, keySet := true } } 0x20
  | 6 =>
    updNi s (daleCol d) fun n =>
      if x.dest < 2 ^ 31 then
        { n with routes := (List.range (x.data.length / 16)).foldl (fun t i =>
            tset (if n.filled ∧ x.dest + i < 0x364 then minimalRoute (daleCol d) (x.dest + i) else 0) t (x.dest + i)
              (fieldAt x.data (16 * i) 16)) n.routes }
      else
        { n with buckets := (List.range (x.data.length / 4)).foldl (fun t i =>
            tset 0 t ((x.dest + i) % 4) (fieldAt x.data (4 * i) 4)) n.buckets }
  | _ => s

/-- A verified micro-program image is measured, and event 0x0404 recorded for each of its slots (R145, R518). -/
def microLoaded (s : State) (seq basin : Nat) (x : Section) : State :=
  let dg := envDigest x.data
  (bodyEntries (envBody x.data)).foldl (fun t e =>
    emit t ⟨0x0404, sevInfo, basin, packDetail [(5, e.1), (8, slotFunc e.2), (8, slotVersion e.2), (32, fieldAt dg 0 4)], some seq, []⟩)
    (extendMr s 4 dg)

/-- Apply a verified image (R212). -/
def applyPlacement (s : State) (seq p : Nat) (img : List Byte) : State :=
  let gs := imageStages s img
  let s1 := releaseStages s p
  let s2 := gs.foldl (fun t g => syncBarriers ((stageDales g).foldl (fun u d => placeDale u p g d) t) g true) s1
  let xs := (List.range (sectionCount img)).map (sectionOf img)
  let s3 := xs.foldl (fun t x => (stageDales (gs.getD x.stage ⟨2, false, false, 0, 0, 0, 0, 0, 0, []⟩)).foldl (fun u d => writeSection u x d) t) s2
  let s4 := updPipe s3 p fun q => { q with st := .loaded, stages := gs, haltStatus := .done, haltBasin := noBasin, affected := false }
  let s5 := (imageMicro img).foldl (fun t e => microLoaded t seq (pipeSource (pipe s4 p)) e.2) s4
  retryGates ((pipeRegions (pipe s5 p)).foldl releaseRegion s5)

/-! ### LOAD_PLACEMENT (R211, R212) -/

/-- Whether a known-answer run holds a dale. -/
def katHolds (s : State) (d : Nat) : Bool := s.cp.kats.any fun k => k.left.any fun e => e.1 == d

/-- The PATH of the stage dale that decided a refusal, if one did (R207). -/
def refusingDale (s : State) (p : Nat) (img : List Byte) (st : Status) : Nat :=
  let ds := (imageUnits img false).map (·.1)
  let found : Option Nat :=
    match st with
    | .targetIsolated => ds.find? fun d => (dale s d).isolated
    | .domainOff => ds.find? fun d => !daleOn s d
    | .noCapacity => ds.find? (heldByOther s p)
    | _ => none
  (found.map daleSource).getD noBasin

/-- Event 0x0703 and the outcome of a refused image (R211). -/
def refuseImage (s : State) (c : Cmd) (img : List Byte) (f : Status × Nat × Nat) : State :=
  let s1 :=
    match f.1, (imageMicro img).find? fun e => e.1 == f.2.2 with
    | .authFail, some e =>
      let check := ((envFault s 2 e.2.data).map (·.1)).getD 0
      let reason := if check = 4 ∨ check = 8 then 1 else if check = 2 then 2 else 0
      emit (if check = 3 then keyAbsent s (envKey e.2.data) else s) ⟨0x0401, sevError, smallestBasin ((imageUnits img false).map (·.1)),
        packDetail [(5, (bodySlot (envBody e.2.data) 0).1), (2, reason), (16, c.tag)], some c.seq, []⟩
    | _, _ => s
  let s2 := emitCmd s1 c.seq 0x0703 sevError [(8, c.pipe), (8, statusCode f.1), (16, f.2.1), (16, f.2.2)]
  decideCmd s2 c.seq ⟨f.1, 0, 0, refusingDale s c.pipe img f.1, 0⟩

/-- LOAD_PLACEMENT of an image: read and verified whole, then applied. -/
def loadPlacementState (tag : Nat) (s0 : State) : State :=
  match cmdOf s0 tag [0x01] with
  | none => s0
  | some c =>
    if c.w3.testBit 32 || (!c.taken && !cmdReady s0 c) then s0
    else
      match disabledStatus s0 c with
      | some st => refuseCmd s0 c st noBasin
      | none =>
        let s := updCmd s0 c.seq fun x => { x with taken := true }
        match cpRead s (readerOf c.seq) c.w2 (c.w3 % 2 ^ 32) with
        | (s1, none) => s1
        | (s1, some (img, st)) =>
          if st ≠ .done then refuseImage s1 c [] (st, 0xFFFF, 0xFFFF)
          else
            match imageFaultOf s1 c.pipe img with
            | some f => refuseImage s1 c img f
            | none =>
              if (imageUnits img false).any fun e => katHolds s1 e.1 then s1
              else
                let s2 := applyPlacement s1 c.seq c.pipe img
                decideCmd s2 c.seq (plainOutcome .done (stageCount img) (fieldAt img 0x20 4))

/-- PLACEMENT_RELEASE: LOAD_PLACEMENT with RELEASE. -/
def placementReleaseState (tag : Nat) (s : State) : State :=
  match cmdOf s tag [0x01] with
  | none => s
  | some c =>
    if !c.w3.testBit 32 || !cmdReady s c then s
    else
      match disabledStatus s c with
      | some st => refuseCmd s c st noBasin
      | none =>
        let s1 := updPipe (releaseStages s c.pipe) c.pipe fun q => { q with st := .empty, haltStatus := .done, haltBasin := noBasin }
        refuseCmd (retryGates s1) c .done noBasin

/-! ### START_PIPELINE (R213) -/

/-- Whether START_PIPELINE and RESTORE_CONTEXT are accepted in a state. -/
def startable (st : PipeState) : Bool := st == .loaded || st == .idle || st == .halted

/-- A stage dale set to its entry, its SYNC values restored. -/
def startDale (g : Stage) (x : Dale) : Dale :=
  closeLists false (syncDale g { x with pc := g.entry, trap := none, running := false, stopped := false, report := none,
                                        waits := 0, degraded := [], sigs := [], sigsSeen := [] })

/-- START_PIPELINE. -/
def startPipelineState (tag : Nat) (s : State) : State :=
  match cmdOf s tag [0x02] with
  | none => s
  | some c =>
    let q := pipe s c.pipe
    if !cmdReady s c then s
    else
      match disabledStatus s c with
      | some st => refuseCmd s c st noBasin
      | none =>
        if !startable q.st then refuseCmd s c .formatError noBasin
        else
          match (pipeDales q).find? fun d => (dale s d).isolated with
          | some d => refuseCmd s c .targetIsolated (daleSource d)
          | none =>
            let s1 := q.stages.foldl (fun t g => (stageDales g).foldl (fun u d => updDale u d (startDale g)) t) s
            let s2 := updPipe s1 c.pipe fun p => { p with st := .idle, epoch := c.w2 % 65536, haltStatus := .done, haltBasin := noBasin }
            let s3 := (pipeRegions q).foldl releaseRegion s2
            decideCmd (updCmd s3 c.seq fun x => { x with taken := true }) c.seq (plainOutcome .done q.stages.length 0)

/-! ### Meanings -/

/-- The meaning of LOAD_PLACEMENT. -/
def execLoadPlacement (tag : Nat) (s : State) : Host.Outcome State Fault Refusal :=
  .next (loadPlacementState tag s)

/-- The meaning of PLACEMENT_RELEASE. -/
def execPlacementRelease (tag : Nat) (s : State) : Host.Outcome State Fault Refusal :=
  .next (placementReleaseState tag s)

/-- The meaning of START_PIPELINE. -/
def execStartPipeline (tag : Nat) (s : State) : Host.Outcome State Fault Refusal :=
  .next (startPipelineState tag s)

end Sys2Proof.Machine
end

