-- ==== Sys2Proof/Machine/Steps.lean ====
section
/-! DEFINITION. Steps of a pipeline (R214-R218): RUN_STEP, the run signal, reports of dales, the end of a step and its
watchdog. -/
namespace Sys2Proof.Machine

/-! ### Integrity policy (R24, R435) -/

/-- The policy entry a dale follows: the VALID one whose basin is the nearest enclosing it. -/
def policyOf (s : State) (d : Nat) : Option (Nat × Nat) :=
  let es := (List.range 64).filterMap fun k =>
    let v := odRaw s (odKey 0x7801 (k + 1))
    if v.testBit 15 && inBasin (v / 65536) d then some (k + 1, v) else none
  es.foldl (fun m e =>
    match m with
    | none => some e
    | some b => if basinLevel (e.2 / 65536) < basinLevel (b.2 / 65536) then some e else m) none

/-- Whether residue checking is on for a dale (R435). -/
def residueOn (s : State) (d : Nat) : Bool := ((policyOf s d).map fun e => e.2.testBit 14).getD false

/-! ### RUN_STEP and the run signal (R214) -/

/-- Send the run signal to a dale: a request that its END_REPORT answers (R261). -/
def sendRun (s : State) (p d : Nat) : State :=
  let e := (pipe s p).epoch
  (handRequest s cmdCol (0x100 + daleCol d) tyRun 0 0 0 false [] e ⟨6000, p, d, e⟩ 0).getD s

/-- The run signals of a step that has ended and were not answered are awaited no longer. -/
def forgetRuns (s : State) (p : Nat) : State :=
  updNi s cmdCol fun n => { n with out := n.out.filter fun r => !(r.typ == tyRun && r.chan == p) }

/-- A step of a pipeline starts: policies take effect, and every stage dale is sent a run signal. -/
def beginStep (s : State) (p : Nat) : State :=
  let s1 := updPipe s p fun q => { q with reports := [], inStep := true, ports := [], halting := none }
  (pipeDales (pipe s1 p)).foldl (fun t d =>
    sendRun (updDale t d fun x => { x with residue := residueOn t d, tol := odRaw t 0x400002, report := none }) p d) s1

/-- RUN_STEP: taken up when its pipeline is IDLE, it starts its next step whenever none is in progress. -/
def runStepState (tag : Nat) (s : State) : State :=
  match cmdOf s tag [0x03] with
  | none => s
  | some c =>
    let q := pipe s c.pipe
    if c.taken then
      if q.st = .running ∧ q.run = some c.seq ∧ q.inStep = false ∧ c.stepsDone + q.deferred.length < c.w2 % 65536 then
        beginStep s c.pipe
      else s
    else if !cmdReady s c then s
    else
      match disabledStatus s c with
      | some st => refuseCmd s c st noBasin
      | none =>
        match q.st with
        | .idle =>
          beginStep (updPipe (updCmd s c.seq fun x => { x with taken := true }) c.pipe fun p => { p with st := .running, run := some c.seq }) c.pipe
        | .halted => refuseCmd s c q.haltStatus q.haltBasin
        | _ => refuseCmd s c .formatError noBasin

/-- LAST_SPAN as a run signal leaves it: the first step of a placement gives its epoch (R448). -/
def spanRun (span epoch : Nat) : Nat :=
  if span.testBit 62 then span - 2 ^ 62 - span % 2 ^ 32 + epoch % 65536 * 2 ^ 16 else span

/-- A run signal resumes a stage dale at its PC, and clears its matrix latches and the halts of its channels (R214, R188, R240).
One of a step that has ended or is halting, or that finds the dale trapped or running, has no effect. -/
def runDale (d : Nat) (p : Packet) (s : State) : State :=
  let x := dale s d
  match x.pipe with
  | none => s
  | some k =>
    let q := pipe s k
    if q.st ≠ .running ∨ q.inStep = false ∨ q.halting.isSome = true ∨ p.epoch ≠ q.epoch ∨ x.running = true ∨ x.report.isSome = true
        ∨ x.trap.isSome = true then s
    else
      updDale s d fun y =>
        { y with running := true, stopped := false, mxWest := false, mxEast := false, mxStatus := 0, struck := false, sigs := [],
                 sigsSeen := [], lastSpan := spanRun y.lastSpan q.epoch, cancels := [], runPkt := some p,
                 channels := y.channels.map fun c => (c.1, { c.2 with halted := none, latched := none }) }

/-- A dale's report reaches the command processor (R214), for the step whose run signal it answers. -/
def reportTaken (r : Request) (p : Packet) (s : State) : State :=
  if (dale s r.row).pipe = some r.chan ∧ (pipe s r.chan).epoch = r.off then reportDale s r.row (statusOf p.status) else s

/-! ### STEP_END (R214, R218) -/

/-- A step that ended DONE commits, or waits for the optimistic epochs open now (R426). -/
def stepDone (s : State) (p : Nat) : State :=
  let q := pipe s p
  let s1 := (pipeDales q).foldl (fun t d => poisonReport t p q.epoch d) (forgetRuns s p)
  let s2 := updPipe s1 p fun r => { r with inStep := false, epoch := (q.epoch + 1) % 65536, reports := [] }
  let ws := openOptimistic s2
  if ws.isEmpty && q.deferred.isEmpty then finishRun (commitStep s2 p q.epoch q.ports) p
  else finishRun (settleDeferred p (q.deferred.length + 1) (updPipe s2 p fun r => { r with deferred := r.deferred ++ [⟨q.epoch, q.ports, ws⟩] })) p

/-- A step that halts is retracted, and its pipeline enters HALTED (R218 steps 3 and 4). -/
def stepHalted (s : State) (p : Nat) : State :=
  let q := pipe s p
  let o := haltOutcome s q
  let s1 := (pipeDales q).foldl (fun t d => poisonReport t p q.epoch d) (forgetRuns s p)
  let s2 := sendMarkers s1 false p q.epoch q.ports
  enterHalted (updPipe s2 p fun r => { r with epoch := (q.epoch + 1) % 65536 }) p o.1 o.2 q.epoch

/-- STEP_END: every stage dale has reported END, or is finished with a halting step; and the strikes of its dales have been evaluated
(R443). -/
def stepEndState (p : Nat) (s : State) : State :=
  let q := pipe s p
  if q.st ≠ .running ∨ q.inStep = false then s
  else
    let ds := pipeDales q
    if !ds.all (dalePartDone s q) || s.handed.any (fun e => e.strike.any fun k => ds.contains k.1) then s
    else if q.halting.isNone && ds.all (fun d => tget none q.reports d == some .done && !(dale s d).isolated) then stepDone s p
    else stepHalted s p

/-- STEP_WATCHDOG (R215): a step that has not ended within OD 0x4500.01 halts with TIMEOUT. -/
def stepWatchdogState (p : Nat) (s : State) : State :=
  let q := pipe s p
  if q.st ≠ .running ∨ q.inStep = false ∨ q.halting.isSome = true then s
  else
    let left := (pipeDales q).filter fun d => (tget none q.reports d).isNone
    let tag := ((q.run.bind (cmdAt s)).map (·.tag)).getD 0
    haltPipe (emit s ⟨0x0704, sevError, pipeSource q, packDetail [(8, p), (16, q.epoch), (16, left.length), (16, tag)], q.run, []⟩)
      p (some .timeout)

/-! ### Meanings -/

/-- The meaning of RUN_STEP. -/
def execRunStep (tag : Nat) (s : State) : Host.Outcome State Fault Refusal :=
  .next (runStepState tag s)

/-- The meaning of STEP_END. -/
def execStepEnd (p : Nat) (s : State) : Host.Outcome State Fault Refusal :=
  guardUnit (p < 256) (stepEndState p s)

/-- The meaning of STEP_WATCHDOG. -/
def execStepWatchdog (p : Nat) (s : State) : Host.Outcome State Fault Refusal :=
  guardUnit (p < 256) (stepWatchdogState p s)

end Sys2Proof.Machine
end

