-- ==== Sys2Proof/Machine/Context.lean ====
section
/-! DEFINITION. Contexts (R222-R225): SAVE_CONTEXT and RESTORE_CONTEXT. The payloads of the sections have a layout of the
model's own (log entry 43). -/
namespace Sys2Proof.Machine

/-- Values of eight bytes each. -/
def ser8 (l : List Nat) : List Byte := l.flatMap (leBytes 8)

/-- The dale stages of a pipeline within a basin, in ascending PATH order of their LOCATION (R222, R224). -/
def contextStages (s : State) (p target : Nat) : List Stage :=
  (basinDales target).filterMap fun d => (pipe s p).stages.find? fun g => g.kind ≤ 1 && g.location == d

/-- The first isolated member of a basin (R21). -/
def isolatedMember (s : State) (target : Nat) : Option Nat := (basinDales target).find? fun d => (dale s d).isolated

/-- The outcome of a basin command that did its work: BASIN_DEGRADED while a member is isolated (R21). -/
def basinOutcome (s : State) (target a b : Nat) : Outcome :=
  match isolatedMember s target with
  | some d => ⟨.basinDegraded, a, b, daleSource d, 0⟩
  | none => ⟨.done, a, b, noBasin, 0⟩

/-! ### Saving -/

/-- A section with its header. -/
def ctxSection (typ : Nat) (bs : List Byte) : List Byte := leBytes 1 typ ++ leBytes 3 0 ++ leBytes 4 bs.length ++ bs

/-- Type 0x01. -/
def ctxSequencer (x : Dale) : List Byte :=
  ser8 ([x.pc] ++ (List.range 31).map (fun i => (xget x (i + 1)).toNat)
    ++ [x.stepCount, x.fused.bias, x.fused.act, if x.fused.identity then 1 else 0, x.fused.post.toNat, x.dither.tensorId,
        x.dither.substream, x.dither.base])

/-- Type 0x02. -/
def ctxSync (x : Dale) : List Byte :=
  (List.range 32).flatMap (fun k => leBytes 4 (semOf x k)) ++ (List.range 16).flatMap fun k => leBytes 4 (inboundOf x k)

/-- A descriptor with its fill bits and poison marks. -/
def ctxSlot : Option Slot → List Byte
  | some t => ser8 [1, fmtCode t.fmt, if t.cls then 1 else 0, t.rows, t.rowBytes, t.base, t.scale.toNat, t.tensorId, t.substream,
                    t.elemBase, t.rowPitch] ++ leBytes 512 t.fill ++ leBytes 512 t.poison
  | none => List.replicate 1112 0#8

/-- The valid slots of a dale, in order. -/
def validSlots (x : Dale) : List (Nat × Slot) := (List.range 16).filterMap fun k => (slotOf x k).map fun t => (k, t)

/-- Type 0x03: descriptors, then the contents of valid slots, read through their check bits. -/
def ctxSlots (s : State) (d : Nat) : State × List Byte :=
  let heads := (List.range 16).flatMap fun k => ctxSlot (slotOf (dale s d) k)
  (validSlots (dale s d)).foldl (fun (acc : State × List Byte) e =>
    let (t, bs, _) := storeRead acc.1 d e.2.base (e.2.rows * e.2.rowBytes) 2 0
    (t, acc.2 ++ bs)) (s, heads)

/-- The search state for the lanes of a Maroth dale. -/
def ctxSearch (r : Search) : List Byte :=
  let at_ (i : Nat) : Nat × Nat := (tget none r.best i).getD (0, 0)
  let mask := (List.range 256).foldl (fun m i => if (tget none r.best i).isSome then m + 2 ^ i else m) 0
  leBytes 1 (if r.min then 1 else 0) ++ leBytes 1 (if r.ty.fp then 1 else 0) ++ leBytes 1 (if r.ty.signed then 1 else 0)
    ++ leBytes 1 r.view ++ leBytes 4 r.start ++ leBytes 8 r.count ++ leBytes 32 mask
    ++ leBytes 256 (vpack r.view ((List.range (viewCount r.view)).map fun i => (at_ i).1)).toNat
    ++ (List.range 256).flatMap fun i => leBytes 4 (at_ i).2

/-- The top-k state. -/
def ctxTopk (k : TopK) : List Byte :=
  leBytes 2 k.k ++ leBytes 1 (if k.min then 1 else 0) ++ leBytes 1 (if k.ty.fp then 1 else 0) ++ leBytes 1 (if k.ty.signed then 1 else 0)
    ++ leBytes 1 k.view ++ leBytes 2 0 ++ leBytes 4 k.start ++ leBytes 8 k.count ++ leBytes 4 k.pairs.length
    ++ k.pairs.flatMap fun e => leBytes 4 e.1 ++ leBytes 4 e.2

/-- Type 0x04. -/
def ctxVector (x : Dale) : List Byte :=
  (List.range 32).flatMap (fun n => leBytes 256 (vget x n).toNat) ++ (List.range 8).flatMap (fun n => leBytes 32 (pget x n).toNat)
    ++ (List.range 8).flatMap (fun n => leBytes 8 (cget x n).toNat) ++ ctxSearch x.search
    ++ leBytes 4 x.compact.view ++ leBytes 4 x.compact.elems.length ++ x.compact.elems.flatMap (leBytes 4)
    ++ (List.range 256).flatMap (fun i => leBytes 4 (tget 0 x.hist i)) ++ ctxTopk x.topk

/-- Type 0x05. -/
def ctxStats (x : Dale) : List Byte :=
  (List.range 8).flatMap fun n =>
    let c := scget x n
    leBytes 4 c.m.toNat ++ leBytes 4 c.s.toNat ++ leBytes 4 c.q.toNat ++ leBytes 4 c.n.toNat

/-- Type 0x06. -/
def ctxRandom (x : Dale) : List Byte := leBytes 16 x.rng.key ++ leBytes 16 x.rng.ctr ++ leBytes 8 (if x.rng.keySet then 1 else 0)

/-- Whether a word of instruction memory is an END. -/
def isEnd (x : Dale) (k : Nat) : Bool :=
  match tget none x.imem k with
  | some w => wclass w.word == 0 && wop w.word == 2
  | none => false

/-- RESUME_ID (R223): the ordinal of the END just before PC; 0xFFFF where no END has been passed. -/
def resumeId (x : Dale) : Nat :=
  let k := x.pc / 8
  if 0 < k ∧ isEnd x (k - 1) then ((List.range (k - 1)).filter (isEnd x)).length else 0xFFFF

/-- The record of a dale (R223). -/
def ctxRecord (s : State) (g : Stage) : State × List Byte :=
  let d := g.location
  let (s1, slots) := ctxSlots s d
  let x := dale s1 d
  let body := ctxSection 1 (ctxSequencer x) ++ ctxSection 2 (ctxSync x) ++ ctxSection 3 slots ++ ctxSection 4 (ctxVector x)
    ++ ctxSection 5 (ctxStats x) ++ ctxSection 6 (ctxRandom x)
  (s1, leBytes 2 (daleSource d) ++ leBytes 2 64 ++ leBytes 4 g.sig ++ leBytes 2 (resumeId x) ++ leBytes 2 0
    ++ leBytes 4 (32 + body.length) ++ leBytes 16 0 ++ body)

/-- A whole context without its MAGIC word (R223). -/
def ctxImage (s : State) (p target : Nat) : State × List Byte :=
  let gs := contextStages s p target
  let (s1, body) := gs.foldl (fun (acc : State × List Byte) g =>
    let (t, bs) := ctxRecord acc.1 g
    (t, acc.2 ++ bs)) (s, [])
  (s1, leBytes 1 1 ++ leBytes 1 p ++ leBytes 2 target ++ leBytes 4 gs.length ++ leBytes 4 (64 + body.length) ++ leBytes 16 0
    ++ digest32 body ++ body)

/-- Event 0x0707 and the outcome of a save or restore that fails. -/
def ctxFails (s : State) (c : Cmd) (st : Status) (path a b : Nat) : State :=
  let s1 := emitCmd s c.seq 0x0707 sevError [(1, if c.opcode = 0x05 then 1 else 0), (8, statusCode st), (16, path), (16, c.tag)]
  decideCmd s1 c.seq ⟨st, a, b, if path = noBasin then noBasin else path, 0⟩

/-- SAVE_CONTEXT (R222): the context is written over whatever stood there, and once its writes are complete the MAGIC word, which
commits it; until then the destination holds no MAGIC word (R220). -/
def saveContextState (tag : Nat) (s : State) : State :=
  match cmdOf s tag [0x04] with
  | none => s
  | some c =>
    if c.taken then
      if writesPending s c.seq then s
      else
        match cpWrite s c.seq c.w2 (leBytes 4 0x58544C43) false with
        | (s1, .done) => decideCmd s1 c.seq (basinOutcome s1 c.target c.stepsDone c.stepsDone)
        | (s1, st) => ctxFails s1 c st noBasin 0 c.stepsDone
    else if !cmdReady s c then s
    else
      match disabledStatus s c with
      | some st => refuseCmd s c st noBasin
      | none =>
        if (pipe s c.pipe).st ≠ .idle then refuseCmd s c .formatError noBasin
        else
          let (s1, img) := ctxImage (updCmd s c.seq fun x => { x with taken := true }) c.pipe c.target
          let n := img.length + 4
          if c.w3 % 2 ^ 32 < n then ctxFails s1 c .noCapacity noBasin 0 n
          else
            match cpWrite s1 c.seq c.w2 (leBytes 4 0 ++ img) false with
            | (s2, .done) => updCmd s2 c.seq fun x => { x with stepsDone := n }
            | (s2, st) => ctxFails s2 c st noBasin 0 n

/-! ### Restoring -/

/-- A record of a context: PATH, LANES, STAGE_SIG, RESUME_ID and the payloads of its six sections. -/
structure CtxRecord where
  path  : Nat
  lanes : Nat
  sig   : Nat
  res   : Nat
  parts : List (List Byte)
deriving DecidableEq, Repr

/-- The sections of a record, in the order of R223. -/
def ctxParts (b : List Byte) : Nat → Nat → Nat → Option (List (List Byte))
  | 0, _, off => if off = b.length then some [] else none
  | n + 1, typ, off =>
    let len := fieldAt b (off + 4) 4
    if fieldAt b off 1 = typ ∧ off + 8 + len ≤ b.length then
      (ctxParts b n (typ + 1) (off + 8 + len)).map fun r => bytesAt b (off + 8) len :: r
    else none

/-- The bytes the fixed part of a VECTOR section takes for a number of lanes. -/
def ctxVecFixed (l : Nat) : Nat := 132 * l + 64 + 16 + l / 2 + 20 * l

/-- Whether the payloads have the lengths their contents need, and no descriptor holds a reserved format (R47) or a scale that is
no number (R62). -/
def ctxPartsOk (l : Nat) (ps : List (List Byte)) : Bool :=
  match ps with
  | [sq, sy, sl, ve, st, rn] =>
    let slotBytes := ((List.range 16).map fun k =>
      if fieldAt sl (1112 * k) 8 = 0 then 0 else fieldAt sl (1112 * k + 24) 8 * fieldAt sl (1112 * k + 32) 8).sum
    let o := ctxVecFixed l
    let n := fieldAt ve (o + 4) 4
    let k := fieldAt ve (o + 8 + 4 * n + 1024 + 20) 4
    ((List.range 16).all fun k => fieldAt sl (1112 * k) 8 == 0
        || ((fmtOfCode (fieldAt sl (1112 * k + 8) 8)).isSome && isFinite32 (BitVec.ofNat 32 (fieldAt sl (1112 * k + 48) 8))))
      && sq.length == 320 && sy.length == 192 && sl.length == 16 * 1112 + slotBytes && ve.length == o + 8 + 4 * n + 1024 + 24 + 8 * k
      && st.length == 128 && rn.length == 40
  | _ => false

/-- The records of a context, if they are well formed. -/
def ctxRecords (b : List Byte) : Nat → Nat → Option (List CtxRecord)
  | 0, off => if off = b.length then some [] else none
  | n + 1, off =>
    let len := fieldAt b (off + 12) 4
    let r := bytesAt b off len
    let l := fieldAt r 2 2
    if 32 ≤ len ∧ off + len ≤ b.length ∧ [16, 32, 64, 128, 256].contains l = true then
      match ctxParts r 6 1 32 with
      | some ps =>
        if ctxPartsOk l ps then (ctxRecords b n (off + len)).map fun rs => ⟨fieldAt r 0 2, l, fieldAt r 4 4, fieldAt r 8 2, ps⟩ :: rs
        else none
      | none => none
    else none

/-- Passes beyond the first, and the bytes a record spills (R225). -/
def extraPasses (l : Nat) : Nat := (l + 63) / 64 - 1
def spillBytes (l : Nat) : Nat := extraPasses l * 8960

/-- A saved slot. -/
def ctxSlotOf (sl : List Byte) (k : Nat) : Option Slot :=
  let o := 1112 * k
  let f (i : Nat) : Nat := fieldAt sl (o + 8 * i) 8
  if f 0 = 0 then none
  else
    some { fmt := (fmtOfCode (f 1)).getD .fp32, cls := f 2 == 1, rows := f 3, rowBytes := f 4, base := f 5,
           scale := BitVec.ofNat 32 (f 6), tensorId := f 7, substream := f 8, elemBase := f 9, rowPitch := f 10,
           fill := fieldAt sl (o + 88) 512, poison := fieldAt sl (o + 600) 512 }

/-- The slots a record holds. -/
def ctxValid (r : CtxRecord) : List (Nat × Slot) :=
  (List.range 16).filterMap fun k => (ctxSlotOf (r.parts.getD 2 []) k).map fun t => (k, t)

/-- The bytes of a dale's state in its store: valid slot regions and spill (R224). -/
def ctxSize (r : CtxRecord) : Nat := ((ctxValid r).map fun e => e.2.rows * e.2.rowBytes).sum + spillBytes r.lanes

/-- The address after the n-th END of a dale's program, its entry when no END was passed (R225). -/
def resumePc (x : Dale) (entry n : Nat) : Option Nat :=
  if n = 0xFFFF then some entry else (((List.range 8192).filter (isEnd x))[n]?).map fun k => 8 * (k + 1)

/-- The last check of R224 on a record. -/
def ctxMatches (s : State) (g : Stage) (r : CtxRecord) : Bool :=
  let n := spillBytes r.lanes
  let compact := fieldAt (r.parts.getD 3 []) (ctxVecFixed r.lanes + 4) 4
  r.sig == g.sig && (n == 0 || (g.spill + n ≤ storeBytes && (ctxValid r).all fun e => slotEnd e.2 ≤ g.spill || g.spill + n ≤ e.2.base))
    && (r.lanes == 64 || (compact == 0 && (resumePc (dale s g.location) g.entry r.res).isSome))

/-- The first failure of R224, with the PATH of the dale it concerns. -/
def ctxFault (s : State) (p target : Nat) (b : List Byte) : Option (Status × Nat) ⊕ List CtxRecord :=
  let gs := contextStages s p target
  let total := fieldAt b 0x0C 4
  let bad : Option (Status × Nat) ⊕ List CtxRecord := .inl (some (.formatError, noBasin))
  if fieldAt b 0 4 ≠ 0x58544C43 ∨ fieldAt b 4 1 ≠ 1 ∨ total < 64 ∨ b.length < total
      ∨ bytesAt b 0x20 32 ≠ digest32 ((b.take total).drop 0x40) ∨ fieldAt b 8 4 ≠ gs.length
      ∨ basinLevel (fieldAt b 6 2) ≠ basinLevel target then bad
  else
    match ctxRecords (b.take total) gs.length 64 with
    | none => bad
    | some rs =>
      match (gs.flatMap stageDales).find? fun d => (dale s d).isolated with
      | some d => .inl (some (.targetIsolated, daleSource d))
      | none =>
        match (gs.zip rs).find? fun e => 786432 < ctxSize e.2 with
        | some e => .inl (some (.noCapacity, daleSource e.1.location))
        | none =>
          match (gs.zip rs).find? fun e => !ctxMatches s e.1 e.2 with
          | some e => .inl (some (.formatError, daleSource e.1.location))
          | none => .inr rs

/-- Registers of a dale from the sections of a record, for a number of lanes up to those of the dale (R225). -/
def ctxRegisters (x : Dale) (g : Stage) (r : CtxRecord) : Dale :=
  let sq := r.parts.getD 0 []
  let q (i : Nat) : Nat := fieldAt sq (8 * i) 8
  let sy := r.parts.getD 1 []
  let st := r.parts.getD 4 []
  let rn := r.parts.getD 5 []
  let pc := if r.lanes = 64 then q 0 else (resumePc x g.entry r.res).getD g.entry
  let y : Dale :=
    { x with pc := pc, stepCount := q 32, fused := ⟨q 33, q 34, q 35 == 1, BitVec.ofNat 32 (q 36)⟩, dither := ⟨q 37, q 38, q 39⟩,
             t := (List.range 16).foldl (fun t k => tset none t k (ctxSlotOf (r.parts.getD 2 []) k)) [],
             sem := (List.range 32).foldl (fun t k => tset 0 t k (fieldAt sy (4 * k) 4)) [],
             inbound := (List.range 16).foldl (fun t k => tset 0 t k (fieldAt sy (128 + 4 * k) 4)) [],
             rng := { x.rng with key := fieldAt rn 0 16, ctr := fieldAt rn 16 16, keySet := fieldAt rn 32 8 == 1 } }
  let y1 := (List.range 31).foldl (fun z i => xputN z (i + 1) (q (i + 1))) y
  (List.range 8).foldl (fun z n =>
    let w (i : Nat) : W32 := BitVec.ofNat 32 (fieldAt st (16 * n + 4 * i) 4)
    scput z n ⟨w 0, w 1, w 2, w 3⟩) y1

/-- Element i of a saved search state, for a number of lanes. -/
def ctxBest (ve : List Byte) (l view i : Nat) : Option (Nat × Nat) :=
  let o := 132 * l + 64 + 16
  let w := viewWidth view
  if (fieldAt ve o (l / 2)).testBit i then
    some (fieldAt ve (o + l / 2) (4 * l) / 2 ^ (w * i) % 2 ^ w, fieldAt ve (o + l / 2 + 4 * l + 4 * i) 4)
  else none

/-- The vector state of a dale from a record (R225): the first pass, or all of a narrower register. -/
def ctxVectors (x : Dale) (r : CtxRecord) : Dale :=
  let ve := r.parts.getD 3 []
  let l := r.lanes
  let x1 := (List.range 32).foldl (fun y n => vput y n (BitVec.ofNat 2048 (fieldAt ve (4 * l * n) (min (4 * l) 256)))) x
  let x2 := (List.range 8).foldl (fun y n => pput y n (BitVec.ofNat 256 (fieldAt ve (128 * l + l / 2 * n) (min (l / 2) 32)))) x1
  let x3 := (List.range 8).foldl (fun y n => cput y n (BitVec.ofNat 64 (fieldAt ve (132 * l + 8 * n) 8))) x2
  let h := 132 * l + 64
  let view := fieldAt ve (h + 3) 1
  let best := (List.range (viewCount view * min l 64 / 64)).foldl (fun t i => tset none t i (ctxBest ve l view i)) []
  let o := ctxVecFixed l
  let n := fieldAt ve (o + 4) 4
  let k := o + 8 + 4 * n + 1024
  { x3 with
    search := ⟨fieldAt ve h 1 == 1, ⟨fieldAt ve (h + 1) 1 == 1, fieldAt ve (h + 2) 1 == 1⟩, view, fieldAt ve (h + 4) 4, fieldAt ve (h + 8) 8, best⟩,
    compact := ⟨fieldAt ve o 4, (List.range n).map fun i => fieldAt ve (o + 8 + 4 * i) 4⟩,
    hist := (List.range 256).foldl (fun t i => tset 0 t i (fieldAt ve (o + 8 + 4 * n + 4 * i) 4)) [],
    topk := ⟨fieldAt ve k 2, fieldAt ve (k + 2) 1 == 1, ⟨fieldAt ve (k + 3) 1 == 1, fieldAt ve (k + 4) 1 == 1⟩, fieldAt ve (k + 5) 1,
             fieldAt ve (k + 8) 4, fieldAt ve (k + 12) 8,
             (List.range (fieldAt ve (k + 20) 4)).map fun i => (fieldAt ve (k + 24 + 8 * i) 4, fieldAt ve (k + 28 + 8 * i) 4)⟩,
    badBytes := x.badBytes.filter fun b => !(b.1 < 0x10 || b.1 == 0x14 || b.1 == 0x20 || b.1 == 0x21) }

/-- What a record of more than 64 lanes spills, from SPILL_BASE up (R225). -/
def ctxSpill (r : CtxRecord) : List Byte :=
  let ve := r.parts.getD 3 []
  let l := r.lanes
  let ps := (List.range (extraPasses l)).map (· + 1)
  let view := fieldAt ve (132 * l + 64 + 3) 1
  let n := viewCount view
  let pass (j : Nat) (get : Nat × Nat → Nat) : List Byte :=
    leBytes 256 (vpack view ((List.range n).map fun i => get ((ctxBest ve l view (n * j + i)).getD (0, 0xFFFFFFFF)))).toNat
  (List.range 32).flatMap (fun k => ps.flatMap fun j => bytesAt ve (4 * l * k + 256 * j) 256)
    ++ (List.range 8).flatMap (fun k => ps.flatMap fun j => bytesAt ve (128 * l + l / 2 * k + 32 * j) 32)
    ++ ps.flatMap fun j => pass j (·.1) ++ pass j (·.2)

/-- Write the contents of the valid slots of a record (R223). -/
def ctxContents (s : State) (d : Nat) (r : CtxRecord) : State :=
  ((ctxValid r).foldl (fun (acc : State × Nat) e =>
    let t := e.2
    let u := (List.range t.rows).foldl (fun u k =>
      (storeWrite u d (t.base + k * t.rowBytes) (bytesAt (r.parts.getD 2 []) (acc.2 + k * t.rowBytes) t.rowBytes) (t.poison.testBit k) 0).1) acc.1
    (u, acc.2 + t.rows * t.rowBytes)) (s, 16 * 1112)).1

/-- Write a record onto one dale. -/
def restoreDale (s : State) (g : Stage) (r : CtxRecord) (d : Nat) : State :=
  let s1 := updDale s d fun x =>
    closeLists true { ctxVectors (ctxRegisters x g r) r with
      trap := none, running := false, stopped := false, report := none, waits := 0, degraded := [], sigs := [], sigsSeen := [] }
  let s2 := ctxContents s1 d r
  if spillBytes r.lanes = 0 then s2 else (storeWrite s2 d g.spill (ctxSpill r) false 0).1

/-- The largest dale state on the target, as far as the records can be read. -/
def ctxLargest (s : State) (c : Cmd) (b : List Byte) : Nat :=
  match ctxRecords (b.take (fieldAt b 0x0C 4)) (contextStages s c.pipe c.target).length 64 with
  | some rs => (rs.map ctxSize).foldl max 0
  | none => 0

/-- RESTORE_CONTEXT (R224): verified whole, then written; the pipeline becomes IDLE and keeps its epoch counter. -/
def restoreContextState (tag : Nat) (s0 : State) : State :=
  match cmdOf s0 tag [0x05] with
  | none => s0
  | some c =>
    if !c.taken && !cmdReady s0 c then s0
    else
      match disabledStatus s0 c with
      | some st => refuseCmd s0 c st noBasin
      | none =>
        if !startable (pipe s0 c.pipe).st then refuseCmd s0 c .formatError noBasin
        else
          let s := updCmd s0 c.seq fun x => { x with taken := true }
          let n := c.w3 % 2 ^ 32
          match cpRead s (readerOf c.seq) c.w2 n with
          | (s1, none) => s1
          | (s1, some (b, st)) =>
            if st ≠ .done then ctxFails s1 c st noBasin n 0
            else
              match ctxFault s1 c.pipe c.target b with
              | .inl f => ctxFails s1 c ((f.map (·.1)).getD .formatError) ((f.map (·.2)).getD noBasin) n (ctxLargest s1 c b)
              | .inr rs =>
                let gs := contextStages s1 c.pipe c.target
                let s2 := (gs.zip rs).foldl (fun t e => (stageDales e.1).foldl (fun u d => restoreDale u e.1 e.2 d) t) s1
                let s3 := updPipe s2 c.pipe fun q => { q with st := .idle, haltStatus := .done, haltBasin := noBasin }
                let s4 := (pipeRegions (pipe s3 c.pipe)).foldl releaseRegion s3
                decideCmd s4 c.seq (basinOutcome s4 c.target n ((rs.map ctxSize).foldl max 0))

/-! ### Meanings -/

/-- The meaning of SAVE_CONTEXT. -/
def execSaveContext (tag : Nat) (s : State) : Host.Outcome State Fault Refusal :=
  .next (saveContextState tag s)

/-- The meaning of RESTORE_CONTEXT. -/
def execRestoreContext (tag : Nat) (s : State) : Host.Outcome State Fault Refusal :=
  .next (restoreContextState tag s)

end Sys2Proof.Machine
end

