-- ==== Sys2Proof/Machine/Kat.lean ====
section
/-! DEFINITION. Known-answer kernels (R439-R441): KAT_RUN, a kernel's end, and the schedule. -/
namespace Sys2Proof.Machine

/-- The kernels of a mask in ascending bit order. -/
def maskKernels (mask : Nat) : List Nat := (List.range 24).filter fun k => mask.testBit k

/-- Load a kernel into a dale and start it (R440, R193). -/
def startKernel (s : State) (d k : Nat) : State :=
  let s1 := updDale s d fun x =>
    { writeImem { x with imem := [] } 0 ((Config.katWords k).flatMap fun w => leBytes 8 w.toNat) with
      pc := 0, running := true, stopped := false, trap := none, report := none, runPkt := none, kat := k + 1, lockstep := k == 11,
      hd7 := k == 19, residue := decide (k ≤ 6), tol := odRaw s 0x400002, struck := false, mxWest := false, mxEast := false }
  (storeWrite s1 d 0 (Config.katData k) false 0).1

/-- A dale after its kernels: no kernel data remains (R440, R308). -/
def clearKernel (s : State) (d : Nat) : State :=
  forgetRange (updDale s d fun x =>
    { x with imem := [], running := false, stopped := false, trap := none, report := none, kat := 0, lockstep := false, hd7 := false, residue := false })
    (daleBase d) storeBytes

/-- The status of a finished run and the dale that decided it (R21, R440). A dale that the run itself isolated counts as one whose
kernel failed (DEDUCED, log entry 71). -/
def katStatus (s : State) (k : KatRun) : Status × Nat :=
  match (basinDales k.target).find? fun d => (dale s d).isolated && !k.bad.contains d with
  | some d => (.basinDegraded, daleSource d)
  | none =>
    match ((List.range 512).map daleAt).find? fun d => k.off.contains d || k.bad.contains d with
    | some d => (if k.off.contains d then .domainOff else .checkMismatch, daleSource d)
    | none => (.done, noBasin)

/-- Kernels that passed on every dale without a failure. -/
def katPassed (k : KatRun) : Nat :=
  if k.ran = 0 then 0
  else (maskKernels k.mask).foldl (fun m b => if k.failed.testBit b || k.left.any (fun e => e.2.contains b) then m else m + 2 ^ b) 0

/-- A run ends (R440): event 0x1005, and the outcome of its command; an abort gives its own status. -/
def endKat (s : State) (k : KatRun) (aborted : Bool) : State :=
  let s1 := k.left.foldl (fun t e => clearKernel t e.1) { s with cp := { s.cp with kats := s.cp.kats.filter (· != k) } }
  let s2 := emit s1 ⟨0x1005, sevInfo, k.target, packDetail [(1, if k.cmd.isSome then 1 else 0), (10, k.ran), (10, k.skipped), (24, k.failed)], k.cmd, []⟩
  match k.cmd with
  | some seq =>
    let o := katStatus s k
    decideCmd s2 seq (if aborted then plainOutcome .aborted (katPassed k) k.failed else ⟨o.1, katPassed k, k.failed, o.2, 0⟩)
  | none => s2

/-- A run starts on the dales that may run it, or ends at once when there is nothing to run. -/
def beginKat (s : State) (k : KatRun) : State :=
  match maskKernels k.mask with
  | [] => endKat s { k with left := [] } false
  | b :: _ =>
    if k.left.isEmpty then endKat s k false
    else k.left.foldl (fun t e => startKernel t e.1 b) { s with cp := { s.cp with kats := s.cp.kats ++ [k] } }

/-- Whether a dale is held by a pipeline. -/
def dalePlaced (s : State) (d : Nat) : Bool := (dale s d).pipe.isSome

/-- The run over some dales: those that may run, and those that are skipped. -/
def katOver (s : State) (cmd : Option Nat) (target mask : Nat) (ds : List Nat) : KatRun :=
  let free := ds.filter fun d => !(dale s d).isolated && daleOn s d && !dalePlaced s d && !katHolds s d
  { cmd := cmd, target := target, mask := mask, left := free.map fun d => (d, maskKernels mask), rerun := [],
    ran := free.length, skipped := ds.length - free.length,
    off := ds.filter fun d => !(dale s d).isolated && !daleOn s d, failed := 0, bad := [] }

/-- KAT_RUN (R440): refused while a member dale is held; it waits for another run on a member. -/
def katRunState (tag : Nat) (s : State) : State :=
  match cmdOf s tag [0x08] with
  | none => s
  | some c =>
    let ds := basinDales c.target
    if c.taken || !cmdReady s c then s
    else
      match ds.find? (dalePlaced s) with
      | some d => refuseCmd s c .noCapacity (daleSource d)
      | none =>
        if ds.any (katHolds s) then s
        else beginKat (updCmd s c.seq fun x => { x with taken := true }) (katOver s (some c.seq) c.target c.w2 ds)

/-- KAT_SCHEDULE (R441): a policy entry's period expires, and all kernels run on the dales that follow it and are free. -/
def katScheduleState (entry : Nat) (s : State) : State :=
  let v := odRaw s (odKey 0x7801 entry)
  if v.testBit 15 && v % 4096 != 0 then
    let ds := (basinDales (v / 65536)).filter fun d => (policyOf s d).map (·.1) == some entry
    beginKat s (katOver s none (v / 65536) (2 ^ 24 - 1) ds)
  else s

/-- A dale has no kernel left in a run; the run ends with its last dale. -/
def katDaleDone (s : State) (k : KatRun) (d : Nat) : State :=
  let k1 := { k with left := k.left.filter (fun e => e.1 != d), rerun := k.rerun.filter (· != d) }
  let s1 := clearKernel { s with cp := { s.cp with kats := s.cp.kats.map fun r => if r == k then k1 else r } } d
  if k1.left.isEmpty then endKat s1 k1 false else s1

/-- A run changes. -/
def setKat (s : State) (k k1 : KatRun) : State := { s with cp := { s.cp with kats := s.cp.kats.map fun r => if r == k then k1 else r } }

/-- The next kernel of a dale, or the end of its part. -/
def katNext (s : State) (k : KatRun) (d : Nat) (rest : List Nat) : State :=
  if (dale s d).isolated then katDaleDone s k d
  else
    match rest with
    | [] => katDaleDone s k d
    | b :: _ =>
      startKernel (setKat s k { k with left := k.left.map (fun e => if e.1 = d then (d, rest) else e), rerun := k.rerun.filter (· != d) }) d b

/-- KAT_KERNEL_DONE (R440): the digest of a kernel's output is compared; a first failure runs it again, a rerun that passes
gives a strike, a rerun that fails isolates the dale. -/
def katKernelDoneState (d kernel : Nat) (digest : List Byte) (s : State) : State :=
  match s.cp.kats.find? fun k => k.left.any fun e => e.1 == d with
  | none => s
  | some k =>
    match k.left.find? fun e => e.1 == d with
    | some (_, b :: rest) =>
      if (dale s d).isolated then katDaleDone s k d
      else if b ≠ kernel ∨ (dale s d).kat ≠ kernel + 1 then s
      else
        let again := k.rerun.contains d
        let s1 := odBump s 0x7820 2 1
        if digest = Config.katDigest kernel then
          katNext (if again then giveStrike s1 d (7 * 2 ^ 20 + kernel) 0x1004 else s1) k d rest
        else
          let x := dale s d
          let s2 := emitDale (odBump s1 0x7820 3 1) d 0x1004 sevError
            [(5, kernel), (1, if again then 1 else 0), (8, bitsOf x.lastSpan 47 40), (16, spanFirst x), (16, x.lastSpan)]
          let k1 := { k with failed := Nat.lor k.failed (2 ^ kernel), bad := if k.bad.contains d then k.bad else k.bad ++ [d] }
          let s3 := setKat s2 k k1
          if again then
            let s4 := isolate s3 d 3 (spanFirst x)
            katDaleDone s4 k1 d
          else startKernel (setKat s3 k1 { k1 with rerun := k1.rerun ++ [d] }) d kernel
    | _ => s

/-! ### Meanings -/

/-- The meaning of KAT_RUN. -/
def execKatRun (tag : Nat) (s : State) : Host.Outcome State Fault Refusal :=
  .next (katRunState tag s)

/-- The meaning of KAT_KERNEL_DONE. -/
def execKatKernelDone (d : Nat) (kernel : Nat) (digest : List Byte) (s : State) : Host.Outcome State Fault Refusal :=
  guardUnit (d < 512 ∧ kernel < 24) (katKernelDoneState d kernel digest s)

/-- The meaning of KAT_SCHEDULE. -/
def execKatSchedule (entry : Nat) (s : State) : Host.Outcome State Fault Refusal :=
  guardUnit (1 ≤ entry ∧ entry ≤ 64) (katScheduleState entry s)

end Sys2Proof.Machine
end

