-- ==== Sys2Proof/Machine/Peer.lean ====
section
/-! DEFINITION. Peer links (R415-R427): messages as they arrive at a port, relay, check epochs held and optimistic,
reductions, and the host epoch. -/
namespace Sys2Proof.Machine

/-! ### Ports -/

def peerPort (s : State) (g : Nat) : PeerPort := tget PeerPort.reset s.peers g
def setPort (s : State) (g : Nat) (p : PeerPort) : State := { s with peers := tset PeerPort.reset s.peers g p }
def updPort (s : State) (g : Nat) (f : PeerPort → PeerPort) : State := setPort s g (f (peerPort s g))

/-- PEER_ID (R428). -/
def peerId (s : State) : Nat := winGet s 0x0200000D0000 % 4096
/-- HOST_PIPELINE and HOST_EPOCH (R422, R428). -/
def hostPipeline (s : State) : Nat := winGet s 0x0200000D0008 % 256
def hostEpoch (s : State) : Nat := winGet s 0x0200000D000C % 65536

/-- Answer a message with a status: the ACK leaves by the relay entry of its sender, else by the port it came in on (R418). -/
def ackPeer (s : State) (port : Nat) (m : PeerMsg) (st : Status) : State :=
  let e := relayEntry s m.src
  let p := if e.testBit 15 && !e.testBit 14 then e % 16 else port
  queuePeer s p
    { opcode := 0x08, src := peerId s, dst := m.src, rvc := false, poison := false, hopsLeft := 15, pipeline := m.pipeline,
      epoch := m.epoch, bytes := 0, tag := m.tag, arg := statusCode st * 2 ^ 40 + m.tag, payload := [] }

/-- Whether a message is one R417 and R418 allow for an opcode. -/
def peerMsgOk (m : PeerMsg) (op : Nat) : Bool :=
  m.opcode == op &&
    match op with
    | 0x01 => m.payload.length == m.bytes && 1 ≤ m.bytes && m.bytes ≤ 256
    | 0x02 => m.payload.length == m.bytes && 1 ≤ m.bytes && m.bytes ≤ 256 && bitsOf m.arg 37 32 == 0
    | 0x08 => m.bytes == 0 && bitsOf m.arg 39 12 == 0
    | 0x0B => m.bytes == 0 && !m.arg.testBit 15 && !m.arg.testBit 5
    | _ => m.bytes == 0 && m.arg == 0

/-- A relay drops a message (R420): entry, hops or dateline. -/
def relayDrop (s : State) (port : Nat) (m : PeerMsg) (cause : Nat) : State :=
  emitPlain (ackPeer s port m .targetIsolated) 0x0F04 sevError (dieSource port) [(4, port), (12, m.dst), (12, m.src), (2, cause)]

/-- A message arrives on a port (R418, R420): invalid, relayed, dropped, or given to the core. -/
def peerArrive (s0 : State) (port : Nat) (m : PeerMsg) (op : Nat) (core : State → State) : State :=
  let s := updAgent s0 (4 + port) fun a => { a with peerIn := a.peerIn.erase m }
  if !peerMsgOk m op then
    emitPlain (ackPeer s port m .formatError) 0x0F07 sevError (dieSource port) [(4, port), (6, m.opcode), (12, m.tag), (12, m.src)]
  else
    let e := relayEntry s m.dst
    if !e.testBit 15 then relayDrop s port m 0
    else if e.testBit 14 then core s
    else if m.rvc && e.testBit 13 then relayDrop s port m 2
    else if m.hopsLeft = 0 then relayDrop s port m 1
    else
      match peerOff s port, peerOff s (e % 16) with
      | none, none =>
        odBump (queuePeer s (e % 16) { m with rvc := m.rvc || e.testBit 13, hopsLeft := m.hopsLeft - 1 }) 0x7010 5 1
      | some st, _ => ackPeer s port m st
      | none, some st => ackPeer s port m st

/-! ### Work a port applies to the core (R424) -/

/-- Pieces of a range that stay within 256-byte blocks. -/
def splitRange : Nat → Nat → List Byte → List (Nat × List Byte)
  | 0, _, _ => []
  | fuel + 1, a, bs =>
    if bs.isEmpty then []
    else
      let n := min bs.length (256 - a % 256)
      (a, bs.take n) :: splitRange fuel (a + n) (bs.drop n)

/-- A network request of a port, at PRIO OD 0x7000.05. -/
def portRequest (s : State) (port ix typ addr len aux : Nat) (poison : Bool) (payload : List Byte) : State × Bool :=
  let c := peerCol port
  match handRequest s c ix typ addr len aux poison payload 0 ⟨4096 + port, 0, 0, 0⟩ payload.length with
  | none => (s, false)
  | some t =>
    (updNi t c fun n =>
      { n with toInject := n.toInject.dropLast ++ (n.toInject.getLast?.map fun p => { p with prio := odRaw s 0x700005 }).toList }, true)

/-- Whether the interface of a port has a TAG left (R554). -/
def portRoom (s : State) (port : Nat) : Bool := (ni s (peerCol port)).out.length < 4096

/-- Send the increments of a job (R424), after its writes are acknowledged: those for which there is no TAG yet are left. -/
def issueSems (port : Nat) : List (Nat × Nat × Nat) → State → State × List (Nat × Nat × Nat)
  | [], s => (s, [])
  | e :: rest, s =>
    if portRoom s port then issueSems port rest (portRequest s port (0x100 + daleCol e.1) tySeminc 0 1 e.2.1 false (leBytes 16 e.2.2)).1
    else (s, e :: rest)

/-- Issue a job's writes: the number issued, and those for which there is no TAG yet. -/
def issueWrites (port : Nat) : List (Nat × List Byte × Bool) → State → Nat → State × Nat × List (Nat × List Byte × Bool)
  | [], s, n => (s, n, [])
  | w :: rest, s, n =>
    if portRoom s port then
      let r := portRequest s port (routeIndex w.1) tyWrite w.1 ((w.2.1.length + 15) / 16) (w.2.1.length - 1) w.2.2 w.2.1
      issueWrites port rest r.1 (if r.2 then n + 1 else n)
    else (s, n, w :: rest)

/-- A job goes on: its writes, and when all are acknowledged its increments. -/
def stepJob (s : State) (port : Nat) (j : PeerJob) : State × PeerJob :=
  let w := issueWrites port j.todo s 0
  let j1 := { j with todo := w.2.2, left := j.left + w.2.1, begun := true }
  if j1.left = 0 ∧ j1.todo = [] then
    let r := issueSems port j1.sems w.1
    (r.1, { j1 with sems := r.2 })
  else (w.1, j1)

/-- Whether nothing of a job is left. -/
def jobDone (j : PeerJob) : Bool := j.left == 0 && j.todo.isEmpty && j.sems.isEmpty

/-- Jobs of a port run one after another (R424). -/
def runJobs (port : Nat) : Nat → State → State
  | 0, s => s
  | fuel + 1, s =>
    match (peerPort s port).jobs with
    | [] => s
    | j :: rest =>
      let r := stepJob s port j
      if jobDone r.2 then runJobs port fuel (updPort r.1 port fun v => { v with jobs := rest })
      else updPort r.1 port fun v => { v with jobs := r.2 :: rest }

/-- Give a port a job: its writes are cut at blocks of 256 bytes. -/
def addJob (s : State) (port : Nat) (todo : List (Nat × List Byte × Bool)) (sems : List (Nat × Nat × Nat)) : State :=
  let pieces := todo.flatMap fun w => (splitRange (w.2.1.length + 1) w.1 w.2.1).map fun p => (p.1, p.2, w.2.2)
  let s1 := updPort s port fun v => { v with jobs := v.jobs ++ [⟨v.nextNo, pieces, 0, false, sems⟩], nextNo := v.nextNo + 1 }
  runJobs port ((peerPort s1 port).jobs.length) s1

/-- A request of a port's job is answered: one of its writes, or an increment whose TAG is free again. -/
def jobAck (s : State) (port : Nat) (write : Bool) : State :=
  let s1 := updPort s port fun v =>
    { v with jobs := match v.jobs with | j :: rest => { j with left := if write then j.left - 1 else j.left } :: rest | [] => [] }
  runJobs port ((peerPort s1 port).jobs.length) s1

/-- Increments of the SIGNALs among messages. -/
def signalsOf (ms : List PeerMsg) : List (Nat × Nat × Nat) :=
  (ms.filter fun m => m.opcode == 0x0B).map fun m => (bitsOf m.arg 14 6, m.arg % 32, bitsOf m.arg 47 16)

/-- The writes among messages. -/
def writesOf (ms : List PeerMsg) : List PeerMsg := ms.filter fun m => m.opcode == 0x01

/-- Writes that mark ranges: the bytes written with a poison mark are free (R424, log entry 3). -/
def poisonTodo (s : State) (ms : List PeerMsg) : State × List (Nat × List Byte × Bool) :=
  (writesOf ms).foldl (fun (acc : State × List (Nat × List Byte × Bool)) m =>
    let (v, t) := takeFree acc.1
    (t, acc.2 ++ [(m.arg, leBytes m.payload.length v, true)])) (s, [])

/-! ### Reductions (R427) -/

/-- A word of a reduction group's register. -/
def groupWin (g k : Nat) : Nat := 0x0200000D6000 + 0x20 * g + 8 * k
def groupWord (s : State) (g k : Nat) : Nat := winGet s (groupWin g k)
def groupN' (s : State) (g : Nat) : Nat := bitsOf (groupWord s g 0) 59 56 + 1
def groupBytes (s : State) (g : Nat) : Nat := bitsOf (groupWord s g 1) 19 0
def redGroup (s : State) (g : Nat) : Group := tget ⟨[], [], 0⟩ s.groups g
def setRed (s : State) (g : Nat) (v : Group) : State := { s with groups := tset ⟨[], [], 0⟩ s.groups g v }

/-- Combine two elements of a format: the value, and whether an INT32 sum saturated. -/
def reduceElem (fp : Bool) (op a b : Nat) : Nat × Bool :=
  if op = 0 then
    if fp then ((fadd (BitVec.ofNat 32 a) (BitVec.ofNat 32 b)).toNat, false)
    else
      let (i, sat) := clipInt 32 (sextNat 32 a + sextNat 32 b)
      (wrapNat 32 i, sat)
  else
    let ty : ElemTy := ⟨fp, true⟩
    (if elemNan ty a || elemNan ty b then nan32 else if elemLt ty 0 a b then b else a, false)

/-- The bytes of a contribution. -/
def contribBytes (ps : List Contrib) (n : Nat) : List Byte :=
  ps.foldl (fun bs p => bs.take p.off ++ p.bytes ++ bs.drop (p.off + p.bytes.length)) (List.replicate n 0#8)

/-- Combine a generation element by element, in ascending contributor index: its bytes, and what OD 0x7010.06 counts, each
saturation of R61 and each substitution. -/
def combineGen (s : State) (g : Nat) (xs : List (List Byte)) : List Byte × Nat :=
  let w0 := groupWord s g 0
  let fp := bitsOf w0 51 48 == 7
  let es := (List.range (groupBytes s g / 4)).map fun i =>
    let (v, sats) := match xs.map (fun b => fieldAt b (4 * i) 4) with
      | [] => (0, 0)
      | a :: rest => rest.foldl (fun (acc : Nat × Nat) b =>
          let (r, t) := reduceElem fp (bitsOf w0 53 52) acc.1 b
          (r, acc.2 + if t then 1 else 0)) (a, 0)
    if fp then
      let c := convTo .fp32 (w0.testBit 55) none (val32 (BitVec.ofNat 32 v))
      (c.bits, if c.sat || c.nan then 1 else 0)
    else (v, sats)
  (es.flatMap fun e => leBytes 4 e.1, (es.map (·.2)).sum)

/-- The result of a complete epoch of a group: its bytes and the saturations counted; where a contribution is bad the
bytes are a free value. -/
def groupResult (s : State) (g n size : Nat) (bad : Bool) (ps : List Contrib) : State × List Byte × Nat :=
  if bad then ((takeFree s).2, leBytes size (takeFree s).1, 0)
  else
    let c := combineGen s g ((List.range n).map fun c => contribBytes (ps.filter fun p => p.who == c) size)
    (s, c.1, c.2)

/-- Generations of a group that are complete and decided go to DEST (R427). -/
def settleGroup (g : Nat) : Nat → State → State
  | 0, s => s
  | fuel + 1, s =>
    let v := redGroup s g
    let n := groupN' s g
    let size := groupBytes s g
    let ps := v.parts.filter fun p => p.gen == v.done
    let complete := (List.range n).all (fun c => tget 0 v.sent c ≥ (v.done + 1) * size) && ps.all (fun p => p.decided.isSome)
    if !complete || size = 0 then s
    else
      let bad := ps.any (fun p => p.decided == some false || p.poison)
      let r := groupResult s g n size bad ps
      let s1 := odBump r.1 0x7010 6 r.2.2
      let s2 := winSet s1 (groupWin g 2) ((v.done + 1) % 2 ^ 32)
      let s3 := setRed s2 g { v with parts := v.parts.filter (fun p => p.gen != v.done), done := v.done + 1 }
      let w1 := groupWord s g 1
      settleGroup g fuel (addJob s3 (4 * (g % 4)) [(bitsOf (groupWord s g 0) 47 0, r.2.1, bad)] [(bitsOf w1 28 20, bitsOf w1 33 29, 1)])

/-- The contributions of an epoch are decided; a contribution retracted counts as given in full. -/
def decideContribs (s : State) (from_ : Nat × Nat × Nat × Nat) (ok : Bool) : State :=
  s.groups.foldl (fun t e =>
    let g := e.1
    let v := redGroup t g
    let mine := v.parts.filter fun p => p.from_ == from_ && p.decided.isNone
    if mine.isEmpty then t
    else
      let size := groupBytes t g
      let sent := if ok then v.sent else mine.foldl (fun m p => tset 0 m p.who (max (tget 0 m p.who) ((p.gen + 1) * size))) v.sent
      let ps := v.parts.map fun p => if p.from_ = from_ ∧ p.decided = none then { p with decided := some ok } else p
      settleGroup g (ps.length + 2) (setRed t g { v with parts := ps, sent := sent })) s

/-! ### Epochs (R423-R426) -/

/-- Whether two messages' triples agree with an epoch's. -/
def sameEpoch (e : PeerEpoch) (src pl ep : Nat) : Bool := e.src == src && e.pipeline == pl && e.epoch == ep

/-- The bytes an open epoch holds, and the ranges it logs. -/
def heldBytes (p : PeerPort) : Nat := ((p.epochs.filter (!·.applied)).flatMap (·.msgs) |>.map fun m => m.payload.length).sum
def loggedRanges (p : PeerPort) : Nat := (((p.epochs.filter (·.applied)).flatMap (·.msgs)).filter fun m => m.opcode == 0x01).length

/-- Whether the provisional store of a port can hold a message (R423, R424, R426). -/
def storeHolds (s : State) (port : Nat) (m : PeerMsg) : Bool :=
  let p := peerPort s port
  (p.epochs.any (sameEpoch · m.src m.pipeline m.epoch) || p.epochs.length < 256)
    && heldBytes p + m.payload.length ≤ 0x800000 && (m.opcode != 0x01 || loggedRanges p < 4096)

/-- Hold a message in its epoch, opening it (R423): held, or applied optimistically. -/
def holdMsg (s : State) (port : Nat) (m : PeerMsg) : State :=
  updPort s port fun p =>
    if p.epochs.any (sameEpoch · m.src m.pipeline m.epoch) then
      { p with epochs := p.epochs.map fun e => if sameEpoch e m.src m.pipeline m.epoch then { e with msgs := e.msgs ++ [m] } else e }
    else { p with epochs := p.epochs ++ [⟨m.src, m.pipeline, m.epoch, [m], (odRaw s 0x700004).testBit port⟩] }

/-- Whether the epoch of a message is applied optimistically. -/
def isOptimistic (s : State) (port : Nat) (m : PeerMsg) : Bool :=
  ((peerPort s port).epochs.find? (sameEpoch · m.src m.pipeline m.epoch)).elim false (·.applied)

/-- A message of an epoch reaches the core: refused by a disabled port, waiting while the store is full, else held and
acknowledged, and applied at once in optimistic mode. -/
def takeProvisional (s : State) (port : Nat) (m : PeerMsg) (s0 : State) : State :=
  match peerOff s port with
  | some st => ackPeer s port m st
  | none =>
    if !storeHolds s port m then s0
    else
      let s1 := ackPeer (holdMsg s port m) port m .done
      if isOptimistic s1 port m then
        addJob s1 port ((writesOf [m]).map fun w => (w.arg, w.payload, w.poison)) (signalsOf [m])
      else s1

/-- PEER_WRITE (R423, R424, R426). -/
def peerWriteState (port : Nat) (m : PeerMsg) (s : State) : State :=
  peerArrive s port m 0x01 fun t => takeProvisional t port m s

/-- PEER_SIGNAL (R424). -/
def peerSignalState (port : Nat) (m : PeerMsg) (s : State) : State :=
  peerArrive s port m 0x0B fun t => takeProvisional t port m s

/-- PEER_REDUCE (R427): a contribution joins its generation. -/
def peerReduceState (port : Nat) (m : PeerMsg) (s : State) : State :=
  peerArrive s port m 0x02 fun t =>
    let g := bitsOf m.arg 47 42
    let who := bitsOf m.arg 41 38
    let off := m.arg % 2 ^ 32
    let size := groupBytes t g
    match peerOff t port with
    | some st => ackPeer t port m st
    | none =>
      if !(groupWord t g 0).testBit 63 ∨ groupN' t g ≤ who ∨ size < off + m.bytes then ackPeer t port m .formatError
      else if !storeHolds t port m then s
      else
        let v := redGroup t g
        let sent := tget 0 v.sent who
        let p : Contrib := ⟨sent / size, who, off, m.payload, m.poison, (port, m.src, m.pipeline, m.epoch), none⟩
        ackPeer (holdMsg (setRed t g { v with parts := v.parts ++ [p], sent := tset 0 v.sent who (sent + m.bytes) }) port m) port m .done

/-- An epoch leaves a port. -/
def dropEpoch (s : State) (port : Nat) (e : PeerEpoch) : State := updPort s port fun p => { p with epochs := p.epochs.filter (· != e) }

/-- Retract an open epoch (R424, R425, R426): every range it named is marked, its SIGNALs are applied, event 0x0F02; when
the limit of R425 retracts it, event 0x0F03 too. -/
def retractEpoch (s : State) (port : Nat) (e : PeerEpoch) (expired : Bool) : State :=
  let bytes := ((writesOf e.msgs).map fun m => m.payload.length).sum
  let (s1, todo) := poisonTodo (dropEpoch s port e) e.msgs
  let s2 := addJob s1 port todo (if e.applied then [] else signalsOf e.msgs)
  let s3 := decideContribs s2 (port, e.src, e.pipeline, e.epoch) false
  let s4 := odBump (odBump s3 0x7010 4 bytes) 0x7010 (if expired then 3 else 2) 1
  let s5 := emitPlain s4 0x0F02 sevWarning (dieSource port) [(4, port), (12, e.src), (8, e.pipeline), (16, e.epoch), (32, bytes)]
  let s6 := if expired then emitPlain s5 0x0F03 sevError (dieSource port) [(4, port), (12, e.src), (8, e.pipeline), (16, e.epoch)] else s5
  if e.applied then optimisticRetract s6 (port, e.src, e.pipeline, e.epoch) else s6

/-- Commit an open epoch (R424, R426). -/
def commitEpoch (s : State) (port : Nat) (e : PeerEpoch) : State :=
  let s1 := odBump (dropEpoch s port e) 0x7010 1 1
  let s2 := if e.applied then s1 else addJob s1 port ((writesOf e.msgs).map fun w => (w.arg, w.payload, w.poison)) (signalsOf e.msgs)
  let s3 := decideContribs s2 (port, e.src, e.pipeline, e.epoch) true
  if e.applied then optimisticCommit s3 (port, e.src, e.pipeline, e.epoch) else s3

/-- The open epoch a marker names. -/
def markerEpoch (s : State) (port : Nat) (m : PeerMsg) : Option PeerEpoch :=
  (peerPort s port).epochs.find? (sameEpoch · m.src m.pipeline m.epoch)

/-- PEER_COMMIT (R424). -/
def peerCommitState (port : Nat) (m : PeerMsg) (s : State) : State :=
  peerArrive s port m 0x09 fun t =>
    let t1 := ackPeer t port m .done
    match markerEpoch t1 port m with
    | some e => commitEpoch t1 port e
    | none => t1

/-- PEER_RETRACT (R424). -/
def peerRetractState (port : Nat) (m : PeerMsg) (s : State) : State :=
  peerArrive s port m 0x0A fun t =>
    let t1 := ackPeer t port m .done
    match markerEpoch t1 port m with
    | some e => retractEpoch t1 port e false
    | none => t1

/-- EPOCH_EXPIRED (R425). -/
def epochExpiredState (port src pipeline epoch : Nat) (s : State) : State :=
  match (peerPort s port).epochs.find? (sameEpoch · src pipeline epoch) with
  | some e => retractEpoch s port e true
  | none => s

/-! ### The sending side (R421-R425) -/

/-- Whether a message sent belongs to the present host epoch, and is no marker. -/
def hostMsg (s : State) (p : PeerSent) : Bool :=
  p.msg.opcode != 0x09 && p.msg.opcode != 0x0A && p.msg.pipeline == hostPipeline s && p.msg.epoch == hostEpoch s

/-- Close the host epoch once every message of it is acknowledged (R422): markers on every port that carried one, and
HOST_EPOCH advances. -/
def settleHost (s : State) : State :=
  match s.cp.closing with
  | none => s
  | some commit =>
    if s.peerOut.any (hostMsg s) then s
    else
      let s1 := sendMarkers s commit (hostPipeline s) (hostEpoch s) s.cp.hostPorts
      { winSet s1 0x0200000D000C ((hostEpoch s + 1) % 65536) with cp := { s1.cp with closing := none, hostPorts := [] } }

/-- What a message sent was waiting for learns its status: a stream piece, or a write of the host on a sub-link, which is
answered COMP (R379). -/
def sentAnswer (s : State) (o : Origin) (st : Status) : State :=
  if o.dale < 512 then pieceWritten s o st
  else if 6000 ≤ o.dale then sendHost s (o.dale - 6000) (heonMsg 0x19 o.key 0 0 (statusCode st) 0 false 0)
  else s

/-- PEER_ACK (R418, R423): the answer of a message sent. -/
def peerAckState (port : Nat) (m : PeerMsg) (s : State) : State :=
  peerArrive s port m 0x08 fun t =>
    match t.peerOut.find? fun p => p.msg.tag == m.arg % 4096 && p.msg.dst == m.src with
    | none => t
    | some p =>
      let t1 := { t with peerOut := t.peerOut.erase p }
      settleHost (match p.origin with | some o => sentAnswer t1 o (statusOf (bitsOf m.arg 47 40)) | none => t1)

/-- Messages of a port that wait for an ACK are answered locally, and are not sent any more; a COMMIT among them records event
0x0F05 when the port is down (R425). -/
def answerSent (s : State) (port : Nat) (st : Status) : State :=
  let ms := s.peerOut.filter fun p => p.port == port
  let s0 := updPort s port fun v => { v with out := v.out.filter fun m => !(ms.any fun p => p.msg == m) }
  let s1 := { s0 with peerOut := s0.peerOut.filter fun p => p.port != port }
  settleHost (ms.foldl (fun t p =>
    match p.origin with
    | some o => sentAnswer t o st
    | none =>
      if p.msg.opcode = 0x09 ∧ st = .targetIsolated then
        emitPlain t 0x0F05 sevError (dieSource port) [(4, port), (12, p.msg.dst), (8, p.msg.pipeline), (16, p.msg.epoch)]
      else t) s1)

/-- PORT_DOWN (R425): a port out of ACTIVE beyond OD 0x7000.02 is declared down. -/
def portDownState (port : Nat) (s : State) : State :=
  if groupActive s port then s
  else
    let p := peerPort s port
    let waiting := (s.peerOut.filter fun m => m.port == port && m.origin.isSome).length
    let s1 :=
      if p.down then s
      else
        emitPlain (p.epochs.foldl (fun t e => retractEpoch t port e true) (updPort s port fun v => { v with down := true })) 0x0F01 sevError
          (dieSource port) [(4, port), (8, p.epochs.length), (16, waiting)]
    answerSent s1 port .targetIsolated

/-- A write of HOST_EPOCH_CTRL (R422). -/
def closeHost (s : State) (commit : Bool) : State :=
  if s.cp.closing.isSome then answer s .formatError 0
  else settleHost (answer { s with cp := { s.cp with closing := some commit } } .done 0)

/-- HOST_EPOCH_COMMIT. -/
def hostEpochCommitState (s : State) : State := closeHost s true

/-- HOST_EPOCH_RETRACT. -/
def hostEpochRetractState (s : State) : State := closeHost s false

/-! ### Meanings -/

/-- The meaning of PEER_WRITE. -/
def execPeerWrite (port : Nat) (m : PeerMsg) (s : State) : Host.Outcome State Fault Refusal :=
  guardUnit (port < 16) (peerWriteState port m s)

/-- The meaning of PEER_REDUCE. -/
def execPeerReduce (port : Nat) (m : PeerMsg) (s : State) : Host.Outcome State Fault Refusal :=
  guardUnit (port < 16) (peerReduceState port m s)

/-- The meaning of PEER_ACK. -/
def execPeerAck (port : Nat) (m : PeerMsg) (s : State) : Host.Outcome State Fault Refusal :=
  guardUnit (port < 16) (peerAckState port m s)

/-- The meaning of PEER_COMMIT. -/
def execPeerCommit (port : Nat) (m : PeerMsg) (s : State) : Host.Outcome State Fault Refusal :=
  guardUnit (port < 16) (peerCommitState port m s)

/-- The meaning of PEER_RETRACT. -/
def execPeerRetract (port : Nat) (m : PeerMsg) (s : State) : Host.Outcome State Fault Refusal :=
  guardUnit (port < 16) (peerRetractState port m s)

/-- The meaning of PEER_SIGNAL. -/
def execPeerSignal (port : Nat) (m : PeerMsg) (s : State) : Host.Outcome State Fault Refusal :=
  guardUnit (port < 16) (peerSignalState port m s)

/-- The meaning of EPOCH_EXPIRED. -/
def execEpochExpired (port : Nat) (src : Nat) (pipeline : Nat) (epoch : Nat) (s : State) : Host.Outcome State Fault Refusal :=
  guardUnit (port < 16) (epochExpiredState port src pipeline epoch s)

/-- The meaning of PORT_DOWN. -/
def execPortDown (port : Nat) (s : State) : Host.Outcome State Fault Refusal :=
  guardUnit (port < 16) (portDownState port s)

/-- The meaning of HOST_EPOCH_COMMIT. -/
def execHostEpochCommit (s : State) : Host.Outcome State Fault Refusal :=
  .next (hostEpochCommitState s)

/-- The meaning of HOST_EPOCH_RETRACT. -/
def execHostEpochRetract (s : State) : Host.Outcome State Fault Refusal :=
  .next (hostEpochRetractState s)

end Sys2Proof.Machine
end

