-- ==== Sys2Proof/Machine/Functions.lean ====
section
/-! DEFINITION. ABORT (R220) and DISABLE_FUNCTION (R221, R336). -/
namespace Sys2Proof.Machine

/-! ### ABORT (R220) -/

/-- The command an ABORT names: in flight when the ABORT was fetched, and so taken up (R217), and not refused for its tag. -/
def abortTarget (s : State) (c : Cmd) : Option Cmd :=
  s.cp.inflight.find? fun e => e.tag == c.w2 % 65536 && !e.dup && e.seq < c.seq

/-- The outcome of a command that an ABORT or a cut ends (R205, R207): a RUN_STEP gives its COUNT, and a SAVE_CONTEXT in progress
the bytes it has written and requires. -/
def endedOutcome (st : Status) (e : Cmd) : Outcome :=
  match e.opcode with
  | 0x03 => plainOutcome st 0 (e.w2 % 65536)
  | 0x04 => plainOutcome st e.stepsDone e.stepsDone
  | _ => plainOutcome st 0 0

/-- The status a running pipeline's step is already halting with. -/
def haltingStatus (s : State) (p : Nat) : Status := (haltOutcome s (pipe s p)).1

/-- The target of an ABORT ends ABORTED. -/
def abortCmd (s : State) (e : Cmd) : State :=
  if !e.taken then decideCmd s e.seq (endedOutcome .aborted e)
  else
    match e.opcode with
    | 0x03 => haltNow s e.pipe .aborted
    | 0x08 =>
      match s.cp.kats.find? fun k => k.cmd == some e.seq with
      | some k => endKat s k true
      | none => decideCmd s e.seq (endedOutcome .aborted e)
    | _ => decideCmd s e.seq (endedOutcome .aborted e)

/-- ABORT. -/
def abortState (tag : Nat) (s : State) : State :=
  match cmdOf s tag [0x06] with
  | none => s
  | some c =>
    let s0 := updCmd s c.seq fun x => { x with taken := true }
    let t := c.w2 % 65536
    let late (st : Nat) : State := decideCmd s0 c.seq (plainOutcome .nothingToAbort t st)
    if t = c.tag then decideCmd s0 c.seq (plainOutcome .formatError t 0)
    else
      match abortTarget s0 c with
      | none => late 0
      | some e =>
        if e.opcode = 0x06 then decideCmd s0 c.seq (plainOutcome .formatError t 0)
        else
          match e.outcome with
          | some o => late (statusCode o.status)
          | none =>
            if e.opcode = 0x03 ∧ e.taken = true ∧ (pipe s0 e.pipe).halting.isSome = true then late (statusCode (haltingStatus s0 e.pipe))
            else decideCmd (abortCmd s0 e) c.seq (plainOutcome .done t (statusCode .aborted))

/-! ### DISABLE_FUNCTION (R221) -/

/-- The function a command names, its KIND and INDEX, and its key in the table of disabled units. -/
def fnKind (c : Cmd) : Nat := c.w2 % 256
def fnIndex (c : Cmd) : Nat := bitsOf c.w2 23 8
def fnOption (c : Cmd) : Nat := bitsOf c.w2 25 24
def fnKey (c : Cmd) : Nat := fnKind c * 65536 + fnIndex c

/-- Event 0x0708. -/
def fnEvent (s : State) (c : Cmd) (n : Nat) : State :=
  emitCmd s c.seq 0x0708 sevInfo [(2, fnKind c), (16, fnIndex c), (2, fnOption c), (16, n)]

/-- Commands of a pipeline fetched before a disable and not decided. -/
def earlierCmds (s : State) (p seq : Nat) : List Cmd :=
  s.cp.inflight.filter fun e => namesPipeline e && e.pipe == p && e.outcome.isNone && e.seq < seq

/-- Set how a unit is disabled. -/
def setFnOff (s : State) (key : Nat) (st : Option Status) : State := { s with cp := { s.cp with off := tset none s.cp.off key st } }

/-- Work a unit holds: lookups of a gather engine, messages of a peer port not yet acknowledged, blocks bound in the ports of
a region. -/
def unitWork (s : State) (kind ix : Nat) : Nat :=
  match kind with
  | 1 => (gather s ix).waiting.length + (gather s ix).misses.length
  | 2 => (s.peerOut.filter fun m => m.port == ix).length
  | 3 => ((regionDales ix).filter fun d => !portIdle (dale s d)).length
  | _ => 0

/-- A disable of a pipeline, fetched at a place, begins: commands fetched later are refused. -/
def disablePipe (s : State) (p seq : Nat) (st : Status) (drain : Bool) : State :=
  updPipe s p fun q =>
    { q with disable := some st, draining := drain, disableAt := if q.disable.isSome then q.disableAt else seq }

/-- Let the ports of the dales of a region refuse blocks (R336). -/
def regionPorts (s : State) (r : Nat) : State :=
  (regionDales r).foldl (fun t d => updDale t d fun x => { x with portOff := if regionHeld t r then some .poisoned else regionOff t r }) s

/-- FUNCTION_DRAIN: option 0 stops new work; what was fetched or issued before completes. -/
def functionDrainState (tag : Nat) (s : State) : State :=
  match cmdOf s tag [0x07] with
  | none => s
  | some c =>
    if fnOption c ≠ 0 ∨ c.taken = true then s
    else
      let ix := fnIndex c
      if fnKind c = 0 then
        let n := (earlierCmds s ix c.seq).length
        let s1 := updCmd s c.seq fun x => { x with taken := true, passed := n }
        if (pipe s ix).disable.isSome then s1 else disablePipe s1 ix c.seq .drained true
      else
        let s1 := updCmd s c.seq fun x => { x with taken := true, passed := unitWork s (fnKind c) ix }
        let s2 := if (tget none s.cp.off (fnKey c)).isSome then s1 else setFnOff s1 (fnKey c) (some .drained)
        if fnKind c = 3 then regionPorts s2 ix else s2

/-- Whether the earlier work of a drained function is complete. -/
def fnDrained (s : State) (c : Cmd) : Bool :=
  if fnKind c = 0 then
    let q := pipe s (fnIndex c)
    s.cp.inflight.all fun e => !(namesPipeline e && e.pipe == fnIndex c && e.seq < q.disableAt && e.outcome.isNone) && q.st != .running
  else unitWork s (fnKind c) (fnIndex c) == 0

/-- FUNCTION_DRAINED: the last of the earlier work has completed; the disable completes DRAINED. -/
def functionDrainedState (tag : Nat) (s : State) : State :=
  match cmdOf s tag [0x07] with
  | none => s
  | some c =>
    if fnOption c ≠ 0 ∨ c.taken = false ∨ fnDrained s c = false then s
    else
      let s1 :=
        if fnKind c = 0 then
          updPipe s (fnIndex c) fun q =>
            if q.draining then { q with st := if q.affected then .halted else .disabled, draining := false } else q
        else s
      decideCmd (fnEvent s1 c c.passed) c.seq (plainOutcome .drained c.passed 0)

/-- Cut the work of a gather engine: lookups waiting and missed halt their channels (R221, R240). -/
def cutGather (s : State) (k : Nat) : State :=
  let ls := (gather s k).waiting ++ (gather s k).misses.map (·.2)
  let s1 := updGather s k fun g => { g with waiting := [], misses := [] }
  ls.foldl (fun t l =>
    if isFront t l.dale l.chan l.no then haltChannel t l.dale l.chan 5 .poisoned l.row ((frontBlock t l.dale l.chan).elim 0 (·.addr)) else t) s1

/-- Cut the work of a peer port: messages not acknowledged end POISONED, and every open epoch received is retracted
(R221, R425). -/
def cutPeer (s : State) (g : Nat) : State :=
  (peerPort s g).epochs.foldl (fun t e => retractEpoch t g e false) (answerSent s g .poisoned)

/-- Cut a pipeline (R221, R218): uncommitted commands end POISONED, and a running pipeline halts; one at rest is as halted by
the cut, unless an earlier halt stands. -/
def cutPipe (s : State) (p seq : Nat) : State :=
  let s0 := disablePipe s p seq .poisoned false
  let es := (earlierCmds s0 p seq).filter fun e => !(e.opcode == 0x03 && e.taken)
  let s1 := es.foldl (fun t e => decideCmd t e.seq (endedOutcome .poisoned e)) s0
  let q := pipe s1 p
  if q.st = .running then haltNow s1 p .poisoned
  else if q.affected then s1
  else
    let keep := q.st == .halted || q.haltStatus != .done
    (pipeRegions q).foldl cutRegion (updPipe s1 p fun r =>
      { r with st := .disabled, haltStatus := if keep then r.haltStatus else .poisoned, haltBasin := if keep then r.haltBasin else noBasin })

/-- FUNCTION_CUT: option 1 stops the function at once; the disable completes POISONED, once the last command it cut has
committed: a halting RUN_STEP does when its pipeline has halted (R205, R218). -/
def functionCutState (tag : Nat) (s : State) : State :=
  match cmdOf s tag [0x07] with
  | none => s
  | some c =>
    if fnOption c ≠ 1 ∨ c.taken = true then s
    else
      let ix := fnIndex c
      let n := if fnKind c = 0 then (earlierCmds s ix c.seq).length else unitWork s (fnKind c) ix
      let s1 := updCmd s c.seq fun x => { x with taken := true, failed := n }
      let s2 :=
        match fnKind c with
        | 0 => cutPipe s1 ix c.seq
        | 1 => cutGather (setFnOff s1 (fnKey c) (some .poisoned)) ix
        | 2 => cutPeer (setFnOff s1 (fnKey c) (some .poisoned)) ix
        | _ => cutRegion (setFnOff s1 (fnKey c) (some .poisoned)) ix
      let s3 := fnEvent s2 c n
      if fnKind c = 0 ∧ (pipe s3 ix).st = .running then s3 else decideCmd s3 c.seq (plainOutcome .poisoned 0 n)

/-- The state enabling returns a disabled pipeline to (R221): IDLE after a drain, HALTED after a cut. -/
def enabledState (q : Pipe) : PipeState := if q.disable = some .drained then .idle else .halted

/-- FUNCTION_ENABLE: option 2 resumes a disabled function. -/
def functionEnableState (tag : Nat) (s : State) : State :=
  match cmdOf s tag [0x07] with
  | none => s
  | some c =>
    if fnOption c ≠ 2 ∨ c.taken = true then s
    else
      let ix := fnIndex c
      let s1 := updCmd s c.seq fun x => { x with taken := true }
      let s2 :=
        if fnKind c = 0 then
          let s2 := updPipe s1 ix fun q =>
            if q.disable.isSome then { q with st := if q.st = .disabled then enabledState q else q.st, disable := none, draining := false } else q
          (pipeRegions (pipe s2 ix)).foldl releaseRegion s2
        else
          let s2 := setFnOff s1 (fnKey c) none
          if fnKind c = 3 then releaseRegion s2 ix else s2
      decideCmd (fnEvent s2 c 0) c.seq (plainOutcome .done 0 0)

/-! ### Meanings -/

/-- The meaning of ABORT. -/
def execAbort (tag : Nat) (s : State) : Host.Outcome State Fault Refusal :=
  .next (abortState tag s)

/-- The meaning of FUNCTION_DRAIN. -/
def execFunctionDrain (tag : Nat) (s : State) : Host.Outcome State Fault Refusal :=
  .next (functionDrainState tag s)

/-- The meaning of FUNCTION_DRAINED. -/
def execFunctionDrained (tag : Nat) (s : State) : Host.Outcome State Fault Refusal :=
  .next (functionDrainedState tag s)

/-- The meaning of FUNCTION_CUT. -/
def execFunctionCut (tag : Nat) (s : State) : Host.Outcome State Fault Refusal :=
  .next (functionCutState tag s)

/-- The meaning of FUNCTION_ENABLE. -/
def execFunctionEnable (tag : Nat) (s : State) : Host.Outcome State Fault Refusal :=
  .next (functionEnableState tag s)

end Sys2Proof.Machine
end

