-- ==== Sys2Proof/Machine/Configload.lean ====
section
/-! DEFINITION. The configuration unit (R343-R362): delivery of an image, its checks, commit, the boot deadline and the
golden image, the strand, and scrubbing. The bytes of an image are operands of the steps that receive them. -/
namespace Sys2Proof.Machine

/-- Change the configuration unit. -/
def updCfg (s : State) (f : Cfg → Cfg) : State := { s with cfg := f s.cfg }

/-- Registers of the configuration window (R348). -/
def cfgWin (off : Nat) : Nat := 0x0200000A0000 + off

/-- STATE of R348: a golden load shows 5 until it ends. -/
def cfgShown (s : State) : Nat := if s.cfg.src = 2 ∧ 2 ≤ s.cfg.st then 5 else s.cfg.st

/-- Whether enumeration has completed (R388): bit 3 of the model's service word. -/
def enumerated (s : State) : Bool := s.svc.testBit 3

/-- The straps of the strand (R351, R547): enabled, leader, slot. -/
def strandOn (s : State) : Bool := s.boot.straps.1 == 1
def strandLeader (s : State) : Bool := strandOn s && s.boot.straps.2.1 == 1
def strandFollower (s : State) : Bool := strandOn s && s.boot.straps.2.1 == 0
def strandSlot (s : State) : Nat := if strandOn s then s.boot.straps.2.2.1 % 8 else 0

/-- CFG_STATE as it reads (R348). -/
def cfgStateReg (s : State) : Nat :=
  cfgShown s * 2 ^ 29 + (if strandOn s then 2 ^ 28 else 0) + (if strandLeader s then 2 ^ 27 else 0) + strandSlot s * 2 ^ 24
    + bitsOf (winGet s (cfgWin 0x18)) 23 8 * 2 ^ 8 + s.cfg.src

/-! ### Header and region table (R344, R346) -/

def hdrKind (h : List Byte) : Nat := fieldAt h 5 1
def hdrKey (h : List Byte) : Nat := fieldAt h 6 1
def hdrSlots (h : List Byte) : Nat := fieldAt h 7 1
def hdrBytes (h : List Byte) : Nat := fieldAt h 8 4
def hdrFrames (h : List Byte) : Nat := fieldAt h 0x0C 4
def hdrSvn (h : List Byte) : Nat := fieldAt h 0x14 4
def hdrFloor (h : List Byte) : Nat := fieldAt h 0x18 2
def hdrRegions (h : List Byte) : Nat := fieldAt h 0x1A 1
def hdrDigest (h : List Byte) : List Byte := bytesAt h 0x60 64

/-- Bytes where the region table begins (R345). -/
def tableAt : Nat := 0x7580

/-- The entries of a region table: region, slot, DESIGN_ID. -/
def tableEntries (n : Nat) (t : List Byte) : List (Nat × Nat × Nat) :=
  (List.range n).map fun i => (fieldAt t (16 * i) 1, fieldAt t (16 * i + 1) 1, fieldAt t (16 * i + 4) 4)

/-- The entries of the present image that apply to this device (R346): region and DESIGN_ID. -/
def applying (s : State) : List (Nat × Nat) :=
  ((tableEntries (hdrRegions s.cfg.header) s.cfg.table).filter fun e => e.2.1 == 0xFF || e.2.1 == strandSlot s).map fun e => (e.1, e.2.2)

/-- The sectors of the applying regions. -/
def applySectors (s : State) : List Nat := (applying s).flatMap fun e => regionSectors e.1

/-- Sectors that are being staged or committed: scrub pauses there (R357). -/
def scrubPaused (s : State) (k : Nat) : Bool :=
  (2 ≤ s.cfg.st && s.cfg.table != [] && (applySectors s).contains k) || (switchOf s (128 + k)).isSome

/-! ### Rejection and the golden image (R350, R353) -/

/-- The unit turns to the golden image (R350 step 4), with event 0x0C03. Cause 0 enumeration, 1 deadline. -/
def startGolden (s : State) (cause : Nat) : State :=
  let s1 := emitPlain s 0x0C03 sevWarning srcConfig
    [(1, cause), (32, winGet s (cfgWin 0x20)), (16, winGet s (cfgWin 0x14))]
  let s2 := updCfg s1 fun c =>
    { c with st := 2, src := 2, boot := false, late := false, header := [], table := [], received := 0, frames := 0, stagedAt := [], hashed := [],
             devFrame := [], clocks := [], sigSeen := false }
  odBump (winSet s2 (cfgWin 0x20) 0) 0x5910 3 1

/-- The staged planes are recopied from the active configuration (R353 step 2). -/
def unstage (s : State) : State :=
  (List.range 16).foldl (fun t k => updSector t k fun v => { v with staged := v.plane }) s

/-- A load is rejected (R353): check, status, and the frame that failed. -/
def rejectLoad (s : State) (check : Nat) (st : Status) (frame : Option (Nat × Nat)) : State :=
  let fail := match frame with
    | some f => f.1 * 2 ^ 32 + f.2
    | none => 0xFFFFFFFFFFFFFFFF
  let seq := fail / 2 ^ 32
  let s1 := winSet (winSet (unstage s) (cfgWin 0x18) (statusCode st * 2 ^ 16 + check * 2 ^ 8)) (cfgWin 0x28) fail
  let s2 := odBump (emitPlain s1 0x0C02 sevError srcConfig
    [(2, s.cfg.src), (5, check), (8, statusCode st), (32, seq), (32, fail % 2 ^ 32)]) 0x5910 2 1
  if s.cfg.src = 2 then
    updCfg (emitPlain s2 0x0C04 sevError srcConfig [(5, check), (8, statusCode st), (32, seq), (32, odRaw s 0x590002)])
      fun c => { c with st := 0, boot := false, late := false }
  else if s.cfg.late then startGolden s2 (if enumerated s then 1 else 0)
  else updCfg s2 fun c => { c with st := if c.boot then 1 else 0 }

/-- A load begins from a source: 0 Heonlink, 1 strand. A leader forwards what it reads from companion memory (R351). -/
def beginLoad (s : State) (src : Nat) : State :=
  winSet (updCfg s fun c =>
    { c with st := 2, src := src, header := [], table := [], received := 0, frames := 0, stagedAt := [], hashed := [], devFrame := [],
             clocks := [], sigSeen := false, relay := src == 0 && strandLeader s, strand := 0 }) (cfgWin 0x20) 0

/-- Bytes that a leader places on the strand (R351): those of every part it reads, also of an image it has rejected. -/
def forwardBytes (s : State) (n : Nat) : State := if s.cfg.relay then updCfg s fun c => { c with strand := c.strand + n } else s

/-- A leader stops forwarding: at the image's end, on ABANDON, or at its deadline (R351). -/
def stopForward (s : State) : State := updCfg s fun c => { c with relay := false }

/-- CFG_GO (R348, R349): refused while STATE is 2 to 5 or on a strand follower. -/
def cfgGoState (s : State) : State :=
  if 2 ≤ cfgShown s ∨ strandFollower s then answer s .formatError 0 else answer (beginLoad s 0) .done 0

/-- CFG_ABANDON (R348, R352 check 16). -/
def cfgAbandonState (s : State) : State :=
  answer (stopForward (if cfgShown s = 2 then rejectLoad s 16 .aborted none else s)) .done 0

/-! ### Checks (R352) -/

/-- Bytes that a golden load must find in the flash at an offset of the image. -/
def fromFlash (s : State) (off : Nat) (bs : List Byte) : Bool :=
  s.cfg.src != 2 || (List.range bs.length).map (fun i => Config.flashByte (odRaw s 0x590002 + off + i)) == bs

/-- Bytes of the image received so far. -/
def receive (s : State) (n : Nat) : State := winSet (updCfg s fun c => { c with received := n }) (cfgWin 0x20) n

/-- The check of a header that fails, with its status (R352 checks 1 to 5). -/
def headerFault (s : State) (h : List Byte) : Option (Nat × Status) :=
  if fieldAt h 0 4 ≠ 0x50534643 ∨ fieldAt h 4 1 ≠ 1 ∨ hdrKind h > 1 ∨ hdrFrames h = 0 ∨ hdrRegions h = 0 ∨ hdrRegions h > 128
      ∨ hdrBytes h ≠ tableAt + 16 * hdrRegions h + 4112 * hdrFrames h ∨ fieldAt h 0x1B 5 ≠ 0 ∨ fieldAt h 0xA0 96 ≠ 0 then
    some (1, .formatError)
  else if s.cfg.src = 0 ∧ winGet s (cfgWin 0x08) ≠ hdrBytes h then some (2, .formatError)
  else if fieldAt h 0x10 4 ≠ 0x4C484D31 ∨ (hdrSlots h).testBit (strandSlot s) = false
      ∨ (fieldAt h (0x20 + 8 * strandSlot s) 8 ≠ 0 ∧ fieldAt h (0x20 + 8 * strandSlot s) 8 ≠ Config.uid) then some (3, .authFail)
  else if hdrKey h > 4 ∨ (keyOf s (hdrKey h)).isNone then some (4, .authFail)
  else if hdrSvn h < svnOf s 0 then some (5, .authFail)
  else none

/-- CFG_HEADER_RECEIVED: the first 256 bytes of an image. -/
def cfgHeaderReceivedState (h : List Byte) (s : State) : State :=
  if s.cfg.st ≠ 2 ∨ s.cfg.header ≠ [] ∨ h.length ≠ 256 ∨ fromFlash s 0 h = false then s
  else
    let s1 := receive (updCfg (forwardBytes s 256) fun c => { c with header := h }) 256
    match headerFault s1 h with
    | some f => rejectLoad (if f.1 = 4 then keyAbsent s1 (hdrKey h) else s1) f.1 f.2 none
    | none => s1

/-- Whether a sector is available to a region (R354). -/
def sectorAvailable (s : State) (r k : Nat) : Bool :=
  let g := sectorRegion s k
  !g.testBit 5
    || (g % 32 == r && ((holderOfRegion s r).isNone || ((regionOff s r).isSome && unitWork s 3 r == 0)))

/-- Checks 8 and 9 of R352. -/
def regionFault (s : State) : Option (Nat × Status) :=
  if (applySectors s).any (fun k => !domainOn s (128 + k)) then some (8, .domainOff)
  else if (applying s).any (fun e => (regionSectors e.1).any fun k => !sectorAvailable s e.1 k) then some (9, .noCapacity)
  else none

/-- The check of the region table that fails (R352 checks 7 to 9). -/
def tableFault (s : State) : Option (Nat × Status) :=
  let h := s.cfg.header
  let es := tableEntries (hdrRegions h) s.cfg.table
  let ks := applySectors s
  if es.any (fun e => e.1 > 30 || (e.2.1 > 7 && e.2.1 != 0xFF)) ∨ hdrFloor h < 550 ∨ hdrFloor h > 850
      ∨ (if hdrKind h = 0 then ¬ (ks.length = 16 ∧ ks.eraseDups.length = 16) else (applying s).length ≠ 1) then some (7, .formatError)
  else regionFault s

/-- CFG_REGION_TABLE_RECEIVED. -/
def cfgRegionTableReceivedState (t : List Byte) (s : State) : State :=
  if s.cfg.header = [] ∨ s.cfg.table ≠ [] ∨ t.length ≠ 16 * hdrRegions s.cfg.header ∨ fromFlash s tableAt t = false then s
  else if s.cfg.st ≠ 2 then forwardBytes s (32 + t.length)
  else
    let s1 := receive (updCfg (forwardBytes s (32 + t.length)) fun c => { c with table := t, hashed := t }) (tableAt + t.length)
    match tableFault s1 with
    | some f => rejectLoad s1 f.1 f.2 none
    | none => s1

/-- Fields of a frame header (R347). -/
def frmAddr (f : List Byte) : Nat := fieldAt f 0 4
def frmType (f : List Byte) : Nat := frmAddr f / 2 ^ 29 % 8
def frmSector (f : List Byte) : Nat := frmAddr f / 2 ^ 25 % 16
def frmIndex (f : List Byte) : Nat := frmAddr f % 4096
def frmSlot (f : List Byte) : Nat := fieldAt f 4 1
def frmSeq (f : List Byte) : Nat := fieldAt f 8 4

/-- The number of indices of a frame type (R347). -/
def frmCount (t : Nat) : Nat := match t with | 0 => 1536 | 1 => 576 | 2 => 1 | 3 => 48 | 4 => 1 | _ => 0

/-- Whether a staged frame's header and payload keep check 12. -/
def frameOk (s : State) (f : List Byte) : Bool :=
  bitsOf (frmAddr f) 24 12 == 0 && fieldAt f 5 3 == 0 && frmIndex f < frmCount (frmType f)
    && (frmType f != 4 || frmSector f == 0)
    && (!(frmType f == 1 && frmIndex f % 3 == 2) || (f.drop (16 + 1024)).all (· == 0#8))
    && !s.cfg.stagedAt.contains (frmAddr f)

/-- Stage a frame. -/
def stageFrame (s : State) (f : List Byte) : State :=
  let s1 := updCfg s fun c => { c with stagedAt := c.stagedAt ++ [frmAddr f] }
  if frmType f = 4 then updCfg s1 fun c => { c with devFrame := f.drop 16 }
  else updSector s1 (frmSector f) fun v => { v with staged := tset [] v.staged (frmType f * 4096 + frmIndex f) (f.drop 16) }

/-- CFG_FRAME_RECEIVED: the checks of each frame, and its staging when it is addressed to this device (R351, R352). -/
def cfgFrameReceivedState (f : List Byte) (s : State) : State :=
  let at_ := tableAt + 16 * hdrRegions s.cfg.header + 4112 * s.cfg.frames
  if s.cfg.header = [] ∨ f.length ≠ 4112 ∨ s.cfg.frames ≥ hdrFrames s.cfg.header ∨ fromFlash s at_ f = false then s
  else if s.cfg.st ≠ 2 then forwardBytes s 4112
  else if s.cfg.table = [] then s
  else
    let s1 := receive (updCfg (forwardBytes s 4112) fun c => { c with hashed := c.hashed ++ f, frames := c.frames + 1 }) (at_ + 4112)
    let fail := some (frmSeq f, frmAddr f)
    if frmSeq f ≠ s.cfg.frames then rejectLoad s1 10 .formatError fail
    else if fieldAt f 12 4 ≠ crc32 (f.take 12 ++ f.drop 16) then rejectLoad s1 11 .formatError fail
    else if frmSlot f ≠ 0xFF ∧ frmSlot f ≠ strandSlot s then s1
    else if frameOk s f = false then rejectLoad s1 12 .formatError fail
    else if (if frmType f = 4 then hdrKind s.cfg.header = 1 else (applySectors s).contains (frmSector f) = false) then
      rejectLoad s1 13 .formatError fail
    else stageFrame s1 f

/-- Whether the frames that R347 requires arrived (check 18). -/
def framesComplete (s : State) : Bool :=
  (applySectors s).all (fun k => s.cfg.stagedAt.contains (2 * 2 ^ 29 + k * 2 ^ 25))
    && (hdrKind s.cfg.header == 1 || s.cfg.stagedAt.contains (4 * 2 ^ 29))

/-- The last byte has arrived and the signature verified (R352 checks 17 and 18, R355 step 1): a sector switched off since
staging has lost its staged plane (R356). -/
def finishLoad (s : State) : State :=
  if shake256 64 s.cfg.hashed ≠ hdrDigest s.cfg.header then rejectLoad s 17 .authFail none
  else if framesComplete s = false then rejectLoad s 18 .formatError none
  else if (applySectors s).any (fun k => tget [] (sector s k).staged (2 * 4096) == []) then rejectLoad s 8 .domainOff none
  else
    match regionFault s with
    | some f => rejectLoad s f.1 f.2 none
    | none => updCfg s fun c => { c with st := 4, clocks := [] }

/-- CFG_LAST_BYTE: the stream ends; short of IMAGE_BYTES it is refused under check 14. -/
def cfgLastByteState (s0 : State) : State :=
  let s := stopForward s0
  if s.cfg.st ≠ 2 then s
  else if s.cfg.header = [] ∨ s.cfg.received < hdrBytes s.cfg.header then rejectLoad s 14 .formatError none
  else if s.cfg.sigSeen then finishLoad (updCfg s fun c => { c with st := 3 })
  else updCfg s fun c => { c with st := 3 }

/-- CFG_SIGNATURE_VERIFIED (R345, R352 check 6): verification of the signature over the header ends. -/
def cfgSignatureVerifiedState (sig : List Byte) (s : State) : State :=
  if s.cfg.header = [] ∨ s.cfg.sigSeen ∨ sig.length ≠ 29792 ∨ fromFlash s 0x100 sig = false then s
  else if s.cfg.st ≠ 2 ∧ s.cfg.st ≠ 3 then forwardBytes s 29792
  else
    let s1 := receive (updCfg (forwardBytes s 29792) fun c => { c with sigSeen := true }) (max s.cfg.received 0x7560)
    if !sigOk s (hdrKey s.cfg.header) s.cfg.header sig then rejectLoad s1 6 .authFail none
    else if s.cfg.st = 3 then finishLoad s1 else s1

/-! ### Commit (R355) -/

/-- The 9,216 bytes of a memory's staged contents; parts that no frame carried read as zero (R328). -/
def memFrames (v : Sector) (mem : Nat) : List Byte :=
  (List.range 3).flatMap fun p => bytesAt (tget [] v.staged (4096 + 3 * mem + p)) 0 (if p = 2 then 1024 else 4096)

/-- The words a commit writes into a memory (R347 TYPE 1). -/
def memWords (design : Nat) (v : Sector) (mem : Nat) : Tab Nat :=
  let bs := memFrames v mem
  let plain := Config.bramPlain design mem
  (List.range 1024).filterMap fun w =>
    let x := fieldAt bs (9 * w) (if plain then 9 else 8)
    if x = 0 then none else some (mem * 1024 + w, x)

/-- Step 4 of R355 in a sector: the staged plane becomes active, memories with frames are written and the rest cleared, and the
logic cells take what the configuration gives them. -/
def commitSector (s : State) (k design floor : Nat) : State :=
  let v := sector s k
  let mems := (List.range 192).filter fun m => (List.range 3).any fun p => s.cfg.stagedAt.contains (2 ^ 29 + k * 2 ^ 25 + 3 * m + p)
  let plane := v.staged.filter fun e => e.1 / 4096 != 1
  let r : Sector := { floor := floor, design := design, plane := plane, staged := plane, mem := mems.flatMap (memWords design v), memBad := [],
                      memSeen := [], queues := [], asserted := [], clean := [], cells := [], joins := [], commits := true }
  (sectorDales k).foldl (fun t d => updDale t d fun x => { x with portLive := 0 }) (setSector s k r)

/-- Steps 6 and 7 of R355. -/
def finishCommit (s : State) : State :=
  let h := s.cfg.header
  let es := applying s
  let dg := hdrDigest h
  let s1 := es.foldl (fun t e => (regionSectors e.1).foldl (fun t k =>
    let t1 := odPut (winSet t (cfgWin (0x40 + 4 * k)) (0x20 + e.1)) (odKey 0x5920 (k + 1)) e.2
    updSector t1 k fun v => { assertTrees v 15 syncEdges with commits := false }) t) s
  let s2 := extendMr { s1 with mgmt := { s1.mgmt with blobs := tset (List.replicate 64 0#8) s1.mgmt.blobs (odKey 0x5921 1) dg } } 3 dg
  let s3 := es.foldl (fun t e => regionPorts ((regionDales e.1).foldl (fun t d => updDale t d fun x => { x with portLive := 1 }) t) e.1) s2
  let s4 := winSet (updCfg s3 fun c => { c with st := 0, boot := false, late := false, clocks := [], lastSrc := c.src }) (cfgWin 0x18) 0
  odBump (emitPlain (winSet s4 (cfgWin 0x28) 0xFFFFFFFFFFFFFFFF) 0x0C01 sevInfo srcConfig
    [(2, s.cfg.src), (1, hdrKind h), (5, (es.map (·.1)).headD 0), (5, es.length), (12, hdrFloor h), (32, hdrSvn h), (32, fieldAt dg 0 4)]) 0x5910 1 1

/-- The supply the saddle measures, in mV (R456). -/
def supplyMv (s : State) : Nat := winGet s 0x0200000F0000 % 65536

/-- CFG_COMMIT (R355 steps 2 to 7): the supply has reached the floor. A full image then waits for its generators' lock. -/
def cfgCommitState (s : State) : State :=
  if s.cfg.st ≠ 4 ∨ s.cfg.clocks ≠ [] ∨ supplyMv s < hdrFloor s.cfg.header then s
  else
    let s1 := (applying s).foldl (fun t e => (regionSectors e.1).foldl (fun t k => commitSector t k e.2 (hdrFloor s.cfg.header)) t) s
    if hdrKind s.cfg.header = 1 then finishCommit s1
    else
      let s2 := (List.range 4).foldl (fun t g =>
        let c := Config.deviceClock s.cfg.devFrame g
        setClock t g ⟨1 + c.1 % 64, c.2, false, false, 0⟩) s1
      let wait := (List.range 4).filter fun g => (clockGen s2 g).enabled
      if wait.isEmpty then finishCommit s2 else updCfg s2 fun c => { c with clocks := wait }

/-- CLOCK_LOCKED (R321, R322): a generator locks and its tree resumes, with event 0x0B06 after a loss of lock. -/
def clockLockedState (g : Nat) (s : State) : State :=
  let c := clockGen s g
  if !c.enabled || c.locked then s
  else
    let s1 := setClock s g { c with locked := true, lost := false }
    let s2 := if c.lost then emitPlain s1 0x0B06 sevInfo srcSteppe [(2, g), (7, c.n)] else s1
    if s.cfg.clocks.contains g then
      let s3 := updCfg s2 fun x => { x with clocks := x.clocks.filter (· != g) }
      if s3.cfg.clocks.isEmpty then finishCommit s3 else s3
    else s2

/-! ### Deadline and strand (R350, R351) -/


/-- CFG_DEADLINE (R350 step 3): the delivery deadline passes. -/
def cfgDeadlineState (s0 : State) : State :=
  let s := if s0.cfg.boot && enumerated s0 then stopForward s0 else s0
  if !s.cfg.boot || !enumerated s then s
  else
    match s.cfg.st with
    | 1 => startGolden s 1
    | 2 => rejectLoad (updCfg s fun c => { c with boot := false, late := true }) 15 .timeout none
    | _ => updCfg s fun c => { c with boot := false, late := true }

/-- CFG_ENUM_WAIT_EXPIRED (R350 step 1): enumeration did not complete in time. A load from the strand that is in progress then ends as at
the deadline (log entry 50). -/
def cfgEnumWaitExpiredState (s : State) : State :=
  if !s.cfg.boot || enumerated s then s
  else
    match s.cfg.st with
    | 1 => startGolden s 0
    | 2 => rejectLoad (updCfg s fun c => { c with boot := false, late := true }) 15 .timeout none
    | _ => updCfg s fun c => { c with boot := false, late := true }

/-- STRAND_START_MARK (R351): a follower begins a load; a load in progress ends as a short image. -/
def strandStartMarkState (s : State) : State :=
  if !strandFollower s then s
  else
    match cfgShown s with
    | 0 => beginLoad s 1
    | 1 => beginLoad s 1
    | 2 => beginLoad (rejectLoad s 14 .formatError none) 1
    | _ => s

/-- STRAND_GAP (R351): 10 ms without a byte ends a load as a short image. -/
def strandGapState (s : State) : State :=
  if s.cfg.src = 1 ∧ s.cfg.st = 2 then rejectLoad s 14 .formatError none else s

/-! ### Scrubbing (R357-R360) -/

/-- The address of the n-th frame of a sector's planes: LOGIC, then SECTOR, then MAP. -/
def scrubAddr (k n : Nat) : Nat :=
  k * 2 ^ 25 + (if n < 1536 then n else if n = 1536 then 2 * 2 ^ 29 else 3 * 2 ^ 29 + (n - 1537))

/-- Frames of a sector that a pass reads. -/
def scrubFrames : Nat := 1585

/-- Whether a 32-bit word of a frame is essential (R357): marked in the MAP frame that covers it, or covered by none. -/
def essentialWord (v : Sector) (n w : Nat) : Bool :=
  if n < 1536 then
    match tget [] v.plane (3 * 4096 + n / 32) with
    | [] => true
    | m => (m.getD (128 * (n % 32) + w / 8) 0#8).toNat.testBit (w % 8)
  else true

/-- The pipeline a sector's region serves, and the region. -/
def scrubServes (s : State) (k : Nat) : Option Nat × Nat :=
  let r := sectorRegion s k % 32
  (holderOfRegion s r, r)

/-- A benign upset (R359). -/
def benignUpset (s : State) (k n : Nat) : State :=
  let c := tget 0 s.cfg.benign k + 1
  let s1 := odBump (updCfg s fun x => { x with benign := tset 0 x.benign k c }) 0x5910 5 1
  if s.cfg.told.contains k then s1
  else
    emitPlain (updCfg s1 fun x => { x with told := x.told ++ [k] }) 0x0C05 sevInfo (sectorSource k)
      [(4, k), (32, scrubAddr k n), (16, c)]

/-- An essential upset (R358): the served pipeline's step in progress halts with CHECK_MISMATCH. -/
def essentialUpset (s : State) (k n w : Nat) : State :=
  let (p, r) := scrubServes s k
  let e := (p.map fun p => (pipe s p).epoch).getD 0
  let s1 := odBump (emitPlain s 0x0C06 sevError (sectorSource k)
    [(4, k), (12, scrubAddr k n % 4096), (10, w), (5, r), (8, p.getD 0xFF), (16, tget 0 (sector s k).clean n), (16, e)]) 0x5910 6 1
  match p with
  | some p => if (pipe s1 p).inStep then haltPipe s1 p (some .checkMismatch) else s1
  | none => s1

/-- A region fails (R360). -/
def regionFails (s : State) (k n w : Nat) : State :=
  let (p, r) := scrubServes s k
  let s1 := (regionSectors r).foldl (fun t j => winSet t (cfgWin (0x40 + 4 * j)) (bitPut (sectorRegion t j) 7 true)) s
  let s2 := emitPlain (cutRegion s1 r) 0x0C07 sevError (sectorSource k)
    [(5, r), (4, k), (32, scrubAddr k n), (10, w), (8, p.getD 0xFF)]
  match p with
  | none => s2
  | some p =>
    if (pipe s2 p).st = .running then haltNow s2 p .uncorrectable
    else if (pipe s2 p).st = .idle ∨ (pipe s2 p).st = .loaded then updPipe s2 p fun q => { q with st := .halted, haltStatus := .uncorrectable, haltBasin := noBasin }
    else s2

/-- The end of a scrub pass, once every frame of every configured sector was read. -/
def scrubPass (s : State) : State :=
  let ks := (List.range 16).filter fun k => (sectorRegion s k).testBit 5
  if ks.all fun k => (List.range scrubFrames).all fun n => s.cfg.scrubbed.contains (k * 2048 + n) then
    let v := winGet s (cfgWin 0x80)
    odBump (winSet (updCfg s fun c => { c with scrubbed := [], benign := [], told := [] }) (cfgWin 0x80) (min (v % 2 ^ 24 + 1) 0xFFFFFF)) 0x5910 4 1
  else s

/-- CFG_SCRUB_FRAME (R357): the scrubber reads a frame of both planes and meets at most one bad 64-bit word. Active: 0 clean and
equal, 1 to 3 corrected or unequal in the low half, the high half or both, 4 uncorrectable. Staged: 0 clean, 1 corrected, 2
uncorrectable. -/
def cfgScrubFrameState (k n word active staged : Nat) (s : State) : State :=
  if odRaw s 0x590003 = 0 ∨ domainOn s (128 + k) = false ∨ (sectorRegion s k).testBit 5 = false ∨ scrubPaused s k then s
  else
    let v := sector s k
    let lo := essentialWord v n (2 * word)
    let hi := essentialWord v n (2 * word + 1)
    let s1 := updCfg s fun c => { c with scrubbed := if c.scrubbed.contains (k * 2048 + n) then c.scrubbed else (k * 2048 + n) :: c.scrubbed }
    let at_ := if lo then 2 * word else 2 * word + 1
    let s2 :=
      if active = 0 then
        if staged = 0 then updSector s1 k fun v => { v with clean := tset 0 v.clean n (((scrubServes s k).1.map fun p => (pipe s p).epoch).getD 0) }
        else benignUpset s1 k n
      else if active = 4 then
        if staged = 2 then if lo || hi then regionFails s1 k n at_ else benignUpset s1 k n
        else if lo || hi then essentialUpset s1 k n at_ else benignUpset s1 k n
      else if staged = 2 then benignUpset s1 k n
      else if active.testBit 0 && lo then essentialUpset s1 k n (2 * word)
      else if active.testBit 1 && hi then essentialUpset s1 k n (2 * word + 1)
      else benignUpset s1 k n
    scrubPass s2

/-! ### Meanings -/

/-- The meaning of CFG_GO. -/
def execCfgGo (s : State) : Host.Outcome State Fault Refusal :=
  .next (cfgGoState s)

/-- The meaning of CFG_DEADLINE. -/
def execCfgDeadline (s : State) : Host.Outcome State Fault Refusal :=
  .next (cfgDeadlineState s)

/-- The meaning of CFG_ENUM_WAIT_EXPIRED. -/
def execCfgEnumWaitExpired (s : State) : Host.Outcome State Fault Refusal :=
  .next (cfgEnumWaitExpiredState s)

/-- The meaning of STRAND_START_MARK. -/
def execStrandStartMark (s : State) : Host.Outcome State Fault Refusal :=
  .next (strandStartMarkState s)

/-- The meaning of CFG_SCRUB_FRAME. -/
def execCfgScrubFrame (sector : Nat) (frame : Nat) (word : Nat) (active : Nat) (staged : Nat) (s : State) : Host.Outcome State Fault Refusal :=
  guardUnit (sector < 16 ∧ frame < 1585 ∧ word < 512 ∧ active < 5 ∧ staged < 3) (cfgScrubFrameState sector frame word active staged s)

end Sys2Proof.Machine
end

