-- ==== Sys2Proof/Machine/Recorder.lean ====
section
/-! DEFINITION. The event recorder (R492-R499) with the strikes it brings about (R442), and SHADOW_SIG (R437, R438). -/
namespace Sys2Proof.Machine

/-- Change the management side of the saddle. -/
def updMgmt (s : State) (f : Mgmt → Mgmt) : State := { s with mgmt := f s.mgmt }

/-- Whether test mode is entered (R549): tmode as sampled. -/
def testMode (s : State) : Bool := s.boot.straps.2.2.2.2 == 1

/-- POWER_CYCLES (R470). -/
def powerCycles (s : State) : Nat := winGet s 0x0200000F0078

/-- TIME_KIND (R494): 1 in a start-up, in test mode, and in recovery. -/
def timeKind (s : State) : Nat :=
  if !s.svc.testBit 1 || testMode s || s.boot.persist || s.power.badCount then 1 else 0

/-- The 32 bytes of a record (R492, R494). -/
def recordBytesOf (s : State) (seq : Nat) (e : Event) : List Byte :=
  let tk := timeKind s
  let time := if tk = 1 then seq else (powerCycles s % 2 ^ 32) * 2 ^ 32 + opSeconds s % 2 ^ 32
  let bs := leBytes 4 seq ++ leBytes 2 e.code ++ leBytes 1 (tk * 128 + e.sev % 4) ++ leBytes 1 (e.detail / 2 ^ 96)
    ++ leBytes 2 e.source ++ leBytes 8 time ++ leBytes 12 (e.detail % 2 ^ 96)
  bs ++ leBytes 2 (crc16 bs)

/-- A notice waits for the bus (R490): at most 16, others are dropped and counted. -/
def noticeOf (s : State) (e : Event) (bs : List Byte) : State :=
  if e.sev < odRaw s 0x1F0301 then s
  else if s.mgmt.notices.length ≥ 16 then odBump s 0x1F02 4 1
  else updMgmt s fun m => { m with notices := m.notices ++ [bs] }

/-- Slots of the log. -/
def logSlots : Nat := 65536

/-- The slot a sequence number takes (R497). -/
def slotOfSeq (r : Recorder) (seq : Nat) : Nat := (seq + 2 ^ 32 - r.first % 2 ^ 32) % 2 ^ 32

/-- The saddle takes an event (R496, R499): it enters the queue with the next sequence number, is dropped when the queue is
full, or is counted when the log is full. -/
def recordEvent (s : State) (e : Event) : State :=
  let r := s.log
  if slotOfSeq r r.head ≥ logSlots then
    let (f, s1) := takeFree { s with log := { r with overflow := holdAdd r.overflow 1 } }
    noticeOf s1 e (recordBytesOf s1 (f % 2 ^ 32) e)
  else if r.queue.length ≥ 256 then
    { s with log := { r with drops := holdAdd r.drops 1, dropRun := r.dropRun + 1, dropCode := if r.dropRun = 0 then e.code else r.dropCode } }
  else
    let bs := recordBytesOf s r.head e
    let s1 := { s with log := { r with queue := r.queue ++ [(r.head, bs)], head := (r.head + 1) % 2 ^ 32 } }
    let s2 :=
      match e.cmd with
      | some c => updCmd s1 c fun x => { x with firstEvent := match x.firstEvent with | some q => some q | none => some r.head }
      | none => s1
    let s3 := noticeOf s2 e bs
    if slotOfSeq r r.head = 65279 then emitPlain s3 0x1203 sevWarning srcSaddle [(16, logSlots - 65280), (32, r.first)] else s3

/-- EVENT_RECORD (R496, R442): the saddle takes an event handed to it, and the strikes it carries are given. -/
def eventRecordState (k : Nat) (s : State) : State :=
  match s.handed[k]? with
  | none => s
  | some e =>
    let s1 := recordEvent { s with handed := s.handed.eraseIdx k } e
    e.strike.foldl (fun t d => giveStrike t d.1 d.2 e.code) s1

/-- Event 0x1206 once the queue has room again (R496). -/
def dropsReported (s : State) : State :=
  if s.log.dropRun = 0 then s
  else
    recordEvent { s with log := { s.log with dropRun := 0 } }
      ⟨0x1206, sevWarning, srcSaddle, packDetail [(32, s.log.dropRun), (16, s.log.dropCode)], none, []⟩

/-- RECORD_FLASH_WRITE (R497): the oldest queued record is written to its slot; not while the log is being erased or
flash_hold_n is low (R546). A write that fails leaves the record queued. -/
def recordFlashWriteState (ok : Bool) (s : State) : State :=
  match s.log.queue with
  | [] => s
  | (seq, bs) :: rest =>
    if s.log.clearing || s.boot.held || !ok then s
    else dropsReported { s with log := { s.log with queue := rest, log := tset [] s.log.log (slotOfSeq s.log seq) bs } }

/-- Whether 32 bytes are a record (R492). -/
def recordOk (bs : List Byte) : Bool := fieldAt bs 30 2 == crc16 (bs.take 30)

/-- The clear mark of R502 in the persistent store: INDEX 0x8000, SUBINDEX 0xF0. -/
def clearMarkKey : Nat := 0x8000F0

/-- The saddle reads the log at power-up (R498): FIRST, HEAD, a recovered clear, and a torn slot. -/
def readLog (s : State) : State :=
  let l := s.log.log
  let s0 := { s with log := { s.log with queue := [], drops := 0, dropRun := 0, dropCode := 0, clearing := false } }
  if l.isEmpty then
    match s.mgmt.store.reverse.find? fun e => e.1 == clearMarkKey with
    | some (_, v) =>
      let first := (fieldAt v 0 4 + 257) % 2 ^ 32
      let s1 := { s0 with log := { s0.log with first := first, head := first, overflow := 0 } }
      recordEvent s1 ⟨0x1201, sevInfo, srcSaddle, fieldAt v 4 13, none, []⟩
    | none => { s0 with log := { s0.log with first := 0, head := 0 } }
  else
    let first := fieldAt (tget [] l 0) 0 4
    let s1 := { s0 with log := { s0.log with first := first, head := (first + l.length) % 2 ^ 32 } }
    match l.find? fun e => !recordOk e.2 with
    | some (slot, _) =>
      recordEvent s1 ⟨0x1202, sevWarning, srcSaddle, packDetail [(16, slot), (32, (first + slot) % 2 ^ 32)], none, []⟩
    | none => s1

/-- SHADOW_SIG (R437, R448): accepted only from the interface of the dale's partner; the primary compares what it has. -/
def shadowSigState (d value : Nat) (src : Src) (s : State) : State :=
  let x := dale s d
  match x.partner with
  | none => answer s .formatError 0
  | some q =>
    if x.isPartner ∨ src ≠ .col (daleCol q) then answer s .formatError 0
    else answer (comparePair (updDale s d fun y => { y with sigsSeen := y.sigsSeen ++ [value % 2 ^ 32] }) d 0) .done 0

/-! ### Meanings -/

/-- The meaning of SHADOW_SIG. -/
def execShadowSig (d : Nat) (value : Nat) (src : Src) (s : State) : Host.Outcome State Fault Refusal :=
  guardUnit (d < 512) (shadowSigState d value src s)

/-- The meaning of EVENT_RECORD. -/
def execEventRecord (k : Nat) (s : State) : Host.Outcome State Fault Refusal :=
  .next (eventRecordState k s)

/-- The meaning of RECORD_FLASH_WRITE. -/
def execRecordFlashWrite (ok : Bool) (s : State) : Host.Outcome State Fault Refusal :=
  .next (recordFlashWriteState ok s)

end Sys2Proof.Machine
end

