-- ==== Sys2Proof/Machine/Power.lean ====
section
/-! DEFINITION. The saddle's power side (R451-R475, R30-R33, R543): samples and filters, rules and fixed trips, the core supply,
the limiter, GATE and WAKE of domains, device sleep, counters and rule sets. -/
namespace Sys2Proof.Machine

/-! ### Counters (R470, R471) -/

/-- A persistence record of the counters. -/
def counterRecord (s : State) : List Byte :=
  let bs := leBytes 8 (opSeconds s) ++ leBytes 4 (powerCycles s)
  bs ++ leBytes 4 (crc32 bs)

/-- The flash address of the next counter record: two sectors of 256 records used in turn. -/
def counterAddr (s : State) : Nat := 0x01FF0000 + 16 * (s.power.counters.length % 512)

/-- Persist the counters for a path that waits for it: 0 CAN FD, 1 the Heonlink window, 2 none, 3 ORDERLY_SHUTDOWN's own row.
While flash_hold_n is low the write waits (R546). -/
def persistFor (s : State) (ok : Bool) (path : Nat) : State :=
  if s.boot.held then updMgmt s fun m => { m with waiting := m.waiting ++ [(0, counterRecord s, path)] }
  else if ok then updPower s fun p => { p with counters := p.counters ++ [counterRecord s], badCount := false }
  else
    emitPlain (updPower s fun p => { p with badCount := true }) 0x110A sevError srcSaddle
      [(32, counterAddr s), (32, opSeconds s)]

/-- Persist the counters, with nobody waiting. -/
def persistCounters (s : State) (ok : Bool) : State := persistFor s ok 2

/-- COUNTER_PERSIST: the persistence of every 900 s. -/
def counterPersistState (ok : Bool) (s : State) : State := persistCounters s ok

/-- ORDERLY_SHUTDOWN (R470, R474): 1 persists the counters and is answered once they are in flash (R546); other values are
refused. -/
def orderlyShutdownState (value : Nat) (s : State) : State :=
  if value ≠ 1 then answer s .formatError 0
  else if s.boot.held then persistFor s true 3
  else answer (persistCounters s true) .done 0

/-! ### Inputs and filters (R460, R461, R543) -/

/-- What a sample of an input gives; an input not sampled, or a failed read of the rail current, keeps its value (R540). -/
def sampledInput (s : State) (raw : List (Nat × Int)) (avsOk : Bool) (i : Nat) : Int :=
  let prev := (tget none s.power.raw i).getD 0
  let now := ((raw.find? fun e => e.1 == i).map (·.2)).getD prev
  if i < 0x200 then (if daleOn s i then now else 0)
  else if i = 0x41D then (if avsOk then now else prev)
  else now

/-- The measured supply: the mean of the 16 supply monitors (R457). -/
def meanMonitor (v : Nat → Int) : Nat := (((List.range 16).foldl (fun a m => a + v (0x400 + m)) 0) / 16).toNat

/-- Package power (R543), in W: the core rail and six other rails by their currents, and 6 W. -/
def packagePower (mv : Nat) (icore : Int) (isns : Nat → Int) : Int :=
  ((mv : Int) * icore + 1100 * isns 0 + 400 * isns 1 + 1800 * isns 2 + 750 * isns 3 + 750 * isns 4 + 1200 * isns 5) / 1000 + 6

/-- The hottest dale diode, and the slowest powered dale (inputs 0x41E and 0x41F). -/
def hottestDiode (v : Nat → Int) : Int := (List.range 511).foldl (fun a i => max a (v (0x201 + i))) (v 0x200)
def slowestOf (v : Nat → Int) (ds : List Nat) : Int :=
  match ds with
  | [] => 0
  | d :: rest => rest.foldl (fun a e => min a (v e)) (v d)

/-- Every input of a sample, in order. The currents isns_0 to isns_5 follow the numbered inputs as 0x420 to 0x425. -/
def sampleInputs (s : State) (raw : List (Nat × Int)) (avsOk : Bool) : List Int :=
  let v := sampledInput s raw avsOk
  let isns (k : Nat) : Int := ((raw.find? fun e => e.1 == 0x420 + k).map (·.2)).getD 0
  (List.range 0x41C).map v ++
    [packagePower (meanMonitor v) (v 0x41D) isns, v 0x41D, hottestDiode v, slowestOf v ((List.range 512).filter (daleOn s))]

/-- The filter class of an input. -/
def inputClass (i : Nat) : Nat :=
  if i < 0x200 then 0 else if i < 0x400 then 1 else if i < 0x410 then 2 else if i < 0x418 then 3 else if i < 0x41C then 4
  else if i = 0x41C then 5 else if i = 0x41D then 6 else 7

/-- A 40-bit signed value. -/
def wrap40 (x : Int) : Int := (x + 2 ^ 39) % 2 ^ 40 - 2 ^ 39

/-- One filter step (R461). -/
def filterStep (first : Bool) (k : Nat) (y x : Int) : Int :=
  if first then wrap40 (x * 256) else wrap40 (y + (x * 256 - y) / 2 ^ k)

/-- The filters of a sample. `slow` chooses the constant. -/
def filterAll (s : State) (xs : List Int) (slow : Bool) : Tab Int :=
  let p := s.power
  (List.range 0x420).foldl (fun t i =>
    let k := (p.filters.getD (2 * inputClass i + (if slow then 1 else 0)) 0#8).toNat
    let y := filterStep (tget none p.raw i).isNone k (tget 0 (if slow then p.slow else p.fast) i) (xs.getD i 0)
    if y = 0 then t else t ++ [(i, y)]) []

/-- A value of an input in a view of R462, as posted by the last sample: 0 raw, 1 fast, 2 slow. -/
def inputValue (p : Power) (view i : Nat) : Int :=
  match view with
  | 0 => (tget none p.raw i).getD 0
  | 1 => tget 0 p.fast i / 256
  | _ => tget 0 p.slow i / 256

/-! ### Rates (R30-R33) -/

/-- A rate register refreshed (R31): SEQ advances. -/
def postRate (s : State) (a : Nat) (f : Int) : State :=
  winSet s a ((winGet s a / 2 ^ 24 + 1) % 256 * 2 ^ 24 + f.toNat % 2 ^ 16)

/-- Whether the samples of a Basin-1 came. -/
def rateFresh (s : State) (raw : List (Nat × Int)) (g : Nat) : Bool :=
  !domainOn s g || (basin1Dales g).all fun d => raw.any fun e => e.1 == d

/-- Post RATE_MIN, RATE_MEAN and RATE_B1 (R31). -/
def postRates (s : State) (raw : List (Nat × Int)) (xs : List Int) : State :=
  let v (d : Nat) : Int := xs.getD d 0
  let ds := (List.range 512).filter fun d => daleOn s d && !(dale s d).isolated
  let mean : Int := if ds.isEmpty then 0 else ds.foldl (fun a d => a + v d) 0 / ds.length
  let s1 := postRate (postRate s 0x020000000010 (slowestOf v ds)) 0x020000000014 mean
  (List.range 128).foldl (fun t g =>
    if rateFresh s raw g then
      postRate (updPower t fun p => { p with stale := p.stale.filter (· != g) }) (0x020000000100 + 4 * g)
        (slowestOf v ((basin1Dales g).filter (daleOn s)))
    else t) s1

/-- RATE_SAMPLE_STALE (R33): event 0x0105 once for a stall. -/
def rateSampleStaleState (g : Nat) (s : State) : State :=
  if s.power.stale.contains g then s
  else
    let r := winGet s (0x020000000100 + 4 * g)
    emitPlain (updPower s fun p => { p with stale := p.stale ++ [g] }) 0x0105 sevWarning (1 * 2 ^ 13 + 4 * g)
      [(7, g), (8, r / 2 ^ 24), (16, r % 2 ^ 16)]

/-! ### Rules (R462-R464) -/

/-- A domain a GATE or WAKE may name, or the whole device (R452, R464). -/
def gateTarget (n : Nat) : Bool := n == 0xFF || switchable n

/-- Whether a rule has no refused field (R462, R464). -/
def ruleOk (r : Nat) : Bool :=
  let a := ruleArgA r
  !ruleValid r ||
    (ruleAction r ≤ 5 && ruleView r != 3 && ruleInput r < 0x420 && 1 ≤ ruleHold r &&
      match ruleAction r with
      | 0 => 550 ≤ a && a ≤ 850
      | 1 => 1 ≤ a % 256 && basinOk (ruleArgB r)
      | 2 => gateTarget (a % 256)
      | 3 => gateTarget (a % 256)
      | 4 => bitsOf a 9 8 != 3
      | _ => true)

/-- One sample of one rule (R463): the rule's bit and its count after, and whether it became active. -/
def ruleSample (p : Power) (active : Bool) (n r : Nat) : Bool × Nat × Bool :=
  let x := inputValue p (ruleView r) (ruleInput r)
  let th := ruleThreshold r
  let cond :=
    if active then (if ruleCmp r then decide (x > th + ruleHyst r) else decide (x < th - ruleHyst r))
    else (if ruleCmp r then decide (x ≤ th) else decide (x ≥ th))
  if !ruleValid r then (false, 0, false)
  else if cond then (if n + 1 ≥ ruleHold r then (!active, 0, !active) else (active, n + 1, false))
  else (active, 0, false)

/-- Evaluate the rules on the values of a sample: the state, and the rules that became active. -/
def evalRules (s : State) : State × List Nat :=
  (List.range 64).foldl (fun (acc : State × List Nat) i =>
    let (t, on) := acc
    let (a, n, new) := ruleSample t.power ((rulesActive t).testBit i) (tget 0 t.power.hold i) (t.power.rules.getD i 0)
    let t1 := winSet (updPower t fun p => { p with hold := tset 0 p.hold i n }) 0x0200000F0050 (bitPut (rulesActive t) i a)
    (if new then odBump t1 0x2010 3 1 else t1, if new then on ++ [i] else on)) (s, [])

/-! ### Emergency stop (R465, R466) -/

/-- The state of the core, the edge and the host's view is lost; what the saddle, OTP, flash and the dictionary hold stays. -/
def coreLost (s : State) : State :=
  { State.reset with
    pending := s.pending, win := s.win.filter (fun e => (0x0200000F0000 ≤ e.1 && e.1 < 0x020000100000) || e.1 < 0x020000010000),
    od := s.od, handed := s.handed, ans := s.ans, free := s.free, sec := s.sec, power := s.power, mgmt := s.mgmt, log := s.log,
    boot := s.boot, tap := s.tap }

/-- DOMAIN_ON with the saddle alone. -/
def onlySaddle (s : State) : State :=
  (List.range 7).foldl (fun t w => winSet t (0x0200000F0010 + 4 * w) (if w = 6 then 2 ^ 6 else 0)) s

/-- What the core's loss of power leaves: of a dale what it keeps without power stays until a reset (R75). -/
def coreUnpowered (s : State) : State :=
  { coreLost s with dales := s.dales.foldl (fun t e => tset Dale.reset t e.1 (daleLoss e.2)) [] }

/-- The saddle's domain alone is on, the supply commanded to 0 V, and no start-up goes on (R466). -/
def coreStopped (s : State) : State :=
  let s1 : State := { onlySaddle s with
    power := { s.power with stopped := true, sw := [], target := 0, reached := false, sleep := 0, toLoad := none },
    boot := { s.boot with persist := true, starting := false }, cfg := { State.reset.cfg with st := 0, boot := false } }
  winSet s1 0x0200000F0000 (winGet s1 0x0200000F0000 % 2 ^ 16)

/-- Emergency stop (R466): alert_n, event 0x1109 and the counters; then every other domain is off without drain. -/
def emergencyStop (s : State) (trip : Bool) (index input : Nat) (value : Int) : State :=
  if s.power.stopped then s
  else
    let s1 := recordEvent (updPower s fun p => { p with alert := true })
      ⟨0x1109, sevError, srcSaddle,
        packDetail [(1, if trip then 1 else 0), (6, index), (11, input), (32, (value % 2 ^ 32).toNat)], none, []⟩
    coreStopped (coreUnpowered (persistCounters s1 true))

/-- The fixed trips of R465: the first input that meets a trip's condition, by trip. -/
def tripInput (p : Power) (t : Nat) : Option Nat :=
  let at_ (lo n : Nat) (x : Int) : Option Nat := ((List.range n).map (lo + ·)).find? fun i => decide (inputValue p 0 i ≥ x)
  match t with
  | 0 => at_ 0x200 512 (125 * 16)
  | 1 => at_ 0x410 8 (105 * 16)
  | _ => at_ 0x400 16 900

/-- Evaluate the fixed trips (R465): two consecutive raw samples. -/
def evalTrips (s : State) : State :=
  (List.range 3).foldl (fun t k =>
    match tripInput t.power k with
    | none => updPower t fun p => { p with trips := tset 0 p.trips k 0 }
    | some i =>
      let n := tget 0 t.power.trips k + 1
      let t1 := updPower t fun p => { p with trips := tset 0 p.trips k n }
      if n ≥ 2 then emergencyStop t1 true k i (inputValue t.power 0 i) else t1) s

/-! ### GATE, WAKE and device sleep (R452-R455, R464, R472) -/

/-- DEVICE_SLEEP_ENTER (R472): no new fetches, and the domains switch off in order. -/
def deviceSleepEnterState (_requester : Nat) (s : State) : State :=
  if s.power.stopped || s.power.sleep != 0 then s
  else sleepNext 10 (updPower s fun p => { p with sleep := 1 })

/-- DOMAIN_GATE (R453, R454): a GATE of a domain that R452 keeps on is refused. -/
def domainGateState (n requester rule : Nat) (s : State) : State :=
  if switchable n then answer (gateDomain s n (requester % 4) rule) .done 0 else answer s .formatError 0

/-- DOMAIN_WAKE (R454, R455): a deferred GATE of the domain stands until its pipelines are released. -/
def domainWakeState (n requester rule : Nat) (s : State) : State :=
  if switchable n then answer (wakeDomain s n (requester % 4) rule) .done 0 else answer s .formatError 0

/-- Act on a rule that became active (R463, R464). `on` are the rules of the sample. -/
def ruleActs (on : List Nat) (s : State) (i : Nat) : State :=
  let r := s.power.rules.getD i 0
  let a := ruleArgA r
  let x := inputValue s.power (ruleView r) (ruleInput r)
  let woken := on.any fun j =>
    let q := s.power.rules.getD j 0
    ruleAction q == 3 && ruleArgA q % 256 == a % 256
  match ruleAction r with
  | 2 => if woken then s else if a % 256 = 0xFF then deviceSleepEnterState 0 s else gateDomain s (a % 256) 0 i
  | 3 => if a % 256 = 0xFF then s else wakeDomain s (a % 256) 0 i
  | 4 => emitPlain s 0x1106 (bitsOf a 9 8) srcSaddle [(6, i), (8, a % 256), (11, ruleInput r), (32, (x % 2 ^ 32).toNat)]
  | 5 => emergencyStop s false i (ruleInput r) x
  | _ => s

/-- Whether an active rule wakes the whole device in this sample (R464). -/
def wakesDevice (s : State) (on : List Nat) : Bool :=
  on.any fun j => ruleAction (s.power.rules.getD j 0) == 3 && ruleArgA (s.power.rules.getD j 0) % 256 == 0xFF

/-! ### The core supply (R456, R458, R530) -/

/-- The floor in force, a commit in progress included (R319, R355 step 2). -/
def floorNow (s : State) : Nat := max (floorMv s) (if s.cfg.st = 4 then hdrFloor s.cfg.header else 0)

/-- Whether the service is the reduced one of R530, for the supply. -/
def reducedSupply (s : State) : Bool := s.boot.starting && s.boot.stage < 12

/-- The supply target of R456. -/
def supplyTarget (s : State) : Nat :=
  if s.power.stopped then 0
  else if s.power.sleep = 2 then 550
  else
    let v0 := if reducedSupply s then 600 else odRaw s 0x200001
    let v1 := (List.range 64).foldl (fun v i =>
      let r := s.power.rules.getD i 0
      if (rulesActive s).testBit i && ruleAction r == 0 then min v (ruleArgA r) else v) v0
    min (max (max (min v1 s.power.limiterV) (floorNow s)) 550) 850

/-- Set the target, and post VCORE with the measured supply. -/
def setTarget (s : State) (measured : Nat) : State :=
  let t := supplyTarget s
  let near := t ≤ measured + 25 && measured ≤ t + 25
  winSet (updPower s fun p => { p with reached := if t = p.target then p.reached || near else near, target := t })
    0x0200000F0000 (t * 2 ^ 16 + measured % 2 ^ 16)

/-- SUPPLY_DEVIATION (R457): the measured supply has differed from a target once reached by more than 25 mV. -/
def supplyDeviationState (s : State) : State :=
  let m := supplyMv s
  let t := s.power.target
  if !s.power.reached || (t ≤ m + 25 && m ≤ t + 25) then s
  else
    let off (i : Nat) : Nat := (inputValue s.power 0 (0x400 + i) - t).natAbs
    let worst := (List.range 16).foldl (fun b i => if off i > off b then i else b) 0
    emitPlain (updPower s fun p => { p with reached := false }) 0x110B sevWarning srcSaddle [(16, t), (16, m), (4, worst)]

/-- LIMITER_TICK (R458): it acts in every state but asleep, where R472 does not list it. -/
def limiterTickState (s : State) : State :=
  let p := s.power
  let pw := inputValue p 1 0x41C
  let l : Int := odRaw s 0x200002
  let b := max (floorNow s) 550
  if p.stopped || p.sleep == 2 then s
  else
    let p1 :=
      if pw > l then
        if p.target > b then { p with limiterV := p.target - 5 } else { p with gap := min (p.gap + 8) 248 }
      else if 100 * pw < 97 * l then
        if p.gap > 0 then { p with gap := p.gap - 8 } else { p with limiterV := min (p.limiterV + 5) 850 }
      else p
    let s1 : State := { s with power := { p1 with rested := p1.limiterV == 850 && p1.gap == 0 } }
    let s2 := if p1 = p then s1 else odBump s1 0x2010 2 1
    let watts := (pw % 2 ^ 16).toNat
    let s3 := if pw > l ∧ p.rested = true then
        emitPlain s2 0x1104 sevWarning srcSaddle [(16, watts), (16, odRaw s 0x200002), (16, min p.target p1.limiterV)]
      else s2
    if p.gap = 0 ∧ p1.gap > 0 then emitPlain s3 0x1105 sevWarning srcSaddle [(12, floorNow s), (8, p1.gap), (16, watts)] else s3

/-! ### The sample (R460-R466) -/

/-- OP_SECONDS counts ten thousand samples of 100 µs (R470). -/
def countTicks (s : State) : State :=
  let s1 := updPower s fun p => { p with ticks := (p.ticks + 1) % 10000 }
  if s.power.ticks = 9999 then winSet s1 0x0200000F0070 ((opSeconds s + 1) % 2 ^ 64) else s1

/-- SENSOR_SAMPLE without what a WAKE of the whole device starts: that is part of bring-up. -/
def samplePart (raw : List (Nat × Int)) (avsOk : Bool) (s : State) : State × Bool :=
  let xs := sampleInputs s raw avsOk
  let fast := filterAll s xs false
  let slow := filterAll s xs true
  let s1 := postRates (countTicks s) raw xs
  let s2 := updPower s1 fun p =>
    { p with raw := (List.range 0x420).map fun i => (i, some (xs.getD i 0)), fast := fast, slow := slow }
  let (s3, on) := evalRules s2
  let s4 := setTarget s3 (meanMonitor fun i => xs.getD i 0)
  (evalTrips (on.foldl (ruleActs on) s4), wakesDevice s3 on)

/-! ### The end of a wake (R280, R455) -/

/-- The packets whose head lies in a buffer of a col now came before its unit's wake (R280). The buffers of a col have the keys
from 128 times its index on. -/
def markLate (s : State) (c : Nat) : State :=
  { s with net := { s.net with bufs := s.net.bufs.map fun e =>
      if e.1 / 128 = c then (e.1, e.2.map fun f => if f.head then { f with late := some .domainOff } else f) else e } }

/-- A col whose unit reports ready leaves absorb for DOMAIN_OFF; event 0x0905 but at a start-up wake (R280, R527). -/
def leaveAbsorb (s : State) (c : Nat) (quiet : Bool) : State :=
  if (ni s c).state = 3 then
    let s1 := updNi (markLate s c) c fun n => { n with state := 0 }
    if quiet then s1 else emitPlain s1 0x0905 sevInfo (colSource c) [(10, c), (32, (ni s c).episode)]
  else s

/-- Slots 0 to 22 of a dale from the accepted base image (R142, R526). -/
def fillSlots (s : State) (d : Nat) : State :=
  let k := odRaw s 0xA00006
  if k < 2 then
    updDale s d fun x =>
      { x with sfSlots := (bodyEntries (envBody (Config.baseCopy k))).foldl (fun t e => if e.1 < 23 then tset none t e.1 (some e.2) else t) x.sfSlots }
  else s

/-- What a domain gains when its wake ends (R455). -/
def domainReady (s : State) (n : Nat) (quiet : Bool) : State :=
  if n < 128 then
    (basin1Dales n).foldl (fun t d =>
      leaveAbsorb (updNi (fillSlots t d) (daleCol d) fun v => { v with filled := true }) (daleCol d) quiet) s
  else if isQuad n then leaveAbsorb (groupWakes s (quadGroup n)) (peerCol (quadGroup n)) quiet
  else if isEdgeCore n then
    (dieCols ((n - 152) / 9)).foldl (fun t c => leaveAbsorb t c quiet)
      ((List.range 4).foldl (fun t i => groupWakes t ((n - 152) / 9 * 4 + i)) (groupWakes s (16 + (n - 152) / 9)))
  else if n = 196 then leaveAbsorb s cmdCol quiet
  else if n = 197 then leaveAbsorb s securityCol quiet
  else s

/-- DOMAIN_WOKEN (R455): the time of a wake has passed; event 0x1102 but at a start-up wake. A GATE that waited starts. -/
def domainWokenState (n micros : Nat) (s : State) : State :=
  match switchOf s n with
  | none => s
  | some w =>
    if w.off then s
    else
      let quiet := w.by_ == 3
      let s1 := domainReady (setSwitch (setDomainOn s n true) n none) n quiet
      let s2 := if quiet then s1 else
        odBump (emitPlain s1 0x1102 sevInfo srcSaddle [(8, n), (2, w.by_), (32, micros)]) 0x2010 1 1
      match w.next with
      | some (b, r) => gateDomain s2 n b r
      | none => s2

/-! ### Rule sets (R467-R469) -/

/-- The check of R468 that a rule set image fails. -/
def rulesetFault (s : State) (bs : List Byte) : Option (Nat × Status) :=
  let n := fieldAt bs 6 2
  let key := fieldAt bs 5 1
  if fieldAt bs 0 4 ≠ 0x4C555253 ∨ fieldAt bs 4 1 ≠ 1 ∨ n > 64 ∨ fieldAt bs 0x0C 4 ≠ 0x74D0 + 16 * n ∨ bs.length ≠ 0x74D0 + 16 * n
      ∨ fieldAt bs 0x30 16 ≠ 0 ∨ fieldAt bs 0x74A0 32 ≠ 0 ∨ ((bytesAt bs 0x74C0 16).any fun b => b.toNat > 15) then some (1, .formatError)
  else if key > 4 ∨ (keyOf s key).isNone then some (2, .authFail)
  else if fieldAt bs 8 4 < svnOf s 2 then some (3, .authFail)
  else if !sigOk s key (bs.take 0x40) (bytesAt bs 0x40 29792) ∨ digest32 (bs.drop 0x74C0) ≠ bytesAt bs 0x10 32 then some (4, .authFail)
  else if (List.range n).any (fun i => !ruleOk (fieldAt bs (0x74D0 + 16 * i) 16)) then some (5, .formatError)
  else none

/-- Run a rule set (R468): every rule starts inactive, MR2 is extended. -/
def runRuleset (s : State) (bs : List Byte) (gen : Nat) : State :=
  let n := fieldAt bs 6 2
  let dg := bytesAt bs 0x10 32
  let s1 := updPower s fun p =>
    { p with rules := (List.range n).map fun i => fieldAt bs (0x74D0 + 16 * i) 16, filters := bytesAt bs 0x74C0 16, digest := dg,
             svn := fieldAt bs 8 4, gen := gen, hold := [] }
  extendMr (winSet s1 0x0200000F0050 0) 2 dg

/-- Event 0x1108 of a refused rule set (R468, R469): source 0 load, 1 flash copy. -/
def rulesetRefused (s0 : State) (source key : Nat) (f : Nat × Status) : State :=
  let s := if f.1 = 2 then keyAbsent s0 key else s0
  odBump (emitPlain s 0x1108 sevError srcSaddle [(2, source), (3, f.1), (8, statusCode f.2)]) 0x9030 1 1

/-- Whether a rule set load is in progress (R473). -/
def rulesetLoading (s : State) : Bool := s.power.toLoad.isSome

/-- RULESET_CTRL (R468, R473): GO reads the image from HBM. What cannot be read leaves an image that fails check 1 (log entry 44). -/
def rulesetCtrlState (value : Nat) (s : State) : State :=
  if !value.testBit 0 then answer s .done 0
  else if rulesetLoading s then answer s .formatError 0
  else
    let a := winGet s 0x0200000F0060 % 2 ^ 48
    let (s1, h, st) := readPhys s a 64
    let n := fieldAt h 0x0C 4
    let (s2, bs, st2) := if st = .done ∧ n ≤ 0x78D0 then readPhys s1 a n else (s1, [], st)
    answer (winSet (updPower s2 fun p => { p with toLoad := some (if st2 = .done then bs else []) }) 0x0200000F006C (2 ^ 30)) .done 0

/-- RULESET_VERIFIED (R468): the checks of a load end; an image that passes runs and goes to the flash copy not in use (R469). -/
def rulesetVerifiedState (s : State) : State :=
  match s.power.toLoad with
  | none => s
  | some bs =>
    let s0 := updPower s fun p => { p with toLoad := none }
    match rulesetFault s bs with
    | some f => rulesetRefused (winSet s0 0x0200000F006C (statusCode f.2 * 2 ^ 16 + f.1 * 2 ^ 8)) 0 (fieldAt bs 5 1) f
    | none =>
      let gen := s.power.gen + 1
      let s1 := winSet (runRuleset s0 bs gen) 0x0200000F006C 0
      let s2 := updPower s1 fun p => { p with copies := tset [] p.copies (gen % 2) (leBytes 4 gen ++ leBytes 4 bs.length ++ bs) }
      emitPlain s2 0x1107 sevInfo srcSaddle [(32, fieldAt bs 8 4), (7, fieldAt bs 6 2), (32, gen), (32, fieldAt bs 0x10 4)]

/-! ### Meanings -/

/-- The meaning of COUNTER_PERSIST. -/
def execCounterPersist (ok : Bool) (s : State) : Host.Outcome State Fault Refusal :=
  .next (counterPersistState ok s)

/-- The meaning of ORDERLY_SHUTDOWN. -/
def execOrderlyShutdown (value : Nat) (s : State) : Host.Outcome State Fault Refusal :=
  .next (orderlyShutdownState value s)

/-- The meaning of RATE_SAMPLE_STALE. -/
def execRateSampleStale (g : Nat) (s : State) : Host.Outcome State Fault Refusal :=
  guardUnit (g < 128) (rateSampleStaleState g s)

/-- The meaning of DEVICE_SLEEP_ENTER. -/
def execDeviceSleepEnter (requester : Nat) (s : State) : Host.Outcome State Fault Refusal :=
  .next (deviceSleepEnterState requester s)

/-- The meaning of DOMAIN_GATE. -/
def execDomainGate (n : Nat) (requester : Nat) (rule : Nat) (s : State) : Host.Outcome State Fault Refusal :=
  guardUnit (n < 199) (domainGateState n requester rule s)

/-- The meaning of DOMAIN_WAKE. -/
def execDomainWake (n : Nat) (requester : Nat) (rule : Nat) (s : State) : Host.Outcome State Fault Refusal :=
  guardUnit (n < 199) (domainWakeState n requester rule s)

/-- The meaning of DOMAIN_WOKEN. -/
def execDomainWoken (n : Nat) (micros : Nat) (s : State) : Host.Outcome State Fault Refusal :=
  guardUnit (n < 199) (domainWokenState n micros s)

/-- The meaning of SUPPLY_DEVIATION. -/
def execSupplyDeviation (s : State) : Host.Outcome State Fault Refusal :=
  .next (supplyDeviationState s)

/-- The meaning of LIMITER_TICK. -/
def execLimiterTick (s : State) : Host.Outcome State Fault Refusal :=
  .next (limiterTickState s)

/-- The meaning of RULESET_CTRL. -/
def execRulesetCtrl (value : Nat) (s : State) : Host.Outcome State Fault Refusal :=
  .next (rulesetCtrlState value s)

/-- The meaning of RULESET_VERIFIED. -/
def execRulesetVerified (s : State) : Host.Outcome State Fault Refusal :=
  .next (rulesetVerifiedState s)

end Sys2Proof.Machine
end

