-- ==== Sys2Proof/Machine/Security.lean ====
section
/-! DEFINITION. The security engine's commands (R483-R485, R507-R522): authorised writes, keys, security versions, attestation
and the random source. -/
namespace Sys2Proof.Machine

/-- The response codes of R482. -/
def odOk : Nat := 0
def odNoEntry : Nat := 1
def odNoAccess : Nat := 2
def odRefused : Nat := 3
def odLength : Nat := 4
def odAuthFail : Nat := 5
def odUnavailable : Nat := 6
def odTransfer : Nat := 7
def odPersistFail : Nat := 8

/-- Answer a management request with a response code. -/
def odReply (s : State) (code : Nat) : State := answer s (if code = 0 then .done else .formatError) code

/-- Whether the security engine is on. -/
def securityOn (s : State) : Bool := domainOn s 197

/-! ### The nonce (R485, R522) -/

/-- Draw a new AUTH_NONCE; a draw while a health test has failed is held. -/
def drawNonce (s : State) : State :=
  if s.sec.held then updSec s fun e => { e with nonce := [], nonceHeld := true, heldDraws := e.heldDraws + 1 }
  else
    let (v, s1) := takeFree s
    updSec s1 fun e => { e with nonce := leBytes 32 v, nonceHeld := false }

/-! ### Authorised writes (R483-R485, R510) -/

/-- Bytes of a token part (R484). -/
def tokenPart (k : Nat) : Nat := if k = 8 then 1216 else 4096

/-- The token parts a path has staged, by part from 1. -/
def stagedParts (s : State) (path : Nat) : List (List Byte) := tget [] s.mgmt.tokens path

/-- Stage a token part: part 1 discards what was staged. A part of another length than R484 gives leaves the token incomplete. -/
def stageToken (s : State) (path part : Nat) (bs : List Byte) : State :=
  let old := if part = 1 then List.replicate 8 [] else (stagedParts s path ++ List.replicate 8 []).take 8
  updMgmt s fun m => { m with tokens := tset [] m.tokens path (old.set (part - 1) bs) }

/-- AUTH_TOKEN (R484). -/
def authTokenState (path part : Nat) (bytes : List Byte) (s : State) : State :=
  if bytes.isEmpty || bytes.length > 4096 then odReply s odLength else odReply (stageToken s path part bytes) odOk

/-- Whether a key index names the authority (R510). -/
def isAuthority (s : State) (k : Nat) : Bool :=
  let valid := (List.range 4).any fun i => ownerState s (i + 1) == 1
  if valid then 1 ≤ k && k ≤ 4 && ownerState s k == 1 else k == 0

/-- The check of R485 that a path's token fails for a write: 0 completeness, 1 header, 2 key, 3 signature. -/
def tokenFault (s : State) (path index sub : Nat) (value : List Byte) : Option Nat :=
  let ps := stagedParts s path
  let t := ps.flatten
  if ps.length ≠ 8 ∨ !((List.range 8).all fun i => (ps.getD i []).length == tokenPart (i + 1)) then some 0
  else if fieldAt t 0 4 ≠ 0x48545541 ∨ fieldAt t 4 1 ≠ 1 ∨ fieldAt t 6 1 ≠ sub ∨ fieldAt t 7 1 ≠ 0 ∨ fieldAt t 8 2 ≠ index
      ∨ fieldAt t 0x0A 2 ≠ 0 ∨ fieldAt t 0x0C 4 ≠ value.length ∨ fieldAt t 0x10 8 ≠ Config.uid ∨ fieldAt t 0x18 8 ≠ 0
      ∨ bytesAt t 0x20 32 ≠ s.sec.nonce ∨ bytesAt t 0x40 32 ≠ digest32 value then some 1
  else if (keyOf s (fieldAt t 5 1)).isNone ∨ isAuthority s (fieldAt t 5 1) = false then some 2
  else if !sigOk s (fieldAt t 5 1) (t.take 96) (bytesAt t 96 29792) then some 3
  else none

/-- The KEY_INDEX of a path's token. -/
def tokenKey (s : State) (path : Nat) : Nat := fieldAt (stagedParts s path).flatten 5 1

/-- An RWA write (R485): the token is checked and discarded and a new nonce is drawn. `act` takes effect under a token that
passes, and answers a response code. -/
def authorised (s : State) (path index sub : Nat) (value : List Byte) (act : Nat → State → State × Nat) : State × Nat :=
  if !securityOn s || s.sec.nonce.isEmpty then (s, odUnavailable)
  else
    let key := tokenKey s path
    let fault := tokenFault s path index sub value
    let s1 := drawNonce (updMgmt s fun m => { m with tokens := tset [] m.tokens path [] })
    match fault with
    | some f =>
      let s2 := if f = 2 then keyAbsent s1 key else s1
      let s3 := emitPlain s2 0x1204 sevError srcSaddle [(16, index), (8, sub), (1, path), (2, f), (3, key)]
      (odBump (odBump s3 0x1F02 3 1) 0x9030 1 1, odAuthFail)
    | none => act key s1

/-- Answer with a state and a response code. -/
def replyOf (r : State × Nat) : State := odReply r.1 r.2

/-! ### Keys and counters (R507-R513) -/

/-- Event 0x1308: field 0 owner digest, 1 owner state, 2 counter. -/
def otpFailed (s : State) (field k : Nat) : State × Nat :=
  (emitPlain s 0x1308 sevError srcSecurity [(2, field), (3, k)], odRefused)

/-- Write a key to both copies of the key store (R509). -/
def storeKey (s : State) (k : Nat) (key : List Byte) : State :=
  updSec s fun e => { e with store := tset [] (tset [] e.store k key) (8 + k) key, keys := tset [] e.keys k key }

/-- MR5's measurement of an operation (R518). -/
def extendMr5 (s : State) (op k : Nat) (four : List Byte) : State :=
  extendMr s 5 (leBytes 1 op ++ leBytes 1 k ++ bytesAt four 0 4 ++ [0#8, 0#8])

/-- Provision an owner slot (R511) under a signer's key. -/
def provision (bytes : List Byte) (otpOk : Bool) (signer : Nat) (s : State) : State × Nat :=
  let k := fieldAt bytes 0 1
  let key := bytes.drop 1
  let dg := digest32 key
  if k = 0 ∨ k > 4 ∨ ownerState s k ≠ 0 then (s, odRefused)
  else if !otpOk then otpFailed s 0 k
  else
    let s1 := updSec s fun e => { e with ownerDigest := tset [] e.ownerDigest k dg, programmed := bitPut e.programmed k true }
    let s2 := extendMr5 (storeKey s1 k key) 1 k dg
    (emitPlain s2 0x1303 sevInfo srcSecurity [(3, k), (3, signer), (32, fieldAt dg 0 4)], odOk)

/-- OWNER_PROVISION: the RWA write of OD 0x9004.01. -/
def ownerProvisionState (path : Nat) (bytes : List Byte) (otpOk : Bool) (s : State) : State :=
  if bytes.length ≠ 65 then odReply s odLength else replyOf (authorised s path 0x9004 1 bytes (provision bytes otpOk))

/-- The VALID owner slots. -/
def validOwners (s : State) : List Nat := [1, 2, 3, 4].filter fun k => ownerState s k == 1

/-- Revoke an owner slot (R512). -/
def revoke (k : Nat) (otpOk : Bool) (signer : Nat) (s : State) : State × Nat :=
  if k = 0 ∨ k > 4 ∨ ownerState s k ≠ 1 ∨ (validOwners s).length ≤ 1 then (s, odRefused)
  else if !otpOk then otpFailed s 1 k
  else
    let s1 := updSec s fun e => { e with revoked := bitPut e.revoked k true }
    let s2 := extendMr5 s1 2 k (tget [] s.sec.ownerDigest k)
    (emitPlain s2 0x1304 sevWarning srcSecurity [(3, k), (3, signer)], odOk)

/-- OWNER_REVOKE: the RWA write of OD 0x9004.02. -/
def ownerRevokeState (path k : Nat) (otpOk : Bool) (s : State) : State :=
  replyOf (authorised s path 0x9004 2 (leBytes 1 k) (revoke (k % 256) otpOk))

/-- Advance a security-version counter (R513): the value carries the counter in [31:24] and the new value in [7:0]. -/
def advanceSvn (value : Nat) (otpOk : Bool) (signer : Nat) (s : State) : State × Nat :=
  let c := value / 2 ^ 24 % 256
  let n := value % 256
  let old := svnOf s c
  if c > 3 ∨ n < old ∨ n > 128 then (s, odRefused)
  else if n = old then (s, odOk)
  else if !otpOk then otpFailed s 2 c
  else
    let s1 := extendMr5 (updSec s fun e => { e with svn := tset 0 e.svn c n }) 3 c (leBytes 4 n)
    (emitPlain s1 0x1305 sevInfo srcSecurity [(2, c), (8, old), (8, n), (3, signer)], odOk)

/-- SVN_ADVANCE: the RWA write of OD 0x9005.05. -/
def svnAdvanceState (path value : Nat) (otpOk : Bool) (s : State) : State :=
  replyOf (authorised s path 0x9005 5 (leBytes 4 value) (advanceSvn (value % 2 ^ 32) otpOk))

/-- VENDOR_ROOT_KEY (R509, R523): a write whose digest differs from OTP is refused. -/
def vendorRootKeyState (bytes : List Byte) (s : State) : State :=
  if !securityOn s then odReply s odUnavailable
  else if bytes.length ≠ 64 then odReply s odLength
  else if digest32 bytes ≠ vendorRootDigest then odReply s odRefused
  else odReply (storeKey s 0 bytes) odOk

/-- OWNER_KEY (R509, R523): refused unless the slot is VALID and the digest is its own. -/
def ownerKeyState (k : Nat) (bytes : List Byte) (s : State) : State :=
  if !securityOn s then odReply s odUnavailable
  else if bytes.length ≠ 64 then odReply s odLength
  else if ownerState s k ≠ 1 ∨ digest32 bytes ≠ tget [] s.sec.ownerDigest k then odReply s odRefused
  else odReply (storeKey s k bytes) odOk

/-- A key of a copy of the key store, as manufactured unless written (R509). -/
def storedKey (s : State) (copy k : Nat) : List Byte :=
  match tget [] s.sec.store (8 * copy + k) with
  | [] => if k = 0 then Config.vendorRootKey else List.replicate 64 0#8
  | key => key

/-- At power-good each key is taken from the first copy whose CRC is correct and whose digest matches OTP (R509). -/
def readKeys (s : State) : State :=
  (List.range 5).foldl (fun t k =>
    let want := if k = 0 then vendorRootDigest else tget [] t.sec.ownerDigest k
    let found := ([0, 1].filter fun c => !t.sec.storeBad.contains c).find? fun c => digest32 (storedKey t c k) == want
    updSec t fun e => { e with keys := tset [] e.keys k ((found.map fun c => storedKey t c k).getD []) }) s

/-! ### Attestation (R520, R521) -/

/-- The buffer of a path. -/
def attestOf (s : State) (path : Nat) : Attest := tget ⟨0, [], [], []⟩ s.sec.attest path
def setAttest (s : State) (path : Nat) (a : Attest) : State := updSec s fun e => { e with attest := tset ⟨0, [], [], []⟩ e.attest path a }

/-- The byte OD 0x9001 gives a slot (R523). -/
def ownerByte (s : State) (k : Nat) : Nat := if ownerState s k = 1 ∧ (keyOf s k).isNone = true then 3 else ownerState s k

/-- CFG_LAST_DIGEST (R361). -/
def cfgLastDigest (s : State) : List Byte := tget (List.replicate 64 0#8) s.mgmt.blobs (odKey 0x5921 1)

/-- The body of a report (R521), at the moment of the nonce write. -/
def reportBody (s : State) (nonce : List Byte) : List Byte :=
  leBytes 4 0x52545441 ++ [1#8, 0#8, 0#8, 0#8] ++ leBytes 8 Config.uid ++ bytesAt nonce 0 32 ++ leBytes 4 (powerCycles s)
    ++ leBytes 4 s.sec.reportSeq ++ leBytes 8 (opSeconds s) ++ ([1, 2, 3, 4].map fun k => BitVec.ofNat 8 (ownerByte s k))
    ++ ((List.range 4).flatMap fun c => leBytes 4 (svnOf s c)) ++ leBytes 4 (odRaw s 0x100203) ++ leBytes 1 Config.stepping
    ++ List.replicate 7 0#8 ++ vendorRootDigest ++ ((List.range 6).flatMap (mrOf s))
    ++ ((List.range 6).flatMap fun i => leBytes 4 (tget 0 s.sec.mrCount i)) ++ List.replicate 8 0#8 ++ cfgLastDigest s
    ++ List.replicate 96 0#8

/-- ATTEST_NONCE (R520): the path's report is discarded and a new one begins. -/
def attestNonceState (path : Nat) (bytes : List Byte) (s : State) : State :=
  if !securityOn s then odReply s odUnavailable
  else if bytes.length ≠ 32 then odReply s odLength
  else
    let s1 := updSec s fun e => { e with reportSeq := (e.reportSeq + 1) % 2 ^ 32 }
    odReply (setAttest s1 path ⟨1, bytes, reportBody s1 bytes, []⟩) odOk

/-- ATTESTATION_SIGNED (R520, R521): signing ends; when it cannot complete, state 3 and event 0x1306. -/
def attestationSignedState (path : Nat) (ok : Bool) (s : State) : State :=
  let a := attestOf s path
  if a.st ≠ 1 then s
  else if ok then
    let s1 := setAttest s path { a with st := 2, sig := Config.slhSign a.body }
    odBump (emitPlain s1 0x1307 sevInfo srcSecurity [(32, fieldAt a.body 0x34 4), (1, path), (32, fieldAt a.nonce 0 4)]) 0x9030 3 1
  else emitPlain (setAttest s path { a with st := 3 }) 0x1306 sevError srcSecurity [(1, 0), (16, 0), (1, 1)]

/-! ### Random source (R522) -/

/-- ENTROPY_FAULT: a health test fails; the source restarts and holds every draw. -/
def entropyFaultState (proportion : Bool) (s : State) : State :=
  odBump (emitPlain (updSec s fun e => { e with held := true }) 0x1306 sevError srcSecurity
    [(1, if proportion then 1 else 0), (16, s.sec.heldDraws), (1, 0)]) 0x9030 2 1

/-- Lane seeds that wait for a draw take a value. -/
def seedLanes (s : State) (draw : State → Nat × State) : State :=
  (List.range 144).foldl (fun t n =>
    if (sLane t n).stage = 2 ∧ (sLane t n).seed = 0 then
      let (v, t1) := draw t
      updLane t1 n fun l => { l with seed := v }
    else t) s

/-- DRAW_TIMEOUT: held draws fail; a lane seed is taken as 0x5A5A_5A5A. -/
def drawTimeoutState (s : State) : State :=
  if s.sec.held then
    updSec (seedLanes s fun t => (0x5A5A5A5A, t)) fun e => { e with heldDraws := 0, nonceHeld := false }
  else s

/-- HEALTH_TESTS_PASS: held draws go on. -/
def healthTestsPassState (s : State) : State :=
  let s1 := updSec s fun e => { e with held := false, heldDraws := 0 }
  let s2 := seedLanes s1 fun t => (1 + (takeFree t).1 % (2 ^ 31 - 1), (takeFree t).2)
  if s.sec.nonceHeld then drawNonce s2 else s2

/-! ### Meanings -/

/-- The meaning of AUTH_TOKEN. -/
def execAuthToken (path : Nat) (part : Nat) (bytes : List Byte) (s : State) : Host.Outcome State Fault Refusal :=
  guardUnit (path < 2 ∧ 1 ≤ part ∧ part ≤ 8) (authTokenState path part bytes s)

/-- The meaning of OWNER_PROVISION. -/
def execOwnerProvision (path : Nat) (bytes : List Byte) (otpOk : Bool) (s : State) : Host.Outcome State Fault Refusal :=
  guardUnit (path < 2) (ownerProvisionState path bytes otpOk s)

/-- The meaning of OWNER_REVOKE. -/
def execOwnerRevoke (path : Nat) (k : Nat) (otpOk : Bool) (s : State) : Host.Outcome State Fault Refusal :=
  guardUnit (path < 2) (ownerRevokeState path k otpOk s)

/-- The meaning of SVN_ADVANCE. -/
def execSvnAdvance (path : Nat) (value : Nat) (otpOk : Bool) (s : State) : Host.Outcome State Fault Refusal :=
  guardUnit (path < 2) (svnAdvanceState path value otpOk s)

/-- The meaning of VENDOR_ROOT_KEY. -/
def execVendorRootKey (bytes : List Byte) (s : State) : Host.Outcome State Fault Refusal :=
  .next (vendorRootKeyState bytes s)

/-- The meaning of OWNER_KEY. -/
def execOwnerKey (k : Nat) (bytes : List Byte) (s : State) : Host.Outcome State Fault Refusal :=
  guardUnit (1 ≤ k ∧ k ≤ 4) (ownerKeyState k bytes s)

/-- The meaning of ATTEST_NONCE. -/
def execAttestNonce (path : Nat) (bytes : List Byte) (s : State) : Host.Outcome State Fault Refusal :=
  guardUnit (path < 2) (attestNonceState path bytes s)

/-- The meaning of ATTESTATION_SIGNED. -/
def execAttestationSigned (path : Nat) (ok : Bool) (s : State) : Host.Outcome State Fault Refusal :=
  guardUnit (path < 2) (attestationSignedState path ok s)

/-- The meaning of ENTROPY_FAULT. -/
def execEntropyFault (proportion : Bool) (s : State) : Host.Outcome State Fault Refusal :=
  .next (entropyFaultState proportion s)

/-- The meaning of DRAW_TIMEOUT. -/
def execDrawTimeout (s : State) : Host.Outcome State Fault Refusal :=
  .next (drawTimeoutState s)

/-- The meaning of HEALTH_TESTS_PASS. -/
def execHealthTestsPass (s : State) : Host.Outcome State Fault Refusal :=
  .next (healthTestsPassState s)

end Sys2Proof.Machine
end

