-- ==== Sys2Proof/Machine/Bringup.lean ====
section
/-! DEFINITION. Bring-up and reset (R525-R535), the pins (R542, R545-R547) and the test access port (R549). -/
namespace Sys2Proof.Machine

/-- Change the bring-up state. -/
def updBoot (s : State) (f : Boot → Boot) : State := { s with boot := f s.boot }

/-- Dictionary entries that keep their value over every reset (the Persistent column of the entry tables), by key. -/
def odPersistent (k : Nat) : Bool :=
  [0x400001, 0x400002, 0x480001, 0x450001, 0x381001, 0x300001, 0x300002, 0x300003, 0x590001, 0x590002, 0x590003, 0x590004,
   0x600002, 0x600003, 0x600101, 0x600102, 0x680001, 0x680002, 0x680003, 0x700001, 0x700002, 0x700003, 0x700004, 0x700005,
   0x781001, 0x781002, 0x781003, 0x200001, 0x200002, 0x1F0301, 0xA00004].contains k
    || (0x300101 ≤ k && k ≤ 0x300106) || (0x780101 ≤ k && k ≤ 0x780140)

/-! ### What a start-up keeps and reads (R527 step 1, R531, R533) -/

/-- Whether a stack's contents are filled with zeros by a start-up of a kind: 0 power-on, 1 pin, 2 core, 3 sleep wake (R531). -/
def stackRefilled (s : State) (kind k : Nat) : Bool :=
  kind == 0 || (kind < 3 && (odRaw s 0x300001 == 1 || !domainOn s (144 + k) || (kind == 2 && s.boot.persist)))

/-- Whether a byte of memory is kept. -/
def keptByte (s : State) (kind a : Nat) : Bool :=
  match regionOf a with
  | .hbm => !stackRefilled s kind (stackOf a)
  | _ => false

/-- Window registers that a start-up keeps: at power-on and pin the counters; at a core reset the power window and the rates;
at a sleep wake also the memory, sector and network windows' counters. -/
def keptWin (kind a : Nat) : Bool :=
  let o := a - 0x020000000000
  if kind < 2 then o == 0xF0070 || o == 0xF0078
  else (0xF0000 ≤ o && o < 0x100000) || o < 0x10000
    || (kind == 3 && ((0x50000 ≤ o && o < 0x80000) || (0x80000 ≤ o && o < 0xA0000)))

/-- The saddle's power side at a start-up. -/
def freshPower (p : Power) (kind : Nat) : Power :=
  let q := { p with sw := [], limiterV := 850, gap := 0, rested := true, target := 600, reached := false, stopped := false, alert := false,
                    sleep := 0, toLoad := none, stale := [] }
  if kind < 2 then { q with raw := [], fast := [], slow := [], hold := [], trips := [], ticks := 0, rules := [], filters := [], digest := [],
                            svn := 0, gen := 0 } else q

/-- The counters resume from the valid record with the highest OP_SECONDS (R471). -/
def readCounters (s : State) : State :=
  let ok := s.power.counters.filter fun r => fieldAt r 12 4 == crc32 (r.take 12)
  let best := ok.foldl (fun b r => if fieldAt r 0 8 ≥ fieldAt b 0 8 then r else b) (List.replicate 16 0#8)
  winSet (winSet s 0x0200000F0070 (fieldAt best 0 8)) 0x0200000F0078 (fieldAt best 8 4)

/-- The bytes a record of the persistent store takes (R481). -/
def storeSize (e : Nat × List Byte) : Nat := 10 + e.2.length

/-- The flash address of record n of the store. -/
def storeAddr (m : Mgmt) (n : Nat) : Nat := 0x01E00000 + 0x10000 * (m.sector % 2) + ((m.store.take n).map storeSize).sum

/-- The valid records of the store. -/
def storeValid (m : Mgmt) : List (Nat × List Byte) :=
  (List.range m.store.length).filterMap fun i => if m.torn.contains i then none else m.store[i]?

/-- Each persistent entry takes the value of its last valid record; event 0x1205 once when a record fails its CRC (R481). -/
def readStore (s : State) : State :=
  let ok := storeValid s.mgmt
  let s1 := ok.foldl (fun t e => if odPersistent e.1 then odPut t e.1 (leNat e.2) else t) { s with od := [] }
  match s.mgmt.torn.head? with
  | none => s1
  | some i =>
    let lost := (s.mgmt.torn.filterMap fun j => (s.mgmt.store[j]?).map (·.1)).eraseDups.filter fun k => !(ok.any fun e => e.1 == k)
    emitPlain s1 0x1205 sevWarning srcSaddle [(32, storeAddr s.mgmt i), (16, lost.length)]

/-- A rule set copy in flash: its generation and image (R469). -/
def rulesetCopy (p : Power) (c : Nat) : Nat × List Byte :=
  let bs := tget [] p.copies c
  (fieldAt bs 0 4, (bs.drop 8).take (fieldAt bs 4 4))

/-- The saddle verifies both rule set copies and runs the valid one with the higher generation, else an empty table with event
0x1108 (R469). -/
def readRulesets (s : State) : State :=
  let good := [0, 1].filter fun c => (rulesetFault s (rulesetCopy s.power c).2).isNone
  match good with
  | [] =>
    let bs := (rulesetCopy s.power 0).2
    rulesetRefused s 1 (fieldAt bs 5 1) ((rulesetFault s bs).getD (1, .formatError))
  | c :: rest =>
    let best := rest.foldl (fun b e => if (rulesetCopy s.power e).1 > (rulesetCopy s.power b).1 then e else b) c
    runRuleset s (rulesetCopy s.power best).2 (rulesetCopy s.power best).1

/-- The cols of the units at the border, but for the saddle's and the configuration unit's. -/
def borderCols : List Nat :=
  ((List.range 8).flatMap fun k => (List.range 8).map (hbmCol k)) ++ [cmdCol, securityCol]
    ++ (List.range 4).flatMap dieCols ++ (List.range 16).map peerCol

/-- From start-up every unit whose domain is off absorbs with DOMAIN_OFF (R276, R527); an isolated dale's col keeps its reason. -/
def startAbsorb (s : State) : State :=
  (((List.range 512).map daleCol) ++ borderCols).foldl (fun t c =>
    updNi t c fun n => { n with state := if n.state = 2 then 2 else 3, out := [], toInject := [], sending := [], drain := none }) s

/-- Domains that start-up wakes before the core has firmware (R527 steps 2, 4 and 5). -/
def startDomains (s : State) : List Nat :=
  (List.range 8).map (188 + ·) ++ [160, 169, 178, 187, 197] ++ (List.range 16).map (128 + ·)
    ++ (((List.range 36).map (152 + ·)).filter fun n => isQuad n && portEnabled s (quadGroup n)) ++ (List.range 8).map (144 + ·)

/-- What each kind of start-up keeps (R533), with the saddle's domain alone on. -/
def startKept (s : State) (kind : Nat) : State :=
  let base := coreLost s
  onlySaddle { base with
    mem := s.mem.filter (fun c => keptByte s kind c.1), synd := s.synd.filter (fun c => keptByte s kind (8 * c.1)),
    win := s.win.filter (fun e => keptWin kind e.1), od := if kind = 3 then s.od else s.od.filter (fun e => odPersistent e.1),
    power := freshPower s.power kind, handed := if kind < 2 then [] else s.handed,
    sec := { s.sec with mr := [], mrCount := [], reportSeq := 0, attest := [], held := false, heldDraws := 0 },
    mgmt := if kind < 2 then { State.reset.mgmt with store := s.mgmt.store, torn := s.mgmt.torn, sector := s.mgmt.sector }
            else { s.mgmt with blobs := [], odCmd := 0, odLen := 0, odCode := 0, odBusy := false, odData := [] },
    boot := { s.boot with kind := kind, stage := 1, starting := true, fwDone := false, baseDone := false, late := false,
                          straps := if kind = 3 then s.boot.straps else s.boot.pins, persist := s.boot.persist && kind != 0 } }

/-- Begin a start-up of a kind of R531 (R527 steps 1 to 5, R533, R534). -/
def startUp (s : State) (kind : Nat) : State :=
  let s1 := startKept s kind
  let s2 := if kind = 3 then
      { s1 with dales := s.dales, gathers := s.gathers, hbm := s.hbm, lanes := s.lanes, groupsL := s.groupsL,
                net := { s1.net with nis := s.net.nis } }
    else s1
  let s3 := (List.range 8).foldl (fun t k =>
    if stackRefilled s kind k then winSet t (hbmWin k 0) 0 else winSet t (hbmWin k 0) (winGet s (hbmWin k 0))) s2
  let s4 := if kind < 2 then readStore (readLog (readCounters s3)) else s3
  let s5 := if kind = 0 then persistCounters (winSet s4 0x0200000F0078 ((powerCycles s4 + 1) % 2 ^ 32)) true else s4
  let s6 := recordEvent s5 ⟨0x1401, sevInfo, srcSaddle, packDetail [(2, kind), (32, powerCycles s5), (32, opSeconds s5)], none, []⟩
  let s7 := drawNonce (readKeys s6)
  let s8 := if kind < 2 then readRulesets s7 else s7
  let s9 := [0xA00005, 0xA00006, 0xA00101, 0xA00102, 0xA00103, 0x100203].foldl (fun t k => odPut t k (odDefault k)) (odPut s8 0xA00002 kind)
  let s10 := winSet (winSet { s9 with hostWin := (odRaw s9 0x600101, odRaw s9 0x600102) } 0x0200000D0000 (odRaw s9 0x700001)) (cfgWin 0x14) (odRaw s9 0x590001)
  let s11 := (startDomains s10).foldl (fun t n => startOn t n 3 0) (startAbsorb s10)
  setTarget s11 (supplyMv s11)

/-- Start once power is good, rst_n and flash_hold_n are high and no persistence waits (R532, R546). -/
def tryStart (s : State) : State :=
  if s.boot.good && s.boot.rstHigh && !s.boot.held && s.mgmt.waiting.isEmpty && s.boot.stage == 0 then startUp s s.boot.kind else s

/-- Hold the saddle in reset until a start: it persists its counters first (R532). -/
def fallReset (s : State) (kind : Nat) : State :=
  { persistCounters s true with
    boot := { s.boot with stage := 0, starting := false, kind := kind }, svc := 0 }

/-- POWER_GOOD (R525, R542): the rising edge of pwr_good begins the power-on start-up. -/
def powerGoodState (s : State) : State :=
  if s.boot.good then s else tryStart (updBoot s fun b => { b with good := true, stage := 0, kind := 0, starting := false })

/-- PWR_GOOD_FALL (R542): acts as a falling edge of rst_n. -/
def pwrGoodFallState (s : State) : State :=
  if s.boot.good then updBoot (fallReset s 0) fun b => { b with good := false } else s

/-- RST_N_FALL (R532). -/
def rstNFallState (s : State) : State :=
  if !s.boot.rstHigh then s
  else if !s.boot.good then updBoot s fun b => { b with rstHigh := false }
  else updBoot (if s.boot.stage = 0 then s else fallReset s 1) fun b => { b with rstHigh := false }

/-- RST_N_RISE (R531, R532). -/
def rstNRiseState (s : State) : State :=
  if s.boot.rstHigh then s else tryStart (updBoot s fun b => { b with rstHigh := true })

/-- CORE_RESET (R531, R535): 1 starts a core reset; other values are refused. -/
def coreResetState (value : Nat) (s : State) : State :=
  if value ≠ 1 then answer s .formatError 0
  else if !s.boot.good || s.boot.stage == 0 then s
  else answer (startUp s 2) .done 0

/-- DEVICE_SLEEP_WAKE (R472): a sleeping device starts up as the sleep-wake kind. -/
def deviceSleepWakeState (s : State) : State := if s.power.sleep = 2 then startUp s 3 else s

/-- WAKE_PIN (R545): wake_n low for 1 µs wakes a sleeping device; ignored otherwise. -/
def wakePinState (s : State) : State := if s.power.sleep = 2 then startUp s 3 else s

/-- SENSOR_SAMPLE (R460-R466). -/
def sensorSampleState (raw : List (Nat × Int)) (avsOk : Bool) (s : State) : State :=
  let (t, wake) := samplePart raw avsOk s
  if wake then deviceSleepWakeState t else t

/-- FLASH_HOLD (R546): flash_hold_n goes low. -/
def flashHoldState (s : State) : State := updBoot s fun b => { b with held := true }

/-! ### Firmware and base image (R526, R527 steps 6 to 8) -/

/-- Check the copies of an image (R526): the state with the events of refused copies, and the copy accepted. -/
def checkCopies (s : State) (typ : Nat) (copy : Nat → List Byte) : State × Option Nat :=
  [0, 1].foldl (fun (acc : State × Option Nat) c =>
    match acc.2 with
    | some _ => acc
    | none =>
      match envFault acc.1 typ (copy c) with
      | none => (acc.1, some c)
      | some f =>
        (emitPlain (imageRefused acc.1 (copy c) f) 0x1402 sevError srcSaddle [(1, typ), (1, c), (4, f.1), (8, statusCode f.2)], none)) (s, none)

/-- FIRMWARE_CHECK (R527 step 6): on acceptance MR0 is extended and the command processor wakes; in test mode it does not
start (R549). -/
def firmwareCheckState (s : State) : State :=
  if !s.boot.starting || s.boot.fwDone || !securityOn s || testMode s then s
  else
    let (s1, c) := checkCopies (updBoot s fun b => { b with fwDone := true }) 0 Config.firmwareCopy
    match c with
    | none => emitPlain s1 0x1408 sevError srcSaddle [(2, 3)]
    | some c =>
      let s2 := extendMr (odPut (odPut s1 0xA00005 c) 0x100203 (Config.fwVersion c % 2 ^ 32)) 0 (envDigest (Config.firmwareCopy c))
      startOn (updBoot s2 fun b => { b with stage := 6 }) 196 3 0

/-- Wake a range of Basin-1s that are off, as start-up wakes. -/
def wakeBasins (s : State) (lo n : Nat) : State :=
  (List.range n).foldl (fun t i => if domainOn t (lo + i) then t else startOn t (lo + i) 3 0) s

/-- BASE_IMAGE_CHECK (R527 steps 7 and 8): on acceptance MR1 is extended; bring-up goes on in either case. -/
def baseImageCheckState (s : State) : State :=
  if !s.boot.starting || s.boot.baseDone || s.boot.stage != 6 || !domainOn s 196 then s
  else
    let (s1, c) := checkCopies (updBoot s fun b => { b with baseDone := true, stage := 8 }) 1 Config.baseCopy
    let s2 := match c with
      | none => emitPlain s1 0x1407 sevError srcSaddle [(2, 3)]
      | some c => extendMr (odPut s1 0xA00006 c) 1 (envDigest (Config.baseCopy c))
    let s3 := (borderCols ++ [saddleCol, configCol]).foldl (fun t c => updNi t c fun n => { n with filled := true }) s2
    wakeBasins s3 0 8

/-! ### Reduced and full service (R527 steps 9 to 13) -/

/-- Whether step 10 counts a stack as done (R527, R528). -/
def stackDone (s : State) (k : Nat) : Bool :=
  (odRaw s 0xA00103).testBit k || ((stk s k).trained && winGet s (hbmWin k 0) == 0xFFFFFFFF)

/-- Step 12 of R527: once reduced service, the stacks and the configuration are there, the other Basin-1s wake and the supply
moves to the target of R456. -/
def advanceStartup (s : State) : State :=
  if s.boot.starting && s.boot.stage == 9 && (List.range 8).all (stackDone s) && s.cfg.st == 0 then
    let s1 := wakeBasins (updBoot s fun b => { b with stage := 12 }) 8 120
    setTarget s1 (supplyMv s1)
  else s

/-- REDUCED_READY (R527 step 9): event 0x1403. -/
def reducedReadyState (ms : Nat) (s : State) : State :=
  if s.boot.starting && s.boot.stage == 8 && (List.range 8).all (domainOn s) && groupActive s 16 && s.power.reached then
    let s1 : State := { s with svc := bitPut s.svc 0 true }
    let s2 := emitPlain (odPut s1 0xA00101 (ms % 2 ^ 32)) 0x1403 sevInfo srcCmd
      [(32, ms), (1, odRaw s 0xA00005), (1, if odRaw s 0xA00006 = 255 then 0 else 1)]
    advanceStartup (updBoot s2 fun b => { b with stage := 9 })
  else s

/-- Whether a start-up wake is still in progress. -/
def startWakes (s : State) : Bool :=
  s.power.sw.any fun e => match e.2 with | some w => !w.off && w.by_ == 3 | none => false

/-- FULL_READY (R527 step 13): event 0x1404. -/
def fullReadyState (ms : Nat) (s : State) : State :=
  if s.boot.starting && s.boot.stage == 12 && !startWakes s && s.power.reached then
    let s1 : State := { s with svc := bitPut s.svc 1 true }
    let s2 := emitPlain (odPut s1 0xA00102 (ms % 2 ^ 32)) 0x1404 sevInfo srcCmd [(32, ms), (8, odRaw s 0xA00103), (2, s.cfg.lastSrc)]
    updBoot s2 fun b => { b with stage := 13, starting := false }
  else s

/-- FULL_READY_LATE (R529): event 0x1405 once. -/
def fullReadyLateState (s : State) : State :=
  if !s.boot.starting || s.boot.late then s
  else
    let b (x : Bool) : Nat := if x then 1 else 0
    emitPlain (updBoot s fun x => { x with late := true }) 0x1405 sevWarning srcSaddle
      [(1, b (!(List.range 8).all (stackDone s))), (1, b (s.cfg.st != 0)), (1, b (!s.svc.testBit 0)),
       (1, b (startWakes s || s.boot.stage != 12)), (1, b (!s.power.reached)), (32, odRaw s 0xA00004)]

/-- HBM_TRAINING_DONE (R527 step 10, R528): the stack's cols leave absorb; after a third failure its group is left off. -/
def hbmTrainingDoneState (stack : Nat) (ok : Bool) (s : State) : State :=
  let v := stk s stack
  if !domainOn s (144 + stack) || v.trained then s
  else if ok then
    let s1 := setStk s stack { v with trained := true, tries := 0 }
    advanceStartup ((List.range 8).foldl (fun t k => leaveAbsorb t (hbmCol stack k) s.boot.starting) s1)
  else if v.tries + 1 < 3 then setStk s stack { v with tries := v.tries + 1 }
  else
    let s1 := setDomainOn (domainLoss (setStk s stack { v with tries := 0 }) (144 + stack)) (144 + stack) false
    let s2 := odPut s1 0xA00103 (bitPut (odRaw s1 0xA00103) stack true)
    advanceStartup (emitPlain s2 0x1406 sevError (stackSource stack) [(3, stack), (2, 3)])

/-! ### Test access port (R549) -/

/-- The controller's states of IEEE 1149.1, by its assignment (log entry 6), after a rising edge of tck. -/
def tapNext (st : Nat) (tms : Bool) : Nat :=
  match st with
  | 0xF => if tms then 0xF else 0xC
  | 0xC => if tms then 7 else 0xC
  | 7 => if tms then 4 else 6
  | 6 => if tms then 1 else 2
  | 2 => if tms then 1 else 2
  | 1 => if tms then 5 else 3
  | 3 => if tms then 0 else 3
  | 0 => if tms then 5 else 2
  | 5 => if tms then 7 else 0xC
  | 4 => if tms then 0xF else 0xE
  | 0xE => if tms then 9 else 0xA
  | 0xA => if tms then 9 else 0xA
  | 9 => if tms then 0xD else 0xB
  | 0xB => if tms then 8 else 0xB
  | 8 => if tms then 0xD else 0xA
  | _ => if tms then 7 else 0xC

/-- The IDCODE register. -/
def idcode : Nat := Config.stepping % 16 * 2 ^ 28 + 0x4D31 * 2 ^ 12 + 0x5E7 * 2 + 1

/-- The data register an instruction selects: 0 bypass, 1 IDCODE, 2 boundary. With tmode low only BYPASS, IDCODE and
SAMPLE/PRELOAD act. -/
def tapSelects (s : State) (ir : Nat) : Nat :=
  if ir = 1 then 1
  else if ir = 2 then 2
  else if testMode s && (ir == 3 || ir == 6 || ir == 7) then 2 else 0

/-- Bits of the selected data register. -/
def tapBits (sel : Nat) : Nat := if sel = 1 then 32 else if sel = 2 then Config.boundaryLength else 1

/-- Shift a register of n bits towards bit 0. -/
def shiftIn (n v : Nat) (tdi : Bool) : Nat := v / 2 + (if tdi then 2 ^ (n - 1) else 0)

/-- TEST_ACCESS_PORT (R549): one rising edge of tck. -/
def testAccessPortState (tms tdi : Bool) (s : State) : State :=
  let t := s.tap
  let sel := tapSelects s t.ir
  let next := tapNext t.st tms
  let (f, s1) := takeFree s
  let put (u : Tap) (keep : Bool) : State := { (if keep then s else s1) with tap := { u with st := next, ir := if next = 0xF then 1 else u.ir } }
  match t.st with
  | 6 => if sel = 2 then put { t with dr := f % 2 ^ Config.boundaryLength } false else put { t with dr := if sel = 1 then idcode else 0 } true
  | 2 => put { t with dr := shiftIn (tapBits sel) t.dr tdi, tdo := t.dr % 2 == 1 } true
  | 0xE => put { t with sh := 1 } true
  | 0xA => put { t with sh := shiftIn Config.tapLength t.sh tdi, tdo := t.sh % 2 == 1 } true
  | 0xD => put { t with ir := Config.tapInstr t.sh } true
  | 5 => put (if sel = 2 then { t with upd := t.dr } else t) true
  | _ => put t true

/-- What the port puts on the output pins (R549, by the standard's instructions, log entry 6): under EXTEST and CLAMP the update
stage of the boundary register, under HIGHZ nothing drives them (`some none`); `none` where the device drives its own pins. -/
def tapPins (s : State) : Option (Option Nat) :=
  if !testMode s then none
  else if s.tap.ir == 3 || s.tap.ir == 4 then some (some s.tap.upd)
  else if s.tap.ir == 5 then some none
  else none

/-! ### Meanings -/

/-- The meaning of POWER_GOOD. -/
def execPowerGood (s : State) : Host.Outcome State Fault Refusal :=
  .next (powerGoodState s)

/-- The meaning of PWR_GOOD_FALL. -/
def execPwrGoodFall (s : State) : Host.Outcome State Fault Refusal :=
  .next (pwrGoodFallState s)

/-- The meaning of RST_N_FALL. -/
def execRstNFall (s : State) : Host.Outcome State Fault Refusal :=
  .next (rstNFallState s)

/-- The meaning of RST_N_RISE. -/
def execRstNRise (s : State) : Host.Outcome State Fault Refusal :=
  .next (rstNRiseState s)

/-- The meaning of CORE_RESET. -/
def execCoreReset (value : Nat) (s : State) : Host.Outcome State Fault Refusal :=
  .next (coreResetState value s)

/-- The meaning of FLASH_HOLD. -/
def execFlashHold (s : State) : Host.Outcome State Fault Refusal :=
  .next (flashHoldState s)

/-- The meaning of FIRMWARE_CHECK. -/
def execFirmwareCheck (s : State) : Host.Outcome State Fault Refusal :=
  .next (firmwareCheckState s)

/-- The meaning of BASE_IMAGE_CHECK. -/
def execBaseImageCheck (s : State) : Host.Outcome State Fault Refusal :=
  .next (baseImageCheckState s)

/-- The meaning of REDUCED_READY. -/
def execReducedReady (ms : Nat) (s : State) : Host.Outcome State Fault Refusal :=
  .next (reducedReadyState ms s)

/-- The meaning of FULL_READY. -/
def execFullReady (ms : Nat) (s : State) : Host.Outcome State Fault Refusal :=
  .next (fullReadyState ms s)

/-- The meaning of FULL_READY_LATE. -/
def execFullReadyLate (s : State) : Host.Outcome State Fault Refusal :=
  .next (fullReadyLateState s)

/-- The meaning of TEST_ACCESS_PORT. -/
def execTestAccessPort (tms : Bool) (tdi : Bool) (s : State) : Host.Outcome State Fault Refusal :=
  .next (testAccessPortState tms tdi s)

/-- The meaning of HBM_TRAINING_DONE. -/
def execHbmTrainingDone (stack : Nat) (ok : Bool) (s : State) : Host.Outcome State Fault Refusal :=
  guardUnit (stack < 8) (hbmTrainingDoneState stack ok s)

/-- The meaning of DEVICE_SLEEP_WAKE. -/
def execDeviceSleepWake (s : State) : Host.Outcome State Fault Refusal :=
  .next (deviceSleepWakeState s)

/-- The meaning of WAKE_PIN. -/
def execWakePin (s : State) : Host.Outcome State Fault Refusal :=
  .next (wakePinState s)

/-- The meaning of SENSOR_SAMPLE. -/
def execSensorSample (raw : List (Nat × Int)) (avsOk : Bool) (s : State) : Host.Outcome State Fault Refusal :=
  .next (sensorSampleState raw avsOk s)

/-- The meaning of CFG_ABANDON. -/
def execCfgAbandon (s : State) : Host.Outcome State Fault Refusal :=
  .next (advanceStartup (cfgAbandonState s))

/-- The meaning of CFG_HEADER_RECEIVED. -/
def execCfgHeaderReceived (header : List Byte) (s : State) : Host.Outcome State Fault Refusal :=
  .next (advanceStartup (cfgHeaderReceivedState header s))

/-- The meaning of CFG_SIGNATURE_VERIFIED. -/
def execCfgSignatureVerified (signature : List Byte) (s : State) : Host.Outcome State Fault Refusal :=
  .next (advanceStartup (cfgSignatureVerifiedState signature s))

/-- The meaning of CFG_REGION_TABLE_RECEIVED. -/
def execCfgRegionTableReceived (table : List Byte) (s : State) : Host.Outcome State Fault Refusal :=
  .next (advanceStartup (cfgRegionTableReceivedState table s))

/-- The meaning of CFG_FRAME_RECEIVED. -/
def execCfgFrameReceived (frame : List Byte) (s : State) : Host.Outcome State Fault Refusal :=
  .next (advanceStartup (cfgFrameReceivedState frame s))

/-- The meaning of CFG_LAST_BYTE. -/
def execCfgLastByte (s : State) : Host.Outcome State Fault Refusal :=
  .next (advanceStartup (cfgLastByteState s))

/-- The meaning of CFG_COMMIT. -/
def execCfgCommit (s : State) : Host.Outcome State Fault Refusal :=
  .next (advanceStartup (cfgCommitState s))

/-- The meaning of STRAND_GAP. -/
def execStrandGap (s : State) : Host.Outcome State Fault Refusal :=
  .next (advanceStartup (strandGapState s))

/-- The meaning of CLOCK_LOCKED. -/
def execClockLocked (g : Nat) (s : State) : Host.Outcome State Fault Refusal :=
  guardUnit (g < 4) (advanceStartup (clockLockedState g s))

/-- The meaning of HBM_FILL_DONE. -/
def execHbmFillDone (stack : Nat) (micros : Nat) (s : State) : Host.Outcome State Fault Refusal :=
  guardUnit (stack < 8) (advanceStartup (hbmFillDoneState stack micros s))

end Sys2Proof.Machine
end

