-- ==== Sys2Proof/Machine/Objects.lean ====
section
/-! DEFINITION. The object dictionary (R476-R485, R491): its entries, reads and writes, the persistent store (R481), clearing of
counters and of the log (R502), and the requests of the Heonlink window (R383). -/
namespace Sys2Proof.Machine

/-! ### Entries (R476, R477) -/

/-- Rows of the entry tables: indices and subindices from the first to the last, type code, access code (0 RO, 1 RW, 2 WO,
3 RWA, 4 CONST), whether persistent, and the least and greatest length of a value. -/
structure OdRow where
  ilo     : Nat
  ihi     : Nat
  slo     : Nat
  shi     : Nat
  typ     : Nat
  acc     : Nat
  persist : Bool
  least   : Nat
  most    : Nat
deriving DecidableEq, Repr

/-- Identity, general and saddle entries (R491, R474). -/
def odGeneral : List OdRow :=
  [⟨0x1000, 0x1000, 1, 2, 2, 4, false, 2, 2⟩, ⟨0x1000, 0x1000, 3, 3, 7, 4, false, 12, 12⟩,
   ⟨0x1000, 0x1000, 4, 4, 7, 4, false, 15, 15⟩, ⟨0x1001, 0x1001, 1, 1, 1, 4, false, 1, 1⟩,
   ⟨0x1001, 0x1001, 2, 2, 7, 4, false, 4, 4⟩, ⟨0x1001, 0x1001, 3, 3, 4, 4, false, 8, 8⟩,
   ⟨0x1001, 0x1001, 4, 4, 7, 4, false, 0, 16⟩, ⟨0x1002, 0x1002, 1, 1, 1, 4, false, 1, 1⟩,
   ⟨0x1002, 0x1002, 2, 2, 1, 0, false, 1, 1⟩, ⟨0x1002, 0x1002, 3, 3, 3, 0, false, 4, 4⟩,
   ⟨0x1F00, 0x1F00, 1, 1, 8, 0, false, 32, 32⟩, ⟨0x1F00, 0x1F00, 2, 9, 8, 2, false, 1, 4096⟩,
   ⟨0x1F01, 0x1F01, 1, 1, 1, 3, false, 1, 1⟩, ⟨0x1F02, 0x1F02, 1, 4, 4, 0, false, 8, 8⟩,
   ⟨0x1F02, 0x1F02, 5, 5, 1, 2, false, 1, 1⟩, ⟨0x1F03, 0x1F03, 1, 1, 1, 1, true, 1, 1⟩,
   ⟨0x2000, 0x2000, 1, 2, 2, 1, true, 2, 2⟩, ⟨0x2000, 0x2000, 3, 4, 2, 0, false, 2, 2⟩,
   ⟨0x2001, 0x2001, 1, 1, 2, 2, false, 2, 2⟩, ⟨0x2001, 0x2001, 2, 2, 1, 2, false, 1, 1⟩,
   ⟨0x2002, 0x2002, 1, 1, 4, 0, true, 8, 8⟩, ⟨0x2002, 0x2002, 2, 2, 3, 0, true, 4, 4⟩,
   ⟨0x2002, 0x2002, 3, 3, 1, 2, false, 1, 1⟩, ⟨0x2003, 0x2003, 1, 1, 8, 0, false, 32, 32⟩,
   ⟨0x2003, 0x2003, 2, 2, 3, 0, false, 4, 4⟩, ⟨0x2010, 0x2010, 1, 3, 4, 0, false, 8, 8⟩,
   ⟨0x2010, 0x2010, 4, 4, 1, 2, false, 1, 1⟩, ⟨0x2800, 0x2800, 1, 2, 5, 0, false, 4, 4⟩]

/-- Entries of memory, network and the mesh (R76, R101, R148, R226, R285, R311). -/
def odCore : List OdRow :=
  [⟨0x3000, 0x3000, 1, 1, 1, 1, true, 1, 1⟩, ⟨0x3000, 0x3000, 2, 2, 2, 1, true, 2, 2⟩,
   ⟨0x3000, 0x3000, 3, 3, 3, 1, true, 4, 4⟩, ⟨0x3001, 0x3001, 1, 6, 3, 1, true, 4, 4⟩,
   ⟨0x3010, 0x3017, 1, 6, 4, 0, false, 8, 8⟩, ⟨0x3010, 0x3017, 7, 7, 1, 2, false, 1, 1⟩,
   ⟨0x3800, 0x3800, 1, 3, 4, 0, false, 8, 8⟩, ⟨0x3800, 0x3800, 4, 4, 1, 2, false, 1, 1⟩,
   ⟨0x3810, 0x3810, 1, 1, 3, 1, true, 4, 4⟩, ⟨0x4000, 0x4000, 1, 2, 1, 1, true, 1, 1⟩,
   ⟨0x4010, 0x4010, 1, 5, 4, 0, false, 8, 8⟩, ⟨0x4010, 0x4010, 6, 6, 1, 2, false, 1, 1⟩,
   ⟨0x4100, 0x4100, 1, 2, 4, 0, false, 8, 8⟩, ⟨0x4100, 0x4100, 3, 3, 1, 2, false, 1, 1⟩,
   ⟨0x4200, 0x4200, 1, 3, 4, 0, false, 8, 8⟩, ⟨0x4200, 0x4200, 4, 4, 1, 2, false, 1, 1⟩,
   ⟨0x4300, 0x4300, 1, 3, 4, 0, false, 8, 8⟩, ⟨0x4300, 0x4300, 4, 4, 1, 2, false, 1, 1⟩,
   ⟨0x4400, 0x4400, 1, 4, 4, 0, false, 8, 8⟩, ⟨0x4400, 0x4400, 5, 5, 1, 2, false, 1, 1⟩,
   ⟨0x4500, 0x4500, 1, 1, 3, 1, true, 4, 4⟩, ⟨0x4510, 0x4510, 1, 1, 2, 0, false, 2, 2⟩,
   ⟨0x4510, 0x4510, 2, 5, 4, 0, false, 8, 8⟩, ⟨0x4510, 0x4510, 6, 6, 1, 2, false, 1, 1⟩,
   ⟨0x4800, 0x4800, 1, 1, 1, 1, true, 1, 1⟩, ⟨0x4800, 0x4800, 2, 2, 3, 0, false, 4, 4⟩,
   ⟨0x4810, 0x4810, 1, 3, 4, 0, false, 8, 8⟩, ⟨0x4810, 0x4810, 4, 4, 1, 2, false, 1, 1⟩,
   ⟨0x4820, 0x4820, 1, 32, 3, 0, false, 4, 4⟩]

/-- Entries of streams, gather, steppe, configuration and the Heonlink (R254, R340, R361, R391). -/
def odFabric : List OdRow :=
  [⟨0x5000, 0x5000, 1, 3, 4, 0, false, 8, 8⟩, ⟨0x5000, 0x5000, 4, 4, 1, 2, false, 1, 1⟩,
   ⟨0x5100, 0x5107, 1, 4, 4, 0, false, 8, 8⟩, ⟨0x5100, 0x5107, 5, 5, 2, 0, false, 2, 2⟩,
   ⟨0x5100, 0x5107, 6, 6, 3, 0, false, 4, 4⟩, ⟨0x5100, 0x5107, 7, 7, 1, 2, false, 1, 1⟩,
   ⟨0x5800, 0x5800, 1, 4, 4, 0, false, 8, 8⟩, ⟨0x5800, 0x5800, 5, 5, 1, 2, false, 1, 1⟩,
   ⟨0x5801, 0x5801, 1, 4, 3, 0, false, 4, 4⟩, ⟨0x5802, 0x5802, 1, 1, 2, 0, false, 2, 2⟩,
   ⟨0x5900, 0x5900, 1, 4, 3, 1, true, 4, 4⟩, ⟨0x5910, 0x5910, 1, 6, 4, 0, false, 8, 8⟩,
   ⟨0x5910, 0x5910, 7, 7, 1, 2, false, 1, 1⟩, ⟨0x5920, 0x5920, 1, 16, 3, 0, false, 4, 4⟩,
   ⟨0x5921, 0x5921, 1, 1, 8, 0, false, 64, 64⟩, ⟨0x6000, 0x6000, 1, 1, 1, 0, false, 1, 1⟩,
   ⟨0x6000, 0x6000, 2, 3, 3, 1, true, 4, 4⟩, ⟨0x6001, 0x6001, 1, 2, 4, 1, true, 8, 8⟩,
   ⟨0x6010, 0x6013, 1, 4, 4, 0, false, 8, 8⟩, ⟨0x6010, 0x6013, 5, 5, 3, 0, false, 4, 4⟩,
   ⟨0x6010, 0x6013, 6, 6, 1, 2, false, 1, 1⟩]

/-- Entries of lanes, peers and integrity (R413, R429, R449). -/
def odLinks : List OdRow :=
  [⟨0x6800, 0x6800, 1, 2, 3, 1, true, 4, 4⟩, ⟨0x6800, 0x6800, 3, 3, 2, 1, true, 2, 2⟩,
   ⟨0x6810, 0x6810, 1, 3, 4, 0, false, 8, 8⟩, ⟨0x6810, 0x6810, 4, 4, 1, 2, false, 1, 1⟩,
   ⟨0x7000, 0x7000, 1, 1, 2, 1, true, 2, 2⟩, ⟨0x7000, 0x7000, 2, 3, 3, 1, true, 4, 4⟩,
   ⟨0x7000, 0x7000, 4, 4, 2, 1, true, 2, 2⟩, ⟨0x7000, 0x7000, 5, 5, 1, 1, true, 1, 1⟩,
   ⟨0x7010, 0x7010, 1, 6, 4, 0, false, 8, 8⟩, ⟨0x7010, 0x7010, 7, 7, 1, 2, false, 1, 1⟩,
   ⟨0x7801, 0x7801, 1, 64, 3, 1, true, 4, 4⟩, ⟨0x7810, 0x7810, 1, 1, 3, 1, true, 4, 4⟩,
   ⟨0x7810, 0x7810, 2, 2, 1, 1, true, 1, 1⟩, ⟨0x7810, 0x7810, 3, 3, 3, 1, true, 4, 4⟩,
   ⟨0x7810, 0x7810, 4, 4, 2, 2, false, 2, 2⟩, ⟨0x7820, 0x7820, 1, 7, 4, 0, false, 8, 8⟩,
   ⟨0x7820, 0x7820, 8, 8, 1, 2, false, 1, 1⟩, ⟨0x7830, 0x7830, 1, 1, 9, 0, false, 32, 32⟩,
   ⟨0x7830, 0x7830, 2, 2, 2, 0, false, 2, 2⟩, ⟨0x7840, 0x7840, 1, 24, 8, 0, false, 32, 32⟩]

/-- Entries of the recorder, security and bring-up (R503, R523, R535). -/
def odTrust : List OdRow :=
  [⟨0x8000, 0x8000, 1, 1, 3, 0, false, 4, 4⟩, ⟨0x8000, 0x8000, 2, 2, 4, 0, false, 8, 8⟩,
   ⟨0x8000, 0x8000, 3, 5, 3, 0, false, 4, 4⟩, ⟨0x8000, 0x8000, 6, 6, 3, 1, false, 4, 4⟩,
   ⟨0x8000, 0x8000, 7, 7, 1, 3, false, 1, 1⟩, ⟨0x8000, 0x8000, 8, 8, 8, 0, false, 0, 4096⟩,
   ⟨0x9000, 0x9000, 1, 1, 8, 4, false, 32, 32⟩, ⟨0x9000, 0x9000, 2, 2, 8, 1, false, 64, 64⟩,
   ⟨0x9001, 0x9001, 1, 4, 1, 0, false, 1, 1⟩, ⟨0x9002, 0x9002, 1, 4, 8, 0, false, 32, 32⟩,
   ⟨0x9003, 0x9003, 1, 4, 8, 1, false, 64, 64⟩, ⟨0x9004, 0x9004, 1, 1, 8, 3, false, 65, 65⟩,
   ⟨0x9004, 0x9004, 2, 2, 1, 3, false, 1, 1⟩, ⟨0x9005, 0x9005, 1, 4, 3, 0, false, 4, 4⟩,
   ⟨0x9005, 0x9005, 5, 5, 3, 3, false, 4, 4⟩, ⟨0x9006, 0x9006, 1, 6, 8, 0, false, 32, 32⟩,
   ⟨0x9007, 0x9007, 1, 6, 3, 0, false, 4, 4⟩, ⟨0x9010, 0x9010, 1, 1, 8, 4, false, 64, 64⟩,
   ⟨0x9011, 0x9011, 1, 8, 8, 0, false, 1, 4096⟩, ⟨0x9020, 0x9020, 1, 1, 8, 2, false, 32, 32⟩,
   ⟨0x9020, 0x9020, 2, 2, 1, 0, false, 1, 1⟩, ⟨0x9021, 0x9021, 1, 13, 8, 0, false, 1, 4096⟩,
   ⟨0x9030, 0x9030, 1, 3, 4, 0, false, 8, 8⟩, ⟨0x9030, 0x9030, 4, 4, 1, 2, false, 1, 1⟩,
   ⟨0xA000, 0xA000, 1, 2, 1, 0, false, 1, 1⟩, ⟨0xA000, 0xA000, 3, 3, 1, 2, false, 1, 1⟩,
   ⟨0xA000, 0xA000, 4, 4, 3, 1, true, 4, 4⟩, ⟨0xA000, 0xA000, 5, 6, 1, 0, false, 1, 1⟩,
   ⟨0xA001, 0xA001, 1, 2, 3, 0, false, 4, 4⟩, ⟨0xA001, 0xA001, 3, 3, 1, 0, false, 1, 1⟩]

/-- The row of an entry, if the dictionary has it. -/
def odRow (index sub : Nat) : Option OdRow :=
  (odGeneral ++ odCore ++ odFabric ++ odLinks ++ odTrust).find? fun r =>
    r.ilo ≤ index && index ≤ r.ihi && r.slo ≤ sub && sub ≤ r.shi

/-- The power domain of the unit that an entry's value lives in, for an entry the saddle does not hold (R480, log entry 45). -/
def odDomain (index : Nat) : Option Nat :=
  if index = 0x4510 ∨ index = 0x7830 ∨ index = 0x7840 then some 196
  else if 0x5100 ≤ index ∧ index < 0x5108 then some (144 + (index - 0x5100))
  else if 0x3010 ≤ index ∧ index < 0x3018 then some (144 + (index - 0x3010))
  else if 0x6010 ≤ index ∧ index < 0x6014 then some (160 + 9 * (index - 0x6010))
  else if index = 0x1F00 ∨ (0x9000 ≤ index ∧ index ≤ 0x9030) then some 197
  else none

/-- Whether an entry answers (R480). -/
def odOn (s : State) (index sub : Nat) : Bool :=
  if index = 0x1F00 ∧ sub ≠ 1 then true
  else match odDomain index with | some n => domainOn s n | none => true

/-! ### Values (R478) -/

/-- The bytes of a text. -/
def textBytes (t : String) : List Byte := t.toList.map fun c => BitVec.ofNat 8 c.toNat

/-- Dales whose Basin-1 is powered. -/
def poweredDales (s : State) : List Nat := (List.range 512).filter fun d => domainOn s (basin1 d)

/-- SFU_SLOTS_FILLED and SFU_SLOT_ID over the powered dales (R142); with none powered, the default and 0. -/
def slotsFilled (s : State) : Nat :=
  match poweredDales s with
  | [] => 0x007FFFFF
  | ds => (List.range 32).foldl (fun m k => bitPut m k (ds.all fun d => (tget none (dale s d).sfSlots k).isSome)) 0
def slotId (s : State) (k : Nat) : Nat :=
  match poweredDales s with
  | [] => 0
  | d :: ds =>
    let one := tget none (dale s d).sfSlots k
    if ds.all fun e => tget none (dale s e).sfSlots k == one then
      match one with | some bs => slotFunc bs * 256 + slotVersion bs | none => 0
    else 0

/-- BRINGUP_STAGE (R535). -/
def bringupStage (s : State) : Nat :=
  if s.power.stopped then 5
  else if s.svc.testBit 1 then 4
  else if s.svc.testBit 0 then 3
  else if s.boot.fwDone then (if odRaw s 0xA00005 = 255 then 1 else if domainOn s 196 then 2 else 0)
  else 0

/-- HEON_STATE (R391): 3 host lost, 2 all sub-links active, 1 some group training, else 0. -/
def heonState (s : State) : Nat :=
  if s.svc.testBit 2 then 3
  else if (List.range 4).all fun j => groupActive s (16 + j) then 2
  else if (List.range 4).any fun j => (lgroup s (16 + j)).stage ≠ 0 then 1 else 0

/-- The two's complement of a raw sample in 32 bits. -/
def raw32 (x : Int) : Nat := (x % 2 ^ 32).toNat

/-- The value of a numeric entry, on a path. -/
def odNum (s : State) (path index sub : Nat) : Nat :=
  match index, sub with
  | 0x1000, 1 => 0x4557
  | 0x1000, _ => 0x4D31
  | 0x1001, 1 => Config.stepping
  | 0x1001, _ => Config.uid
  | 0x1002, 1 => 1
  | 0x1002, 2 => s.boot.straps.2.2.2.1
  | 0x2000, 3 => supplyMv s
  | 0x2000, 4 => (inputValue s.power 1 0x41C).toNat
  | 0x2002, 1 => opSeconds s
  | 0x2002, _ => powerCycles s
  | 0x2003, _ => s.power.svn
  | 0x2800, 1 => raw32 (inputValue s.power 0 0x41E)
  | 0x2800, _ => raw32 ((List.range 7).foldl (fun m i => max m (inputValue s.power 0 (0x411 + i))) (inputValue s.power 0 0x410))
  | 0x4510, 1 => s.cp.inflight.length
  | 0x4800, 2 => slotsFilled s
  | 0x4820, k => slotId s (k - 1)
  | 0x5801, g => if (clockGen s (g - 1)).locked then 12500 * (clockGen s (g - 1)).n else 0
  | 0x5802, _ => floorMv s
  | 0x5920, k => (sector s (k - 1)).design
  | 0x6000, 1 => heonState s
  | 0x7830, _ => ((List.range 512).filter fun d => (dale s d).isolated).length
  | 0x8000, 1 => s.log.first
  | 0x8000, 2 => s.log.first * 2 ^ 32 + s.log.head
  | 0x8000, 3 => s.log.head
  | 0x8000, 4 => s.log.overflow
  | 0x8000, 5 => s.log.drops
  | 0x8000, 6 => tget 0 s.mgmt.cursor path
  | 0x9001, k => ownerByte s k
  | 0x9005, k => svnOf s (k - 1)
  | 0x9007, k => tget 0 s.sec.mrCount (k - 1)
  | 0x9020, _ => (attestOf s path).st
  | 0xA000, 1 => bringupStage s
  | i, k => if 0x5100 ≤ i ∧ i < 0x5108 ∧ k = 5 then (gather s (i - 0x5100)).epoch else odRaw s (odKey i k)

/-- The bytes of the record of a sequence number: from the queue, or from its slot (R497, R502). -/
def recordAt (s : State) (seq : Nat) : List Byte :=
  match s.log.queue.find? fun e => e.1 == seq with
  | some e => e.2
  | none => tget (List.replicate 32 255#8) s.log.log (slotOfSeq s.log seq)

/-- LOG_READ (R503): the records from the path's cursor up to the lesser of 128 on and HEAD. -/
def logRead (s : State) (path : Nat) : List Byte :=
  let n := slotOfSeq s.log s.log.head
  let c := slotOfSeq s.log (tget 0 s.mgmt.cursor path)
  if c > n then [] else (List.range (min 128 (n - c))).flatMap fun i => recordAt s ((tget 0 s.mgmt.cursor path + i) % 2 ^ 32)

/-- The bytes of a text or byte entry on a path, none where it is not available. -/
def odBlob (s : State) (path index sub : Nat) : Option (List Byte) :=
  match index with
  | 0x1000 => some (textBytes (if sub = 3 then "LHM1-512D-8H" else "Lianahal Maroth"))
  | 0x1001 => some (if sub = 2 then leBytes 4 Config.dateCode else Config.serialText.take 16)
  | 0x1F00 => if s.sec.nonce.isEmpty then none else some s.sec.nonce
  | 0x2003 => some (bytesAt s.power.digest 0 32)
  | 0x5921 => some (cfgLastDigest s)
  | 0x7830 => some (leBytes 32 ((List.range 256).foldl (fun m p => bitPut m p (pipe s p).affected) 0))
  | 0x7840 => some (bytesAt (Config.katDigest (sub - 1)) 0 32)
  | 0x8000 => some (logRead s path)
  | 0x9000 => some (if sub = 1 then vendorRootDigest else bytesAt ((keyOf s 0).getD []) 0 64)
  | 0x9002 => some (bytesAt (tget [] s.sec.ownerDigest sub) 0 32)
  | 0x9003 => some (bytesAt ((keyOf s sub).getD []) 0 64)
  | 0x9006 => some (mrOf s (sub - 1))
  | 0x9010 => some (bytesAt Config.identityKey 0 64)
  | 0x9011 => some (bytesAt Config.identityCert (4096 * (sub - 1)) (tokenPart sub))
  | 0x9021 =>
    let a := attestOf s path
    if a.st = 2 then some (bytesAt (a.body ++ bytesAt a.sig 0 49856) (4096 * (sub - 1)) (if sub = 13 then 1216 else 4096)) else none
  | _ => some []

/-- Whether the spec gives an entry no value to read: the RWA entries without a default. -/
def odNoValue (index sub : Nat) : Bool := index == 0x9004 || (index == 0x9005 && sub == 5)

/-- Read an entry on a path (R477, R480, R482): the state, the code and the value. -/
def odReadEntry (s : State) (path index sub : Nat) : State × Nat × List Byte :=
  match odRow index sub with
  | none => (s, odNoEntry, [])
  | some r =>
    if r.acc = 2 then (s, odNoAccess, [])
    else if !odOn s index sub then (s, odUnavailable, [])
    else if odNoValue index sub then
      let (v, s1) := takeFree s
      (s1, odOk, leBytes r.most v)
    else if r.typ ≤ 6 then (s, odOk, leBytes r.most (odNum s path index sub))
    else match odBlob s path index sub with
      | some bs => (s, odOk, bs)
      | none => (s, odUnavailable, [])

/-! ### The persistent store (R481) -/

/-- The bytes of a sector of the store. -/
def storeSector : Nat := 0x10000

/-- The latest value of every key of a store. -/
def storeLatest (es : List (Nat × List Byte)) : List (Nat × List Byte) :=
  es.foldl (fun acc e => acc.filter (fun f => f.1 != e.1) ++ [e]) []

/-- Append a record; when the sector is full the latest values go to the other sector first. -/
def storeAppend (s : State) (key : Nat) (bs : List Byte) : State :=
  updMgmt s fun m =>
    if (m.store.map storeSize).sum + storeSize (key, bs) ≤ storeSector then { m with store := m.store ++ [(key, bs)] }
    else { m with store := storeLatest (storeValid m) ++ [(key, bs)], torn := [], sector := (m.sector + 1) % 2 }

/-- A failed write of a persistent entry: event 0x1207. -/
def storeFails (s : State) (key : Nat) : State :=
  emitPlain s 0x1207 sevError srcSaddle [(16, key / 256), (8, key), (32, storeAddr s.mgmt s.mgmt.store.length)]

/-- The code of a request that waits for flash_hold_n (R546) and has no answer yet. -/
def odWaits : Nat := 0x100

/-- Persist the value of a key on a path: the answer comes once the value is in flash. -/
def persistKey (s : State) (path key : Nat) (bs : List Byte) (flashOk : Bool) : State × Nat :=
  if s.boot.held then (updMgmt s fun m => { m with waiting := m.waiting ++ [(key, bs, path)] }, odWaits)
  else if flashOk then (storeAppend s key bs, odOk)
  else (storeFails s key, odPersistFail)

/-! ### Writes (R435, R478-R482, R491 and the entry tables) -/

/-- Whether a policy entry is well formed (R435). -/
def policyOk (s : State) (sub v : Nat) : Bool :=
  bitsOf v 13 12 == 0 && basinOk (v / 65536)
    && !(v.testBit 15 && (List.range 64).any fun k =>
          k + 1 != sub && (odRaw s (odKey 0x7801 (k + 1))).testBit 15 && odRaw s (odKey 0x7801 (k + 1)) / 65536 == v / 65536)

/-- Whether a value obeys the rule of a persistent numeric entry. -/
def odValueOk (s : State) (index sub v : Nat) : Bool :=
  let rng (a b : Nat) := decide (a ≤ v ∧ v ≤ b)
  match index, sub with
  | 0x4000, 1 => rng 0 1
  | 0x4000, _ => rng 8 16
  | 0x4800, _ => rng 0 1
  | 0x4500, _ => rng 100 100000
  | 0x3810, _ => rng 10 100000
  | 0x3000, 1 => rng 0 1
  | 0x3000, 2 => rng 0 720
  | 0x3000, _ => rng 1 0xFFFFFFFF
  | 0x3001, _ => rng 50 10000000
  | 0x5900, 1 => rng 10 60000
  | 0x5900, 2 => v % 4096 == 0
  | 0x5900, 3 => v == 0 || rng 10 10000
  | 0x5900, _ => rng 100 60000
  | 0x6000, 2 => rng 1 1000
  | 0x6000, _ => rng 10 60000
  | 0x6001, 1 => v % 2 ^ 30 == 0 && v < 288 * 2 ^ 30
  | 0x6001, _ => v % 2 ^ 30 == 0 && v ≤ 16 * 2 ^ 30 && odRaw s 0x600101 + v ≤ 288 * 2 ^ 30
  | 0x6800, 1 => rng 0 10000
  | 0x6800, 2 => rng 20 1000
  | 0x7000, 1 => rng 0 4095
  | 0x7000, 2 => rng 1 10000
  | 0x7000, 3 => rng 5 60000
  | 0x7000, 5 => rng 0 3
  | 0x7801, k => policyOk s k v
  | 0x7810, 1 => rng 60 2592000
  | 0x7810, 2 => rng 2 255
  | 0x7810, _ => rng 10 10000
  | 0x2000, 1 => rng 550 850
  | 0x2000, _ => rng 500 1500
  | 0x1F03, _ => rng 0 3
  | 0xA000, _ => rng 500 60000
  | _, _ => true

/-- Put a persistent numeric entry into effect: a cleared PORT_ENABLE bit takes its port to OFF at once, a new setpoint moves
the target of the core supply. -/
def odTakes (s : State) (index sub v : Nat) : State :=
  if index = 0x6800 ∧ sub = 3 then portEnableState v s
  else
    let s1 := odPut s (odKey index sub) v
    if index = 0x2000 ∧ sub = 1 then setTarget s1 (supplyMv s1) else s1

/-- The response code of what a command answered: a refusal is VALUE_REFUSED (R482). -/
def codeOf (s : State) : Nat := if s.ans.1 = .done then odOk else if s.ans.2 = 0 then odRefused else s.ans.2
def withCode (s : State) : State × Nat := (s, codeOf s)

/-- Every dale that is not as at reset changes. -/
def eachDale (s : State) (f : Dale → Dale) : State := (s.dales.map (·.1)).foldl (fun t d => updDale t d f) s

/-- The counters a clear entry sets to 0 beside its own index. -/
def clearMore (s : State) (index : Nat) : State :=
  if index = 0x4100 then eachDale s fun x => { x with satCount := 0, nanCount := 0 }
  else if index = 0x7820 then eachDale s fun x => { x with storeCe := 0, storeUe := 0 }
  else if index = 0x5800 then
    (List.range 16).foldl (fun t k => [0x10, 0x14, 0x18].foldl (fun u o => winSet u (sectorWin k o) 0) t) s
  else if 0x3010 ≤ index ∧ index < 0x3018 then
    (List.range 32).foldl (fun t k => winSet (winSet t (hbmWin (index - 0x3010) (0x20 + 8 * k)) 0) (hbmWin (index - 0x3010) (0x24 + 8 * k)) 0) s
  else s

/-- The subindices a clear entry clears. -/
def clearSubs (index sub : Nat) : List Nat :=
  let all := (List.range (sub - 1)).map (· + 1)
  if index = 0x4510 then all.filter (· != 1)
  else if 0x5100 ≤ index ∧ index < 0x5108 then all.filter (· != 5)
  else all

/-- A write of a clear entry: 1 clears in one action, other values are refused. -/
def statsClear (s : State) (index sub value : Nat) : State :=
  if !odOn s index sub then odReply s odUnavailable
  else if value ≠ 1 then odReply s odRefused
  else odReply (clearMore ((clearSubs index sub).foldl (fun t k => odPut t (odKey index k) 0) s) index) odOk

/-- DOMAIN_CMD (R474): [15:14] 1 GATE, 2 WAKE; [7:0] a domain of R464, or 0xFF for the device. -/
def domainCmd (s : State) (v : Nat) : State :=
  let n := v % 256
  if bitsOf v 13 8 ≠ 0 ∨ gateTarget n = false then odReply s odRefused
  else match v / 2 ^ 14 with
    | 1 => if n = 0xFF then odReply (deviceSleepEnterState 1 s) odOk else domainGateState n 1 0 s
    | 2 => if n = 0xFF then odReply (deviceSleepWakeState s) odOk else domainWakeState n 1 0 s
    | _ => odReply s odRefused

/-- DEVICE_SLEEP (R472, R474). -/
def deviceSleepCmd (s : State) (v : Nat) : State :=
  if v = 1 then odReply (deviceSleepEnterState 1 s) odOk
  else if v = 2 then odReply (deviceSleepWakeState s) odOk
  else odReply s odRefused

/-- RESTORE_DEFAULTS under a token (R491, R502): every persistent entry takes its default and the store is rewritten; the
clear mark stays. -/
def restore (value path : Nat) (s : State) : State × Nat :=
  if value ≠ 1 then (s, odRefused)
  else
    let off : State := { s with od := s.od.filter fun e => !odPersistent e.1 }
    let s1 := portEnableState 0xFFFF off
    let s2 := setTarget s1 (supplyMv s1)
    if s.boot.held then (updMgmt s2 fun m => { m with waiting := m.waiting ++ [(1, [], path)] }, odWaits)
    else (updMgmt s2 fun m => { m with store := (storeLatest (storeValid m)).filter (fun e => e.1 == clearMarkKey), torn := [], sector := (m.sector + 1) % 2 }, odOk)

/-- LOG_CLEAR under a token (R502 step 1): the mark reaches flash, then FIRST, LOG_OVERFLOW and CLEARING change and the log
is erased; the clear record waits at the head of the queue. -/
def clearLog (value path : Nat) (flashOk : Bool) (key : Nat) (s : State) : State × Nat :=
  let l := s.log
  if value ≠ 1 then (s, odRefused)
  else
    let detail := packDetail [(32, l.first), (32, l.head), (32, l.overflow), (3, key), (1, path)]
    let mark := leBytes 4 l.head ++ leBytes 13 detail
    if s.boot.held || !flashOk then (storeFails s clearMarkKey, odPersistFail)
    else
      let s1 := storeAppend s clearMarkKey mark
      let s2 : State := { s1 with log := { l with first := l.head, queue := [], log := [], overflow := 0, clearing := true } }
      (recordEvent s2 ⟨0x1201, sevInfo, srcSaddle, detail, none, []⟩, odOk)

/-- A write of an RWA entry, under its token (R483, R485). `ok` is the verdict of the flash or of OTP. -/
def odAuthWrite (s : State) (path index sub : Nat) (bs : List Byte) (ok : Bool) : State × Nat :=
  let v := leNat bs
  authorised s path index sub bs fun key t =>
    match index with
    | 0x1F01 => restore v path t
    | 0x8000 => clearLog v path ok key t
    | 0x9004 => if sub = 1 then provision bs ok key t else revoke v ok key t
    | _ => advanceSvn v ok key t

/-- A write of a WO entry. -/
def odOrder (s : State) (path index sub : Nat) (bs : List Byte) : State :=
  let v := leNat bs
  match index, sub with
  | 0x1F00, k => authTokenState path (k - 1) bs s
  | 0x2001, 1 => domainCmd s v
  | 0x2001, _ => deviceSleepCmd s v
  | 0x2002, _ => orderlyShutdownState v s
  | 0x7810, _ => isolateDaleState v s
  | 0x9020, _ => attestNonceState path bs s
  | 0xA000, _ => coreResetState v s
  | i, k => statsClear s i k v

/-- A write of an RW entry. -/
def odSet (s : State) (path index sub : Nat) (bs : List Byte) (flashOk : Bool) : State × Nat :=
  let v := leNat bs
  match index with
  | 0x8000 => (updMgmt s fun m => { m with cursor := tset 0 m.cursor path v }, odOk)
  | 0x9000 => withCode (vendorRootKeyState bs s)
  | 0x9003 => withCode (ownerKeyState sub bs s)
  | _ =>
    if odValueOk s index sub v then persistKey (odTakes s index sub v) path (odKey index sub) bs flashOk else (s, odRefused)

/-- Write an entry on a path (R477-R485). -/
def odWriteEntry (s : State) (path index sub : Nat) (bs : List Byte) (ok : Bool) : State × Nat :=
  match odRow index sub with
  | none => (s, odNoEntry)
  | some r =>
    if r.acc = 0 ∨ r.acc = 4 then (s, odNoAccess)
    else if bs.length < r.least ∨ bs.length > r.most then (s, odLength)
    else if r.acc = 3 then odAuthWrite s path index sub bs ok
    else if !(odOn s index sub || (r.acc == 1 && r.persist)) then (s, odUnavailable)
    else if r.acc = 2 ∧ index = 0x2002 ∧ leNat bs = 1 ∧ s.boot.held = true then (persistFor s true path, odWaits)
    else if r.acc = 2 then withCode (odOrder s path index sub bs)
    else odSet s path index sub bs ok

/-- Count an answered request (R491). A core reset is answered before it clears the counters (R532, R533). -/
def odCount (s : State) (index sub code : Nat) : State :=
  if index = 0xA000 ∧ sub = 3 ∧ code = odOk then s
  else
    let s1 := odBump s 0x1F02 1 1
    if code = odOk then s1 else odBump s1 0x1F02 2 1

/-! ### The Heonlink window (R383) -/

/-- What OD_CMD holds for a request; GO reads 0. -/
def odCmdWord (op index sub : Nat) : Nat := op * 2 ^ 29 + index % 2 ^ 16 * 256 + sub % 256

/-- A request of the window begins, unless another is in progress or the saddle is in reset. -/
def odBegin (s : State) (op index sub : Nat) : Option State :=
  if s.boot.stage = 0 then none
  else if s.mgmt.waiting.any fun e => e.2.2 == 1 then none
  else if s.mgmt.odBusy ∧ s.mgmt.odCmd ≠ odCmdWord op index sub then none
  else some (updMgmt s fun m => { m with odCmd := odCmdWord op index sub, odBusy := true })

/-- The answer of a request of the window. -/
def odEnd (s : State) (index sub code : Nat) : State :=
  if code = odWaits then s
  else odReply (updMgmt (odCount s index sub code) fun m => { m with odBusy := false, odCode := code }) code

/-- OD_CMD_READ (R383): the value goes to OD_DATA and its length to OD_LEN. -/
def odCmdReadState (index sub : Nat) (s : State) : State :=
  match odBegin s 0 index sub with
  | none => s
  | some s1 =>
    let (s2, code, bs) := odReadEntry s1 1 (index % 65536) (sub % 256)
    odEnd (if code = odOk then updMgmt s2 fun m => { m with odLen := bs.length, odData := bs } else s2) index sub code

/-- OD_CMD_WRITE (R383): OD_LEN bytes of OD_DATA are written. -/
def odCmdWriteState (index sub : Nat) (flashOk : Bool) (s : State) : State :=
  match odBegin s 1 index sub with
  | none => s
  | some s1 =>
    let (s2, code) := odWriteEntry s1 1 (index % 65536) (sub % 256) (bytesAt s1.mgmt.odData 0 s1.mgmt.odLen) flashOk
    odEnd s2 index sub code

/-! ### Rows of single entries -/

/-- Answer a write once it is in flash. -/
def replyUnlessWaits (r : State × Nat) : State := if r.2 = odWaits then r.1 else replyOf r

/-- RESTORE_DEFAULTS: the RWA write of OD 0x1F01.01. -/
def restoreDefaultsState (path value : Nat) (s : State) : State :=
  replyUnlessWaits (odWriteEntry s path 0x1F01 1 (leBytes 1 value) true)

/-- LOG_CLEAR: the RWA write of OD 0x8000.07. -/
def logClearState (path value : Nat) (flashOk : Bool) (s : State) : State :=
  replyUnlessWaits (odWriteEntry s path 0x8000 7 (leBytes 1 value) flashOk)

/-- LOG_ERASE_DONE (R502 step 3): the clear record goes to slot 0 and the queued records after it. -/
def logEraseDoneState (s : State) : State :=
  if s.log.clearing && !s.boot.held then
    let l := s.log
    dropsReported { s with log := { l with log := l.queue.foldl (fun t e => tset [] t (slotOfSeq l e.1) e.2) [], queue := [], clearing := false } }
  else s

/-- The clear entries of the dictionary. -/
def arithClearState (value : Nat) (s : State) : State := statsClear s 0x4100 3 value
def arrayStatsClearState (value : Nat) (s : State) : State := statsClear s 0x4010 6 value
def vecStatsClearState (value : Nat) (s : State) : State := statsClear s 0x4200 4 value
def sfuStatsClearState (value : Nat) (s : State) : State := statsClear s 0x4810 4 value
def rngStatsClearState (value : Nat) (s : State) : State := statsClear s 0x4300 4 value
def seqStatsClearState (value : Nat) (s : State) : State := statsClear s 0x4400 5 value
def cmdStatsClearState (value : Nat) (s : State) : State := statsClear s 0x4510 6 value
def streamStatsClearState (value : Nat) (s : State) : State := statsClear s 0x5000 4 value
def gatherStatsClearState (stack value : Nat) (s : State) : State := statsClear s (0x5100 + stack) 7 value
def netStatsClearState (value : Nat) (s : State) : State := statsClear s 0x3800 4 value
def hbmStatsClearState (stack value : Nat) (s : State) : State := statsClear s (0x3010 + stack) 7 value
def steppeStatsClearState (value : Nat) (s : State) : State := statsClear s 0x5800 5 value
def cfgStatsClearState (value : Nat) (s : State) : State := statsClear s 0x5910 7 value
def heonStatsClearState (sub value : Nat) (s : State) : State := statsClear s (0x6010 + sub) 6 value
def laneStatsClearState (value : Nat) (s : State) : State := statsClear s 0x6810 4 value
def peerStatsClearState (value : Nat) (s : State) : State := statsClear s 0x7010 7 value
def integrityStatsClearState (value : Nat) (s : State) : State := statsClear s 0x7820 8 value
def powerStatsClearState (value : Nat) (s : State) : State := statsClear s 0x2010 4 value
def odStatsClearState (value : Nat) (s : State) : State := statsClear s 0x1F02 5 value
def secStatsClearState (value : Nat) (s : State) : State := statsClear s 0x9030 4 value

/-! ### Meanings -/

/-- The meaning of OD_CMD_READ. -/
def execOdCmdRead (index : Nat) (sub : Nat) (s : State) : Host.Outcome State Fault Refusal :=
  .next (odCmdReadState index sub s)

/-- The meaning of OD_CMD_WRITE. -/
def execOdCmdWrite (index : Nat) (sub : Nat) (flashOk : Bool) (s : State) : Host.Outcome State Fault Refusal :=
  .next (odCmdWriteState index sub flashOk s)

/-- The meaning of RESTORE_DEFAULTS. -/
def execRestoreDefaults (path : Nat) (value : Nat) (s : State) : Host.Outcome State Fault Refusal :=
  guardUnit (path < 2) (restoreDefaultsState path value s)

/-- The meaning of LOG_CLEAR. -/
def execLogClear (path : Nat) (value : Nat) (flashOk : Bool) (s : State) : Host.Outcome State Fault Refusal :=
  guardUnit (path < 2) (logClearState path value flashOk s)

/-- The meaning of LOG_ERASE_DONE. -/
def execLogEraseDone (s : State) : Host.Outcome State Fault Refusal :=
  .next (logEraseDoneState s)

/-- The meaning of ARITH_CLEAR. -/
def execArithClear (value : Nat) (s : State) : Host.Outcome State Fault Refusal :=
  .next (arithClearState value s)

/-- The meaning of ARRAY_STATS_CLEAR. -/
def execArrayStatsClear (value : Nat) (s : State) : Host.Outcome State Fault Refusal :=
  .next (arrayStatsClearState value s)

/-- The meaning of VEC_STATS_CLEAR. -/
def execVecStatsClear (value : Nat) (s : State) : Host.Outcome State Fault Refusal :=
  .next (vecStatsClearState value s)

/-- The meaning of SFU_STATS_CLEAR. -/
def execSfuStatsClear (value : Nat) (s : State) : Host.Outcome State Fault Refusal :=
  .next (sfuStatsClearState value s)

/-- The meaning of RNG_STATS_CLEAR. -/
def execRngStatsClear (value : Nat) (s : State) : Host.Outcome State Fault Refusal :=
  .next (rngStatsClearState value s)

/-- The meaning of SEQ_STATS_CLEAR. -/
def execSeqStatsClear (value : Nat) (s : State) : Host.Outcome State Fault Refusal :=
  .next (seqStatsClearState value s)

/-- The meaning of CMD_STATS_CLEAR. -/
def execCmdStatsClear (value : Nat) (s : State) : Host.Outcome State Fault Refusal :=
  .next (cmdStatsClearState value s)

/-- The meaning of STREAM_STATS_CLEAR. -/
def execStreamStatsClear (value : Nat) (s : State) : Host.Outcome State Fault Refusal :=
  .next (streamStatsClearState value s)

/-- The meaning of GATHER_STATS_CLEAR. -/
def execGatherStatsClear (stack : Nat) (value : Nat) (s : State) : Host.Outcome State Fault Refusal :=
  guardUnit (stack < 8) (gatherStatsClearState stack value s)

/-- The meaning of NET_STATS_CLEAR. -/
def execNetStatsClear (value : Nat) (s : State) : Host.Outcome State Fault Refusal :=
  .next (netStatsClearState value s)

/-- The meaning of HBM_STATS_CLEAR. -/
def execHbmStatsClear (stack : Nat) (value : Nat) (s : State) : Host.Outcome State Fault Refusal :=
  guardUnit (stack < 8) (hbmStatsClearState stack value s)

/-- The meaning of STEPPE_STATS_CLEAR. -/
def execSteppeStatsClear (value : Nat) (s : State) : Host.Outcome State Fault Refusal :=
  .next (steppeStatsClearState value s)

/-- The meaning of CFG_STATS_CLEAR. -/
def execCfgStatsClear (value : Nat) (s : State) : Host.Outcome State Fault Refusal :=
  .next (cfgStatsClearState value s)

/-- The meaning of HEON_STATS_CLEAR. -/
def execHeonStatsClear (sub : Nat) (value : Nat) (s : State) : Host.Outcome State Fault Refusal :=
  guardUnit (sub < 4) (heonStatsClearState sub value s)

/-- The meaning of LANE_STATS_CLEAR. -/
def execLaneStatsClear (value : Nat) (s : State) : Host.Outcome State Fault Refusal :=
  .next (laneStatsClearState value s)

/-- The meaning of PEER_STATS_CLEAR. -/
def execPeerStatsClear (value : Nat) (s : State) : Host.Outcome State Fault Refusal :=
  .next (peerStatsClearState value s)

/-- The meaning of INTEGRITY_STATS_CLEAR. -/
def execIntegrityStatsClear (value : Nat) (s : State) : Host.Outcome State Fault Refusal :=
  .next (integrityStatsClearState value s)

/-- The meaning of POWER_STATS_CLEAR. -/
def execPowerStatsClear (value : Nat) (s : State) : Host.Outcome State Fault Refusal :=
  .next (powerStatsClearState value s)

/-- The meaning of OD_STATS_CLEAR. -/
def execOdStatsClear (value : Nat) (s : State) : Host.Outcome State Fault Refusal :=
  .next (odStatsClearState value s)

/-- The meaning of SEC_STATS_CLEAR. -/
def execSecStatsClear (value : Nat) (s : State) : Host.Outcome State Fault Refusal :=
  .next (secStatsClearState value s)

end Sys2Proof.Machine
end

