-- ==== Sys2Proof/Machine/Can.lean ====
section
/-! DEFINITION. CAN FD management (R486-R490) and the end of flash_hold_n's wait (R546). -/
namespace Sys2Proof.Machine

/-! ### Frames (R487, R488) -/

/-- The node number n of the straps (R486). -/
def canNode (s : State) : Nat := s.boot.straps.2.2.2.1

/-- Whether the controller serves the bus (R486). -/
def canOn (s : State) : Bool := canNode s != 0 && !s.mgmt.busOff && s.boot.stage != 0

/-- Pad a data field to the next length CAN FD permits (R487). -/
def padFrame (bs : List Byte) : List Byte :=
  bytesAt bs 0 (([8, 12, 16, 20, 24, 32, 48, 64].find? fun n => bs.length ≤ n).getD 64)

/-- Put a frame on the bus: its identifier in two bytes, then its data field. -/
def canSend (s : State) (ident : Nat) (bs : List Byte) : State :=
  updMgmt s fun m => { m with sent := m.sent ++ [leBytes 2 ident ++ padFrame bs] }

/-- The notices that wait take the bus (R490; log entry 46). -/
def sendNotices (s : State) : State :=
  updMgmt (s.mgmt.notices.foldl (fun t b => canSend t (0x380 + canNode t) b) s) fun m => { m with notices := [] }

/-- The bytes of a response: header and the bytes after it. -/
def canBytes (op tid key code seq n : Nat) (rest : List Byte) : List Byte :=
  leBytes 1 op ++ leBytes 1 tid ++ leBytes 2 (key / 256) ++ leBytes 1 key ++ leBytes 1 code ++ leBytes 1 seq ++ leBytes 1 n ++ rest

/-- Send a response and keep it as the answer of a request, for a repeat (R489). -/
def canAnswer (s : State) (req : List Nat) (bs : List Byte) : State :=
  canSend (updMgmt s fun m => { m with last := some (req, bs) }) (0x280 + canNode s) bs

/-- A request reaches the device: notices go first; a repeat of the last completed request is answered with the same frame
and not applied again. -/
def canRequest (s : State) (req : List Nat) (act : State → State) : State :=
  if !canOn s then s
  else
    let s1 := sendNotices s
    match s.mgmt.last with
    | some (r, bs) =>
      if r == req then (if bs.isEmpty then s1 else canSend s1 (0x280 + canNode s) bs) else act s1
    | none => act s1

/-- Change the open transaction. -/
def setOpen (s : State) (o : Option CanOpen) : State := updMgmt s fun m => { m with open_ := o }

/-! ### Transactions (R489) -/

/-- Segment n of a value (R488). -/
def canPart (v : List Byte) (n : Nat) : List Byte := (v.drop (54 + 56 * (n - 1))).take 56
/-- The segments of a value after its first frame. -/
def canParts (len : Nat) : Nat := (len - 54 + 55) / 56

/-- CAN_READ: the value is taken at this moment and its first bytes are sent. -/
def canReadState (tid index sub : Nat) (s : State) : State :=
  canRequest s [1, tid % 256, index % 65536, sub % 256] fun t =>
    let key := odKey (index % 65536) (sub % 256)
    let (t1, code, v) := odReadEntry t 0 (index % 65536) (sub % 256)
    let first := v.take 54
    let t2 := setOpen (odCount t1 (index % 65536) (sub % 256) code)
      (if code = odOk ∧ v.length > 54 then some ⟨false, tid % 256, key, v, v.length, 1, false⟩ else none)
    canAnswer t2 [1, tid % 256, index % 65536, sub % 256] (canBytes 0x81 tid key code 0 first.length (leBytes 2 v.length ++ first))

/-- A transaction receives the answer TRANSFER and ends. -/
def canBreaks (s : State) (req : List Nat) (op : Nat) (o : CanOpen) : State :=
  let s1 := setOpen (odCount s (o.key / 256) (o.key % 256) odTransfer) none
  canAnswer s1 req (canBytes op o.tid o.key odTransfer 0 0 [])

/-- Apply a completed write and answer it; a write that waits for flash_hold_n is answered later. -/
def canApply (s : State) (req : List Nat) (tid key : Nat) (v : List Byte) (ok : Bool) : State :=
  let (s1, code) := odWriteEntry s 0 (key / 256) (key % 256) v ok
  if code = odWaits then
    updMgmt s1 fun m => { m with last := some (req, []), open_ := some ⟨true, tid, key, v, 0, 0, false⟩ }
  else
    canAnswer (setOpen (odCount s1 (key / 256) (key % 256) code) none) req (canBytes 0x82 tid key code 0 0 [])

/-- CAN_WRITE: a short value is applied; a longer one opens a transaction. -/
def canWriteState (tid index sub len : Nat) (bytes : List Byte) (flashOk : Bool) (s : State) : State :=
  let req := [2, tid % 256, index % 65536, sub % 256, len % 65536, leNat bytes]
  let key := odKey (index % 65536) (sub % 256)
  let n := len % 65536
  let o : CanOpen := ⟨true, tid % 256, key, bytes.take 54, n, 1, false⟩
  canRequest s req fun t =>
    if bytes.length < min n 54 then canBreaks t req 0x82 o
    else if n ≤ 54 then canApply (setOpen t none) req (tid % 256) key (bytes.take n) flashOk
    else canAnswer (setOpen t (some o)) req (canBytes 0x83 tid key odOk 1 0 [])

/-- CAN_SEGMENT: acknowledged after each 8th, applied after the last; a wrong SEQ, or a segment of another length than R488
gives, ends the transaction. -/
def canSegmentState (tid seq : Nat) (bytes : List Byte) (flashOk : Bool) (s : State) : State :=
  let req := [3, tid % 256, seq % 256, leNat bytes]
  canRequest s req fun t =>
    match t.mgmt.open_ with
    | none => t
    | some o =>
      if !o.wr ∨ o.tid ≠ tid % 256 ∨ o.seq = 0 then t
      else if o.broken then canBreaks t req 0x82 o
      else if seq % 256 ≠ o.seq ∨ bytes.length ≠ min 56 (o.len - o.value.length) then setOpen t (some { o with broken := true })
      else
        let v := o.value ++ bytes
        if v.length = o.len then canApply (setOpen t none) req o.tid o.key v flashOk
        else
          let t1 := setOpen t (some { o with value := v, seq := o.seq + 1 })
          if o.seq % 8 = 0 then canAnswer t1 req (canBytes 0x83 o.tid o.key odOk (o.seq + 1) 0 []) else t1

/-- CAN_READ_MORE: segments s to s + 7, or to the last, of the value taken. -/
def canReadMoreState (tid seq : Nat) (s : State) : State :=
  if !canOn s then s
  else
    let t := sendNotices s
    match t.mgmt.open_ with
    | none => t
    | some o =>
      if o.wr ∨ o.tid ≠ tid % 256 then t
      else if o.broken then canBreaks t [4, tid % 256, seq % 256] 0x84 o
      else if seq % 256 = 0 ∨ seq % 256 > canParts o.len then setOpen t (some { o with broken := true })
      else
        (List.range (min 8 (canParts o.len + 1 - seq % 256))).foldl (fun u i =>
          let part := canPart o.value (seq % 256 + i)
          canSend u (0x280 + canNode u) (canBytes 0x84 o.tid o.key odOk (seq % 256 + i) part.length part)) t

/-- CAN_ABORT: the open transaction ends. -/
def canAbortState (tid : Nat) (s : State) : State :=
  canRequest s [5, tid % 256] fun t =>
    let key := match t.mgmt.open_ with | some o => o.key | none => 0
    canAnswer (setOpen (odCount t 0 0 odOk) none) [5, tid % 256] (canBytes 0x85 tid key odOk 0 0 [])

/-- CAN_DESCRIBE (R488): type, access, persistence and the greatest length. -/
def canDescribeState (tid index sub : Nat) (s : State) : State :=
  let req := [6, tid % 256, index % 65536, sub % 256]
  let key := odKey (index % 65536) (sub % 256)
  canRequest s req fun t =>
    match odRow (index % 65536) (sub % 256) with
    | none => canAnswer (setOpen (odCount t 0 0 odNoEntry) none) req (canBytes 0x86 tid key odNoEntry 0 0 [])
    | some r =>
      canAnswer (setOpen (odCount t 0 0 odOk) none) req
        (canBytes 0x86 tid key odOk 0 6 (leBytes 1 r.typ ++ leBytes 1 r.acc ++ leBytes 1 (if r.persist then 1 else 0) ++ [0#8] ++ leBytes 2 r.most))

/-- CAN_TRANSFER_TIMEOUT: a gap of 100 ms ends the open transaction; its next frame is answered TRANSFER. -/
def canTransferTimeoutState (s : State) : State :=
  match s.mgmt.open_ with
  | some o => if o.seq = 0 then s else setOpen s (some { o with broken := true })
  | none => s

/-- CAN_BUS_OFF (R486; log entry 47): the controller goes bus-off; when it is, the standard's sequence has passed and it
serves the bus again. -/
def canBusOffState (s : State) : State :=
  if canNode s = 0 then s else updMgmt s fun m => { m with busOff := !m.busOff }

/-! ### flash_hold_n (R546) -/

/-- Answer a write that waited, on its path. -/
def answerWaiting (s : State) (key path code : Nat) : State :=
  if path = 3 then odReply s code
  else if path = 1 then odEnd s (key / 256) (key % 256) code
  else if path = 0 then
    match s.mgmt.open_, s.mgmt.last with
    | some o, some (req, []) =>
      if o.seq = 0 ∧ (o.key = key ∨ key = 1) then
        canAnswer (setOpen (odCount s (o.key / 256) (o.key % 256) code) none) req (canBytes 0x82 o.tid o.key code 0 0 [])
      else s
    | _, _ => s
  else s

/-- A persistence that waited is done: key 0 is a counter record, 1 the rewritten store. -/
def waitingDone (s : State) (e : Nat × List Byte × Nat) : State :=
  if e.1 = 0 then
    answerWaiting (updPower s fun p => { p with counters := p.counters ++ [e.2.1], badCount := false }) (odKey 0x2002 3) e.2.2 odOk
  else if e.1 = 1 then
    answerWaiting (updMgmt s fun m =>
      { m with store := (storeLatest (storeValid m)).filter (fun e => e.1 == clearMarkKey), torn := [], sector := (m.sector + 1) % 2 }) 1 e.2.2 odOk
  else answerWaiting (storeAppend s e.1 e.2.1) e.1 e.2.2 odOk

/-- A persistence that waited fails (R471, R481): event 0x110A or 0x1207. -/
def waitingFails (s : State) (e : Nat × List Byte × Nat) : State :=
  if e.1 = 0 then
    answerWaiting (emitPlain (updPower s fun p => { p with badCount := true }) 0x110A sevError srcSaddle
      [(32, counterAddr s), (32, fieldAt e.2.1 0 8)]) (odKey 0x2002 3) e.2.2 odPersistFail
  else answerWaiting (storeFails s (if e.1 = 1 then odKey 0x1F01 1 else e.1)) e.1 e.2.2 odPersistFail

/-- FLASH_HOLD_RELEASED (R546): the waiting persistences reach flash and step 1 of a start-up may proceed. -/
def flashHoldReleasedState (s : State) : State :=
  if !s.boot.held then s
  else
    let s1 := updMgmt (updBoot s fun b => { b with held := false }) fun m => { m with waiting := [] }
    tryStart (s.mgmt.waiting.foldl waitingDone s1)

/-- PERSISTENCE_WAIT_EXPIRED (R546): each persistence that has waited more than 1 s fails. -/
def persistenceWaitExpiredState (s : State) : State :=
  if !s.boot.held then s
  else tryStart (s.mgmt.waiting.foldl waitingFails (updMgmt s fun m => { m with waiting := [] }))

/-! ### Meanings -/

/-- The meaning of CAN_READ. -/
def execCanRead (tid : Nat) (index : Nat) (sub : Nat) (s : State) : Host.Outcome State Fault Refusal :=
  .next (canReadState tid index sub s)

/-- The meaning of CAN_WRITE. -/
def execCanWrite (tid : Nat) (index : Nat) (sub : Nat) (len : Nat) (bytes : List Byte) (flashOk : Bool) (s : State) : Host.Outcome State Fault Refusal :=
  .next (canWriteState tid index sub len bytes flashOk s)

/-- The meaning of CAN_SEGMENT. -/
def execCanSegment (tid : Nat) (seq : Nat) (bytes : List Byte) (flashOk : Bool) (s : State) : Host.Outcome State Fault Refusal :=
  .next (canSegmentState tid seq bytes flashOk s)

/-- The meaning of CAN_READ_MORE. -/
def execCanReadMore (tid : Nat) (seq : Nat) (s : State) : Host.Outcome State Fault Refusal :=
  .next (canReadMoreState tid seq s)

/-- The meaning of CAN_ABORT. -/
def execCanAbort (tid : Nat) (s : State) : Host.Outcome State Fault Refusal :=
  .next (canAbortState tid s)

/-- The meaning of CAN_DESCRIBE. -/
def execCanDescribe (tid : Nat) (index : Nat) (sub : Nat) (s : State) : Host.Outcome State Fault Refusal :=
  .next (canDescribeState tid index sub s)

/-- The meaning of CAN_TRANSFER_TIMEOUT. -/
def execCanTransferTimeout (s : State) : Host.Outcome State Fault Refusal :=
  .next (canTransferTimeoutState s)

/-- The meaning of CAN_BUS_OFF. -/
def execCanBusOff (s : State) : Host.Outcome State Fault Refusal :=
  .next (canBusOffState s)

/-- The meaning of FLASH_HOLD_RELEASED. -/
def execFlashHoldReleased (s : State) : Host.Outcome State Fault Refusal :=
  .next (flashHoldReleasedState s)

/-- The meaning of PERSISTENCE_WAIT_EXPIRED. -/
def execPersistenceWaitExpired (s : State) : Host.Outcome State Fault Refusal :=
  .next (persistenceWaitExpiredState s)

end Sys2Proof.Machine
end

