-- ==== Sys2Proof/Machine/Flit.lean ====
section
/-! DEFINITION. What the device sends on its links (R366-R371, R416, R417): the slots of a message, their class's credits, the
packing of slots into flits, and the tick by which the links send. -/
namespace Sys2Proof.Machine

/-! ### Slots -/

/-- The slots of a number of bytes, the last filled with zeros (R366, R417). -/
def slotsOf (bs : List Byte) : List (List Byte) := (List.range ((bs.length + 15) / 16)).map fun i => bytesAt bs (16 * i) 16

/-- The class of an opcode (R372): 0 REQ, 1 SNP, 2 RSP, 3 DAT. -/
def heonClass (op : Nat) : Nat := if op < 0x10 then 0 else if op < 0x18 then 1 else if op < 0x20 then 2 else 3

/-- The header of a Heonlink message of the device (R371). -/
def heonHeader (m : HeonMsg) : Nat :=
  m.op % 64 * 2 ^ 122 +
    if m.op = 0x20 then
      (m.lines.length - 1) % 4 * 2 ^ 120 + m.poison % 16 * 2 ^ 116
        + (List.range 4).foldl (fun n k => n + m.tags.getD k 0 % 4096 * 2 ^ (16 * k)) 0
    else if m.op < 0x18 then m.tag % 4096 * 2 ^ 110 + m.addr / 64 % 2 ^ 46 * 2 ^ 64 + m.value % 2 ^ 64
    else
      m.tag % 4096 * 2 ^ 110 + m.status % 256 * 2 ^ 102 + m.poison % 2 * 2 ^ 101 + m.st % 4 * 2 ^ 99 + (if m.follows then 2 ^ 98 else 0)
        + m.value % 2 ^ 64

/-- The slots of a Heonlink message: its header, and the four of each line of a DATA message (R367). -/
def heonSlots (m : HeonMsg) : List (List Byte) :=
  leBytes 16 (heonHeader m) :: if m.op = 0x20 then m.lines.flatMap fun l => slotsOf (bytesAt l 0 64) else []

/-- Whether a peer opcode is of class DATA (R418). -/
def peerData (op : Nat) : Bool := op == 0x01 || op == 0x02

/-- The header of a peer message (R417). -/
def peerHeader (m : PeerMsg) : Nat :=
  m.opcode % 64 * 2 ^ 122 + m.src % 4096 * 2 ^ 110 + m.dst % 4096 * 2 ^ 98 + (if m.rvc then 2 ^ 97 else 0) + (if m.poison then 2 ^ 96 else 0)
    + m.hopsLeft % 16 * 2 ^ 92 + m.pipeline % 256 * 2 ^ 84 + m.epoch % 65536 * 2 ^ 68
    + (if peerData m.opcode then (m.bytes - 1) % 256 * 2 ^ 60 else 0) + m.tag % 4096 * 2 ^ 48 + m.arg % 2 ^ 48

/-- The slots of a peer message (R417). -/
def peerSlots (m : PeerMsg) : List (List Byte) :=
  leBytes 16 (peerHeader m) :: if peerData m.opcode then slotsOf m.payload else []

/-! ### Credits (R368, R416) -/

/-- The slots a receiver grants to a class of a link: four classes on a sub-link, two on a peer link. -/
def classLimit (link cls : Nat) : Nat :=
  if link < 4 then [256, 64, 256].getD cls 1088 else if cls = 0 then 8192 else 256

/-- Whether a class holds credits for some slots. -/
def creditsHold (a : Agent) (link cls n : Nat) : Bool := tget 0 a.credits cls + n ≤ classLimit link cls

/-- Slots of a class enter the slot stream and take their credits. -/
def placeSlots (a : Agent) (cls : Nat) (slots : List (List Byte)) : Agent :=
  { a with credits := tset 0 a.credits cls (tget 0 a.credits cls + slots.length), txSlots := a.txSlots ++ slots }

/-! ### Flits (R366) -/

/-- The slots freed that a flit returns, from those waiting (R366, R416). -/
def creditField (link : Nat) (c : Tab Nat) : Nat :=
  if link < 4 then (List.range 4).foldl (fun n k => n + min 15 (tget 0 c (4 + k)) * 2 ^ (60 - 4 * k)) 0
  else min 4095 (tget 0 c 4) * 2 ^ 52 + min 15 (tget 0 c 5) * 2 ^ 48

/-- The credits once a flit has returned those. -/
def creditsSent (link : Nat) (c : Tab Nat) : Tab Nat :=
  (List.range 4).foldl (fun t k => tset 0 t (4 + k) (tget 0 t (4 + k) - if link < 4 then 15 else if k = 0 then 4095 else 15)) c

/-- A normal flit of an agent that carries some slots: its header, the slots and the CRC-32 (R366). -/
def linkFlit (a : Agent) (link : Nat) (slots : List (List Byte)) : List Byte :=
  let h := a.txSeq % 4096 * 2 ^ 84 + a.rxSeq % 4096 * 2 ^ 72 + (if a.awaiting then 2 ^ 71 else 0) + creditField link a.credits
    + (2 ^ slots.length - 1) * 2 ^ 33
  let bs := leBytes 12 h ++ bytesAt (slots.flatMap id) 0 240
  bs ++ leBytes 4 (crc32 bs)

/-- Flits a sender keeps for replay (R369, R416). -/
def replayRoom (link : Nat) : Nat := if link < 4 then 256 else 1024

/-- The lane group under a link: a sub-link's, or a peer port's. -/
def linkGroup (link : Nat) : Nat := if link < 4 then 16 + link else link - 4

/-- Send a flit: the oldest slots of the stream go out, and the flit is kept for replay. While the replay buffer is full of flits
not yet acknowledged, or in Idle (R409), none is sent (DEDUCED, log entry 75). -/
def sendFlit (s : State) (link : Nat) : State :=
  let a := agent s link
  if !a.up || a.txSlots.isEmpty || (lgroup s (linkGroup link)).txIdle || replayRoom link ≤ a.replay.length then s
  else
    let now := a.txSlots.take 15
    let s1 := updAgent s link fun v =>
      { v with replay := v.replay ++ [(v.txSeq, linkFlit v link now)], txSeq := (v.txSeq + 1) % 4096, txSlots := v.txSlots.drop 15,
               credits := creditsSent link v.credits }
    if link < 4 then odBump s1 (0x6010 + link) 1 1 else s1

/-! ### Peer messages -/

/-- Messages of a peer port that its credits allow, in order within each class; what stays, and the agent. -/
def pumpMsgs (link : Nat) : List PeerMsg → Agent → Bool → Bool → List PeerMsg × Agent
  | [], a, _, _ => ([], a)
  | m :: rest, a, heldData, heldCtl =>
    let data := peerData m.opcode
    let slots := peerSlots m
    if (if data then heldData else heldCtl) || !creditsHold a link (if data then 0 else 1) slots.length then
      let r := pumpMsgs link rest a (heldData || data) (heldCtl || !data)
      (m :: r.1, r.2)
    else pumpMsgs link rest (placeSlots a (if data then 0 else 1) slots) heldData heldCtl

/-- The messages waiting at a peer port enter its slot stream. -/
def pumpPort (s : State) (g : Nat) : State :=
  let a := agent s (4 + g)
  if !a.up then s
  else
    let r := pumpMsgs (4 + g) (peerPort s g).out a false false
    updPort (setAgent s (4 + g) r.2) g fun v => { v with out := r.1 }

/-- The tick of the links (log entry 75): each peer port takes up what waits, and each link that is up sends a flit. -/
def linksTick (s : State) : State :=
  (List.range 20).foldl sendFlit ((List.range 16).foldl pumpPort s)

end Sys2Proof.Machine
end

