-- ==== Sys2Proof/Machine/Window.lean ====
section
/-! DEFINITION. The control windows (R553): the registers of R30, R72, R198, R248, R281, R310, R340, R348, R383, R412, R428, R448,
R473 and R500 by address, what each reads and what a write of it does. Offsets count from 0x0200_0000_0000. -/
namespace Sys2Proof.Machine

/-- The address at which the control windows begin (R7). -/
def winBase : Nat := 0x020000000000

/-! ### Registers by offset -/

/-- The register that holds an offset of four bytes: its first offset and its bytes; none where the map names none. A relay
pair is one register of two 16-bit entries (R428). -/
def regOf (o : Nat) : Option (Nat × Nat) :=
  let r4 : Option (Nat × Nat) := some (o, 4)
  let r8 : Option (Nat × Nat) := some (o / 8 * 8, 8)
  let p := o % 0x1000
  if o < 0x10000 then if o = 0x10 ∨ o = 0x14 ∨ (0x100 ≤ o ∧ o < 0x300) ∨ (0x400 ≤ o ∧ o < 0x440) then r4 else none
  else if o < 0x20000 then r4
  else if o < 0x22000 then if o % 0x10 ≤ 8 then r4 else none
  else if o < 0x30000 then none
  else if o < 0x30400 then
    if o % 0x20 < 8 then r8 else if o % 0x20 = 8 ∨ o % 0x20 = 0x10 ∨ o % 0x20 = 0x14 then r4 else none
  else if o < 0x40000 then if o = 0x30400 then r4 else none
  else if o < 0x48000 then
    if p = 0 ∨ p = 0x18 ∨ p = 0x40 then r4 else if (8 ≤ p ∧ p < 0x18) ∨ (0x20 ≤ p ∧ p < 0x40) then r8 else none
  else if o < 0x50000 then none
  else if o < 0x59900 then if o % 0x40 < 0x20 then r8 else if o % 0x40 < 0x28 then r4 else if o % 0x40 < 0x38 then r8 else r4
  else if o < 0x60000 then if 0x5A000 ≤ o ∧ o < 0x5A050 then r4 else none
  else if o < 0x60800 then
    if o % 0x40 = 0 ∨ o % 0x40 = 0x28 ∨ o % 0x40 = 0x2C then r4
    else if (8 ≤ o % 0x40 ∧ o % 0x40 < 0x28) ∨ (0x30 ≤ o % 0x40 ∧ o % 0x40 < 0x38) then r8 else none
  else if o < 0x70000 then none
  else if o < 0x78000 then
    if p = 0 ∨ p = 8 ∨ p = 0x120 ∨ (0x20 ≤ p ∧ p < 0x120) then r4 else if 0x10 ≤ p ∧ p < 0x20 then r8 else none
  else if o < 0x80000 then none
  else if o < 0x90000 then if [0, 8, 0x10, 0x14, 0x18, 0x20, 0x28].contains p then r4 else none
  else if o < 0x91000 then if p = 0x40 ∨ (p < 0x20 ∧ p % 8 = 0) then r4 else none
  else if o < 0xA0000 then none
  else if o < 0xA1000 then
    if p < 8 ∨ (0x28 ≤ p ∧ p < 0x30) then r8
    else if [8, 0x10, 0x14, 0x18, 0x20, 0x80].contains p ∨ (0x40 ≤ p ∧ p < 0x80) then r4 else none
  else if o < 0xB0000 then none
  else if o < 0xB2000 then if o = 0xB0000 ∨ o = 0xB0004 ∨ o = 0xB0008 ∨ 0xB1000 ≤ o then r4 else none
  else if o < 0xC0000 then none
  else if o < 0xC9000 then
    let q := o % 0x100
    if [0, 0x10, 0x14, 0x18, 0x20, 0x24].contains q then r4 else if (8 ≤ q ∧ q < 0x10) ∨ (0x28 ≤ q ∧ q < 0x30) then r8 else none
  else if o < 0xCA000 then none
  else if o < 0xCB400 then
    let q := o % 0x100
    if [0, 0x20, 0x24, 0x28, 0x2C].contains q then r4 else if 8 ≤ q ∧ q < 0x20 then r8 else none
  else if o < 0xD0000 then none
  else if o < 0xD1000 then if [0, 8, 0xC, 0x10].contains p then r4 else none
  else if o < 0xD2000 then r8
  else if o < 0xD3000 then none
  else if o < 0xD5000 then r4
  else if o < 0xD6000 then none
  else if o < 0xD6800 then if o % 0x20 < 0x18 then r8 else none
  else if o < 0xD8000 then none
  else if o < 0xD8400 then if o % 0x40 = 0 then r4 else none
  else if o < 0xE0000 then none
  else if o < 0xE4000 then
    if [0, 8, 0x18, 0x1C].contains (o % 0x20) then r4 else if 0x10 ≤ o % 0x20 ∧ o % 0x20 < 0x18 then r8 else none
  else if o < 0xF0000 then none
  else if o < 0xF1000 then
    if o < 0xF000C ∨ (0xF0010 ≤ o ∧ o < 0xF002C) ∨ (0xF0030 ≤ o ∧ o < 0xF004C) ∨ o = 0xF0068 ∨ o = 0xF006C ∨ o = 0xF0078 then r4
    else if (0xF0050 ≤ o ∧ o < 0xF0058) ∨ (0xF0060 ≤ o ∧ o < 0xF0068) ∨ (0xF0070 ≤ o ∧ o < 0xF0078) then r8 else none
  else if o < 0x100000 then if o - 0xF1000 < 0x10 * 0x420 ∧ o % 0x10 < 0xC then r4 else none
  else if 0x200000 ≤ o ∧ o < 0x400000 then r8
  else if o = 0x400000 ∨ o = 0x400004 then r8
  else if o = 0x400008 ∨ o = 0x40000C ∨ o = 0x400010 then r4
  else none

/-! ### Reads -/

/-- ISOLATED (R30): bit x of row y. -/
def isolatedRow (s : State) (y : Nat) : Nat := (List.range 32).foldl (fun m x => bitPut m x (dale s (y * 32 + x)).isolated) 0

/-- DIR_EPOCH and RELOAD_STATUS (R248). -/
def dirEpochReg (g : Gather) : Nat := g.live * 65536 + g.epoch % 65536
def reloadStatusReg (g : Gather) : Nat := g.phase * 2 ^ 30 + statusCode g.status * 2 ^ 16 + g.made % 65536

/-- A 64-bit or 32-bit register of an interface (R281). -/
def niReg (s : State) (c q : Nat) : Nat :=
  let n := ni s c
  match q with
  | 0x00 => n.flitsOut % 2 ^ 64
  | 0x08 => n.flitsIn % 2 ^ 64
  | 0x10 => n.requests % 2 ^ 64
  | 0x18 => n.latSum % 2 ^ 64
  | 0x20 => n.latMax % 2 ^ 32
  | 0x24 => n.state % 4
  | 0x28 => n.bucketWait % 2 ^ 64
  | 0x30 => n.absorbed % 2 ^ 64
  | 0x38 => n.parity
  | _ => 0

/-- ABSORBING (R281). -/
def absorbingRow (s : State) (w : Nat) : Nat :=
  (List.range 32).foldl (fun m b => bitPut m b (32 * w + b < 612 && (ni s (32 * w + b)).state ≥ 2)) 0

/-- CLK_STATE (R340). -/
def clkReg (s : State) (g : Nat) : Nat :=
  let c := clockGen s g
  (if c.locked then 2 ^ 31 else 0) + (if c.enabled then 2 ^ 30 else 0) + c.n % 128

/-- A register of a lane page (R412). -/
def laneReg (s : State) (n q : Nat) : Nat :=
  let l := sLane s n
  match q with
  | 0x00 => l.offset % 128 * 2 ^ 16 + l.partner % 8 * 2 ^ 8 + (if l.found then 2 ^ 5 else 0) + (if l.inverted then 2 ^ 4 else 0) + l.stage % 16
  | 0x08 => l.symErr % 2 ^ 64
  | 0x10 => l.stuffs
  | 0x14 => l.stuffErr
  | 0x18 => l.slips
  | 0x20 => l.ctrl
  | 0x28 => l.testErr % 2 ^ 64
  | _ => 0

/-- A register of a group page (R412). -/
def groupReg (s : State) (g q : Nat) : Nat :=
  let v := lgroup s g
  match q with
  | 0x00 =>
    let locked := (List.range (groupN g)).foldl (fun m k =>
      bitPut m k (((groupLanes g)[k]?.map fun n => decide (3 ≤ (sLane s n).stage ∧ (sLane s n).stage ≤ 8)).getD false)) 0
    locked * 2 ^ 8 + (if v.deep != 0 then 2 ^ 6 else 0) + (if v.rxIdle then 2 ^ 5 else 0) + (if v.txIdle then 2 ^ 4 else 0) + v.stage % 16
  | 0x08 => v.fecC % 2 ^ 64
  | 0x10 => v.fecU % 2 ^ 64
  | 0x18 => v.uid
  | 0x20 => v.info
  | 0x24 => v.retrains
  | _ => 0

/-- PORT_STATE (R428): the store use is the payload held, in KiB rounded up. -/
def portStateReg (s : State) (p : Nat) : Nat :=
  let v := peerPort s p
  let used := ((v.epochs.filter fun e => !e.applied).map fun e => (e.msgs.map fun m => m.payload.length).sum).sum
  (if v.down then 2 ^ 31 else 0) + (if (odRaw s 0x700004).testBit p then 2 ^ 30 else 0) + v.epochs.length % 256 * 2 ^ 16
    + (used + 1023) / 1024 % 2 ^ 16

/-- LIMITER (R473): acting while the limiter holds a voltage below 850 mV or a gap; at the floor when V has reached B of R458. -/
def limiterReg (s : State) : Nat :=
  let p := s.power
  let acts := decide (p.limiterV < 850) || p.gap != 0
  (if acts then 2 ^ 31 else 0) + (if acts && p.target ≤ max (floorNow s) 550 then 2 ^ 30 else 0) + p.gap * 2 ^ 8

/-- DOMAIN_BUSY (R473). -/
def busyRow (s : State) (w : Nat) : Nat := (List.range 32).foldl (fun m b => bitPut m b (switchOf s (32 * w + b)).isSome) 0

/-- Bits [63:0] of a quarter of RECORD[slot] (R500): slots at or past HEAD read 0xFF bytes. -/
def recordReg (s : State) (slot q : Nat) : Nat :=
  if slot < slotOfSeq s.log s.log.head then fieldAt (recordAt s ((s.log.first + slot) % 2 ^ 32)) (8 * q) 8 else 2 ^ 64 - 1

/-- CFG_SCRUB (R348): the percentage of the present pass done, over the frames of the configured sectors, and the passes completed. -/
def scrubReg (s : State) : Nat :=
  let n := ((List.range 16).filter fun k => (sectorRegion s k).testBit 5).length * scrubFrames
  winGet s (cfgWin 0x80) + s.cfg.scrubbed.length * 100 / max 1 n % 128 * 2 ^ 24

/-- What the register whose first offset is `o` reads (R30 to R500). -/
def regRead (s : State) (o : Nat) : Nat :=
  let p := o % 0x1000
  if o < 0x10000 then if 0x400 ≤ o ∧ o < 0x440 then isolatedRow s ((o - 0x400) / 4) else winGet s (winBase + o)
  else if o < 0x20000 then semOf (dale s ((o - 0x10000) / 0x80)) (o % 0x80 / 4)
  else if o < 0x22000 then
    let x := dale s ((o - 0x20000) / 0x10)
    if o % 0x10 = 0 then x.satCount else if o % 0x10 = 4 then x.nanCount else x.satLast
  else if o = 0x30400 then s.cp.inflight.length
  else if 0x40000 ≤ o ∧ o < 0x48000 then
    if p = 0 then dirEpochReg (gather s ((o - 0x40000) / 0x1000))
    else if p = 0x40 then reloadStatusReg (gather s ((o - 0x40000) / 0x1000))
    else winGet s (winBase + o)
  else if 0x50000 ≤ o ∧ o < 0x59900 then niReg s ((o - 0x50000) / 0x40) (o % 0x40)
  else if 0x5A000 ≤ o ∧ o < 0x5A050 then absorbingRow s ((o - 0x5A000) / 4)
  else if 0x80000 ≤ o ∧ o < 0x90000 then
    if p = 0 then sectorState s ((o - 0x80000) / 0x1000)
    else if p = 8 then portAbsorb s ((o - 0x80000) / 0x1000)
    else if p = 0x20 ∨ p = 0x28 then 0 else winGet s (winBase + o)
  else if 0x90000 ≤ o ∧ o < 0x91000 then if p = 0x40 then floorMv s else clkReg s (p / 8)
  else if 0xA0000 ≤ o ∧ o < 0xA1000 then
    if p = 0x10 then 0
    else if p = 0x18 then cfgStateReg s
    else if p = 0x80 then scrubReg s
    else if 0x40 ≤ p ∧ p < 0x80 then winGet s (winBase + o) + (if scrubPaused s ((p - 0x40) / 4) then 64 else 0)
    else winGet s (winBase + o)
  else if o = 0xB0000 then s.mgmt.odCmd
  else if o = 0xB0004 then s.mgmt.odLen
  else if o = 0xB0008 then (if s.mgmt.odBusy then 2 ^ 31 else 0) + s.mgmt.odCode
  else if 0xB1000 ≤ o ∧ o < 0xB2000 then fieldAt s.mgmt.odData (o - 0xB1000) 4
  else if 0xC0000 ≤ o ∧ o < 0xC9000 then laneReg s ((o - 0xC0000) / 0x100) (o % 0x100)
  else if 0xCA000 ≤ o ∧ o < 0xCB400 then groupReg s ((o - 0xCA000) / 0x100) (o % 0x100)
  else if o = 0xD0010 then 0
  else if 0xD3000 ≤ o ∧ o < 0xD5000 then winGet s (winBase + o) + winGet s (winBase + o + 2) * 2 ^ 16
  else if 0xD8000 ≤ o ∧ o < 0xD8400 then portStateReg s ((o - 0xD8000) / 0x40)
  else if 0xE0000 ≤ o ∧ o < 0xE4000 then
    let x := dale s ((o - 0xE0000) / 0x20)
    match o % 0x20 with
    | 8 => (recentStrikes s x).length % 256 * 2 ^ 24 + x.lastSig % 2 ^ 24
    | 0x10 => Nat.land x.lastSpan 0x8000FF00FFFFFFFF
    | 0x18 => x.storeCe
    | 0x1C => x.storeUe
    | _ => 0
  else if o = 0xF0004 then limiterReg s
  else if o = 0xF0008 then (inputValue s.power 1 0x41C % 2 ^ 16).toNat
  else if 0xF0030 ≤ o ∧ o < 0xF004C then busyRow s ((o - 0xF0030) / 4)
  else if o = 0xF0068 then 0
  else if 0xF1000 ≤ o ∧ o < 0x100000 then raw32 (inputValue s.power (o % 0x10 / 4) ((o - 0xF1000) / 0x10))
  else if 0x200000 ≤ o ∧ o < 0x400000 then recordReg s ((o - 0x200000) / 32) (o % 32 / 8)
  else if o = 0x400000 then s.log.first * 2 ^ 32 + s.log.head
  else if o = 0x400008 then s.log.overflow
  else if o = 0x40000C then s.log.drops
  else if o = 0x400010 then (if s.log.clearing then 1 else 0)
  else winGet s (winBase + o)

/-! ### Writes -/

/-- The refusal of R32 and R553: FORMAT_ERROR, and nothing changes. -/
def refuseWrite (s : State) : State := answer s .formatError 0

/-- Write a register held in the window store. -/
def putReg (s : State) (o v : Nat) : State := answer (winSet s (winBase + o) v) .done 0

/-- The col that a requester's packets name as source: the host's reach the core through the edge die of its sub-link. -/
def srcColOf : Src → Nat
  | .host => dieCol 0
  | .cmdProc => cmdCol
  | .col c => c

/-- SEM_WRITE (R44): the amount is added. -/
def semAmount (src : Src) (d k amount : Nat) (s : State) : State := answer (semAdd s d (k % 32) (amount % 2 ^ 32) (srcColOf src)) .done 0

/-- SAT_COUNT and NAN_COUNT (R74). -/
def satZero (d value : Nat) (s : State) : State :=
  if value = 0 then answer (updDale s d fun x => { x with satCount := 0 }) .done 0 else refuseWrite s
def nanZero (d value : Nat) (s : State) : State :=
  if value = 0 then answer (updDale s d fun x => { x with nanCount := 0 }) .done 0 else refuseWrite s

/-- NI_CLEAR (R281): 1 clears the counters of a col's interface. -/
def niZero (c value : Nat) (s : State) : State :=
  if value = 1 then
    answer (updNi s c fun n =>
      { n with flitsOut := 0, flitsIn := 0, requests := 0, latSum := 0, latMax := 0, bucketWait := 0, absorbed := 0, parity := 0 }) .done 0
  else refuseWrite s

/-- A register of probe k by its offset in the probe's page. -/
def probeWin (k off : Nat) : Nat := 0x020000060000 + 0x40 * k + off
/-- Whether a probe counts. -/
def probeOn (s : State) (k : Nat) : Bool := (winGet s (probeWin k 0)).testBit 31

/-- PROBE_CTRL (R282): while ENABLE is 1 only ENABLE may change; refused values change nothing. -/
def probeCtrlWrite (k value : Nat) (s : State) : State :=
  let v := Nat.land value 0xFE0003FF
  let old := winGet s (probeWin k 0)
  if bitsOf v 29 28 = 3 ∨ bitsOf v 27 25 > 5 ∨ v % 1024 > 611 ∨ (old.testBit 31 ∧ v % 2 ^ 31 ≠ old % 2 ^ 31) then refuseWrite s
  else answer (winSet s (probeWin k 0) v) .done 0

/-- The other registers of a probe (R281, R282). -/
def probeWrite (s : State) (k q v : Nat) : State :=
  if probeOn s k then refuseWrite s
  else match q with
    | 0x20 => if v % 2 ^ 48 % 4096 = 0 then answer (winSet s (probeWin k q) (v % 2 ^ 48)) .done 0 else refuseWrite s
    | 0x28 =>
      let l := bitsOf v 20 16
      if 8 ≤ l ∧ l ≤ 20 then answer (winSet s (probeWin k q) (l * 2 ^ 16)) .done 0 else refuseWrite s
    | _ => answer (winSet s (probeWin k q) v) .done 0

/-- GROUP_CMD (R412). -/
def groupCmd (s : State) (g v : Nat) : State :=
  match v with
  | 1 => groupRetrainState g s
  | 2 => deepRequestState g s
  | 3 => deepWakeState g s
  | _ => refuseWrite s

/-- Whether the present host epoch holds a message (R422). -/
def hostEpochHolds (s : State) : Bool := !s.cp.hostPorts.isEmpty

/-- HOST_PIPELINE (R422): refused for a pipeline that holds a placement, and while the host epoch holds a message. -/
def hostPipelineWrite (s : State) (v : Nat) : State :=
  if !(pipe s (v % 256)).stages.isEmpty || hostEpochHolds s then refuseWrite s else putReg s 0xD0008 (v % 256)

/-- HOST_EPOCH_CTRL (R422). -/
def hostEpochCtrl (s : State) (v : Nat) : State :=
  if v.testBit 0 ∧ v.testBit 1 then refuseWrite s
  else if v.testBit 0 then hostEpochCommitState s
  else if v.testBit 1 then hostEpochRetractState s
  else answer s .done 0

/-- CFG_CTRL (R348): GO, or ABANDON. -/
def cfgCtrl (s : State) (v : Nat) : State :=
  if v.testBit 0 then advanceStartup (cfgGoState s)
  else if v.testBit 1 then advanceStartup (cfgAbandonState s)
  else answer s .done 0

/-- OD_CMD (R383): GO starts a request, which its own command answers. -/
def odCmdReg (s : State) (v : Nat) : State :=
  if s.mgmt.odBusy ∨ bitsOf v 30 29 ≥ 2 then refuseWrite s
  else answer (updMgmt s fun m => { m with odCmd := Nat.land v 0x60FFFFFF, odBusy := v.testBit 31 }) .done 0

/-- OD_LEN (R383). -/
def odLenReg (s : State) (v : Nat) : State :=
  if s.mgmt.odBusy ∨ v > 4096 then refuseWrite s else answer (updMgmt s fun m => { m with odLen := v }) .done 0

/-- OD_DATA (R383): four value bytes. -/
def odDataReg (s : State) (off v : Nat) : State :=
  if s.mgmt.odBusy then refuseWrite s
  else answer (updMgmt s fun m =>
    { m with odData := bytesAt m.odData 0 off ++ leBytes 4 v ++ (m.odData.drop (off + 4)) }) .done 0

/-- Writes of offsets below 0x60000: semaphores, counters, command rings, gather engines, network interfaces. -/
def regWriteUnits (s : State) (src : Src) (o v : Nat) : State :=
  let p := o % 0x1000
  if o < 0x10000 then refuseWrite s
  else if o < 0x20000 then semAmount src ((o - 0x10000) / 0x80) (o % 0x80 / 4) v s
  else if o < 0x22000 then
    let d := (o - 0x20000) / 0x10
    if o % 0x10 = 0 then satZero d v s else if o % 0x10 = 4 then nanZero d v s else refuseWrite s
  else if o < 0x30200 then
    let q := (o - 0x30000) / 0x20
    match o % 0x20 with
    | 0 => ringBaseWrite s (cqWin q 0) (cqCtrlOf s q) v
    | 8 => cqCtrlState q v s
    | 0x10 => cqTailState q v s
    | _ => refuseWrite s
  else if o < 0x30400 then
    let c := (o - 0x30200) / 0x20
    match o % 0x20 with
    | 0 => ringBaseWrite s (cplWin c 0) (cplCtrlOf s c) v
    | 8 => cplCtrlState c v s
    | 0x14 => cplHeadState c v s
    | _ => refuseWrite s
  else if o < 0x40000 then refuseWrite s
  else if o < 0x48000 then
    let k := (o - 0x40000) / 0x1000
    if p = 0 ∨ p = 0x40 then refuseWrite s
    else if p = 0x18 then reloadCtrlState k v s
    else if (gather s k).phase ≠ 0 then refuseWrite s
    else putReg s o (if p < 0x20 then v % 2 ^ 48 else v)
  else if o < 0x59900 then if o % 0x40 = 0x3C then niZero ((o - 0x50000) / 0x40) v s else refuseWrite s
  else refuseWrite s

/-- Writes of offsets 0x60000 to 0xBFFFF: probes, sectors, configuration, the object dictionary. -/
def regWriteControl (s : State) (o v : Nat) : State :=
  let p := o % 0x1000
  if o < 0x60000 then refuseWrite s
  else if o < 0x60800 then
    let k := (o - 0x60000) / 0x40
    match o % 0x40 with
    | 0 => probeCtrlWrite k v s
    | 0x18 => refuseWrite s
    | 0x2C => refuseWrite s
    | 0x30 => refuseWrite s
    | q => probeWrite s k q v
  else if o < 0x80000 then refuseWrite s
  else if o < 0x90000 then
    if p = 0x20 then sectorResetState ((o - 0x80000) / 0x1000) v s
    else if p = 0x28 then sectorClearState ((o - 0x80000) / 0x1000) v s
    else refuseWrite s
  else if o < 0xA0000 then refuseWrite s
  else if o < 0xA1000 then
    let busy := decide (2 ≤ cfgShown s)
    if p = 0 then if busy then refuseWrite s else putReg s o (v % 2 ^ 52)
    else if p = 8 then if busy then refuseWrite s else putReg s o v
    else if p = 0x10 then cfgCtrl s v
    else if p = 0x14 then if v < 10 ∨ v > 60000 ∨ cfgShown s ≠ 1 then refuseWrite s else putReg s o v
    else refuseWrite s
  else if o = 0xB0000 then odCmdReg s v
  else if o = 0xB0004 then odLenReg s v
  else if 0xB1000 ≤ o ∧ o < 0xB2000 then odDataReg s (o - 0xB1000) v
  else refuseWrite s

/-- Writes of the lane and lane group registers, offsets 0xC0000 to 0xCFFFF. -/
def regWriteLanes (s : State) (o v : Nat) : State :=
  if o < 0xC9000 then
    if o % 0x100 = 0x20 then laneCtrlState ((o - 0xC0000) / 0x100) v s
    else if o % 0x100 = 0x24 then laneBitslipState ((o - 0xC0000) / 0x100) v s
    else refuseWrite s
  else if o < 0xD0000 then
    if o % 0x100 = 0x28 then groupCmd s ((o - 0xCA000) / 0x100) v
    else if o % 0x100 = 0x2C then groupClearState ((o - 0xCA000) / 0x100) v s
    else refuseWrite s
  else refuseWrite s

/-- Writes of offsets from 0xD0000: peer ports, reduction groups, shadow signatures, the saddle. -/
def regWriteLinks (s : State) (src : Src) (o v : Nat) : State :=
  if o = 0xD0000 then putReg s o (v % 4096)
  else if o = 0xD0008 then hostPipelineWrite s v
  else if o = 0xD0010 then hostEpochCtrl s v
  else if o < 0xD1000 then refuseWrite s
  else if o < 0xD2000 then putReg s o (if o % 0x10 = 0 then Nat.land v 0xEFFFFFFFFFFFFFFF else v / 2 ^ 36 * 2 ^ 36)
  else if o < 0xD5000 then
    answer (winSet (winSet s (winBase + o) (Nat.land v 0xE00F)) (winBase + o + 2) (Nat.land (v / 2 ^ 16) 0xE00F)) .done 0
  else if o < 0xD6800 then
    let g := (o - 0xD6000) / 0x20
    if o % 0x20 = 0x10 ∨ !(redGroup s g).parts.isEmpty then refuseWrite s
    else putReg s o (if o % 0x20 = 0 then Nat.land v 0x8FBFFFFFFFFFFFFF else v % 2 ^ 34)
  else if o < 0xE0000 then refuseWrite s
  else if o < 0xE4000 then if o % 0x20 = 0 then shadowSigState ((o - 0xE0000) / 0x20) v src s else refuseWrite s
  else if o = 0xF0060 then putReg s o (v % 2 ^ 48)
  else if o = 0xF0068 then rulesetCtrlState v s
  else refuseWrite s

/-- A write of a value to the register whose first offset is `o`. -/
def regWrite (s : State) (src : Src) (o v : Nat) : State :=
  if o < 0x60000 then regWriteUnits s src o v
  else if o < 0xC0000 then regWriteControl s o v
  else if o < 0xD0000 then regWriteLanes s o v
  else regWriteLinks s src o v

/-! ### Accesses (R553) -/

/-- Whether a register access is naturally aligned and 4 or 8 bytes long. -/
def accessOk (a size : Nat) : Bool := (size == 4 || size == 8) && a % size == 0

/-- Read a window address at the unit that serves it: the status and the data. -/
def windowRead (s : State) (a size : Nat) : Status × Nat :=
  if !accessOk a size || !inWindow a then (.formatError, 0)
  else
    let half (o : Nat) : Nat :=
      match regOf o with
      | some (r, 8) => regRead s r / 2 ^ (8 * (o - r)) % 2 ^ 32
      | some (r, _) => regRead s r % 2 ^ 32
      | none => 0
    let o := a - winBase
    if size = 4 then (.done, half o)
    else match regOf o with
      | some (r, 8) => (.done, regRead s r)
      | _ => (.done, half o + 2 ^ 32 * half (o + 4))

/-- Write four bytes at an offset; an offset the map does not name ignores them (R6). -/
def halfWrite (s : State) (src : Src) (o v : Nat) : State :=
  match regOf o with
  | some (_, 8) => refuseWrite s
  | some (r, _) => regWrite s src r v
  | none => answer s .done 0

/-- Write two registers as one action: when either is refused neither changes, and an action sees the other's new value. -/
def pairWrite (s : State) (src : Src) (o1 v1 o2 v2 : Nat) : State :=
  let s1 := halfWrite s src o1 v1
  if s1.ans.1 ≠ .done then s1
  else
    let s2 := halfWrite s1 src o2 v2
    if s2.ans.1 = .done then s2
    else
      let s3 := halfWrite s src o2 v2
      if s3.ans.1 = .done then refuseWrite s else s3

/-- Write a window address at the unit that serves it; the answer is the status. -/
def windowWrite (s : State) (src : Src) (a size v : Nat) : State :=
  if !accessOk a size || !inWindow a then refuseWrite s
  else
    let o := a - winBase
    if size = 4 then halfWrite s src o (v % 2 ^ 32)
    else match regOf o with
      | some (r, 8) => regWrite s src r (v % 2 ^ 64)
      | _ =>
        if 0xC0000 ≤ o ∧ o < 0xD0000 then pairWrite s src o (v % 2 ^ 32) (o + 4) (v / 2 ^ 32 % 2 ^ 32)
        else pairWrite s src (o + 4) (v / 2 ^ 32 % 2 ^ 32) o (v % 2 ^ 32)

/-- The registers of a col's own interface, which it serves in any state (R281). -/
def ownNi (a : Nat) : Bool := 0x020000050000 ≤ a && a < 0x020000059900

/-- The status an access meets on its way: that of a col in absorb mode or draining (R276, R278). -/
def wayStatus (s : State) (a : Nat) : Option Status :=
  let st := (ni s (windowCol a)).state
  if ownNi a then none
  else if st = 2 then some .targetIsolated else if st ≠ 0 then some .domainOff else none

/-- A write of a requester at the edge of the core or across the network. -/
def accessWrite (s : State) (src : Src) (a size v : Nat) : State :=
  if !inWindow a then refuseWrite s
  else match wayStatus s a with
    | some st => answer s st 0
    | none => windowWrite s src a size v

/-- A read of such a requester. -/
def accessRead (s : State) (a size : Nat) : Status × Nat :=
  if !inWindow a then (.formatError, 0)
  else match wayStatus s a with
    | some st => (st, 0)
    | none => windowRead s a size

/-- REGISTER_WRITE (R553). -/
def registerWriteState (src : Src) (addr size value : Nat) (s : State) : State := accessWrite s src addr size value

/-- SEM_WRITE (R44): a write of the host or the command processor to SEM[d][sem]. -/
def semWriteState (d sem amount : Nat) (s : State) : State :=
  match wayStatus s (winBase + 0x10000 + 0x80 * d) with
  | some st => answer s st 0
  | none => semAmount .cmdProc d sem amount s

/-- SAT_COUNT (R74). -/
def satCountState (d value : Nat) (s : State) : State :=
  match wayStatus s (winBase + 0x20000 + 0x10 * d) with
  | some st => answer s st 0
  | none => satZero d value s

/-- NAN_COUNT (R74). -/
def nanCountState (d value : Nat) (s : State) : State :=
  match wayStatus s (winBase + 0x20000 + 0x10 * d) with
  | some st => answer s st 0
  | none => nanZero d value s

/-- PROBE_CTRL (R282). -/
def probeCtrlState (k value : Nat) (s : State) : State := probeCtrlWrite k value s

/-- NI_CLEAR (R281). -/
def niClearState (c value : Nat) (s : State) : State := niZero c value s

/-! ### Meanings -/

/-- The meaning of REGISTER_WRITE. -/
def execRegisterWrite (src : Src) (addr : Nat) (size : Nat) (value : Nat) (s : State) : Host.Outcome State Fault Refusal :=
  .next (registerWriteState src addr size value s)

/-- The meaning of SEM_WRITE. -/
def execSemWrite (d : Nat) (sem : Nat) (amount : Nat) (s : State) : Host.Outcome State Fault Refusal :=
  guardUnit (d < 512 ∧ sem < 32) (semWriteState d sem amount s)

/-- The meaning of SAT_COUNT. -/
def execSatCount (d : Nat) (value : Nat) (s : State) : Host.Outcome State Fault Refusal :=
  guardUnit (d < 512) (satCountState d value s)

/-- The meaning of NAN_COUNT. -/
def execNanCount (d : Nat) (value : Nat) (s : State) : Host.Outcome State Fault Refusal :=
  guardUnit (d < 512) (nanCountState d value s)

/-- The meaning of PROBE_CTRL. -/
def execProbeCtrl (k : Nat) (value : Nat) (s : State) : Host.Outcome State Fault Refusal :=
  guardUnit (k < 32) (probeCtrlState k value s)

/-- The meaning of NI_CLEAR. -/
def execNiClear (c : Nat) (value : Nat) (s : State) : Host.Outcome State Fault Refusal :=
  guardUnit (c < 612) (niClearState c value s)

end Sys2Proof.Machine
end

