-- ==== Sys2Proof/Machine/Net.lean ====
section
/-! DEFINITION. The packet network (R255-R286): injection, the cols, probes, packets as their unit takes them, absorb mode,
and the drain of interfaces. -/
namespace Sys2Proof.Machine

/-! ### Packets -/

/-- The answer in absorb mode to a type (R276). -/
def absorbAnswer (t : Nat) : Option Nat :=
  if t = tyRead then some tyReadResp else if t = tyWrite then some tyWriteAck else if t = tyMcast then some tyMcastAck
  else if t = tySeminc then some tySemincAck else if t = tyRun then some tyEndReport
  else if t = tyMcastReady then some tyMcastCancel
  else if t = tyCtrlRead ∨ t = tyCtrlWrite then some tyCtrlResp else if t = tyDrainReq then some tyDrainDone else none

/-- Flit i of a packet (R259): the header on the head flit, payload bytes with zeros beyond the packet's length. -/
def flitAt (p : Packet) (i : Nat) : Flit :=
  let w := flitBytes p.plane
  { head := i == 0, tail := i + 1 == flitsOf p, vc := vcOf p.typ,
    hdr := if i = 0 then some { p with payload := [], hdrBad := 0, dataBad := 0 } else none, hdrBad := if i = 0 then p.hdrBad else 0,
    data := bytesAt (p.payload.take (16 * p.len)) (w * i) w, dataBad := p.dataBad / 2 ^ (w * i) % 2 ^ w, poison := p.poison && i != 0,
    late := none }

/-- The parity bits that fail in the DATA of consecutive flits of `w` bytes. -/
def dataBads (w : Nat) : List Flit → Nat
  | [] => 0
  | f :: rest => f.dataBad + 2 ^ w * dataBads w rest

/-- The packet that flits make up: the header with POISON once a payload byte has failed, and LEN × 16 bytes of their DATA. -/
def packetOf (fs : List Flit) : Option Packet :=
  match fs with
  | [] => none
  | f :: _ =>
    f.hdr.map fun h =>
      { h with payload := (fs.flatMap fun g => g.data).take (16 * h.len), poison := h.poison || fs.any (fun g => g.poison),
               hdrBad := f.hdrBad, dataBad := dataBads (flitBytes h.plane) fs }

/-- The flits of a buffer up to its first TAIL, and the others. -/
def upToTail : List Flit → Option (List Flit × List Flit)
  | [] => none
  | f :: rest => if f.tail then some ([f], rest) else (upToTail rest).map fun r => (f :: r.1, r.2)

/-- The 192 bits of a header (R260). -/
def headerBits (p : Packet) : Nat :=
  fld 2 p.prio 190 + fld 3 p.age 187 + fld 5 p.typ 182 + fld 5 p.len 177 + fld 5 p.hops 170 + fld 5 p.hop 165
    + fld 3 p.run 162 + fld 48 p.turns 114 + fld 10 p.srcCol 104 + fld 12 p.tag 92 + fld 8 p.status 84 + fld 16 p.epoch 68
    + fld 48 p.addr 20 + fld 3 p.spurLen 17 + fld 3 p.spurLeft 14 + bfld p.spur 13 + fld 8 p.aux 5 + bfld p.poison 4

/-- The key a probe matches (R283). -/
def probeKey (p : Packet) : Nat :=
  fld 2 p.prio 62 + fld 3 p.age 59 + fld 5 p.typ 54 + fld 10 p.srcCol 44 + fld 12 p.tag 32 + fld 8 p.status 24
    + bfld p.poison 23 + fld 2 (vcOf p.typ) 21 + fld 5 p.len 16 + fld 16 p.epoch 0

/-! ### Probes (R282-R284) -/

/-- Trace records of a probe that wait at its col. -/
def traceQueued (s : State) (c k : Nat) : Nat :=
  ((ni s c).toInject.filter fun q => q.typ == tyTrace && (q.payload.getD 28 0#8).toNat == k).length

/-- Queue a trace record of a probe, or drop it when four wait (R284). A record for a pseudo-channel of the col itself does not
use the network (R268); one that no route serves goes nowhere. -/
def traceRecord (s : State) (c k : Nat) (p : Packet) : State :=
  let i := winGet s (probeWin k 0x2C)
  let a := winGet s (probeWin k 0x20) + 32 * (i % 2 ^ bitsOf (winGet s (probeWin k 0x28)) 20 16)
  if traceQueued s c k ≥ 4 then winSet s (probeWin k 0x30) ((winGet s (probeWin k 0x30) + 1) % 2 ^ 64)
  else
    let bs := leBytes 24 (headerBits p) ++ leBytes 4 (winGet s (probeWin k 0x18) % 2 ^ 32) ++ [BitVec.ofNat 8 k, 0#8, 0#8, 0#8]
    let s1 := winSet s (probeWin k 0x2C) ((i + 1) % 2 ^ 32)
    let e := routeEntry s c (routeIndex a)
    if regionOf a = .hbm ∧ hbmCol (stackOf a) (pcOf a / 4) = c then
      hbmEnqueue s1 ⟨0, 0, c, true, a, 32, bs, false, c, none, none, none, false, 0⟩
    else if rtValid e then
      let (tag, s2) := takeTag s1 c
      queuePacket s2 c { mkPacket e tyTrace c tag a 2 0 0 0 false bs with prio := 0 }
    else s1

/-- A probe sees a head flit leave by a port (R283). -/
def probeSees (s : State) (c port : Nat) (p : Packet) (k : Nat) : State :=
  let v := winGet s (probeWin k 0)
  if v.testBit 31 ∧ v % 1024 = c ∧ bitsOf v 27 25 = port ∧ bitsOf v 29 28 = p.plane ∧
      Nat.land (Nat.xor (probeKey p) (winGet s (probeWin k 0x08))) (winGet s (probeWin k 0x10)) = 0 then
    let s1 := winSet s (probeWin k 0x18) ((winGet s (probeWin k 0x18) + 1) % 2 ^ 64)
    if v.testBit 30 then traceRecord s1 c k p else s1
  else s

/-- Every probe sees it. -/
def probesSee (s : State) (c port : Nat) (p : Packet) : State := (List.range 32).foldl (fun t k => probeSees t c port p k) s

/-! ### Parity (R262) -/

/-- The first of `n` bytes whose parity bit disagrees. -/
def firstSet (mask n : Nat) : Option Nat := (List.range n).find? fun i => mask.testBit i

/-- Count a parity failure found at a col. -/
def countParity (s : State) (c : Nat) : State :=
  odBump (updNi s c fun n => { n with parity := holdAdd n.parity 1 }) 0x3800 1 1

/-- The header byte for which a header counts as failing: the first whose parity fails, or, of an unknown TYPE (R261), that of
its upper bits. -/
def hdrFaultOf (hdrBad typ : Nat) : Option Nat :=
  match firstSet hdrBad 24 with
  | some b => some b
  | none => if typeKnown typ then none else some 23

/-- A header byte fails: event 0x0902, once the packet's flits are consumed; one failure for a header (log entry 69). -/
def headerFails (s : State) (c port : Nat) (h : Packet) (byte flits : Nat) : State :=
  emitPlain (countParity s c) 0x0902 sevError (colSource c)
    [(10, c), (3, port), (2, h.plane), (2, vcOf h.typ), (5, byte), (8, flits)]

/-- A payload byte fails: event 0x0901 with the byte's place in its flit. -/
def payloadFails (s : State) (c port : Nat) (h : Packet) (byte : Nat) : State :=
  emitPlain (countParity s c) 0x0901 sevError (colSource c)
    [(10, c), (3, port), (2, h.plane), (2, vcOf h.typ), (10, h.srcCol), (12, h.tag), (7, byte), (5, h.typ)]

/-- The failing payload bytes of a flit. -/
def badBytesOf (plane mask : Nat) : List Nat := (List.range (flitBytes plane)).filter fun i => mask.testBit i

/-- A flit whose failing payload bytes were found: their parity is mended, and the packet is poisoned, by its header on a head
flit, and on a body flit, whose header has gone on, by a mark that goes with the flit (log entry 69). -/
def mended (f : Flit) : Flit :=
  if f.dataBad = 0 then f else { f with dataBad := 0, poison := true, hdr := f.hdr.map fun h => { h with poison := true } }

/-- The check of the payload of a flit with the header of its packet. -/
def checkFlit (s : State) (c port : Nat) (h : Packet) (f : Flit) : State :=
  (badBytesOf h.plane f.dataBad).foldl (fun t b => payloadFails t c port h b) s

/-- The check of a whole packet by the ejecting interface: none when its header fails. -/
def checkPacket (s : State) (c : Nat) (p : Packet) (fs : List Flit) : State × Option Packet :=
  match hdrFaultOf p.hdrBad p.typ with
  | some b => (headerFails s c 4 p b fs.length, none)
  | none => (fs.foldl (fun t f => checkFlit t c 4 p f) s, some { p with poison := p.poison || p.dataBad != 0, dataBad := 0 })

/-! ### Absorb mode (R276, R277) -/

/-- Whether a packet reads or writes a register of the col's own interface, which is served in any state (R281). -/
def ownAccess (c : Nat) (p : Packet) : Bool :=
  (p.typ == tyRead || p.typ == tyWrite || p.typ == tyCtrlRead || p.typ == tyCtrlWrite) && ownNi p.addr && windowCol p.addr == c

/-- The status with which the col consumes a packet that its unit has not taken yet (R276, R280). -/
def consumed (s : State) (c : Nat) (p : Packet) (late : Option Status) : Option Status :=
  if ownAccess c p then none
  else match late with
    | some st => some st
    | none => absorbStatus s c

/-- The status with which a col consumes an arriving packet for its unit: absorbing, or draining and a new request (R278). -/
def absorbs (s : State) (c : Nat) (p : Packet) (late : Option Status) : Option Status :=
  match consumed s c p late with
  | some st => some st
  | none =>
    if (ni s c).state = 1 ∧ (absorbAnswer p.typ).isSome = true ∧ p.typ ≠ tyDrainReq ∧ ownAccess c p = false then some .domainOff
    else none

/-- A col has consumed a packet for its unit, and answers (R276): the cancel to a leaf goes by the col's own route. -/
def absorbPacket (s : State) (c : Nat) (p : Packet) (st : Status) : State :=
  let s1 := odBump (updNi s c fun n => { n with absorbed := n.absorbed + 1, episode := n.episode + 1 }) 0x3800 2 1
  match absorbAnswer p.typ with
  | none => s1
  | some t =>
    if t = tyMcastCancel then
      let e := routeEntry s1 c (0x100 + p.srcCol)
      if rtValid e then queuePacket s1 c (mkPacket e t c p.tag 0 0 (statusCode st) p.epoch p.aux false []) else s1
    else sendAnswer s1 p c t st false []

/-! ### Buffers (R256) -/

/-- The key of a buffer, and of an output, of a virtual channel; and that of an output link. -/
def bufKey (c port plane vc : Nat) : Nat := ((c * 8 + port) * 4 + plane) * 4 + vc
def linkKey (c port plane : Nat) : Nat := 2 ^ 17 + (c * 8 + port) * 4 + plane

/-- Places of a buffer in use, of its eight, and its flits. -/
def creditsUsed (s : State) (k : Nat) : Nat := tget 0 s.net.credits k
def bufOf (s : State) (k : Nat) : List Flit := tget [] s.net.bufs k

/-- Change the mesh. -/
def updNet (s : State) (f : Net → Net) : State := { s with net := f s.net }

/-- A flit enters a buffer, taking a credit. -/
def flitPush (s : State) (k : Nat) (f : Flit) : State :=
  updNet s fun n => { n with bufs := tset [] n.bufs k (bufOf s k ++ [f]), credits := tset 0 n.credits k (creditsUsed s k + 1) }

/-- The first `n` flits of a buffer leave it, returning their credits. -/
def flitsPop (s : State) (k n : Nat) : State :=
  updNet s fun v => { v with bufs := tset [] v.bufs k ((bufOf s k).drop n), credits := tset 0 v.credits k (creditsUsed s k - n) }

/-- Another flit in place of the first of a buffer. -/
def setFirst (s : State) (k : Nat) (f : Flit) : State :=
  updNet s fun n => { n with bufs := tset [] n.bufs k (f :: (bufOf s k).tail) }

/-! ### Injection (R274) -/

/-- Whether a bucket pays for a packet, and its charge in flits. -/
def isCharged (p : Packet) : Bool := vcOf p.typ != 1 && p.typ != tyMcast && p.typ != tyTrace && p.typ != tyCtrlResp && p.typ != tyDrainDone
def chargeOf (p : Packet) : Nat :=
  flitsOf p + (if p.typ = tyRead then max 1 ((p.aux + 1 + flitBytes p.plane - 1) / flitBytes p.plane) else 0)

/-- The level of a bucket after a step's gain, in 256ths of a flit. -/
def bucketGain (b level : Nat) : Nat := min (b % 4096 * 256) (level + bitsOf b 20 12)

/-- A packet with its parity good. -/
def sound (p : Packet) : Packet := { p with hdrBad := 0, dataBad := 0 }

/-- The key of a plane and virtual channel of an interface. -/
def sendKey (p : Packet) : Nat := p.plane * 4 + vcOf p.typ

/-- Flit i of a packet enters the network; after the last the interface may take the next packet. -/
def injectFlit (s : State) (c : Nat) (p : Packet) (i : Nat) : State :=
  let next : Option (Packet × Nat) := if i + 1 = flitsOf p then none else some (p, i + 1)
  let s1 := updNi s c fun n => { n with flitsOut := n.flitsOut + 1, sending := tset none n.sending (sendKey p) next }
  flitPush (if i = 0 then probesSee s1 c 5 p else s1) (bufKey c 5 p.plane (vcOf p.typ)) (flitAt p i)

/-- Whether an interface may begin to inject a packet: the first it holds of the packet's plane and virtual channel, however
its parity fares on the way; or one the model does not form, of the unit itself, when it holds none there. -/
def mayInject (n : Ni) (c : Nat) (p : Packet) : Bool :=
  match n.toInject.find? fun q => sendKey q == sendKey p with
  | some q => sound p == q
  | none => n.state == 0 && p.srcCol == c && p.hop == 0 && p.age == 0 && !p.spur && p.run == 0

/-- A packet's first flit is injected when its priority's bucket holds its charge (R274). -/
def injectHead (s : State) (c : Nat) (p : Packet) : State :=
  let n := ni s c
  let b := tget 0 n.buckets (p.prio % 4)
  let metered := b.testBit 31 && isCharged p
  let level := bucketGain b (tget 0 n.levels (p.prio % 4))
  if metered && decide (level < chargeOf p * 256) then
    setNi s c { n with levels := tset 0 n.levels (p.prio % 4) level, bucketWait := n.bucketWait + 1 }
  else
    let s1 := setNi s c
      { n with toInject := n.toInject.erase (sound p),
               levels := if metered then tset 0 n.levels (p.prio % 4) (level - chargeOf p * 256) else n.levels }
    injectFlit s1 c p 0

/-- PACKET_INJECT (R256, R274): an interface injects the next flit of a packet, when it has a credit; packets go in order
within their plane and virtual channel. -/
def packetInjectState (c : Nat) (p : Packet) (s : State) : State :=
  let n := ni s c
  if 8 ≤ creditsUsed s (bufKey c 5 p.plane (vcOf p.typ)) then s
  else
    match tget none n.sending (sendKey p) with
    | some (q, i) => if p = q then injectFlit s c p i else s
    | none => if mayInject n c p then injectHead s c p else s

/-! ### Cols (R265, R266, R272, R273) -/

/-- What a col does with a head flit: the outputs it goes to (0 to 3, or 4 to the attached unit), as it leaves each. -/
def colOutputs (p : Packet) : List (Nat × Packet) :=
  if p.spur then
    (4, p) :: (if p.spurLeft = 0 then [] else [(p.dir % 4, { p with spurLeft := p.spurLeft - 1 })])
  else if p.run > 0 then [(p.dir % 4, { p with run := p.run - 1 })]
  else if p.hop ≥ p.hops then [(4, p)]
  else
    let code := p.turns / 4 ^ p.hop % 4
    let b := if p.typ = tyMcast then p.addr / 4 ^ p.hop % 4 else 0
    let dir := if p.hop = 0 then code else if code = 1 then (p.dir + 3) % 4 else if code = 2 then (p.dir + 1) % 4 else p.dir % 4
    let q : Packet := { p with hop := p.hop + 1, dir := dir, run := if p.hop ≠ 0 ∧ code = 3 then 7 else 0 }
    let spur (turn : Nat) : Nat × Packet := ((dir + turn) % 4, { q with dir := (dir + turn) % 4, run := 0, spur := true, spurLeft := p.spurLen })
    (dir, q) :: (if b = 1 then [(4, q)] else if b = 2 then [spur 3] else if b = 3 then [spur 1] else [])

/-- The col that a port leads to. -/
def nextCol (c o : Nat) : Option Nat :=
  match o with
  | 0 => if c / 34 < 17 then some (c + 34) else none
  | 1 => if c % 34 < 33 then some (c + 1) else none
  | 2 => if 1 ≤ c / 34 then some (c - 34) else none
  | _ => if 1 ≤ c % 34 then some (c - 1) else none

/-- The buffer that an output of a col fills: the neighbour's input, or, for output 4, the one towards the attached unit. -/
def outBuf (c o plane vc : Nat) : Option Nat :=
  if o = 4 then some (bufKey c 4 plane vc) else (nextCol c o).map fun c' => bufKey c' ((o + 2) % 4) plane vc

/-- Whether an output holds credits for `n` flits (R256; log entry 68 for output 4). -/
def hasRoom (s : State) (c o plane vc n : Nat) : Bool :=
  match outBuf c o plane vc with
  | some k => decide (creditsUsed s k + n ≤ 8)
  | none => false

/-- The outputs a packet takes at a col, without that to its unit when the col consumes the copy, with the status of that. -/
def takenOutputs (s : State) (c : Nat) (h : Packet) (late : Option Status) : List (Nat × Packet) × Option Status :=
  let outs := colOutputs h
  match (if outs.any fun o => o.1 == 4 then absorbs s c h late else none) with
  | some st => (outs.filter fun o => o.1 != 4, some st)
  | none => (outs, none)

/-- Whether a head may leave by its outputs: none held by another packet, and credits for a flit, or for a fork for the whole
packet (R266, R272). -/
def canLeave (s : State) (c plane vc : Nat) (h : Packet) (outs : List (Nat × Packet)) : Bool :=
  let n := if (colOutputs h).length > 1 then flitsOf h else 1
  outs.all fun o => (tget none s.net.owners (bufKey c o.1 plane vc)).isNone && hasRoom s c o.1 plane vc n

/-- The order of an arbitration (R272): PRIO, then AGE, then round-robin after the input granted last. -/
def beats (last port : Nat) (p : Packet) (other : Nat) (q : Packet) : Bool :=
  if p.prio ≠ q.prio then decide (q.prio < p.prio)
  else if p.age ≠ q.age then decide (q.age < p.age)
  else decide ((port + 15 - last) % 8 < (other + 15 - last) % 8)

/-- The inputs of a col. -/
def inputPorts : List Nat := [0, 1, 2, 3, 5]

/-- A head that asks for outputs of a virtual channel: its input, header and outputs. -/
structure Asker where
  port : Nat
  hdr  : Packet
  outs : List (Nat × Packet)
deriving DecidableEq, Repr

/-- The head flit at the front of an input, when its header is sound. -/
def askerAt (s : State) (c plane vc port : Nat) : Option Asker :=
  match (bufOf s (bufKey c port plane vc)).head? with
  | none => none
  | some f =>
    match f.hdr with
    | none => none
    | some h => if (hdrFaultOf f.hdrBad h.typ).isSome then none else some ⟨port, h, (takenOutputs s c h f.late).1⟩

/-- The heads of a plane and virtual channel at a col. -/
def askers (s : State) (c plane vc : Nat) : List Asker := inputPorts.filterMap (askerAt s c plane vc)

/-- The outputs two heads both ask for. -/
def sharedOuts (a b : Asker) : List Nat := (a.outs.map (·.1)).filter fun o => b.outs.any fun e => e.1 == o

/-- Whether a head wins every output it shares with another. -/
def winsOver (s : State) (c plane vc : Nat) (a b : Asker) : Bool :=
  a.port == b.port || (sharedOuts a b).all fun o => beats (tget 7 s.net.granted (bufKey c o plane vc)) a.port a.hdr b.port b.hdr

/-- The heads that could leave now, and those of them that win the arbitration of their outputs (R272): one that beats each
other on what both ask for, or, when forks hold each other up, the lowest input (log entry 70). -/
def ready (s : State) (c plane vc : Nat) : List Asker := (askers s c plane vc).filter fun a => canLeave s c plane vc a.hdr a.outs
def winners (s : State) (c plane vc : Nat) : List Asker :=
  let as := ready s c plane vc
  let ws := as.filter fun a => as.all (winsOver s c plane vc a)
  if ws.isEmpty then as.take 1 else ws

/-- Whether the packet passing an input can move its next flit. -/
def wormReady (s : State) (c plane vc port : Nat) : Option Worm :=
  let k := bufKey c port plane vc
  match tget none s.net.worms k, (bufOf s k).head? with
  | some w, some _ => if w.bad.isNone && w.outs.all fun o => hasRoom s c o.1 plane vc 1 then some w else none
  | _, _ => none

/-- What another virtual channel could send by an output link now: its input and header (R272). -/
def linkRival (s : State) (c o plane vc : Nat) : Option (Nat × Packet) :=
  match tget none s.net.owners (bufKey c o plane vc) with
  | some q => (wormReady s c plane vc q).map fun w => (q, w.hdr)
  | none => ((winners s c plane vc).find? fun a => a.outs.any fun e => e.1 == o).map fun a => (a.port, a.hdr)

/-- Whether a flit wins an output link against the other virtual channels; of one input the lower channel goes first (log
entry 70). -/
def winsLink (s : State) (c plane vc port : Nat) (h : Packet) (o : Nat) : Bool :=
  (List.range 4).all fun v =>
    v == vc ||
    match linkRival s c o plane v with
    | none => true
    | some (q, r) =>
      if q = port ∧ r.prio = h.prio ∧ r.age = h.age then decide (vc < v) else beats (tget 7 s.net.granted (linkKey c o plane)) port h q r

/-- A head that loses an arbitration ages (R273). -/
def aged (f : Flit) : Flit := { f with hdr := f.hdr.map fun h => { h with age := min 7 (h.age + 1) } }
def ageHead (s : State) (k : Nat) : State :=
  match bufOf s k with
  | f :: _ => setFirst s k (aged f)
  | [] => s

/-- A flit leaves by an output, a head with its header as it leaves there. -/
def leaveBy (c plane vc : Nat) (f : Flit) (s : State) (o : Nat × Packet) : State :=
  let s1 := if f.head then probesSee s c o.1 o.2 else s
  let g := { f with hdr := if f.head then some o.2 else none, late := none }
  let s2 := if o.1 = 4 then updNi s1 c fun n => { n with flitsIn := n.flitsIn + 1 } else s1
  match outBuf c o.1 plane vc with
  | some k => flitPush s2 k g
  | none => s2

/-- An output's virtual channel is held by an input from head to TAIL, and its link granted to it (R272). -/
def grantOut (c plane vc port : Nat) (head tail : Bool) (n : Net) (o : Nat × Packet) : Net :=
  let k := bufKey c o.1 plane vc
  { n with owners := tset none n.owners k (if tail then none else some port),
           granted := tset 7 (if head then tset 7 n.granted k port else n.granted) (linkKey c o.1 plane) port }

/-- A flit of a packet goes on by its outputs; after its TAIL the col has consumed the copy for a unit that takes none. -/
def passFlit (s : State) (c port plane vc : Nat) (f : Flit) (w : Worm) : State :=
  let k := bufKey c port plane vc
  let s1 := updNet (flitsPop s k 1) fun n =>
    { w.outs.foldl (grantOut c plane vc port f.head f.tail) n with worms := tset none n.worms k (if f.tail then none else some w) }
  let s2 := w.outs.foldl (leaveBy c plane vc f) s1
  match w.absorb with
  | some st => if f.tail then absorbPacket s2 c w.hdr st else s2
  | none => s2

/-- A flit of a packet whose header failed is consumed (R262). -/
def eatFlit (s : State) (c port plane vc : Nat) (f : Flit) (w : Worm) (byte : Nat) : State :=
  let k := bufKey c port plane vc
  let s1 := updNet (flitsPop s k 1) fun n =>
    { n with worms := tset none n.worms k (if f.tail then none else some { w with bad := some byte, gone := w.gone + 1 }) }
  if f.tail then headerFails s1 c port w.hdr byte (w.gone + 1) else s1

/-- A head flit at the front of an input: checked, and when it wins its outputs it leaves by them. -/
def forwardHead (s : State) (c port plane vc : Nat) (f : Flit) (h : Packet) : State :=
  match hdrFaultOf f.hdrBad h.typ with
  | some byte => eatFlit s c port plane vc f ⟨h, [], none, 0, none⟩ byte
  | none =>
    let g := mended f
    let h1 := g.hdr.getD h
    let s1 := setFirst (checkFlit s c port h f) (bufKey c port plane vc) g
    let t := takenOutputs s1 c h1 g.late
    let a : Asker := ⟨port, h1, t.1⟩
    if canLeave s1 c plane vc h1 t.1 && (winners s1 c plane vc).any (fun b => b.port == port)
        && t.1.all (fun o => winsLink s1 c plane vc port h1 o.1) then
      let s2 := ((askers s1 c plane vc).filter fun b => b.port != port && !(sharedOuts a b).isEmpty).foldl
        (fun u b => ageHead u (bufKey c b.port plane vc)) s1
      passFlit s2 c port plane vc g ⟨h1, t.1, none, 0, t.2⟩
    else s1

/-- A later flit of a packet follows its head, or is consumed as it was. -/
def forwardBody (s : State) (c port plane vc : Nat) (f : Flit) (w : Worm) : State :=
  match w.bad with
  | some byte => eatFlit s c port plane vc f w byte
  | none =>
    let g := mended f
    let s1 := setFirst (checkFlit s c port w.hdr f) (bufKey c port plane vc) g
    if w.outs.all fun o => hasRoom s1 c o.1 plane vc 1 && winsLink s1 c plane vc port w.hdr o.1 then
      passFlit s1 c port plane vc g w
    else s1

/-- COL_FORWARD (R256, R262, R265, R272): the flit at the front of an input buffer. -/
def colForwardState (c port plane vc : Nat) (s : State) : State :=
  let k := bufKey c port plane vc
  match bufOf s k with
  | [] => s
  | f :: _ =>
    match f.hdr, tget none s.net.worms k with
    | some h, _ => forwardHead s c port plane vc f h
    | none, some w => forwardBody s c port plane vc f w
    | none, none => s

/-! ### Requests at their unit -/

/-- A unit takes a packet of a type: the first that has come whole to its col on the packet's plane and virtual channel. The
ejecting interface checks it again (R262); the col consumes it when it does so for the unit; else `f` acts on it. -/
def takeAt (c typ : Nat) (p : Packet) (f : Packet → State → State) (s0 : State) : State :=
  let k := bufKey c 4 p.plane (vcOf typ)
  match upToTail (bufOf s0 k) with
  | none => s0
  | some (fs, _) =>
    if p.typ = typ ∧ packetOf fs = some p then
      match checkPacket (flitsPop s0 k fs.length) c p fs with
      | (s1, none) => s1
      | (s1, some q) =>
        match consumed s1 c q ((fs.head?).bind fun g => g.late) with
        | some st => absorbPacket s1 c q st
        | none => f q s1
    else s0

/-- Whether a register access of eight bytes covers a whole 8-byte register. -/
def wideReg (a : Nat) : Bool :=
  match regOf (a - winBase) with
  | some (_, 8) => true
  | _ => false

/-- Registers read by a network access (R553). -/
def regsRead (s : State) : Nat → Nat → Nat → Status × List Byte
  | 0, _, _ => (.done, [])
  | fuel + 1, a, n =>
    if n = 0 then (.done, [])
    else
      let k := if n ≥ 8 ∧ a % 8 = 0 ∧ wideReg a = true then 8 else 4
      let (st, v) := windowRead s a k
      let (st2, bs) := regsRead s fuel (a + k) (n - k)
      (if st = .done then st2 else st, leBytes k v ++ bs)

/-- Registers written by a network access (R553): the state after, and the first refusal. The rule does not say what an access
answers when one of its consecutive accesses is refused: the later ones are still performed (DESIGN CHOICE, log entry 58). -/
def regsWrite (src : Src) : Nat → Nat → List Byte → State → State × Status
  | 0, _, _, s => (s, .done)
  | fuel + 1, a, bs, s =>
    if bs.isEmpty then (s, .done)
    else
      let k := if bs.length ≥ 8 ∧ a % 8 = 0 ∧ wideReg a = true then 8 else 4
      let s1 := windowWrite s src a k (leNat (bs.take k))
      let st := s1.ans.1
      let (s2, st2) := regsWrite src fuel (a + k) (bs.drop k) s1
      (s2, if st = .done then st2 else st)

/-- A network read of control registers. -/
def windowReadNet (s : State) (a n : Nat) : Status × List Byte :=
  if n ≤ 8 then
    let (st, v) := windowRead s a n
    (st, leBytes n v)
  else if a % 4 = 0 ∧ n % 4 = 0 then regsRead s 64 a n
  else (.formatError, List.replicate n 0#8)

/-- A network write of control registers. -/
def windowWriteNet (s : State) (src : Src) (a : Nat) (bs : List Byte) : State × Status :=
  if bs.length ≤ 8 then
    let s1 := windowWrite s src a bs.length (leNat bs)
    (s1, s1.ans.1)
  else if a % 4 = 0 ∧ bs.length % 4 = 0 then regsWrite src 64 a bs s
  else (s, .formatError)

/-- Whether a col holds a part of a controller. -/
def isHbmCol (c : Nat) : Bool := (c / 34 == 0 || c / 34 == 17) && 1 ≤ c % 34 && c % 34 ≤ 32
/-- The stack of such a col. -/
def stackOfCol (c : Nat) : Nat := (c % 34 - 1) / 8 + (if c / 34 = 0 then 0 else 4)

/-- A request to HBM at a col (R289-R291): queued at its controller, or misrouted with event 0x0A07 (R290). -/
def hbmArrive (s : State) (c : Nat) (p : Packet) (wr : Bool) (n : Nat) (refuseWith : State → State) : State :=
  if hbmCol (stackOf p.addr) (pcOf p.addr / 4) = c then
    hbmEnqueue s ⟨0, p.prio, p.srcCol, wr, p.addr, n, if wr then bytesAt p.payload 0 n else [], p.poison, c, some p, none, none, false, 0⟩
  else
    refuseWith (if isHbmCol c then
      emitPlain s 0x0A07 sevError (stackSource (stackOfCol c)) [(3, stackOfCol c), (10, c), (8, pseudoOf p.addr), (10, p.srcCol), (12, p.tag)]
    else s)

/-- The bytes a READ or WRITE moves (R260). -/
def packetBytes (p : Packet) : Nat := p.aux % 256 + 1

/-- A READ at its unit (R261, R432, R553): the bytes it asks for, or the refusal of an address not served there. -/
def serveRead (c : Nat) (p : Packet) (s : State) : State :=
  let n := packetBytes p
  let refuse (t : State) : State := sendAnswer t p c tyReadResp .formatError false (List.replicate n 0#8)
  if p.addr % 256 + n > 256 then refuse s
  else
    match regionOf p.addr with
    | .hbm => hbmArrive s c p false n refuse
    | .store d off =>
      if daleCol d ≠ c then refuse s
      else
        let (s1, bs, st) := daleRead s d off n
        sendAnswer s1 p c tyReadResp st (st == .poisoned || st == .uncorrectable) bs
    | .window =>
      if windowCol p.addr ≠ c then refuse s
      else
        let (st, bs) := windowReadNet s p.addr n
        sendAnswer s p c tyReadResp st false bs
    | _ => refuse s

/-- READ (R261). -/
def readState (c : Nat) (p : Packet) (s : State) : State := takeAt c tyRead p (serveRead c) s

/-- A WRITE at its unit (R261, R432, R433, R553). -/
def serveWrite (c : Nat) (p : Packet) (s : State) : State :=
  let n := packetBytes p
  let refuse (t : State) : State := sendAnswer t p c tyWriteAck .formatError false []
  if p.addr % 256 + n > 256 then refuse s
  else
    match regionOf p.addr with
    | .hbm => hbmArrive s c p true n refuse
    | .store d off =>
      if daleCol d ≠ c then refuse s
      else
        let (s1, st) := daleWrite s d off (bytesAt p.payload 0 n) p.poison
        sendAnswer s1 p c tyWriteAck st false []
    | .window =>
      if windowCol p.addr ≠ c then refuse s
      else
        let (s1, st) := windowWriteNet s (.col p.srcCol) p.addr (bytesAt p.payload 0 n)
        sendAnswer s1 p c tyWriteAck st false []
    | _ => refuse s

/-- WRITE (R261). -/
def writeState (c : Nat) (p : Packet) (s : State) : State := takeAt c tyWrite p (serveWrite c) s

/-! ### Answers at their requester (R554) -/

/-- The outstanding request of an interface that an answer belongs to, by TAG and type. -/
def requestOf (s : State) (c : Nat) (p : Packet) (types : List Nat) : Option Request :=
  (ni s c).out.find? fun r => r.tag == p.tag && types.contains r.typ

/-- A request is answered: it is outstanding no longer, and its latency counts (R281). No step is timed, so the latency is a
free value (log entry 3). -/
def closeRequest (s : State) (c : Nat) (r : Request) : State :=
  let (fr, s1) := takeFree s
  let lat := fr % 2 ^ 32
  updNi s1 c fun n => { n with out := n.out.erase r, latSum := (n.latSum + lat) % 2 ^ 64, latMax := max n.latMax lat }

/-- An answer at its requester: `f` gets the request. An answer to no request is consumed. -/
def answerAt (c typ : Nat) (p : Packet) (types : List Nat) (f : Request → Packet → State → State) (s : State) : State :=
  takeAt c typ p (fun q t =>
    match requestOf t c q types with
    | none => t
    | some r => f r q (closeRequest t c r)) s

/-- What a request was issued for. -/
def originOf (r : Request) : Origin := ⟨r.dale, r.chan, r.row, r.off⟩

/-- A read's answer reaches what asked for it: a stream channel, or a gather engine (R233, R244). -/
def readAnswered (r : Request) (p : Packet) (s : State) : State :=
  let st := statusOf p.status
  let bs := bytesAt p.payload 0 r.len
  if r.dale < 512 then pieceRead s (originOf r) st bs p.poison
  else if 1024 ≤ r.dale ∧ r.dale < 1032 then gatherMissReturn s (originOf r) r.addr st bs p.poison
  else s

/-- READ_RESP (R233, R240, R262). -/
def readRespState (c : Nat) (p : Packet) (s : State) : State := answerAt c tyReadResp p [tyRead] readAnswered s

/-- A write's answer reaches what asked for it: a stream channel, or the job of a peer port (R228, R424). -/
def writeAnswered (r : Request) (p : Packet) (s : State) : State :=
  if r.dale < 512 then pieceWritten s (originOf r) (statusOf p.status)
  else if 4096 ≤ r.dale ∧ r.dale < 4112 then jobAck s (r.dale - 4096) true
  else s

/-- WRITE_ACK. -/
def writeAckState (c : Nat) (p : Packet) (s : State) : State := answerAt c tyWriteAck p [tyWrite] writeAnswered s

/-- MCAST_DATA (R238): a row reaches a leaf. -/
def mcastDataState (c : Nat) (p : Packet) (s : State) : State :=
  takeAt c tyMcast p (fun q t =>
    match colDale c with
    | some d => mcastDeliver t d q
    | none => t) s

/-- TRACE (R284): the record is written to HBM, without an answer. -/
def traceState (c : Nat) (p : Packet) (s : State) : State :=
  takeAt c tyTrace p (fun q t => if regionOf q.addr = .hbm then hbmArrive t c q true 32 id else t) s

/-- SEMINC at its dale (R44). -/
def semincRequestState (c : Nat) (p : Packet) (s : State) : State :=
  takeAt c tySeminc p (fun q t =>
    match colDale c with
    | some d => sendAnswer (semAdd t d (q.aux % 32) (leNat (q.payload.take 4)) q.srcCol) q c tySemincAck .done false []
    | none => sendAnswer t q c tySemincAck .formatError false []) s

/-- A SEMINC's answer reaches its dale: one that names a dale that is gone traps SEMINC_GONE (R190). -/
def semincAnswered (r : Request) (p : Packet) (s : State) : State :=
  if r.dale < 512 ∧ p.status ≠ 0 then
    trapDale (emitDale s r.dale 0x0607 sevWarning [(16, r.row / 32), (5, r.row % 32), (8, p.status), (32, r.off)])
      r.dale causeSemincGone (statusOf p.status) r.off
  else if 4096 ≤ r.dale ∧ r.dale < 4112 then jobAck s (r.dale - 4096) false
  else s

/-- SEMINC_ACK. -/
def semincAckState (c : Nat) (p : Packet) (s : State) : State := answerAt c tySemincAck p [tySeminc] semincAnswered s

/-- The bytes of a control access: those of the register at its address. -/
def ctrlSize (a : Nat) : Nat := if a % 8 = 0 ∧ wideReg a = true then 8 else 4

/-- CTRL_READ (R261): the register at ADDRESS, in the first bytes of a payload of 16. -/
def ctrlReadState (c : Nat) (p : Packet) (s : State) : State :=
  takeAt c tyCtrlRead p (fun q t =>
    if inWindow q.addr = true ∧ windowCol q.addr = c then
      let (st, v) := windowRead t q.addr (ctrlSize q.addr)
      sendAnswer t q c tyCtrlResp st false (leBytes 16 v)
    else sendAnswer t q c tyCtrlResp .formatError false []) s

/-- CTRL_WRITE (R261): the first bytes of its payload go to the register at ADDRESS. -/
def ctrlWriteState (c : Nat) (p : Packet) (s : State) : State :=
  takeAt c tyCtrlWrite p (fun q t =>
    if inWindow q.addr = true ∧ windowCol q.addr = c then
      let k := ctrlSize q.addr
      let t1 := windowWrite t (.col q.srcCol) q.addr k (leNat (q.payload.take k))
      sendAnswer t1 q c tyCtrlResp t1.ans.1 false []
    else sendAnswer t q c tyCtrlResp .formatError false []) s

/-- CTRL_RESP: its requester needs nothing more. -/
def ctrlRespState (c : Nat) (p : Packet) (s : State) : State := answerAt c tyCtrlResp p [tyCtrlRead, tyCtrlWrite] (fun _ _ t => t) s

/-! ### Runs and multicast -/

/-- RUN: the run signal at its dale (R214). -/
def runState (c : Nat) (p : Packet) (s : State) : State :=
  takeAt c tyRun p (fun q t =>
    match colDale c with
    | some d => runDale d q t
    | none => t) s

/-- END_REPORT: a dale's report at the command processor (R214), or the answer of the col of a dale that is gone (R276). -/
def endReportState (c : Nat) (p : Packet) (s : State) : State := answerAt c tyEndReport p [tyRun] reportTaken s

/-- A multicast packet of the command plane at its dale: `f` gets the dale, the dale it came from, and the packet. -/
def mcastAt (c typ : Nat) (p : Packet) (f : Nat → Nat → Packet → State → State) (s : State) : State :=
  takeAt c typ p (fun q t =>
    match colDale c, colDale q.srcCol with
    | some d, some e => f d e q t
    | _, _ => t) s

/-- MCAST_READY (R238): ROWS and ELEMS are its first four bytes (log entry 67). -/
def mcastReadyState (c : Nat) (p : Packet) (s : State) : State :=
  mcastAt c tyMcastReady p (fun d leaf q t => mcastReady t d leaf (fieldAt q.payload 0 2) (fieldAt q.payload 2 2) q.aux) s

/-- MCAST_ACK (R238, R239). -/
def mcastAckState (c : Nat) (p : Packet) (s : State) : State :=
  mcastAt c tyMcastAck p (fun d leaf q t => checkMcasts (noteAck t d leaf q.aux q.status) d) s

/-- MCAST_CANCEL (R238, R239). -/
def mcastCancelState (c : Nat) (p : Packet) (s : State) : State :=
  mcastAt c tyMcastCancel p (fun d sender q t => cancelLeaf t d sender q.aux (statusOf q.status)) s

/-! ### Drain (R278, R279) -/

/-- Answer the DRAIN_REQ an interface has taken. -/
def sendDrainDone (s : State) (c : Nat) (st : Status) : State :=
  match (ni s c).drain with
  | some p => sendAnswer (updNi s c fun n => { n with drain := none }) p c tyDrainDone st false []
  | none => s

/-- DRAIN_REQ (R278 step 2): an interface takes no new request from its unit. -/
def drainReqState (c : Nat) (p : Packet) (s : State) : State :=
  takeAt c tyDrainReq p (fun q t => updNi t c fun n => { n with state := if n.state = 0 then 1 else n.state, drain := some q }) s

/-- Requests of a controller's queue that came by a col. -/
def queuedAt (s : State) (c : Nat) : List HbmReq :=
  if isHbmCol c then (stk s (stackOfCol c)).queue.filter fun r => r.pkt.isSome && r.col == c else []

/-- Requests that have come to an interface's unit and not been taken. -/
def arrived (s : State) (c : Nat) : Nat :=
  ((List.range 3).flatMap fun plane => (List.range 4).flatMap fun vc =>
    (bufOf s (bufKey c 4 plane vc)).filter fun f => ((f.hdr.map fun h => (absorbAnswer h.typ).isSome)).getD false).length

/-- Requests an interface has accepted and not answered. -/
def accepted (s : State) (c : Nat) : Nat :=
  let lookups := if isHbmCol c && gatherCol (stackOfCol c) == c then
    (gather s (stackOfCol c)).waiting.length + (gather s (stackOfCol c)).misses.length else 0
  arrived s c + (queuedAt s c).length + lookups

/-- INTERFACE_DRAINED (R278 steps 3 and 4): nothing is outstanding, so the col absorbs and sends DRAIN_DONE. -/
def interfaceDrainedState (c : Nat) (s : State) : State :=
  let n := ni s c
  if n.state ≠ 1 ∨ !n.out.isEmpty ∨ !n.toInject.isEmpty ∨ !n.sending.isEmpty ∨ accepted s c ≠ 0 then s
  else sendDrainDone (odBump (enterAbsorb s c 3) 0x3800 3 1) c .domainOff

/-- A drained interface's answer at the saddle: once none is awaited the domain switches off (R278 step 5). -/
def drainAnswered (r : Request) (_ : Packet) (s : State) : State :=
  match domainOfCol s r.row with
  | some n => unitDrained s n r.row false
  | none => s

/-- DRAIN_DONE (R278 step 5). -/
def drainDoneState (c : Nat) (p : Packet) (s : State) : State := answerAt c tyDrainDone p [tyDrainReq] drainAnswered s

/-- DRAIN_FORCED (R279): the drain limit has passed; what is outstanding is abandoned, with event 0x0904. -/
def drainForcedState (c : Nat) (s : State) : State :=
  match domainOfCol s c with
  | none => s
  | some n =>
    if (ni s c).state ≥ 2 then s
    else
      let s1 := emitPlain s 0x0904 sevError (colSource c) [(10, c), (16, (ni s c).out.length), (16, accepted s c)]
      let s2 := enterAbsorb s1 c 3
      let s4 := if isHbmCol c then updStk s2 (stackOfCol c) fun v => { v with queue := v.queue.filter fun r => !(r.pkt.isSome && r.col == c) } else s2
      let s5 := match switchOf s4 n with
        | some w => setSwitch s4 n (some { w with forced := true })
        | none => s4
      sendDrainDone (odBump s5 0x3800 3 1) c .domainOff

/-! ### Meanings -/

/-- The meaning of PACKET_INJECT. -/
def execPacketInject (c : Nat) (p : Packet) (s : State) : Host.Outcome State Fault Refusal :=
  if 2 < p.plane then .refused .malformed else guardUnit (c < 612) (packetInjectState c p s)

/-- The meaning of COL_FORWARD. -/
def execColForward (c : Nat) (port : Nat) (plane : Nat) (vc : Nat) (s : State) : Host.Outcome State Fault Refusal :=
  guardUnit (c < 612 ∧ (port < 4 ∨ port = 5) ∧ plane < 3 ∧ vc < 4) (colForwardState c port plane vc s)

/-- The meaning of READ. -/
def execRead (c : Nat) (p : Packet) (s : State) : Host.Outcome State Fault Refusal :=
  guardUnit (c < 612) (readState c p s)

/-- The meaning of WRITE. -/
def execWrite (c : Nat) (p : Packet) (s : State) : Host.Outcome State Fault Refusal :=
  guardUnit (c < 612) (writeState c p s)

/-- The meaning of READ_RESP. -/
def execReadResp (c : Nat) (p : Packet) (s : State) : Host.Outcome State Fault Refusal :=
  guardUnit (c < 612) (readRespState c p s)

/-- The meaning of WRITE_ACK. -/
def execWriteAck (c : Nat) (p : Packet) (s : State) : Host.Outcome State Fault Refusal :=
  guardUnit (c < 612) (writeAckState c p s)

/-- The meaning of MCAST_DATA. -/
def execMcastData (c : Nat) (p : Packet) (s : State) : Host.Outcome State Fault Refusal :=
  guardUnit (c < 612) (mcastDataState c p s)

/-- The meaning of TRACE. -/
def execTrace (c : Nat) (p : Packet) (s : State) : Host.Outcome State Fault Refusal :=
  guardUnit (c < 612) (traceState c p s)

/-- The meaning of SEMINC_REQUEST. -/
def execSemincRequest (c : Nat) (p : Packet) (s : State) : Host.Outcome State Fault Refusal :=
  guardUnit (c < 612) (semincRequestState c p s)

/-- The meaning of SEMINC_ACK. -/
def execSemincAck (c : Nat) (p : Packet) (s : State) : Host.Outcome State Fault Refusal :=
  guardUnit (c < 612) (semincAckState c p s)

/-- The meaning of CTRL_READ. -/
def execCtrlRead (c : Nat) (p : Packet) (s : State) : Host.Outcome State Fault Refusal :=
  guardUnit (c < 612) (ctrlReadState c p s)

/-- The meaning of CTRL_WRITE. -/
def execCtrlWrite (c : Nat) (p : Packet) (s : State) : Host.Outcome State Fault Refusal :=
  guardUnit (c < 612) (ctrlWriteState c p s)

/-- The meaning of CTRL_RESP. -/
def execCtrlResp (c : Nat) (p : Packet) (s : State) : Host.Outcome State Fault Refusal :=
  guardUnit (c < 612) (ctrlRespState c p s)

/-- The meaning of RUN. -/
def execRun (c : Nat) (p : Packet) (s : State) : Host.Outcome State Fault Refusal :=
  guardUnit (c < 612) (runState c p s)

/-- The meaning of END_REPORT. -/
def execEndReport (c : Nat) (p : Packet) (s : State) : Host.Outcome State Fault Refusal :=
  guardUnit (c < 612) (endReportState c p s)

/-- The meaning of MCAST_READY. -/
def execMcastReady (c : Nat) (p : Packet) (s : State) : Host.Outcome State Fault Refusal :=
  guardUnit (c < 612) (mcastReadyState c p s)

/-- The meaning of MCAST_ACK. -/
def execMcastAck (c : Nat) (p : Packet) (s : State) : Host.Outcome State Fault Refusal :=
  guardUnit (c < 612) (mcastAckState c p s)

/-- The meaning of MCAST_CANCEL. -/
def execMcastCancel (c : Nat) (p : Packet) (s : State) : Host.Outcome State Fault Refusal :=
  guardUnit (c < 612) (mcastCancelState c p s)

/-- The meaning of DRAIN_REQ. -/
def execDrainReq (c : Nat) (p : Packet) (s : State) : Host.Outcome State Fault Refusal :=
  guardUnit (c < 612) (drainReqState c p s)

/-- The meaning of INTERFACE_DRAINED. -/
def execInterfaceDrained (c : Nat) (s : State) : Host.Outcome State Fault Refusal :=
  guardUnit (c < 612) (interfaceDrainedState c s)

/-- The meaning of DRAIN_DONE. -/
def execDrainDone (c : Nat) (p : Packet) (s : State) : Host.Outcome State Fault Refusal :=
  guardUnit (c < 612) (drainDoneState c p s)

/-- The meaning of DRAIN_FORCED. -/
def execDrainForced (c : Nat) (s : State) : Host.Outcome State Fault Refusal :=
  guardUnit (c < 612) (drainForcedState c s)

end Sys2Proof.Machine
end

