-- ==== Sys2Proof/Machine/Heon.lean ====
section
/-! DEFINITION. Heonlink (R363-R392, R416): flits, messages of the host and of the device, coherence, configuration space,
enumeration and recovery. -/
namespace Sys2Proof.Machine

/-! ### Messages -/

/-- GO, COMP and RD_RSP with a status. -/
def sendGo (s : State) (j tag : Nat) (st : Status) : State := sendHost s j (heonMsg 0x18 tag 0 0 (statusCode st) 0 false 0)
def sendComp (s : State) (j tag : Nat) (st : Status) : State := sendHost s j (heonMsg 0x19 tag 0 0 (statusCode st) 0 false 0)
def sendRdRsp (s : State) (j tag v : Nat) (st : Status) (poison : Bool) : State :=
  sendHost s j (heonMsg 0x1B tag 0 v (statusCode st) 0 false (if poison then 1 else 0))

/-- Whether the companion line cache holds a line (R373). -/
def inCache (s : State) (j line : Nat) : Bool := (agent s j).cache.any fun e => e.1 == line

/-- An invalid message (R386): event 0x0D06 with cause 0 opcode, 1 reserved bit, 2 sub-link, and an answer with
FORMAT_ERROR; an invalid snoop is answered with the line's present state. -/
def invalidMsg (s : State) (j op tag line cause : Nat) : State :=
  let s1 := emitPlain s 0x0D06 sevError (dieSource (16 + j)) [(2, j), (6, op), (12, tag), (2, cause)]
  if op = 0x01 ∨ op = 0x02 ∨ op = 0x03 then sendGo s1 j tag .formatError
  else if op = 0x08 ∨ op = 0x09 ∨ op = 0x0C then sendRdRsp s1 j tag 0 .formatError false
  else if op = 0x10 ∨ op = 0x11 then
    sendHost s1 j (heonMsg 0x1A tag 0 0 (statusCode .formatError) (if inCache s1 j line then 1 else 0) false 0)
  else if op = 0x18 ∨ op = 0x19 ∨ op = 0x1A ∨ op = 0x20 then s1
  else sendComp s1 j tag .formatError

/-- A message of the host that a row acts on leaves the agent's inbox. -/
def fromHost (s : State) (j op tag : Nat) : State :=
  updAgent s j fun a => { a with inbox := List.eraseP (fun m => m.op == op && m.tag == tag) a.inbox }

/-- A message of the device that a row places leaves its queue, with those of its class that wait before it (R379), when the
sub-link is up and the class holds credits for all their slots (R368, R387). -/
def placeMsg (s : State) (j : Nat) (f : HeonMsg → Bool) : State :=
  updAgent s j fun a =>
    match a.toHost.find? f with
    | none => a
    | some m =>
      let before := a.toHost.takeWhile fun x => !f x
      let after := (a.toHost.dropWhile fun x => !f x).tail
      let slots := (before.filter (fun x => heonClass x.op == heonClass m.op) ++ [m]).flatMap heonSlots
      if !a.up || !creditsHold a j (heonClass m.op) slots.length then a
      else placeSlots { a with toHost := before.filter (fun x => heonClass x.op != heonClass m.op) ++ after } (heonClass m.op) slots

/-! ### Companion memory: the device's requests (R373, R374, R379) -/

/-- A line arrives at the reader of the command processor that asked for it. -/
def deliverLine (s : State) (line : Nat) (bs : List Byte) (poison : Bool) : State :=
  match s.ext.find? fun e => !e.wr && e.origin.dale == 2048 && e.addr == line && e.asked.contains line with
  | none => s
  | some e => { s with ext := s.ext.erase e, cp := { s.cp with got := s.cp.got ++ [(e.origin.key, line, bs, poison)] } }

/-- Bytes of a line put into those of a request. -/
def mergeLine (e : ExtReq) (line : Nat) (bs : List Byte) : List Byte :=
  (List.range e.len).map fun i =>
    if line ≤ e.addr + i ∧ e.addr + i < line + 64 then bs.getD (e.addr + i - line) 0#8 else e.bytes.getD i 0#8

/-- The worse of two statuses of parts: the first that is not DONE. -/
def firstBad (a b : Status) : Status := if a = .done then b else a

/-- Replace the first entry of a list that equals one. -/
def replaceExt (s : State) (e e1 : ExtReq) : State :=
  { s with ext := s.ext.map fun x => if x = e then e1 else x }

/-- A line of a stream's read arrives; with the last, the piece is delivered (R233). -/
def streamLine (s : State) (line : Nat) (bs : List Byte) (poison : Bool) (st : Status) : State :=
  match s.ext.find? fun e => !e.wr && e.origin.dale != 2048 && e.asked.contains line && !e.done.contains line with
  | none => s
  | some e =>
    let e1 := { e with bytes := mergeLine e line bs, poison := e.poison || poison, done := e.done ++ [line], st := firstBad e.st st }
    if e1.done.length = (linesOf e.addr e.len).length then
      pieceRead { s with ext := s.ext.erase e } e.origin e1.st e1.bytes e1.poison
    else replaceExt s e e1

/-- NOTIFY for a record, when its ring's vector is enabled (R382). -/
def notifyRecord (s : State) (ring : Nat) : State :=
  let v := tget 0 s.notify ring
  if v.testBit 31 then sendHost s 0 (heonMsg 0x1C 0 0 (v % 65536) 0 0 false 0) else s

/-- A companion write is complete: a stream's piece, a command's data, or a record (R379). -/
def extWritten (s : State) (e : ExtReq) (st : Status) : State :=
  if e.origin.dale < 512 then pieceWritten s e.origin st
  else if e.origin.dale = 2048 ∧ e.origin.chan = 2 ∧ e.origin.no = 1 then notifyRecord s e.origin.key
  else s

/-- A line of a companion write is answered. -/
def writtenLine (s : State) (line : Nat) (st : Status) : State :=
  match s.ext.find? fun e => e.wr && e.asked.contains line && !e.done.contains line with
  | none => s
  | some e =>
    let e1 := { e with done := e.done ++ [line], st := firstBad e.st st }
    if e1.done.length = (linesOf e.addr e.len).length then extWritten { s with ext := s.ext.erase e } e e1.st
    else replaceExt s e e1

/-- A line enters the companion cache in state S; the oldest of 4,096 leaves. -/
def installLine (s : State) (j line : Nat) (bs : List Byte) : State :=
  updAgent s j fun a =>
    let c := (a.cache.filter fun e => e.1 != line) ++ [(line, bs)]
    { a with cache := c.drop (c.length - 4096) }

/-- Whether a status of GO comes with data. -/
def hasData (st : Status) : Bool := st == .done || st == .poisoned || st == .uncorrectable

/-- The line a read brought goes where it was asked for: to the companion's cache and readers, or to streams. -/
def finishData (s : State) (j : Nat) (r : HeonReq) (state : Nat) (st : Status) (g : List Byte × Bool) : State :=
  if r.op = 0x01 then
    deliverLine (if state = 1 && !r.snooped && !(g.2 || st != .done) then installLine s j r.line g.1 else s) r.line g.1 (g.2 || st != .done)
  else streamLine s r.line g.1 (g.2 || st == .poisoned) (if st = .poisoned then .done else st)

/-- Complete an outstanding read of the device when all of its answer has arrived (R372, R374). A refused one brings
poisoned bytes whose values are free. -/
def finishRead (s : State) (j : Nat) (r : HeonReq) : State :=
  match r.go with
  | none => s
  | some (state, code) =>
    let st := statusOf code
    if hasData st && r.data.isNone then s
    else
      let s0 := updAgent s j fun a => { a with out := a.out.filter fun x => x.tag != r.tag }
      finishData (takeFree s0).2 j r state st
        (if hasData st then r.data.getD ([], false) else (leBytes 64 (takeFree s0).1, true))

/-- Change the outstanding request of a tag, and complete it if it can be. -/
def onRequest (s : State) (j tag : Nat) (f : HeonReq → HeonReq) : State :=
  let s1 := updAgent s j fun a => { a with out := a.out.map fun r => if r.tag = tag then f r else r }
  match (agent s1 j).out.find? fun r => r.tag == tag with
  | some r => if r.op = 0x04 then s1 else finishRead s1 j r
  | none => s1

/-- Whether the device may place a request of a tag: its sub-link is up and not being reset, and credits are left
(R368, R372, R389). -/
def canPlace (s : State) (j tag slots : Nat) : Bool :=
  let a := agent s j
  a.up && !a.resetting && tag < 4096 && !(a.out.any fun r => r.tag == tag) && a.out.length < 1024
    && creditsHold a j 0 1 && creditsHold a j 3 slots

/-- Place a request: it is outstanding, and its header and the DATA message of a write enter the slot stream (R367, R372). -/
def placeReq (s : State) (j : Nat) (r : HeonReq) (mask : Nat) (data : Option HeonMsg) : State :=
  updAgent s j fun a =>
    let a1 := placeSlots { a with out := a.out ++ [r] } 0 (heonSlots (heonMsg r.op r.tag r.line mask 0 0 false 0))
    match data with
    | some d => placeSlots a1 3 (heonSlots d)
    | none => a1

/-- Mark a line of a request as asked. -/
def askLine (s : State) (e : ExtReq) (line : Nat) : State := replaceExt s e { e with asked := e.asked ++ [line] }

/-- A read of a line by the device: RD_SHARED for the command processor, RD_NC for streams. While the host is lost it
completes at once with poison (R388). -/
def deviceRead (s : State) (j tag line : Nat) (shared : Bool) : State :=
  match s.ext.find? fun e => !e.wr && ((e.origin.dale == 2048) == shared) && (linesOf e.addr e.len).contains line && !e.asked.contains line with
  | none => s
  | some e =>
    if subOf line ≠ j then s
    else if s.svc.testBit 2 then
      let (fr, s1) := takeFree (askLine s e line)
      if shared then deliverLine s1 line (leBytes 64 fr) true else streamLine s1 line (leBytes 64 fr) true .done
    else if !canPlace s j tag 0 then s
    else placeReq (askLine s e line) j ⟨tag, if shared then 0x01 else 0x03, line, none, none, false⟩ 0 none

/-- The mask and the bytes of a write's part in a line. -/
def writeMask (e : ExtReq) (line : Nat) : Nat :=
  (List.range 64).foldl (fun m i => if e.addr ≤ line + i ∧ line + i < e.addr + e.len then m + 2 ^ i else m) 0
def writeBytes (e : ExtReq) (line : Nat) : List Byte :=
  (List.range 64).map fun i => if e.addr ≤ line + i ∧ line + i < e.addr + e.len then e.bytes.getD (line + i - e.addr) 0#8 else 0#8

/-- WR_NC of the device: its header and its DATA line (R372). -/
def deviceWrite (s : State) (j tag line mask : Nat) (bs : List Byte) (poison : Bool) : State :=
  match s.ext.find? fun e => e.wr && (linesOf e.addr e.len).contains line && !e.asked.contains line with
  | none => s
  | some e =>
    if subOf line ≠ j ∨ mask ≠ writeMask e line ∨ bs ≠ writeBytes e line ∨ poison ≠ e.poison then s
    else if s.svc.testBit 2 then writtenLine (askLine s e line) line .done
    else if !canPlace s j tag 5 then s
    else placeReq (askLine s e line) j ⟨tag, 0x04, line, none, none, false⟩ mask
      (some { heonMsg 0x20 0 0 0 0 0 false (if poison then 1 else 0) with tags := [tag], lines := [bs] })

/-! ### HBM for the host (R375-R380) -/

/-- Why a stack does not serve the host: its domain is off, or its cols drain or absorb. -/
def hbmGone (s : State) (a : Nat) : Option Status :=
  if !domainOn s (144 + stackOf a) || (ni s (hbmCol (stackOf a) (pcOf a / 4))).state != 0 then some .domainOff else none

/-- A memory request of the host joins its controller's queue, at port 1. -/
def hostEnqueue (s : State) (j : Nat) (m : HeonMsg) (wr : Bool) (len : Nat) (bs : List Byte) (poison : Bool) : State :=
  hbmEnqueue s ⟨0, 1, dieCol j, wr, m.addr, len, bs, poison, dieCol j, none, none, some (j, m), false, 0⟩

/-- A read of a line by the host: RD_SHARED, RD_OWN, RD_NC. -/
def hostRead (s0 : State) (op j tag line : Nat) : State :=
  let s := fromHost s0 j op tag
  let a := line / 64 * 64
  if subOf a ≠ j then invalidMsg s j op tag a 2
  else if regionOf a ≠ .hbm then sendGo s j tag .formatError
  else
    match hbmGone s a with
    | some st => sendGo s j tag st
    | none => hostEnqueue s j (heonMsg op tag a 0 0 0 false 0) false 64 [] false

/-- A line the host wrote, with its header: WR_NC takes effect. -/
def hostWrite (s : State) (j tag line mask : Nat) (bs : List Byte) (poison : Bool) : State :=
  if regionOf line ≠ .hbm then sendComp s j tag .formatError
  else
    match hbmGone s line with
    | some st => sendComp s j tag st
    | none => hostEnqueue s j (heonMsg 0x04 tag line mask 0 0 false 0) true 64 bs poison

/-- The snoop of a line, and its end: the filter keeps the line in S, or drops it. -/
def endSnoop (s : State) (k line : Nat) (kept : Bool) : State :=
  updStk s k fun v =>
    let w := { v with snoops := v.snoops.filter fun e => e.1 != line }
    if kept then filterPut w line false else { w with filter := w.filter.filter fun e => e.1 != line }

/-- An owned line comes back: WR_BACK with its data, EVICT without (R378). -/
def giveUp (s : State) (j tag line : Nat) (dirty : Option (List Byte × Bool)) : State :=
  let k := stackOf line
  if regionOf line ≠ .hbm ∨ filterOf (stk s k) line ≠ some true then sendComp s j tag .formatError
  else
    let s1 := match dirty with
      | some (bs, po) => (hbmWrite s line (bytesAt bs 0 64) po [] (dieCol j)).1
      | none => s
    let waiting := (stk s1 k).snoops.any fun e => e.1 == line && e.2.2
    let s2 := updStk s1 k fun v => { v with filter := v.filter.filter fun e => e.1 != line }
    sendComp (if waiting then endSnoop s2 k line false else s2) j tag .done

/-! ### LINK_RESET (R389) -/

/-- Whether the reset of the link may end: nothing of the device is outstanding, the host's requests are answered, and
the filters are clear. -/
def resetReady (s : State) : Bool :=
  (List.range 4).all (fun j => (agent s j).resetting && (agent s j).out.isEmpty && (agent s j).hostReqs.isEmpty && (agent s j).inbox.isEmpty)
    && (List.range 8).all fun k =>
      (stk s k).filter.isEmpty && (stk s k).snoops.isEmpty && (stk s k).queue.all fun r => r.host.isNone

/-- Ask for every line the filters record. -/
def snoopAll (s : State) : State :=
  (List.range 8).foldl (fun t k => (stk t k).filter.foldl (fun u e => snoopLine u k e.1 true) t) s

/-- Steps 4 and 5: caches, replay, credits and sequence numbers are cleared, the window of OD 0x6001 takes effect, and
every sub-link retrains. -/
def finishReset (s : State) : State :=
  if resetReady s then
    let s1 := (List.range 4).foldl (fun t j => updAgent t j fun a =>
      { a with cache := [], replay := [], credits := [], txSeq := 0, rxSeq := 0xFFF, naks := 0, nakSeq := 0, awaiting := false, slots := [],
               txSlots := [], datas := [], resetting := false }) { s with hostWin := (odRaw s 0x600101, odRaw s 0x600102) }
    (List.range 4).foldl (fun t j => groupRetrains t (16 + j) 4 0) s1
  else s

/-- LINK_RESET: the first write starts it; what has since entered the filters is asked for again. -/
def linkResetState (s : State) : State :=
  finishReset (snoopAll ((List.range 4).foldl (fun t j => updAgent t j fun a => { a with resetting := true }) s))

/-! ### Rows of the host's memory requests -/

/-- RD_SHARED, by the host or by the device. -/
def rdSharedState (toDevice : Bool) (sub tag line : Nat) (s : State) : State :=
  if toDevice then hostRead s 0x01 sub tag line else deviceRead s sub tag line true

/-- RD_OWN. -/
def rdOwnState (sub tag line : Nat) (s : State) : State := hostRead s 0x02 sub tag line

/-- RD_NC. -/
def rdNcState (toDevice : Bool) (sub tag line : Nat) (s : State) : State :=
  if toDevice then hostRead s 0x03 sub tag line else deviceRead s sub tag line false

/-- The DATA line that waits for a header, taken from the agent. -/
def takeData (s : State) (j tag : Nat) : State × Option (List Byte × Bool) :=
  match (agent s j).datas.find? fun e => e.1 == tag with
  | some e => (updAgent s j fun a => { a with datas := List.eraseP (fun x => x.1 == tag) a.datas }, some e.2)
  | none => (s, none)

/-- A header whose line is not given: it waits for its DATA, or takes the line that came first (R372). -/
def withData (s : State) (j : Nat) (m : HeonMsg) (bs : List Byte) (poison : Bool)
    (act : State → List Byte → Bool → State) : State :=
  if bs.length = 64 then act s bs poison
  else
    match takeData s j m.tag with
    | (s1, some (b, p)) => act s1 b p
    | (s1, none) => updAgent s1 j fun a => { a with hostReqs := a.hostReqs ++ [m] }

/-- WR_NC. -/
def wrNcState (toDevice : Bool) (sub tag line mask : Nat) (bytes : List Byte) (poison : Bool) (s0 : State) : State :=
  if toDevice then
    let s := fromHost s0 sub 0x04 tag
    let a := line / 64 * 64
    if subOf a ≠ sub then invalidMsg s sub 0x04 tag a 2
    else withData s sub (heonMsg 0x04 tag a mask 0 0 true 0) bytes poison fun t b p => hostWrite t sub tag a mask b p
  else deviceWrite s0 sub tag line mask bytes poison

/-- WR_BACK. -/
def wrBackState (sub tag line : Nat) (bytes : List Byte) (poison : Bool) (s0 : State) : State :=
  let s := fromHost s0 sub 0x05 tag
  let a := line / 64 * 64
  if subOf a ≠ sub then invalidMsg s sub 0x05 tag a 2
  else withData s sub (heonMsg 0x05 tag a 0 0 0 true 0) bytes poison fun t b p => finishReset (giveUp t sub tag a (some (b, p)))

/-- EVICT. -/
def evictState (sub tag line : Nat) (s0 : State) : State :=
  let s := fromHost s0 sub 0x06 tag
  let a := line / 64 * 64
  if subOf a ≠ sub then invalidMsg s sub 0x06 tag a 2 else finishReset (giveUp s sub tag a none)

/-! ### MMIO (R380, R385, R553) -/

/-- A read of the host answered from a region. -/
def mmioRead (s : State) (j tag op addr size : Nat) : State :=
  match regionOf addr with
  | .window =>
    let (st, v) := accessRead s addr size
    sendRdRsp s j tag v st false
  | .hbm =>
    match hbmGone s addr with
    | some st => sendRdRsp s j tag 0 st false
    | none => hostEnqueue s j (heonMsg op tag addr 0 0 0 false 0) false size [] false
  | .store d off =>
    match daleGone s d with
    | some st => sendRdRsp s j tag 0 st false
    | none =>
      if (ni s (daleCol d)).state ≠ 0 then sendRdRsp s j tag 0 .domainOff false

      else
        let (s1, bs, st) := daleRead s d off size
        sendRdRsp s1 j tag (leNat bs) st (st != .done)
  | _ => sendRdRsp s j tag 0 .formatError false

/-- A write of the host through a peer aperture (R419, R422): its message belongs to the host epoch. -/
def mmioPeer (s : State) (j tag addr : Nat) (bs : List Byte) : State :=
  let (t, s1) := peerTag s
  match apertureMsg s1 addr bs false (hostPipeline s1) (hostEpoch s1) t with
  | none => sendComp s1 j tag .formatError
  | some m =>
    let port := relayEntry s1 m.dst % 16
    if !(relayEntry s1 m.dst).testBit 15 then sendComp s1 j tag .formatError
    else
      match peerOff s1 port with
      | some st => sendComp s1 j tag st
      | none =>
        let pd := port * 4096 + m.dst
        let s2 := sendPeer s1 port m (some ⟨6000 + j, 0, tag, 0⟩)
        { s2 with cp := { s2.cp with hostPorts := s2.cp.hostPorts.filter (· != pd) ++ [pd] } }

/-- A write of the host to a region. -/
def mmioWrite (s : State) (j tag op addr size value : Nat) : State :=
  let bs := leBytes size value
  match regionOf addr with
  | .window =>
    let s1 := accessWrite s .host addr size value
    sendComp s1 j tag s1.ans.1
  | .hbm =>
    match hbmGone s addr with
    | some st => sendComp s j tag st
    | none => hostEnqueue s j (heonMsg op tag addr 0 0 0 false 0) true size bs false
  | .store d off =>
    match daleGone s d with
    | some st => sendComp s j tag st
    | none =>
      if (ni s (daleCol d)).state ≠ 0 then sendComp s j tag .domainOff

      else
        let (s1, st) := daleWrite s d off bs false
        sendComp s1 j tag st
  | .peer => mmioPeer s j tag addr bs
  | .nowhere => sendComp s j tag .formatError

/-- An MMIO request: on sub-link 0 only, DOMAIN_OFF until reduced service (R364, R385), and naturally aligned: R553 asks that of
the control windows, and the model asks it of memory too (DESIGN CHOICE, log entry 58). -/
def mmio (s0 : State) (j tag op addr size : Nat) (value : Option Nat) : State :=
  let s := fromHost s0 j op tag
  let refuse (st : Status) : State := if value.isSome then sendComp s j tag st else sendRdRsp s j tag 0 st false
  if j ≠ 0 then invalidMsg s j op tag addr 2
  else if !s.svc.testBit 0 then refuse .domainOff
  else if addr % size ≠ 0 then refuse .formatError
  else
    match value with
    | some v => mmioWrite s j tag op addr size v
    | none => mmioRead s j tag op addr size

/-- MMIO_RD32, MMIO_RD64, MMIO_WR32, MMIO_WR64. -/
def mmioRd32State (sub tag addr : Nat) (s : State) : State := mmio s sub tag 0x08 addr 4 none
def mmioRd64State (sub tag addr : Nat) (s : State) : State := mmio s sub tag 0x09 addr 8 none
def mmioWr32State (sub tag addr value : Nat) (s : State) : State := mmio s sub tag 0x0A addr 4 (some (value % 2 ^ 32))
def mmioWr64State (sub tag addr value : Nat) (s : State) : State := mmio s sub tag 0x0B addr 8 (some (value % 2 ^ 64))

/-! ### Configuration space (R384, R385) -/

/-- The capacity HBM_GIB shows: 36 GiB less for each stack left off (R384, R528). -/
def hbmGib (s : State) : Nat := 288 - 36 * popcount 8 (odRaw s 0xA00103)

/-- A register of configuration space by its byte offset. -/
def cfgReg (s : State) (reg : Nat) : Nat :=
  match reg with
  | 0x000 => 0x4D314557
  | 0x004 => Config.stepping % 256
  | 0x008 => Config.uid % 2 ^ 32
  | 0x00C => Config.uid / 2 ^ 32 % 2 ^ 32
  | 0x010 => s.svc % 8
  | 0x018 => hbmGib s
  | _ => if 0x020 ≤ reg ∧ reg < 0x060 ∧ reg % 4 = 0 then tget 0 s.notify ((reg - 0x020) / 4) else 0

/-- CFG_RD. -/
def cfgRdState (sub tag reg : Nat) (s0 : State) : State :=
  let s := fromHost s0 sub 0x0C tag
  if sub ≠ 0 then invalidMsg s sub 0x0C tag 0 2 else sendRdRsp s sub tag (cfgReg s (reg % 4096)) .done false

/-- ENUM_DONE (R385, R388): event 0x0D07, and HOST_LOST clears when every sub-link is active. -/
def enumDoneState (ms : Nat) (s : State) : State :=
  let mask := (List.range 4).foldl (fun m j => bitPut m j (groupActive s (16 + j))) 0
  let s1 : State := { s with svc := bitPut s.svc 3 true }
  let s2 := emitPlain s1 0x0D07 sevInfo (dieSource 16) [(4, mask), (32, ms)]
  if mask = 15 then { s2 with svc := bitPut s2.svc 2 false } else s2

/-- A write of ENUM_CTRL. The time of event 0x0D07 is free here. -/
def enumCtrl (s : State) (v : Nat) : State :=
  let (fr, t) := takeFree s
  let s1 := if v.testBit 0 then enumDoneState (fr % 2 ^ 32) t else s
  if v.testBit 1 then linkResetState s1 else s1

/-- CFG_WR. -/
def cfgWrState (sub tag reg value : Nat) (s0 : State) : State :=
  let s := fromHost s0 sub 0x0D tag
  let r := reg % 4096
  if sub ≠ 0 then invalidMsg s sub 0x0D tag 0 2
  else if r = 0x014 then enumCtrl (sendComp s sub tag .done) value
  else if 0x020 ≤ r ∧ r < 0x060 ∧ r % 4 = 0 then
    sendComp { s with notify := tset 0 s.notify ((r - 0x020) / 4) (Nat.land value 0x8000FFFF) } sub tag .done
  else if r = 0 ∨ r = 4 ∨ r = 8 ∨ r = 0xC ∨ r = 0x10 ∨ r = 0x18 then sendComp s sub tag .formatError
  else sendComp s sub tag .done

/-! ### Snoops and answers -/

/-- SNP_SHARE of the host (R373), or the placing of the device's. -/
def snpShareState (toDevice : Bool) (sub tag line : Nat) (s0 : State) : State :=
  if toDevice then
    let s := fromHost s0 sub 0x10 tag
    let a := line / 64 * 64
    if subOf a ≠ sub then invalidMsg s sub 0x10 tag a 2
    else sendHost s sub (heonMsg 0x1A tag 0 0 0 (if inCache s sub a then 1 else 0) false 0)
  else placeMsg s0 sub fun m => m.op == 0x10 && m.tag == tag && m.addr == line

/-- SNP_INV of the host (R373, R374): the line goes, and a read outstanding will not install it. -/
def snpInvState (toDevice : Bool) (sub tag line : Nat) (s0 : State) : State :=
  if toDevice then
    let s := fromHost s0 sub 0x11 tag
    let a := line / 64 * 64
    if subOf a ≠ sub then invalidMsg s sub 0x11 tag a 2
    else
      let s1 := updAgent s sub fun g =>
        { g with cache := g.cache.filter (fun e => e.1 != a),
                 out := g.out.map fun r => if r.line = a ∧ r.op = 0x01 then { r with snooped := true } else r }
      sendHost s1 sub (heonMsg 0x1A tag 0 0 0 0 false 0)
  else placeMsg s0 sub fun m => m.op == 0x11 && m.tag == tag && m.addr == line

/-- GO: it completes a read of the device with its data, or is placed. -/
def goState (toDevice : Bool) (sub tag state status : Nat) (s : State) : State :=
  if toDevice then
    finishReset (onRequest (fromHost s sub 0x18 tag) sub tag fun r =>
      if r.op = 0x01 ∨ r.op = 0x03 then { r with go := some (state, status) } else r)
  else placeMsg s sub fun m => m.op == 0x18 && m.tag == tag && m.st == state && m.status == status

/-- COMP: it completes a write of the device, or is placed. -/
def compState (toDevice : Bool) (sub tag status : Nat) (s0 : State) : State :=
  if toDevice then
    let s := fromHost s0 sub 0x19 tag
    match (agent s sub).out.find? fun r => r.tag == tag && r.op == 0x04 with
    | none => s
    | some r =>
      finishReset (writtenLine (updAgent s sub fun a => { a with out := a.out.filter fun x => x.tag != tag }) r.line (statusOf status))
  else placeMsg s0 sub fun m => m.op == 0x19 && m.tag == tag && m.status == status

/-- The stack and the snoop an answer belongs to. -/
def snoopOf (s : State) (sub tag : Nat) : Option (Nat × Nat × Bool × Bool) :=
  ((List.range 8).flatMap fun k => (stk s k).snoops.map fun e => (k, e)).find? fun e => e.2.1 / 64 % 4096 == tag && subOf e.2.1 == sub

/-- An answer to a snoop takes effect (R376-R378): dirty data is written first; I without data for a line held as owned waits for
its WR_BACK or EVICT. An answer that comes late is consumed. -/
def snoopAnswered (s : State) (sub tag state : Nat) (dirty : Option (List Byte × Bool)) : State :=
  match snoopOf s sub tag with
  | none => s
  | some (k, line, inv, _) =>
    let s1 := match dirty with
      | some (bs, po) => (hbmWrite s line (bytesAt bs 0 64) po [] (dieCol sub)).1
      | none => s
    if state = 0 && dirty.isNone && filterOf (stk s1 k) line == some true then
      updStk s1 k fun v => { v with snoops := v.snoops.map fun e => if e.1 = line then (line, inv, true) else e }
    else finishReset (endSnoop s1 k line (state == 1))

/-- SNP_RSP of the host: with a DATA message that follows, it waits for its line (R371, R372). -/
def snpRspState (sub tag state : Nat) (dirty : Option (List Byte × Bool)) (s0 : State) : State :=
  let s := fromHost s0 sub 0x1A tag
  match dirty with
  | none => snoopAnswered s sub tag state none
  | some (bs, po) => withData s sub (heonMsg 0x1A tag 0 0 0 state true 0) bs po fun t b p => snoopAnswered t sub tag state (some (b, p))

/-- A DATA line of the host (R371, R372): a read of the device takes it, else it belongs to a write of the host whose header
may still come. -/
def dataLine (s : State) (j tag : Nat) (bs : List Byte) (poison : Bool) : State :=
  if (agent s j).out.any fun r => r.tag == tag && r.op != 0x04 && r.data.isNone then
    onRequest s j tag fun r => { r with data := some (bs, poison) }
  else
    match (agent s j).hostReqs.find? fun m => m.tag == tag with
    | some m =>
      let s1 := updAgent s j fun a => { a with hostReqs := a.hostReqs.erase m }
      if m.op = 0x04 then hostWrite s1 j tag m.addr m.value bs poison
      else if m.op = 0x1A then snoopAnswered s1 j tag m.st (some (bs, poison))
      else finishReset (giveUp s1 j tag m.addr (some (bs, poison)))
    | none => updAgent s j fun a => { a with datas := a.datas ++ [(tag, bs, poison)] }

/-- DATA: each line finds its request, or the message is placed. -/
def dataState (toDevice : Bool) (sub : Nat) (tags : List Nat) (lines : List (List Byte)) (poison : Nat) (s : State) : State :=
  if toDevice then
    let s1 := updAgent s sub fun a => { a with inbox := List.eraseP (fun m => m.op == 0x20 && m.tags == tags) a.inbox }
    finishReset ((List.range (min tags.length lines.length)).foldl (fun t k =>
      dataLine t sub (tags.getD k 0) (bytesAt (lines.getD k []) 0 64) (poison.testBit k)) s1)
  else placeMsg s sub fun m => m.op == 0x20 && m.tags == tags && m.lines == lines && m.poison == poison

/-! ### Flits (R366-R370, R416) -/

/-- The slots a message takes, from its header: of Heonlink, and of a peer link. -/
def slotsOfHeon (h : Nat) : Nat := if bitsOf h 127 122 = 0x20 then 1 + 4 * (bitsOf h 121 120 + 1) else 1
def slotsOfPeer (h : Nat) : Nat :=
  let op := bitsOf h 127 122
  if op = 0x01 ∨ op = 0x02 then 1 + (bitsOf h 67 60 + 16) / 16 else 1

/-- The opcodes a host may send (R372). -/
def hostOpcode (op : Nat) : Bool :=
  [0x01, 0x02, 0x03, 0x04, 0x05, 0x06, 0x08, 0x09, 0x0A, 0x0B, 0x0C, 0x0D, 0x10, 0x11, 0x18, 0x19, 0x1A, 0x20].contains op

/-- Whether a header keeps the reserved bits of R371. -/
def reservedOk (h : Nat) : Bool :=
  let op := bitsOf h 127 122
  if op = 0x04 then true
  else if op = 0x05 then h % 2 ^ 64 == 2 ^ 64 - 1
  else if op < 0x08 ∨ op = 0x10 ∨ op = 0x11 ∨ op = 0x08 ∨ op = 0x09 then h % 2 ^ 64 == 0
  else if op = 0x0A then bitsOf h 63 32 == 0
  else if op = 0x0B then true
  else if op = 0x0C then bitsOf h 109 74 == 0 && h % 2 ^ 64 == 0
  else if op = 0x0D then bitsOf h 109 74 == 0 && bitsOf h 63 32 == 0
  else if op = 0x20 then bitsOf h 115 64 == 0 && bitsOf h 15 12 == 0 && bitsOf h 31 28 == 0 && bitsOf h 47 44 == 0 && bitsOf h 63 60 == 0
  else bitsOf h 97 64 == 0 && h % 2 ^ 64 == 0

/-- The address a header names: of a line, or of an MMIO access; the register of a configuration access. -/
def headerAddr (h : Nat) : Nat :=
  let op := bitsOf h 127 122
  if 0x08 ≤ op ∧ op ≤ 0x0B then bitsOf h 109 64 * 4 else if op = 0x0C ∨ op = 0x0D then bitsOf h 73 64 * 4 else bitsOf h 109 64 * 64

/-- The message that a header and its data slots spell. -/
def messageOf (h : Nat) (slots : List (List Byte)) : HeonMsg :=
  let op := bitsOf h 127 122
  let all := slots.flatMap id
  let n := if op = 0x20 then bitsOf h 121 120 + 1 else 0
  { op := op, tag := if op = 0x20 then 0 else bitsOf h 121 110, addr := headerAddr h, value := h % 2 ^ 64, status := bitsOf h 109 102,
    st := bitsOf h 100 99, poison := if op = 0x20 then bitsOf h 119 116 else bitsOf h 101 101, follows := h.testBit 98,
    tags := (List.range n).map fun k => h / 2 ^ (16 * k) % 4096, lines := (List.range n).map fun k => bytesAt all (64 * k) 64 }

/-- A whole Heonlink message: invalid, or delivered to the agent (R371, R386). -/
def heonArrives (s : State) (j : Nat) (h : Nat) (slots : List (List Byte)) : State :=
  let op := bitsOf h 127 122
  let tag := bitsOf h 121 110
  if !hostOpcode op then invalidMsg s j op tag 0 0
  else if !reservedOk h then invalidMsg s j op tag (headerAddr h) 1
  else updAgent s j fun a => { a with inbox := a.inbox ++ [messageOf h slots] }

/-- A whole peer message: delivered to its port, or answered FORMAT_ERROR when its opcode is unknown (R418). -/
def peerArrives (s : State) (g : Nat) (h : Nat) (slots : List (List Byte)) : State :=
  let op := bitsOf h 127 122
  let n := if op = 0x01 ∨ op = 0x02 then bitsOf h 67 60 + 1 else bitsOf h 67 60
  let m : PeerMsg :=
    { opcode := op, src := bitsOf h 121 110, dst := bitsOf h 109 98, rvc := h.testBit 97, poison := h.testBit 96,
      hopsLeft := bitsOf h 95 92, pipeline := bitsOf h 91 84, epoch := bitsOf h 83 68, bytes := n, tag := bitsOf h 59 48,
      arg := h % 2 ^ 48, payload := if op = 0x01 ∨ op = 0x02 then bytesAt (slots.flatMap id) 0 n else [] }
  if [0x01, 0x02, 0x08, 0x09, 0x0A, 0x0B].contains op then updAgent s (4 + g) fun a => { a with peerIn := a.peerIn ++ [m] }
  else emitPlain (ackPeer s g m .formatError) 0x0F07 sevError (dieSource g) [(4, g), (6, op), (12, m.tag), (12, m.src)]

/-- Deliver the whole messages at the head of the slots received; what is left waits for the next flit (R367). -/
def takeSlots (link : Nat) : Nat → State → State
  | 0, s => s
  | fuel + 1, s =>
    match (agent s link).slots with
    | [] => s
    | h0 :: rest =>
      let h := leNat h0
      let n := if link < 4 then slotsOfHeon h else slotsOfPeer h
      if rest.length + 1 < n then s
      else
        let cls := if link < 4 then heonClass (bitsOf h 127 122) else if n > 1 then 0 else 1
        let s1 := updAgent s link fun a =>
          { a with slots := rest.drop (n - 1), credits := tset 0 a.credits (4 + cls) (tget 0 a.credits (4 + cls) + n) }
        takeSlots link fuel (if link < 4 then heonArrives s1 link h (rest.take (n - 1)) else peerArrives s1 (link - 4) h (rest.take (n - 1)))


/-- A flit is not taken: its CRC fails, or its FTYPE is unknown (R369, R386). -/
def flitBad (s : State) (link : Nat) : State :=
  let s1 := updAgent s link fun a => { a with awaiting := true }
  if link < 4 then odBump s1 (0x6010 + link) 3 1 else s1

/-- Flits acknowledged leave the replay buffer. -/
def ackFlits (r : List (Nat × List Byte)) (ack : Nat) : List (Nat × List Byte) :=
  if r.any fun e => e.1 == ack then (r.dropWhile fun e => e.1 != ack).tail else r

/-- A NAK (R369): a replay, counted with event 0x0D01, and a retrain at the eighth in a row for one SEQ. -/
def flitNak (s : State) (link ack : Nat) : State :=
  let a := agent s link
  let from' := (ack + 1) % 4096
  let n := if a.naks ≠ 0 ∧ a.nakSeq = from' then a.naks + 1 else 1
  let s1 := updAgent s link fun v => { v with naks := n, nakSeq := from', fresh := false }
  let s2 :=
    if link < 4 then
      let t := odBump s1 (0x6010 + link) 4 1
      let total := odRaw t (odKey (0x6010 + link) 4)
      if a.fresh || total % 1024 == 0 then
        emitPlain t 0x0D01 sevInfo (dieSource (linkGroup link)) [(2, link), (32, total), (12, from')]
      else t
    else s1
  if n = 8 then updAgent (groupRetrains s2 (linkGroup link) 3 0) link fun v => { v with naks := 0 } else s2

/-- Credits returned lower those in use: four classes on Heonlink, two on a peer link. -/
def creditsBack (link : Nat) (h : Nat) (c : Tab Nat) : Tab Nat :=
  if link < 4 then
    (List.range 4).foldl (fun t k => tset 0 t k (tget 0 t k - h / 2 ^ (60 - 4 * k) % 16)) c
  else tset 0 (tset 0 c 0 (tget 0 c 0 - bitsOf h 63 52)) 1 (tget 0 (tset 0 c 0 (tget 0 c 0 - bitsOf h 63 52)) 1 - bitsOf h 51 48)

/-- What every good flit carries: acknowledgement, NAK and credits. -/
def flitControl (s : State) (link h : Nat) : State :=
  let ack := bitsOf h 83 72
  let s1 := updAgent s link fun a => { a with replay := ackFlits a.replay ack, credits := creditsBack link h a.credits }
  if h.testBit 71 then flitNak s1 link ack else updAgent s1 link fun a => { a with naks := 0 }

/-- FLIT_RECEIVED (R366-R370): links 0 to 3 are the sub-links, 4 + g is peer port g. -/
def flitReceivedState (link : Nat) (flit : List Byte) (s : State) : State :=
  let a := agent s link
  if !a.up then s
  else
    let h := fieldAt flit 0 12
    let ftype := bitsOf h 70 68
    let crcOk := flit.length == 256 && !(lgroup s (linkGroup link)).badWord && fieldAt flit 252 4 == crc32 (flit.take 252)
    if !crcOk then flitBad s link
    else if ftype > 1 then
      let s1 := if link < 4 then emitPlain s 0x0D06 sevError (dieSource (linkGroup link)) [(2, link), (6, 0), (12, 0), (2, 3)] else s
      flitBad s1 link
    else
      let s1 := if link < 4 ∧ ftype = 0 then odBump s (0x6010 + link) 2 1 else s
      let next := bitsOf h 95 84 == (a.rxSeq + 1) % 4096
      if ftype = 1 then if a.awaiting then s1 else flitControl s1 link h
      else if !next then updAgent s1 link fun v => { v with awaiting := true }
      else
        let got := (List.range 15).filterMap fun i => if h.testBit (33 + i) then some (bytesAt flit (12 + 16 * i) 16) else none
        let s2 := updAgent (flitControl s1 link h) link fun v => { v with rxSeq := bitsOf h 95 84, awaiting := false, slots := v.slots ++ got }
        takeSlots link ((agent s2 link).slots.length) s2

/-! ### Link down, host lost (R387, R388) -/

/-- LINK_DOWN (R387): a sub-link is not active again in time; event 0x0D03, once, and messages are held. -/
def linkDownState (sub : Nat) (s : State) : State :=
  let a := agent s sub
  if a.up || a.told then s
  else
    emitPlain (updAgent s sub fun v => { v with told := true }) 0x0D03 sevError (dieSource (16 + sub)) [(2, sub), (16, a.toHost.length)]

/-- The command processor clears every ENABLE of the rings (R388 step 1). -/
def ringsOff (s : State) : State :=
  (List.range 16).foldl (fun t q =>
    let t1 := winSet t (cqWin q 8) (bitPut (winGet t (cqWin q 8)) 31 false)
    winSet t1 (cplWin q 8) (bitPut (winGet t1 (cplWin q 8)) 31 false)) s

/-- A companion request held is answered (R388 step 2): reads with poisoned bytes that are free, writes discarded. -/
def answerLost (s : State) (e : ExtReq) : State :=
  if e.origin.dale < 512 then
    if e.wr then pieceWritten s e.origin .done
    else
      let (fr, s1) := takeFree s
      pieceRead s1 e.origin .poisoned (leBytes e.len fr) true
  else s

/-- A controller marks the lines the host holds as owned, and forgets what it holds (R388 step 3). -/
def filtersLost (s : State) (k : Nat) : State :=
  let owned := (stk s k).filter.filter (·.2)
  let s1 := owned.foldl (fun t e => (wordsOf e.1 64).foldl hbmPoison t) s
  updStk s1 k fun v => { v with filter := [], snoops := [] }

/-- HOST_LOST (R388): a sub-link has been inactive for OD 0x6000.03. -/
def hostLostState (s : State) : State :=
  let down := (List.range 4).foldl (fun m j => bitPut m j (!groupActive s (16 + j))) 0
  if down = 0 || s.svc.testBit 2 then s
  else
    let running := (s.pipes.filter fun e => e.2.st == .running && e.2.inStep).map (·.1)
    let s1 := emitPlain { s with svc := bitPut s.svc 2 true } 0x0D04 sevError srcCmd
      [(4, down), (8, (s.pipes.filter fun e => e.2.st == .running).length), (16, s.cp.inflight.length)]
    let s2 := running.foldl (fun t p => haltPipe t p (some .timeout)) (ringsOff s1)
    let s3 := (s2.pipes.filter fun e => e.2.st == .running && !e.2.inStep).foldl (fun t e => haltNow t e.1 .timeout) s2
    let held := s3.ext
    let s4 : State := { s3 with ext := [], cp := { s3.cp with inflight := [], got := [] } }
    let s5 := (List.range 4).foldl (fun t j => updAgent t j fun a => { a with cache := [], out := [] }) s4
    let s6 := held.foldl answerLost s5
    (List.range 8).foldl filtersLost s6

/-! ### Meanings -/

/-- The meaning of FLIT_RECEIVED. -/
def execFlitReceived (link : Nat) (flit : List Byte) (s : State) : Host.Outcome State Fault Refusal :=
  guardUnit (link < 20) (flitReceivedState link flit s)

/-- The meaning of RD_SHARED. -/
def execRdShared (toDevice : Bool) (sub : Nat) (tag : Nat) (line : Nat) (s : State) : Host.Outcome State Fault Refusal :=
  guardUnit (sub < 4) (rdSharedState toDevice sub tag line s)

/-- The meaning of RD_OWN. -/
def execRdOwn (sub : Nat) (tag : Nat) (line : Nat) (s : State) : Host.Outcome State Fault Refusal :=
  guardUnit (sub < 4) (rdOwnState sub tag line s)

/-- The meaning of RD_NC. -/
def execRdNc (toDevice : Bool) (sub : Nat) (tag : Nat) (line : Nat) (s : State) : Host.Outcome State Fault Refusal :=
  guardUnit (sub < 4) (rdNcState toDevice sub tag line s)

/-- The meaning of WR_NC. -/
def execWrNc (toDevice : Bool) (sub : Nat) (tag : Nat) (line : Nat) (mask : Nat) (bytes : List Byte) (poison : Bool) (s : State) : Host.Outcome State Fault Refusal :=
  guardUnit (sub < 4) (wrNcState toDevice sub tag line mask bytes poison s)

/-- The meaning of WR_BACK. -/
def execWrBack (sub : Nat) (tag : Nat) (line : Nat) (bytes : List Byte) (poison : Bool) (s : State) : Host.Outcome State Fault Refusal :=
  guardUnit (sub < 4) (wrBackState sub tag line bytes poison s)

/-- The meaning of EVICT. -/
def execEvict (sub : Nat) (tag : Nat) (line : Nat) (s : State) : Host.Outcome State Fault Refusal :=
  guardUnit (sub < 4) (evictState sub tag line s)

/-- The meaning of MMIO_RD32. -/
def execMmioRd32 (sub : Nat) (tag : Nat) (addr : Nat) (s : State) : Host.Outcome State Fault Refusal :=
  guardUnit (sub < 4) (mmioRd32State sub tag addr s)

/-- The meaning of MMIO_RD64. -/
def execMmioRd64 (sub : Nat) (tag : Nat) (addr : Nat) (s : State) : Host.Outcome State Fault Refusal :=
  guardUnit (sub < 4) (mmioRd64State sub tag addr s)

/-- The meaning of MMIO_WR32. -/
def execMmioWr32 (sub : Nat) (tag : Nat) (addr : Nat) (value : Nat) (s : State) : Host.Outcome State Fault Refusal :=
  guardUnit (sub < 4) (mmioWr32State sub tag addr value s)

/-- The meaning of MMIO_WR64. -/
def execMmioWr64 (sub : Nat) (tag : Nat) (addr : Nat) (value : Nat) (s : State) : Host.Outcome State Fault Refusal :=
  guardUnit (sub < 4) (mmioWr64State sub tag addr value s)

/-- The meaning of CFG_RD. -/
def execCfgRd (sub : Nat) (tag : Nat) (reg : Nat) (s : State) : Host.Outcome State Fault Refusal :=
  guardUnit (sub < 4) (cfgRdState sub tag reg s)

/-- The meaning of CFG_WR. -/
def execCfgWr (sub : Nat) (tag : Nat) (reg : Nat) (value : Nat) (s : State) : Host.Outcome State Fault Refusal :=
  guardUnit (sub < 4) (cfgWrState sub tag reg value s)

/-- The meaning of SNP_SHARE. -/
def execSnpShare (toDevice : Bool) (sub : Nat) (tag : Nat) (line : Nat) (s : State) : Host.Outcome State Fault Refusal :=
  guardUnit (sub < 4) (snpShareState toDevice sub tag line s)

/-- The meaning of SNP_INV. -/
def execSnpInv (toDevice : Bool) (sub : Nat) (tag : Nat) (line : Nat) (s : State) : Host.Outcome State Fault Refusal :=
  guardUnit (sub < 4) (snpInvState toDevice sub tag line s)

/-- The meaning of GO. -/
def execGo (toDevice : Bool) (sub : Nat) (tag : Nat) (state : Nat) (status : Nat) (s : State) : Host.Outcome State Fault Refusal :=
  guardUnit (sub < 4) (goState toDevice sub tag state status s)

/-- The meaning of COMP. -/
def execComp (toDevice : Bool) (sub : Nat) (tag : Nat) (status : Nat) (s : State) : Host.Outcome State Fault Refusal :=
  guardUnit (sub < 4) (compState toDevice sub tag status s)

/-- The meaning of SNP_RSP. -/
def execSnpRsp (sub : Nat) (tag : Nat) (state : Nat) (dirty : Option (List Byte × Bool)) (s : State) : Host.Outcome State Fault Refusal :=
  guardUnit (sub < 4) (snpRspState sub tag state dirty s)

/-- The meaning of DATA. -/
def execData (toDevice : Bool) (sub : Nat) (tags : List Nat) (lines : List (List Byte)) (poison : Nat) (s : State) : Host.Outcome State Fault Refusal :=
  guardUnit (sub < 4) (dataState toDevice sub tags lines poison s)

/-- The meaning of ENUM_DONE. -/
def execEnumDone (ms : Nat) (s : State) : Host.Outcome State Fault Refusal :=
  .next (enumDoneState ms s)

/-- The meaning of LINK_RESET. -/
def execLinkReset (s : State) : Host.Outcome State Fault Refusal :=
  .next (linkResetState s)

/-- The meaning of LINK_DOWN. -/
def execLinkDown (sub : Nat) (s : State) : Host.Outcome State Fault Refusal :=
  guardUnit (sub < 4) (linkDownState sub s)

/-- The meaning of HOST_LOST. -/
def execHostLost (s : State) : Host.Outcome State Fault Refusal :=
  .next (hostLostState s)

end Sys2Proof.Machine
end

