-- ==== Sys2Proof/Machine/Dispatch.lean ====
section
/-! DEFINITION. The meaning of every command: one arm for each row of spec/opcode_table.json. -/
namespace Sys2Proof.Machine

def exec (i : Instr) (s : State) : Host.Outcome State Fault Refusal :=
  match i with
  | .registerWrite src addr size value => Sys2Proof.Machine.execRegisterWrite src addr size value s
  | .semWrite d sem amount => Sys2Proof.Machine.execSemWrite d sem amount s
  | .satCount d value => Sys2Proof.Machine.execSatCount d value s
  | .nanCount d value => Sys2Proof.Machine.execNanCount d value s
  | .rateSampleStale g => Sys2Proof.Machine.execRateSampleStale g s
  | .sequencerFetch d => Sys2Proof.Machine.execSequencerFetch d s
  | .trapDrained d => Sys2Proof.Machine.execTrapDrained d s
  | .illegal d f => Sys2Proof.Machine.execIllegal d f s
  | .nop d f => Sys2Proof.Machine.execNop d f s
  | .endStep d f => Sys2Proof.Machine.execEndStep d f s
  | .qsync d f => Sys2Proof.Machine.execQsync d f s
  | .csrr d f => Sys2Proof.Machine.execCsrr d f s
  | .tdesc d f => Sys2Proof.Machine.execTdesc d f s
  | .add d f => Sys2Proof.Machine.execAdd d f s
  | .sub d f => Sys2Proof.Machine.execSub d f s
  | .and d f => Sys2Proof.Machine.execAnd d f s
  | .or d f => Sys2Proof.Machine.execOr d f s
  | .xor d f => Sys2Proof.Machine.execXor d f s
  | .shl d f => Sys2Proof.Machine.execShl d f s
  | .shr d f => Sys2Proof.Machine.execShr d f s
  | .sra d f => Sys2Proof.Machine.execSra d f s
  | .addi d f => Sys2Proof.Machine.execAddi d f s
  | .subi d f => Sys2Proof.Machine.execSubi d f s
  | .andi d f => Sys2Proof.Machine.execAndi d f s
  | .ori d f => Sys2Proof.Machine.execOri d f s
  | .xori d f => Sys2Proof.Machine.execXori d f s
  | .shli d f => Sys2Proof.Machine.execShli d f s
  | .shri d f => Sys2Proof.Machine.execShri d f s
  | .srai d f => Sys2Proof.Machine.execSrai d f s
  | .mul d f => Sys2Proof.Machine.execMul d f s
  | .li d f => Sys2Proof.Machine.execLi d f s
  | .lih d f => Sys2Proof.Machine.execLih d f s
  | .ld d f => Sys2Proof.Machine.execLd d f s
  | .st d f => Sys2Proof.Machine.execSt d f s
  | .beq d f => Sys2Proof.Machine.execBeq d f s
  | .bne d f => Sys2Proof.Machine.execBne d f s
  | .blt d f => Sys2Proof.Machine.execBlt d f s
  | .bge d f => Sys2Proof.Machine.execBge d f s
  | .bltu d f => Sys2Proof.Machine.execBltu d f s
  | .bgeu d f => Sys2Proof.Machine.execBgeu d f s
  | .jal d f => Sys2Proof.Machine.execJal d f s
  | .jr d f => Sys2Proof.Machine.execJr d f s
  | .bpany d f => Sys2Proof.Machine.execBpany d f s
  | .bpnone d f => Sys2Proof.Machine.execBpnone d f s
  | .mmul d f flt => Sys2Proof.Machine.execMmul d f flt s
  | .mfuse d f => Sys2Proof.Machine.execMfuse d f s
  | .vadd d f => Sys2Proof.Machine.execVadd d f s
  | .vsub d f => Sys2Proof.Machine.execVsub d f s
  | .vand d f => Sys2Proof.Machine.execVand d f s
  | .vor d f => Sys2Proof.Machine.execVor d f s
  | .vxor d f => Sys2Proof.Machine.execVxor d f s
  | .vshl d f => Sys2Proof.Machine.execVshl d f s
  | .vshr d f => Sys2Proof.Machine.execVshr d f s
  | .vsra d f => Sys2Proof.Machine.execVsra d f s
  | .vmul d f => Sys2Proof.Machine.execVmul d f s
  | .vmulh d f => Sys2Proof.Machine.execVmulh d f s
  | .vmulq d f => Sys2Proof.Machine.execVmulq d f s
  | .vmac d f => Sys2Proof.Machine.execVmac d f s
  | .vfadd d f => Sys2Proof.Machine.execVfadd d f s
  | .vfsub d f => Sys2Proof.Machine.execVfsub d f s
  | .vfmul d f => Sys2Proof.Machine.execVfmul d f s
  | .vfmac d f => Sys2Proof.Machine.execVfmac d f s
  | .vmax d f => Sys2Proof.Machine.execVmax d f s
  | .vmin d f => Sys2Proof.Machine.execVmin d f s
  | .vcmp d f => Sys2Proof.Machine.execVcmp d f s
  | .vsel d f => Sys2Proof.Machine.execVsel d f s
  | .vcvt d f => Sys2Proof.Machine.execVcvt d f s
  | .vbcast d f => Sys2Proof.Machine.execVbcast d f s
  | .dset d f => Sys2Proof.Machine.execDset d f s
  | .vld d f => Sys2Proof.Machine.execVld d f s
  | .vst d f => Sys2Proof.Machine.execVst d f s
  | .cset d f => Sys2Proof.Machine.execCset d f s
  | .cget d f => Sys2Proof.Machine.execCget d f s
  | .vsrch d f => Sys2Proof.Machine.execVsrch d f s
  | .ssinit d f => Sys2Proof.Machine.execSsinit d f s
  | .ssrch d f => Sys2Proof.Machine.execSsrch d f s
  | .ssread d f => Sys2Proof.Machine.execSsread d f s
  | .ssred d f => Sys2Proof.Machine.execSsred d f s
  | .vcompact d f => Sys2Proof.Machine.execVcompact d f s
  | .vcflush d f => Sys2Proof.Machine.execVcflush d f s
  | .vscan d f => Sys2Proof.Machine.execVscan d f s
  | .vhist d f => Sys2Proof.Machine.execVhist d f s
  | .vhread d f => Sys2Proof.Machine.execVhread d f s
  | .vhclear d f => Sys2Proof.Machine.execVhclear d f s
  | .tkinit d f => Sys2Proof.Machine.execTkinit d f s
  | .vtopk d f => Sys2Proof.Machine.execVtopk d f s
  | .tkread d f => Sys2Proof.Machine.execTkread d f s
  | .pand d f => Sys2Proof.Machine.execPand d f s
  | .por d f => Sys2Proof.Machine.execPor d f s
  | .pxor d f => Sys2Proof.Machine.execPxor d f s
  | .pnot d f => Sys2Proof.Machine.execPnot d f s
  | .sinter d f => Sys2Proof.Machine.execSinter d f s
  | .smerge d f => Sys2Proof.Machine.execSmerge d f s
  | .sdiff d f => Sys2Proof.Machine.execSdiff d f s
  | .sfn d f => Sys2Proof.Machine.execSfn d f s
  | .scinit d f => Sys2Proof.Machine.execScinit d f s
  | .smaxsum d f => Sys2Proof.Machine.execSmaxsum d f s
  | .scmerge d f => Sys2Proof.Machine.execScmerge d f s
  | .screcv d f sender => Sys2Proof.Machine.execScrecv d f sender s
  | .scsend d f => Sys2Proof.Machine.execScsend d f s
  | .snacc d f => Sys2Proof.Machine.execSnacc d f s
  | .snfin d f => Sys2Proof.Machine.execSnfin d f s
  | .smfin d f => Sys2Proof.Machine.execSmfin d f s
  | .runi d f => Sys2Proof.Machine.execRuni d f s
  | .runif d f => Sys2Proof.Machine.execRunif d f s
  | .rbern d f => Sys2Proof.Machine.execRbern d f s
  | .rnormTab d f => Sys2Proof.Machine.execRnormTab d f s
  | .rnormBm d f => Sys2Proof.Machine.execRnormBm d f s
  | .rkey d f => Sys2Proof.Machine.execRkey d f s
  | .rctr d f => Sys2Proof.Machine.execRctr d f s
  | .rcget d f => Sys2Proof.Machine.execRcget d f s
  | .sstart d f => Sys2Proof.Machine.execSstart d f s
  | .tcopy d f => Sys2Proof.Machine.execTcopy d f s
  | .signal d f => Sys2Proof.Machine.execSignal d f s
  | .wait d f => Sys2Proof.Machine.execWait d f s
  | .arrive d f => Sys2Proof.Machine.execArrive d f s
  | .semwait d f => Sys2Proof.Machine.execSemwait d f s
  | .seminc d f => Sys2Proof.Machine.execSeminc d f s
  | .cqTail q value => Sys2Proof.Machine.execCqTail q value s
  | .cplHead c value => Sys2Proof.Machine.execCplHead c value s
  | .cqCtrl q value => Sys2Proof.Machine.execCqCtrl q value s
  | .cplCtrl c value => Sys2Proof.Machine.execCplCtrl c value s
  | .commandFetch => Sys2Proof.Machine.execCommandFetch s
  | .loadPlacement tag => Sys2Proof.Machine.execLoadPlacement tag s
  | .placementRelease tag => Sys2Proof.Machine.execPlacementRelease tag s
  | .startPipeline tag => Sys2Proof.Machine.execStartPipeline tag s
  | .runStep tag => Sys2Proof.Machine.execRunStep tag s
  | .stepEnd p => Sys2Proof.Machine.execStepEnd p s
  | .stepWatchdog p => Sys2Proof.Machine.execStepWatchdog p s
  | .saveContext tag => Sys2Proof.Machine.execSaveContext tag s
  | .restoreContext tag => Sys2Proof.Machine.execRestoreContext tag s
  | .abort tag => Sys2Proof.Machine.execAbort tag s
  | .functionDrain tag => Sys2Proof.Machine.execFunctionDrain tag s
  | .functionDrained tag => Sys2Proof.Machine.execFunctionDrained tag s
  | .functionCut tag => Sys2Proof.Machine.execFunctionCut tag s
  | .functionEnable tag => Sys2Proof.Machine.execFunctionEnable tag s
  | .katRun tag => Sys2Proof.Machine.execKatRun tag s
  | .katKernelDone d kernel digest => Sys2Proof.Machine.execKatKernelDone d kernel digest s
  | .katSchedule entry => Sys2Proof.Machine.execKatSchedule entry s
  | .fence tag => Sys2Proof.Machine.execFence tag s
  | .fenceComplete tag => Sys2Proof.Machine.execFenceComplete tag s
  | .completionWrite tag => Sys2Proof.Machine.execCompletionWrite tag s
  | .streamListFetch d ch => Sys2Proof.Machine.execStreamListFetch d ch s
  | .streamRequestIssue d => Sys2Proof.Machine.execStreamRequestIssue d s
  | .gatherLookup stack d ch row => Sys2Proof.Machine.execGatherLookup stack d ch row s
  | .reloadCtrl stack value => Sys2Proof.Machine.execReloadCtrl stack value s
  | .reloadDrained stack => Sys2Proof.Machine.execReloadDrained stack s
  | .reloadFilled stack => Sys2Proof.Machine.execReloadFilled stack s
  | .packetInject c p => Sys2Proof.Machine.execPacketInject c p s
  | .colForward c port plane vc => Sys2Proof.Machine.execColForward c port plane vc s
  | .read c p => Sys2Proof.Machine.execRead c p s
  | .write c p => Sys2Proof.Machine.execWrite c p s
  | .readResp c p => Sys2Proof.Machine.execReadResp c p s
  | .writeAck c p => Sys2Proof.Machine.execWriteAck c p s
  | .mcastData c p => Sys2Proof.Machine.execMcastData c p s
  | .trace c p => Sys2Proof.Machine.execTrace c p s
  | .semincRequest c p => Sys2Proof.Machine.execSemincRequest c p s
  | .semincAck c p => Sys2Proof.Machine.execSemincAck c p s
  | .run c p => Sys2Proof.Machine.execRun c p s
  | .endReport c p => Sys2Proof.Machine.execEndReport c p s
  | .mcastReady c p => Sys2Proof.Machine.execMcastReady c p s
  | .mcastAck c p => Sys2Proof.Machine.execMcastAck c p s
  | .mcastCancel c p => Sys2Proof.Machine.execMcastCancel c p s
  | .ctrlRead c p => Sys2Proof.Machine.execCtrlRead c p s
  | .ctrlWrite c p => Sys2Proof.Machine.execCtrlWrite c p s
  | .ctrlResp c p => Sys2Proof.Machine.execCtrlResp c p s
  | .drainReq c p => Sys2Proof.Machine.execDrainReq c p s
  | .interfaceDrained c => Sys2Proof.Machine.execInterfaceDrained c s
  | .drainDone c p => Sys2Proof.Machine.execDrainDone c p s
  | .drainForced c => Sys2Proof.Machine.execDrainForced c s
  | .probeCtrl k value => Sys2Proof.Machine.execProbeCtrl k value s
  | .niClear c value => Sys2Proof.Machine.execNiClear c value s
  | .hbmCommandIssue stack pc now severity bad => Sys2Proof.Machine.execHbmCommandIssue stack pc now severity bad s
  | .hbmRefresh stack pc bank window => Sys2Proof.Machine.execHbmRefresh stack pc bank window s
  | .hbmTempRead stack celsius => Sys2Proof.Machine.execHbmTempRead stack celsius s
  | .hbmScrubAccess stack pc secondClean => Sys2Proof.Machine.execHbmScrubAccess stack pc secondClean s
  | .hbmTrainingDone stack ok => Sys2Proof.Machine.execHbmTrainingDone stack ok s
  | .hbmFillDone stack micros => Sys2Proof.Machine.execHbmFillDone stack micros s
  | .hostSnoopTimeout stack line => Sys2Proof.Machine.execHostSnoopTimeout stack line s
  | .clockUnlocked g => Sys2Proof.Machine.execClockUnlocked g s
  | .clockLocked g => Sys2Proof.Machine.execClockLocked g s
  | .sectorReset k value => Sys2Proof.Machine.execSectorReset k value s
  | .sectorClear k value => Sys2Proof.Machine.execSectorClear k value s
  | .bramAccess sector mem port wr word value => Sys2Proof.Machine.execBramAccess sector mem port wr word value s
  | .queueAccess sector mem wr value => Sys2Proof.Machine.execQueueAccess sector mem wr value s
  | .portBeatOut d queue => Sys2Proof.Machine.execPortBeatOut d queue s
  | .portBeatIn d queue data poison last => Sys2Proof.Machine.execPortBeatIn d queue data poison last s
  | .portDrainRequest k => Sys2Proof.Machine.execPortDrainRequest k s
  | .portDrained d => Sys2Proof.Machine.execPortDrained d s
  | .portDrainForced d => Sys2Proof.Machine.execPortDrainForced d s
  | .cfgGo => Sys2Proof.Machine.execCfgGo s
  | .cfgAbandon => Sys2Proof.Machine.execCfgAbandon s
  | .cfgHeaderReceived header => Sys2Proof.Machine.execCfgHeaderReceived header s
  | .cfgSignatureVerified signature => Sys2Proof.Machine.execCfgSignatureVerified signature s
  | .cfgRegionTableReceived table => Sys2Proof.Machine.execCfgRegionTableReceived table s
  | .cfgFrameReceived frame => Sys2Proof.Machine.execCfgFrameReceived frame s
  | .cfgLastByte => Sys2Proof.Machine.execCfgLastByte s
  | .cfgCommit => Sys2Proof.Machine.execCfgCommit s
  | .cfgDeadline => Sys2Proof.Machine.execCfgDeadline s
  | .cfgEnumWaitExpired => Sys2Proof.Machine.execCfgEnumWaitExpired s
  | .strandStartMark => Sys2Proof.Machine.execStrandStartMark s
  | .strandGap => Sys2Proof.Machine.execStrandGap s
  | .cfgScrubFrame sector frame word active staged => Sys2Proof.Machine.execCfgScrubFrame sector frame word active staged s
  | .flitReceived link flit => Sys2Proof.Machine.execFlitReceived link flit s
  | .rdShared toDevice sub tag line => Sys2Proof.Machine.execRdShared toDevice sub tag line s
  | .rdOwn sub tag line => Sys2Proof.Machine.execRdOwn sub tag line s
  | .rdNc toDevice sub tag line => Sys2Proof.Machine.execRdNc toDevice sub tag line s
  | .wrNc toDevice sub tag line mask bytes poison => Sys2Proof.Machine.execWrNc toDevice sub tag line mask bytes poison s
  | .wrBack sub tag line bytes poison => Sys2Proof.Machine.execWrBack sub tag line bytes poison s
  | .evict sub tag line => Sys2Proof.Machine.execEvict sub tag line s
  | .mmioRd32 sub tag addr => Sys2Proof.Machine.execMmioRd32 sub tag addr s
  | .mmioRd64 sub tag addr => Sys2Proof.Machine.execMmioRd64 sub tag addr s
  | .mmioWr32 sub tag addr value => Sys2Proof.Machine.execMmioWr32 sub tag addr value s
  | .mmioWr64 sub tag addr value => Sys2Proof.Machine.execMmioWr64 sub tag addr value s
  | .cfgRd sub tag reg => Sys2Proof.Machine.execCfgRd sub tag reg s
  | .cfgWr sub tag reg value => Sys2Proof.Machine.execCfgWr sub tag reg value s
  | .snpShare toDevice sub tag line => Sys2Proof.Machine.execSnpShare toDevice sub tag line s
  | .snpInv toDevice sub tag line => Sys2Proof.Machine.execSnpInv toDevice sub tag line s
  | .go toDevice sub tag state status => Sys2Proof.Machine.execGo toDevice sub tag state status s
  | .comp toDevice sub tag status => Sys2Proof.Machine.execComp toDevice sub tag status s
  | .snpRsp sub tag state dirty => Sys2Proof.Machine.execSnpRsp sub tag state dirty s
  | .data toDevice sub tags lines poison => Sys2Proof.Machine.execData toDevice sub tags lines poison s
  | .enumDone ms => Sys2Proof.Machine.execEnumDone ms s
  | .linkReset => Sys2Proof.Machine.execLinkReset s
  | .linkDown sub => Sys2Proof.Machine.execLinkDown sub s
  | .hostLost => Sys2Proof.Machine.execHostLost s
  | .laneDetectProbe lane found => Sys2Proof.Machine.execLaneDetectProbe lane found s
  | .trainingFrame lane symbols adapted inverted => Sys2Proof.Machine.execTrainingFrame lane symbols adapted inverted s
  | .exchangeFrame group lane symbols spaced micros => Sys2Proof.Machine.execExchangeFrame group lane symbols spaced micros s
  | .alignmentMarker group lane symbols early skewOk => Sys2Proof.Machine.execAlignmentMarker group lane symbols early skewOk s
  | .markerSend group words => Sys2Proof.Machine.execMarkerSend group words s
  | .markerTimeout group => Sys2Proof.Machine.execMarkerTimeout group s
  | .codewordReceived group lines errors => Sys2Proof.Machine.execCodewordReceived group lines errors s
  | .laneLockLost lane => Sys2Proof.Machine.execLaneLockLost lane s
  | .trainLimitExpired group => Sys2Proof.Machine.execTrainLimitExpired group s
  | .trainRetry group => Sys2Proof.Machine.execTrainRetry group s
  | .idleEntry group => Sys2Proof.Machine.execIdleEntry group s
  | .idleExit group => Sys2Proof.Machine.execIdleExit group s
  | .groupRetrain group => Sys2Proof.Machine.execGroupRetrain group s
  | .deepRequest group => Sys2Proof.Machine.execDeepRequest group s
  | .deepRequestTimeout group => Sys2Proof.Machine.execDeepRequestTimeout group s
  | .deepWake group => Sys2Proof.Machine.execDeepWake group s
  | .wakeBurst group => Sys2Proof.Machine.execWakeBurst group s
  | .laneCtrl lane value => Sys2Proof.Machine.execLaneCtrl lane value s
  | .laneBitslip lane value => Sys2Proof.Machine.execLaneBitslip lane value s
  | .groupClear group value => Sys2Proof.Machine.execGroupClear group value s
  | .portEnable value => Sys2Proof.Machine.execPortEnable value s
  | .peerWrite port m => Sys2Proof.Machine.execPeerWrite port m s
  | .peerReduce port m => Sys2Proof.Machine.execPeerReduce port m s
  | .peerAck port m => Sys2Proof.Machine.execPeerAck port m s
  | .peerCommit port m => Sys2Proof.Machine.execPeerCommit port m s
  | .peerRetract port m => Sys2Proof.Machine.execPeerRetract port m s
  | .peerSignal port m => Sys2Proof.Machine.execPeerSignal port m s
  | .epochExpired port src pipeline epoch => Sys2Proof.Machine.execEpochExpired port src pipeline epoch s
  | .portDown port => Sys2Proof.Machine.execPortDown port s
  | .hostEpochCommit => Sys2Proof.Machine.execHostEpochCommit s
  | .hostEpochRetract => Sys2Proof.Machine.execHostEpochRetract s
  | .shadowSig d value src => Sys2Proof.Machine.execShadowSig d value src s
  | .eventRecord k => Sys2Proof.Machine.execEventRecord k s
  | .haltLimitExpired d => Sys2Proof.Machine.execHaltLimitExpired d s
  | .isolateDale value => Sys2Proof.Machine.execIsolateDale value s
  | .recordFlashWrite ok => Sys2Proof.Machine.execRecordFlashWrite ok s
  | .logClear path value flashOk => Sys2Proof.Machine.execLogClear path value flashOk s
  | .logEraseDone => Sys2Proof.Machine.execLogEraseDone s
  | .odCmdRead index sub => Sys2Proof.Machine.execOdCmdRead index sub s
  | .odCmdWrite index sub flashOk => Sys2Proof.Machine.execOdCmdWrite index sub flashOk s
  | .canRead tid index sub => Sys2Proof.Machine.execCanRead tid index sub s
  | .canWrite tid index sub len bytes flashOk => Sys2Proof.Machine.execCanWrite tid index sub len bytes flashOk s
  | .canSegment tid seq bytes flashOk => Sys2Proof.Machine.execCanSegment tid seq bytes flashOk s
  | .canReadMore tid seq => Sys2Proof.Machine.execCanReadMore tid seq s
  | .canAbort tid => Sys2Proof.Machine.execCanAbort tid s
  | .canDescribe tid index sub => Sys2Proof.Machine.execCanDescribe tid index sub s
  | .canTransferTimeout => Sys2Proof.Machine.execCanTransferTimeout s
  | .canBusOff => Sys2Proof.Machine.execCanBusOff s
  | .authToken path part bytes => Sys2Proof.Machine.execAuthToken path part bytes s
  | .restoreDefaults path value => Sys2Proof.Machine.execRestoreDefaults path value s
  | .arithClear value => Sys2Proof.Machine.execArithClear value s
  | .arrayStatsClear value => Sys2Proof.Machine.execArrayStatsClear value s
  | .vecStatsClear value => Sys2Proof.Machine.execVecStatsClear value s
  | .sfuStatsClear value => Sys2Proof.Machine.execSfuStatsClear value s
  | .rngStatsClear value => Sys2Proof.Machine.execRngStatsClear value s
  | .seqStatsClear value => Sys2Proof.Machine.execSeqStatsClear value s
  | .cmdStatsClear value => Sys2Proof.Machine.execCmdStatsClear value s
  | .streamStatsClear value => Sys2Proof.Machine.execStreamStatsClear value s
  | .gatherStatsClear stack value => Sys2Proof.Machine.execGatherStatsClear stack value s
  | .netStatsClear value => Sys2Proof.Machine.execNetStatsClear value s
  | .hbmStatsClear stack value => Sys2Proof.Machine.execHbmStatsClear stack value s
  | .steppeStatsClear value => Sys2Proof.Machine.execSteppeStatsClear value s
  | .cfgStatsClear value => Sys2Proof.Machine.execCfgStatsClear value s
  | .heonStatsClear sub value => Sys2Proof.Machine.execHeonStatsClear sub value s
  | .laneStatsClear value => Sys2Proof.Machine.execLaneStatsClear value s
  | .peerStatsClear value => Sys2Proof.Machine.execPeerStatsClear value s
  | .integrityStatsClear value => Sys2Proof.Machine.execIntegrityStatsClear value s
  | .powerStatsClear value => Sys2Proof.Machine.execPowerStatsClear value s
  | .odStatsClear value => Sys2Proof.Machine.execOdStatsClear value s
  | .secStatsClear value => Sys2Proof.Machine.execSecStatsClear value s
  | .sensorSample raw avsOk => Sys2Proof.Machine.execSensorSample raw avsOk s
  | .limiterTick => Sys2Proof.Machine.execLimiterTick s
  | .supplyDeviation => Sys2Proof.Machine.execSupplyDeviation s
  | .domainGate n requester rule => Sys2Proof.Machine.execDomainGate n requester rule s
  | .domainWake n requester rule => Sys2Proof.Machine.execDomainWake n requester rule s
  | .domainWoken n micros => Sys2Proof.Machine.execDomainWoken n micros s
  | .deviceSleepEnter requester => Sys2Proof.Machine.execDeviceSleepEnter requester s
  | .deviceSleepWake => Sys2Proof.Machine.execDeviceSleepWake s
  | .wakePin => Sys2Proof.Machine.execWakePin s
  | .orderlyShutdown value => Sys2Proof.Machine.execOrderlyShutdown value s
  | .counterPersist ok => Sys2Proof.Machine.execCounterPersist ok s
  | .rulesetCtrl value => Sys2Proof.Machine.execRulesetCtrl value s
  | .rulesetVerified => Sys2Proof.Machine.execRulesetVerified s
  | .ownerProvision path bytes otpOk => Sys2Proof.Machine.execOwnerProvision path bytes otpOk s
  | .ownerRevoke path k otpOk => Sys2Proof.Machine.execOwnerRevoke path k otpOk s
  | .svnAdvance path value otpOk => Sys2Proof.Machine.execSvnAdvance path value otpOk s
  | .vendorRootKey bytes => Sys2Proof.Machine.execVendorRootKey bytes s
  | .ownerKey k bytes => Sys2Proof.Machine.execOwnerKey k bytes s
  | .attestNonce path bytes => Sys2Proof.Machine.execAttestNonce path bytes s
  | .attestationSigned path ok => Sys2Proof.Machine.execAttestationSigned path ok s
  | .entropyFault proportion => Sys2Proof.Machine.execEntropyFault proportion s
  | .drawTimeout => Sys2Proof.Machine.execDrawTimeout s
  | .powerGood => Sys2Proof.Machine.execPowerGood s
  | .pwrGoodFall => Sys2Proof.Machine.execPwrGoodFall s
  | .rstNFall => Sys2Proof.Machine.execRstNFall s
  | .rstNRise => Sys2Proof.Machine.execRstNRise s
  | .coreReset value => Sys2Proof.Machine.execCoreReset value s
  | .flashHold => Sys2Proof.Machine.execFlashHold s
  | .firmwareCheck => Sys2Proof.Machine.execFirmwareCheck s
  | .baseImageCheck => Sys2Proof.Machine.execBaseImageCheck s
  | .reducedReady ms => Sys2Proof.Machine.execReducedReady ms s
  | .fullReady ms => Sys2Proof.Machine.execFullReady ms s
  | .fullReadyLate => Sys2Proof.Machine.execFullReadyLate s
  | .flashHoldReleased => Sys2Proof.Machine.execFlashHoldReleased s
  | .persistenceWaitExpired => Sys2Proof.Machine.execPersistenceWaitExpired s
  | .testAccessPort tms tdi => Sys2Proof.Machine.execTestAccessPort tms tdi s
  | .healthTestsPass => Sys2Proof.Machine.execHealthTestsPass s

end Sys2Proof.Machine
end

