-- ==== Sys2Proof/WellFormed.lean ====
section
/-! DEFINITION. Which commands are well formed: every operand names a unit the device has, and every field fits the width the
spec gives it. -/
namespace Sys2Proof

/-- The fields of format R fit their widths (R185). -/
def RInst.rOk (f : RInst) : Bool :=
  f.pg < 8 && f.d < 32 && f.a < 32 && f.b < 32 && f.view < 4 && f.s < 32 && f.fmt < 16

/-- The fields of format I fit their widths (R185). -/
def IInst.iOk (f : IInst) : Bool := f.pg < 8 && f.d < 32 && f.a < 32 && f.b < 32

/-- The fields of format M fit their widths (R185). -/
def MInst.mOk (f : MInst) : Bool :=
  f.ta < 16 && f.tb < 16 && f.td < 16 && 1 ≤ f.m && f.m ≤ 4096 && 1 ≤ f.k && f.k ≤ 128 && 1 ≤ f.n && f.n ≤ 64 && f.part < 4

/-- The fields of a packet's header fit their widths, and its payload its LEN (R259, R260). -/
def Packet.packetOk (p : Packet) : Bool :=
  p.plane < 3 && p.prio < 4 && p.age < 8 && p.typ < 32 && p.len ≤ 16 && p.hops < 32 && p.hop < 32 && p.run < 8
    && p.turns < 2 ^ 48 && p.srcCol < 1024 && p.tag < 4096 && p.status < 256 && p.epoch < 65536 && p.addr < 2 ^ 48
    && p.spurLen < 8 && p.spurLeft < 8 && p.aux < 256 && p.payload.length ≤ 16 * p.len && p.dir < 4

/-- The fields of a peer message fit their widths (R417). -/
def PeerMsg.peerOk (m : PeerMsg) : Bool :=
  m.opcode < 64 && m.src < 4096 && m.dst < 4096 && m.hopsLeft < 16 && m.pipeline < 256 && m.epoch < 65536 && m.bytes ≤ 256
    && m.tag < 4096 && m.arg < 2 ^ 48 && m.payload.length ≤ 256

/-- A register access is 4 or 8 bytes long, and its value fits (R553). -/
def accessFits (size value : Nat) : Bool := (size == 4 && value < 2 ^ 32) || (size == 8 && value < 2 ^ 64)

/-- Well-formed commands. -/
def wellFormed : Instr → Bool
  | .registerWrite _ _ size value => accessFits size value
  | .semWrite d sem _ => decide (d < 512 ∧ sem < 32)
  | .satCount d value => decide (d < 512) && decide (value < 2 ^ 32)
  | .nanCount d value => decide (d < 512) && decide (value < 2 ^ 32)
  | .rateSampleStale g => decide (g < 128)
  | .sequencerFetch d => decide (d < 512)
  | .trapDrained d => decide (d < 512)
  | .illegal d f => decide (d < 512) && f.iOk
  | .nop d f => decide (d < 512) && f.iOk
  | .endStep d f => decide (d < 512) && f.iOk
  | .qsync d f => decide (d < 512) && f.iOk
  | .csrr d f => decide (d < 512) && f.iOk
  | .tdesc d f => decide (d < 512) && f.iOk
  | .add d f => decide (d < 512) && f.rOk
  | .sub d f => decide (d < 512) && f.rOk
  | .and d f => decide (d < 512) && f.rOk
  | .or d f => decide (d < 512) && f.rOk
  | .xor d f => decide (d < 512) && f.rOk
  | .shl d f => decide (d < 512) && f.rOk
  | .shr d f => decide (d < 512) && f.rOk
  | .sra d f => decide (d < 512) && f.rOk
  | .addi d f => decide (d < 512) && f.iOk
  | .subi d f => decide (d < 512) && f.iOk
  | .andi d f => decide (d < 512) && f.iOk
  | .ori d f => decide (d < 512) && f.iOk
  | .xori d f => decide (d < 512) && f.iOk
  | .shli d f => decide (d < 512) && f.iOk
  | .shri d f => decide (d < 512) && f.iOk
  | .srai d f => decide (d < 512) && f.iOk
  | .mul d f => decide (d < 512) && f.rOk
  | .li d f => decide (d < 512) && f.iOk
  | .lih d f => decide (d < 512) && f.iOk
  | .ld d f => decide (d < 512) && f.iOk
  | .st d f => decide (d < 512) && f.iOk
  | .beq d f => decide (d < 512) && f.iOk
  | .bne d f => decide (d < 512) && f.iOk
  | .blt d f => decide (d < 512) && f.iOk
  | .bge d f => decide (d < 512) && f.iOk
  | .bltu d f => decide (d < 512) && f.iOk
  | .bgeu d f => decide (d < 512) && f.iOk
  | .jal d f => decide (d < 512) && f.iOk
  | .jr d f => decide (d < 512) && f.iOk
  | .bpany d f => decide (d < 512) && f.iOk
  | .bpnone d f => decide (d < 512) && f.iOk
  | .mmul d f _ => decide (d < 512) && f.mOk
  | .mfuse d f => decide (d < 512) && f.rOk
  | .vadd d f => decide (d < 512) && f.rOk
  | .vsub d f => decide (d < 512) && f.rOk
  | .vand d f => decide (d < 512) && f.rOk
  | .vor d f => decide (d < 512) && f.rOk
  | .vxor d f => decide (d < 512) && f.rOk
  | .vshl d f => decide (d < 512) && f.rOk
  | .vshr d f => decide (d < 512) && f.rOk
  | .vsra d f => decide (d < 512) && f.rOk
  | .vmul d f => decide (d < 512) && f.rOk
  | .vmulh d f => decide (d < 512) && f.rOk
  | .vmulq d f => decide (d < 512) && f.rOk
  | .vmac d f => decide (d < 512) && f.rOk
  | .vfadd d f => decide (d < 512) && f.rOk
  | .vfsub d f => decide (d < 512) && f.rOk
  | .vfmul d f => decide (d < 512) && f.rOk
  | .vfmac d f => decide (d < 512) && f.rOk
  | .vmax d f => decide (d < 512) && f.rOk
  | .vmin d f => decide (d < 512) && f.rOk
  | .vcmp d f => decide (d < 512) && f.rOk
  | .vsel d f => decide (d < 512) && f.rOk
  | .vcvt d f => decide (d < 512) && f.rOk
  | .vbcast d f => decide (d < 512) && f.rOk
  | .dset d f => decide (d < 512) && f.rOk
  | .vld d f => decide (d < 512) && f.rOk
  | .vst d f => decide (d < 512) && f.rOk
  | .cset d f => decide (d < 512) && f.rOk
  | .cget d f => decide (d < 512) && f.rOk
  | .vsrch d f => decide (d < 512) && f.rOk
  | .ssinit d f => decide (d < 512) && f.rOk
  | .ssrch d f => decide (d < 512) && f.rOk
  | .ssread d f => decide (d < 512) && f.rOk
  | .ssred d f => decide (d < 512) && f.rOk
  | .vcompact d f => decide (d < 512) && f.rOk
  | .vcflush d f => decide (d < 512) && f.rOk
  | .vscan d f => decide (d < 512) && f.rOk
  | .vhist d f => decide (d < 512) && f.rOk
  | .vhread d f => decide (d < 512) && f.rOk
  | .vhclear d f => decide (d < 512) && f.rOk
  | .tkinit d f => decide (d < 512) && f.rOk
  | .vtopk d f => decide (d < 512) && f.rOk
  | .tkread d f => decide (d < 512) && f.rOk
  | .pand d f => decide (d < 512) && f.rOk
  | .por d f => decide (d < 512) && f.rOk
  | .pxor d f => decide (d < 512) && f.rOk
  | .pnot d f => decide (d < 512) && f.rOk
  | .sinter d f => decide (d < 512) && f.rOk
  | .smerge d f => decide (d < 512) && f.rOk
  | .sdiff d f => decide (d < 512) && f.rOk
  | .sfn d f => decide (d < 512) && f.rOk
  | .scinit d f => decide (d < 512) && f.rOk
  | .smaxsum d f => decide (d < 512) && f.rOk
  | .scmerge d f => decide (d < 512) && f.rOk
  | .screcv d f e => decide (d < 512) && f.rOk && decide (e < 512)
  | .scsend d f => decide (d < 512) && f.rOk
  | .snacc d f => decide (d < 512) && f.rOk
  | .snfin d f => decide (d < 512) && f.rOk
  | .smfin d f => decide (d < 512) && f.rOk
  | .runi d f => decide (d < 512) && f.rOk
  | .runif d f => decide (d < 512) && f.rOk
  | .rbern d f => decide (d < 512) && f.rOk
  | .rnormTab d f => decide (d < 512) && f.rOk && !f.imm.getLsbD 0
  | .rnormBm d f => decide (d < 512) && f.rOk && f.imm.getLsbD 0
  | .rkey d f => decide (d < 512) && f.rOk
  | .rctr d f => decide (d < 512) && f.rOk
  | .rcget d f => decide (d < 512) && f.rOk
  | .sstart d f => decide (d < 512) && f.rOk
  | .tcopy d f => decide (d < 512) && f.rOk
  | .signal d f => decide (d < 512) && f.iOk
  | .wait d f => decide (d < 512) && f.iOk
  | .arrive d f => decide (d < 512) && f.iOk
  | .semwait d f => decide (d < 512) && f.iOk
  | .seminc d f => decide (d < 512) && f.iOk
  | .cqTail q value => decide (q < 16) && decide (value < 2 ^ 32)
  | .cplHead c value => decide (c < 16) && decide (value < 2 ^ 32)
  | .cqCtrl q value => decide (q < 16) && decide (value < 2 ^ 32)
  | .cplCtrl c value => decide (c < 16) && decide (value < 2 ^ 32)
  | .commandFetch => true
  | .loadPlacement _ => true
  | .placementRelease _ => true
  | .startPipeline _ => true
  | .runStep _ => true
  | .stepEnd p => decide (p < 256)
  | .stepWatchdog p => decide (p < 256)
  | .saveContext _ => true
  | .restoreContext _ => true
  | .abort _ => true
  | .functionDrain _ => true
  | .functionDrained _ => true
  | .functionCut _ => true
  | .functionEnable _ => true
  | .katRun _ => true
  | .katKernelDone d kernel _ => decide (d < 512 ∧ kernel < 24)
  | .katSchedule entry => decide (1 ≤ entry ∧ entry ≤ 64)
  | .fence _ => true
  | .fenceComplete _ => true
  | .completionWrite _ => true
  | .streamListFetch d ch => decide (d < 512 ∧ ch < 16)
  | .streamRequestIssue d => decide (d < 512)
  | .gatherLookup stack d ch _ => decide (stack < 8 ∧ d < 512 ∧ ch < 16)
  | .reloadCtrl stack value => decide (stack < 8) && decide (value < 2 ^ 32)
  | .reloadDrained stack => decide (stack < 8)
  | .reloadFilled stack => decide (stack < 8)
  | .packetInject c p => decide (c < 612) && p.packetOk
  | .colForward c port plane vc => decide (c < 612 ∧ (port < 4 ∨ port = 5) ∧ plane < 3 ∧ vc < 4)
  | .read c p => decide (c < 612) && p.packetOk
  | .write c p => decide (c < 612) && p.packetOk
  | .readResp c p => decide (c < 612) && p.packetOk
  | .writeAck c p => decide (c < 612) && p.packetOk
  | .mcastData c p => decide (c < 612) && p.packetOk
  | .trace c p => decide (c < 612) && p.packetOk
  | .semincRequest c p => decide (c < 612) && p.packetOk
  | .semincAck c p => decide (c < 612) && p.packetOk
  | .run c p => decide (c < 612) && p.packetOk
  | .endReport c p => decide (c < 612) && p.packetOk
  | .mcastReady c p => decide (c < 612) && p.packetOk
  | .mcastAck c p => decide (c < 612) && p.packetOk
  | .mcastCancel c p => decide (c < 612) && p.packetOk
  | .ctrlRead c p => decide (c < 612) && p.packetOk
  | .ctrlWrite c p => decide (c < 612) && p.packetOk
  | .ctrlResp c p => decide (c < 612) && p.packetOk
  | .drainReq c p => decide (c < 612) && p.packetOk
  | .interfaceDrained c => decide (c < 612)
  | .drainDone c p => decide (c < 612) && p.packetOk
  | .drainForced c => decide (c < 612)
  | .probeCtrl k value => decide (k < 32) && decide (value < 2 ^ 32)
  | .niClear c value => decide (c < 612) && decide (value < 2 ^ 32)
  | .hbmCommandIssue stack pc _ _ _ => decide (stack < 8 ∧ pc < 32)
  | .hbmRefresh stack pc bank _ => decide (stack < 8 ∧ pc < 32 ∧ bank < 48)
  | .hbmTempRead stack _ => decide (stack < 8)
  | .hbmScrubAccess stack pc _ => decide (stack < 8 ∧ pc < 32)
  | .hbmTrainingDone stack _ => decide (stack < 8)
  | .hbmFillDone stack _ => decide (stack < 8)
  | .hostSnoopTimeout stack _ => decide (stack < 8)
  | .clockUnlocked g => decide (g < 4)
  | .clockLocked g => decide (g < 4)
  | .sectorReset k value => decide (k < 16) && decide (value < 2 ^ 32)
  | .sectorClear k value => decide (k < 16) && decide (value < 2 ^ 32)
  | .bramAccess sector mem port _ _ _ => decide (sector < 16 ∧ mem < 192 ∧ port < 2)
  | .queueAccess sector mem _ _ => decide (sector < 16 ∧ mem < 192)
  | .portBeatOut d queue => decide (d < 512 ∧ queue < 4)
  | .portBeatIn d queue _ _ _ => decide (d < 512 ∧ queue < 4)
  | .portDrainRequest k => decide (k < 16)
  | .portDrained d => decide (d < 512)
  | .portDrainForced d => decide (d < 512)
  | .cfgGo => true
  | .cfgAbandon => true
  | .cfgHeaderReceived _ => true
  | .cfgSignatureVerified _ => true
  | .cfgRegionTableReceived _ => true
  | .cfgFrameReceived _ => true
  | .cfgLastByte => true
  | .cfgCommit => true
  | .cfgDeadline => true
  | .cfgEnumWaitExpired => true
  | .strandStartMark => true
  | .strandGap => true
  | .cfgScrubFrame sector frame word active staged => decide (sector < 16 ∧ frame < 1585 ∧ word < 512 ∧ active < 5 ∧ staged < 3)
  | .flitReceived link _ => decide (link < 20)
  | .rdShared _ sub _ _ => decide (sub < 4)
  | .rdOwn sub _ _ => decide (sub < 4)
  | .rdNc _ sub _ _ => decide (sub < 4)
  | .wrNc _ sub _ _ _ _ _ => decide (sub < 4)
  | .wrBack sub _ _ _ _ => decide (sub < 4)
  | .evict sub _ _ => decide (sub < 4)
  | .mmioRd32 sub _ _ => decide (sub < 4)
  | .mmioRd64 sub _ _ => decide (sub < 4)
  | .mmioWr32 sub _ _ value => decide (sub < 4) && decide (value < 2 ^ 32)
  | .mmioWr64 sub _ _ value => decide (sub < 4) && decide (value < 2 ^ 64)
  | .cfgRd sub _ _ => decide (sub < 4)
  | .cfgWr sub _ _ value => decide (sub < 4) && decide (value < 2 ^ 32)
  | .snpShare _ sub _ _ => decide (sub < 4)
  | .snpInv _ sub _ _ => decide (sub < 4)
  | .go _ sub _ _ _ => decide (sub < 4)
  | .comp _ sub _ _ => decide (sub < 4)
  | .snpRsp sub _ _ _ => decide (sub < 4)
  | .data _ sub _ _ _ => decide (sub < 4)
  | .enumDone _ => true
  | .linkReset => true
  | .linkDown sub => decide (sub < 4)
  | .hostLost => true
  | .laneDetectProbe lane _ => decide (lane < 144)
  | .trainingFrame lane _ _ _ => decide (lane < 144)
  | .exchangeFrame group lane _ _ _ => decide (group < 20 ∧ lane < (if group < 16 then 8 else 4))
  | .alignmentMarker group lane _ _ _ => decide (group < 20 ∧ lane < (if group < 16 then 8 else 4))
  | .markerSend group _ => decide (group < 20)
  | .markerTimeout group => decide (group < 20)
  | .codewordReceived group _ _ => decide (group < 20)
  | .laneLockLost lane => decide (lane < 144)
  | .trainLimitExpired group => decide (group < 20)
  | .trainRetry group => decide (group < 20)
  | .idleEntry group => decide (group < 20)
  | .idleExit group => decide (group < 20)
  | .groupRetrain group => decide (group < 20)
  | .deepRequest group => decide (group < 20)
  | .deepRequestTimeout group => decide (group < 20)
  | .deepWake group => decide (group < 20)
  | .wakeBurst group => decide (group < 20)
  | .laneCtrl lane value => decide (lane < 144) && decide (value < 2 ^ 32)
  | .laneBitslip lane value => decide (lane < 144) && decide (value < 2 ^ 32)
  | .groupClear group value => decide (group < 20) && decide (value < 2 ^ 32)
  | .portEnable value => decide (value < 2 ^ 32)
  | .peerWrite port m => decide (port < 16) && m.peerOk
  | .peerReduce port m => decide (port < 16) && m.peerOk
  | .peerAck port m => decide (port < 16) && m.peerOk
  | .peerCommit port m => decide (port < 16) && m.peerOk
  | .peerRetract port m => decide (port < 16) && m.peerOk
  | .peerSignal port m => decide (port < 16) && m.peerOk
  | .epochExpired port _ _ _ => decide (port < 16)
  | .portDown port => decide (port < 16)
  | .hostEpochCommit => true
  | .hostEpochRetract => true
  | .shadowSig d value _ => decide (d < 512) && decide (value < 2 ^ 32)
  | .eventRecord _ => true
  | .haltLimitExpired d => decide (d < 512)
  | .isolateDale value => decide (value < 2 ^ 32)
  | .recordFlashWrite _ => true
  | .logClear path value _ => decide (path < 2) && decide (value < 2 ^ 32)
  | .logEraseDone => true
  | .odCmdRead _ _ => true
  | .odCmdWrite _ _ _ => true
  | .canRead _ _ _ => true
  | .canWrite _ _ _ _ _ _ => true
  | .canSegment _ _ _ _ => true
  | .canReadMore _ _ => true
  | .canAbort _ => true
  | .canDescribe _ _ _ => true
  | .canTransferTimeout => true
  | .canBusOff => true
  | .authToken path part _ => decide (path < 2 ∧ 1 ≤ part ∧ part ≤ 8)
  | .restoreDefaults path value => decide (path < 2) && decide (value < 2 ^ 32)
  | .arithClear value => decide (value < 2 ^ 32)
  | .arrayStatsClear value => decide (value < 2 ^ 32)
  | .vecStatsClear value => decide (value < 2 ^ 32)
  | .sfuStatsClear value => decide (value < 2 ^ 32)
  | .rngStatsClear value => decide (value < 2 ^ 32)
  | .seqStatsClear value => decide (value < 2 ^ 32)
  | .cmdStatsClear value => decide (value < 2 ^ 32)
  | .streamStatsClear value => decide (value < 2 ^ 32)
  | .gatherStatsClear stack value => decide (stack < 8) && decide (value < 2 ^ 32)
  | .netStatsClear value => decide (value < 2 ^ 32)
  | .hbmStatsClear stack value => decide (stack < 8) && decide (value < 2 ^ 32)
  | .steppeStatsClear value => decide (value < 2 ^ 32)
  | .cfgStatsClear value => decide (value < 2 ^ 32)
  | .heonStatsClear sub value => decide (sub < 4) && decide (value < 2 ^ 32)
  | .laneStatsClear value => decide (value < 2 ^ 32)
  | .peerStatsClear value => decide (value < 2 ^ 32)
  | .integrityStatsClear value => decide (value < 2 ^ 32)
  | .powerStatsClear value => decide (value < 2 ^ 32)
  | .odStatsClear value => decide (value < 2 ^ 32)
  | .secStatsClear value => decide (value < 2 ^ 32)
  | .sensorSample _ _ => true
  | .limiterTick => true
  | .supplyDeviation => true
  | .domainGate n _ _ => decide (n < 199)
  | .domainWake n _ _ => decide (n < 199)
  | .domainWoken n _ => decide (n < 199)
  | .deviceSleepEnter _ => true
  | .deviceSleepWake => true
  | .wakePin => true
  | .orderlyShutdown value => decide (value < 2 ^ 32)
  | .counterPersist _ => true
  | .rulesetCtrl value => decide (value < 2 ^ 32)
  | .rulesetVerified => true
  | .ownerProvision path _ _ => decide (path < 2)
  | .ownerRevoke path _ _ => decide (path < 2)
  | .svnAdvance path value _ => decide (path < 2) && decide (value < 2 ^ 32)
  | .vendorRootKey _ => true
  | .ownerKey k _ => decide (1 ≤ k ∧ k ≤ 4)
  | .attestNonce path _ => decide (path < 2)
  | .attestationSigned path _ => decide (path < 2)
  | .entropyFault _ => true
  | .drawTimeout => true
  | .powerGood => true
  | .pwrGoodFall => true
  | .rstNFall => true
  | .rstNRise => true
  | .coreReset value => decide (value < 2 ^ 32)
  | .flashHold => true
  | .firmwareCheck => true
  | .baseImageCheck => true
  | .reducedReady _ => true
  | .fullReady _ => true
  | .fullReadyLate => true
  | .flashHoldReleased => true
  | .persistenceWaitExpired => true
  | .testAccessPort _ _ => true
  | .healthTestsPass => true

end Sys2Proof
end

