-- ==== Sys2Proof/Safety.lean ====
section
/-! DEFINITION. What a safe run is: commands that complete, a queue of well-formed commands, and memory in canonical form. -/
namespace Sys2Proof.Machine

/-- A command completes in a state: it answers a next state, with neither a fault nor a refusal. -/
def Completes (i : Instr) (s : State) : Prop := ∃ t, exec i s = .next t

/-- Every command that waits is well formed. -/
def QueueOk (s : State) : Prop := s.pending.all wellFormed = true

/-- Memory and its table of check bits are in canonical form: addresses strictly rise, and nothing is listed that an
unlisted address would read as. -/
def MemoryOk (s : State) : Prop := Memory.wf s.mem = true ∧ twf 0 0 s.synd = true

/-- One-time-programmable bits change only from 0 to 1 (R507): between two states of the security engine no PROGRAMMED or
REVOKED bit is lost, no security-version counter falls, and the digest of a programmed owner slot stays. -/
structure OtpUp (a b : Sec) : Prop where
  programmed : ∀ k, a.programmed.testBit k = true → b.programmed.testBit k = true
  revoked    : ∀ k, a.revoked.testBit k = true → b.revoked.testBit k = true
  svn        : ∀ c, tget 0 a.svn c ≤ tget 0 b.svn c
  digest     : ∀ k, a.programmed.testBit k = true → tget [] b.ownerDigest k = tget [] a.ownerDigest k

/-- The table of the security-version counters is in canonical form. -/
def CountersOk (s : State) : Prop := twf 0 0 s.sec.svn = true

/-- What every step keeps. -/
def MachineInv (s : State) : Prop := QueueOk s ∧ MemoryOk s ∧ CountersOk s

/-! ### What statements about instructions say -/

/-- An instruction word may issue on a dale now: the dale may issue and the scoreboard finds no hazard (R170, R178). -/
def Ready (s : State) (d : Nat) (w : W64) : Prop := canIssue s d = true ∧ hazard (dale s d) w [] = false

/-- The issue of one instruction of a dale, and what it leaves: every other dale, every other part of the state, and every
dictionary counter but SEQ_ISSUED (R196), which counts it. -/
structure IssueFrame (s t : State) (d : Nat) : Prop where
  rest  : t = { s with dales := t.dales, od := t.od }
  other : ∀ e, e ≠ d → dale t e = dale s e
  count : odRaw t 0x440001 = (odRaw s 0x440001 + 1) % 2 ^ 64
  od    : ∀ k, k ≠ 0x440001 → odRaw t k = odRaw s k

/-- A dale after one issue that moved PC to `pc` and changed nothing else of it but what `x` holds otherwise. -/
def counted (x : Dale) (pc issued steps : Nat) : Dale := { x with pc := pc, issueNo := issued + 1, stepCount := (steps + 1) % 2 ^ 64 }

/-- A scalar instruction of a dale that writes `v` to `xn` and goes on at `pc`: x0 keeps reading 0 (R174), every other
register and every other part of the dale is as before. -/
structure ScalarOut (s t : State) (d n : Nat) (v : W64) (pc : Nat) : Prop extends IssueFrame s t d where
  dale : dale t d = counted { dale s d with x := (Machine.dale t d).x } pc (Machine.dale s d).issueNo (Machine.dale s d).stepCount
  dest : xget (Machine.dale t d) n = if n % 32 = 0 then 0#64 else v
  keep : ∀ m, m % 32 ≠ n % 32 → xget (Machine.dale t d) m = xget (Machine.dale s d) m

/-- A store instruction of a dale: memory, its check bits and the poison marks of the dale's tile slots may change; the rest
of the dale, every other dale and every other part of the state is as before. -/
structure StoreOut (s t : State) (d : Nat) : Prop where
  rest  : t = { s with dales := t.dales, od := t.od, mem := t.mem, synd := t.synd }
  other : ∀ e, e ≠ d → dale t e = dale s e
  dale  : dale t d = counted { dale s d with t := (Machine.dale t d).t } ((Machine.dale s d).pc + 8) (Machine.dale s d).issueNo
            (Machine.dale s d).stepCount
  count : odRaw t 0x440001 = (odRaw s 0x440001 + 1) % 2 ^ 64
  od    : ∀ k, k ≠ 0x440001 → odRaw t k = odRaw s k

/-- A control instruction of a dale that writes no register and goes on at `pc`. -/
structure ControlOut (s t : State) (d pc : Nat) : Prop extends IssueFrame s t d where
  dale : dale t d = counted (dale s d) pc (dale s d).issueNo (dale s d).stepCount

/-- An instruction of a dale that traps before it issues (R189): the cause, the status and the address are held, the event is
handed to the recorder, SEQ_TRAPS counts, and nothing else changes; PC stays at the instruction. -/
structure Trapped (s t : State) (d cause : Nat) (st : Status) (code : Nat) : Prop where
  rest  : t = { s with dales := t.dales, od := t.od, handed := t.handed }
  other : ∀ e, e ≠ d → dale t e = dale s e
  dale  : dale t d = { dale s d with trap := some ⟨cause, st, (Machine.dale s d).pc, false⟩ }
  event : ∃ e : Event, e.code = code ∧ e.source = pathOf d ∧ t.handed = s.handed ++ [e]
  count : odRaw t 0x440002 = (odRaw s 0x440002 + 1) % 2 ^ 64
  od    : ∀ k, k ≠ 0x440002 → odRaw t k = odRaw s k

/-- The register instructions of class 0x0 in format R: opcode, command, result of the two operands (R186). -/
def scalarRR : List (Nat × (Nat → RInst → Instr) × (W64 → W64 → W64)) :=
  [(0x08, .add, fun a b => a + b), (0x09, .sub, fun a b => a - b), (0x0A, .and, fun a b => a &&& b),
   (0x0B, .or, fun a b => a ||| b), (0x0C, .xor, fun a b => a ^^^ b), (0x0D, .shl, fun a b => a <<< (b.toNat % 64)),
   (0x0E, .shr, fun a b => a >>> (b.toNat % 64)), (0x0F, .sra, fun a b => a.sshiftRight (b.toNat % 64)),
   (0x18, .mul, fun a b => a * b)]

/-- The immediate instructions of class 0x0 in format I: opcode, command, result of xA and the sign-extended IMM (R186). -/
def scalarRI : List (Nat × (Nat → IInst → Instr) × (W64 → W64 → W64)) :=
  [(0x10, .addi, fun a b => a + b), (0x11, .subi, fun a b => a - b), (0x12, .andi, fun a b => a &&& b),
   (0x13, .ori, fun a b => a ||| b), (0x14, .xori, fun a b => a ^^^ b), (0x15, .shli, fun a b => a <<< (b.toNat % 64)),
   (0x16, .shri, fun a b => a >>> (b.toNat % 64)), (0x17, .srai, fun a b => a.sshiftRight (b.toNat % 64)),
   (0x19, .li, fun _ b => b)]

/-- The conditional branches: opcode, command, condition (R186). -/
def branches : List (Nat × (Nat → IInst → Instr) × (Dale → IInst → Prop)) :=
  [(0x28, .beq, fun x f => xget x f.a = xget x f.b), (0x29, .bne, fun x f => xget x f.a ≠ xget x f.b),
   (0x2A, .blt, fun x f => (xget x f.a).toInt < (xget x f.b).toInt),
   (0x2B, .bge, fun x f => (xget x f.b).toInt ≤ (xget x f.a).toInt),
   (0x2C, .bltu, fun x f => (xget x f.a).toNat < (xget x f.b).toNat),
   (0x2D, .bgeu, fun x f => (xget x f.b).toNat ≤ (xget x f.a).toNat),
   (0x30, .bpany, fun x f => pget x f.a ≠ 0#256), (0x31, .bpnone, fun x f => pget x f.a = 0#256)]

/-- The offset a scalar load or store names: xA + IMM, modulo 2^64 (R186). -/
def scalarAddr (s : State) (d : Nat) (f : IInst) : Nat := (xget (dale s d) f.a + f.imm.signExtend 64).toNat

/-- An instruction of the sequencer that changes its own dale alone, to `x` after the issue (R170, R196). -/
structure DaleOut (s t : State) (d : Nat) (x : Dale) : Prop extends IssueFrame s t d where
  dale : dale t d = counted x ((Machine.dale s d).pc + 8) (Machine.dale s d).issueNo (Machine.dale s d).stepCount

/-- The control and status registers of a dale (R184), by number. -/
def csrs (x : Dale) (d : Nat) : List (Nat × Nat) :=
  [(0x000, d), (0x010, x.stepCount), (0x011, x.stallCount),
   (0x012, (if x.mxWest then 1 else 0) + (if x.mxEast then 2 else 0) + 0x100 * x.mxStatus), (0x013, x.imemCorr),
   (0x020, x.dither.tensorId + 2 ^ 32 * x.dither.substream), (0x021, x.dither.base)]

/-- The four words that describe a tile slot of format code `c` (R175), reserved bits as zeros. -/
def slotWords (c : Nat) (t : Slot) : List Nat :=
  [c * 2 ^ 52 + (if t.cls then 2 ^ 51 else 0) + t.rows * 2 ^ 38 + t.rowBytes * 2 ^ 24 + t.base,
   t.scale.toNat * 2 ^ 32 + t.tensorId, t.substream * 2 ^ 48 + t.elemBase, t.rowPitch * 2 ^ 32]

/-- A descriptor that fits its fields and the dale store (R175, R176). -/
structure SlotFits (t : Slot) : Prop where
  rows     : 1 ≤ t.rows ∧ t.rows ≤ 4096
  rowBytes : 4 ≤ t.rowBytes ∧ t.rowBytes ≤ 2048 ∧ t.rowBytes % 4 = 0
  base     : t.base % 64 = 0 ∧ t.base + t.rows * t.rowBytes ≤ 0xC0000
  scale    : t.scale.toNat / 2 ^ 23 % 2 ^ 8 ≠ 0xFF
  place    : t.tensorId < 2 ^ 32 ∧ t.substream < 2 ^ 16 ∧ t.elemBase < 2 ^ 48 ∧ t.rowPitch < 2 ^ 32

/-- The offset TDESC names: xA + IMM, modulo 2^64 (R176). -/
def tdescAddr (s : State) (d : Nat) (f : IInst) : Nat := (xget (dale s d) f.a + f.imm.signExtend 64).toNat

/-! ### Instructions of a queue -/

/-- An instruction of a queue starts (R170, R172): issued now with its queue empty, or taken from the head of its queue. `no`
is its place in the order of issue, `pc` its address, `u` the state in which its unit takes it up. -/
inductive Starts (s : State) (d cls op : Nat) (word : W64) (same : W64 → Prop) : Nat → Nat → State → Prop where
  | now (empty : queueOf (dale s d) cls = []) (ready : Ready s d word) :
      Starts s d cls op word same (dale s d).issueNo (dale s d).pc (issued s d)
  | head (e : QEnt) (rest : List QEnt) (first : queueOf (dale s d) cls = e :: rest) (hc : wclass e.word = cls)
      (ho : wop e.word = op) (fields : same e.word) :
      Starts s d cls op word same e.no e.pc (updDale s d fun x => setQueue x cls rest)

/-- An instruction in format R starts. -/
def StartsR (s : State) (d cls op : Nat) (f : RInst) (pc : Nat) (u : State) : Prop :=
  ∃ no, Starts s d cls op (encR cls op f) (fun w => decR w = f) no pc u

/-- An instruction of the synchronisation queue starts; with ORD set, once the stream instructions before it are done (R181). -/
def StartsSy (s : State) (d op : Nat) (f : IInst) (pc : Nat) (u : State) : Prop :=
  ∃ no, Starts s d 7 op (encI 7 op f) (fun w => decI w = f) no pc u ∧ (f.ord = true → streamsDone (dale s d) no = true)

/-- What a unit's instruction leaves: it changed its own dale and dictionary counters alone. -/
structure UnitFrame (u t : State) (d : Nat) : Prop where
  rest  : t = { u with dales := t.dales, od := t.od }
  other : ∀ e, e ≠ d → dale t e = dale u e

/-- Nothing changed but one dale, which is now `x`. -/
structure OnlyDale (u t : State) (d : Nat) (x : Dale) : Prop where
  rest  : t = { u with dales := t.dales }
  other : ∀ e, e ≠ d → dale t e = dale u e
  dale  : dale t d = x

/-- The dale blocks on a WAIT, ARRIVE or SEMWAIT it has just issued (R173). -/
def blockedOn (s : State) (d op : Nat) (f : IInst) : Dale :=
  { counted (dale s d) ((dale s d).pc + 8) (dale s d).issueNo (dale s d).stepCount with
    blocked := some ⟨(dale s d).pc, encI 7 op f, (dale s d).issueNo, [], false⟩ }

/-! ### Vector instructions -/

/-- The number an element of `w` bits stands for (R105). -/
def elemVal (w : Nat) (signed : Bool) (b : Nat) : Int := if signed = true ∧ 2 ^ (w - 1) ≤ b then (b : Int) - 2 ^ w else b

/-- The ends of the range of an element (R105). -/
def elemMax (w : Nat) (signed : Bool) : Int := if signed then 2 ^ (w - 1) - 1 else 2 ^ w - 1
def elemMin (w : Nat) (signed : Bool) : Int := if signed then -2 ^ (w - 1) else 0

/-- Whether a result saturates (R105). -/
def overflows (w : Nat) (f : RInst) (v : Int) : Bool := f.sat && (decide (elemMax w f.sign < v) || decide (v < elemMin w f.sign))

/-- An exact result as an element: modulo 2^w, or with SAT the nearest end of the range (R105). -/
def narrow (w : Nat) (f : RInst) (v : Int) : Nat :=
  ((if f.sat then max (elemMin w f.sign) (min (elemMax w f.sign) v) else v) % 2 ^ w).toNat

/-- A row of the element-wise vector instructions: opcode, command, the result of element i, and whether it saturates. -/
structure LaneRow where
  op    : Nat
  instr : Nat → RInst → Instr
  value : Dale → RInst → Nat → Nat
  sats : Dale → RInst → Nat → Bool

/-- Element i of vA, vB and vD as the instruction reads it, and as the number it stands for. -/
def elA (x : Dale) (f : RInst) (i : Nat) : Nat := velem f.view (vget x f.a) i
def elB (x : Dale) (f : RInst) (i : Nat) : Nat := velem f.view (vget x f.b) i
def elD (x : Dale) (f : RInst) (i : Nat) : Nat := velem f.view (vget x f.d) i
def valA (x : Dale) (f : RInst) (i : Nat) : Int := elemVal (viewWidth f.view) f.sign (elA x f i)
def valB (x : Dale) (f : RInst) (i : Nat) : Int := elemVal (viewWidth f.view) f.sign (elB x f i)
def valD (x : Dale) (f : RInst) (i : Nat) : Int := elemVal (viewWidth f.view) f.sign (elD x f i)

/-- A row whose result is an exact integer, narrowed. -/
def intRow (op : Nat) (instr : Nat → RInst → Instr) (exact : Dale → RInst → Nat → Int) : LaneRow :=
  ⟨op, instr, fun x f i => narrow (viewWidth f.view) f (exact x f i), fun x f i => overflows (viewWidth f.view) f (exact x f i)⟩

/-- A row that never saturates. -/
def plainRow (op : Nat) (instr : Nat → RInst → Instr) (value : Dale → RInst → Nat → Nat) : LaneRow :=
  ⟨op, instr, value, fun _ _ _ => false⟩

/-- The integer arithmetic of R105 to R107: sums, products, the high half, fixed-point products, multiply-accumulate. -/
def intRows : List LaneRow :=
  [intRow 0x00 .vadd fun x f i => valA x f i + valB x f i, intRow 0x01 .vsub fun x f i => valA x f i - valB x f i,
   intRow 0x08 .vmul fun x f i => valA x f i * valB x f i,
   plainRow 0x09 .vmulh fun x f i => (valA x f i * valB x f i / 2 ^ viewWidth f.view % 2 ^ viewWidth f.view).toNat,
   intRow 0x0A .vmulq fun x f i => valA x f i * valB x f i / 2 ^ (f.imm.toNat % 32),
   ⟨0x0B, .vmac,
    fun x f i => narrow (viewWidth f.view) f (valD x f i +
      elemVal (viewWidth f.view) f.sign (narrow (viewWidth f.view) f (valA x f i * valB x f i))),
    fun x f i => overflows (viewWidth f.view) f (valA x f i * valB x f i) || overflows (viewWidth f.view) f (valD x f i +
      elemVal (viewWidth f.view) f.sign (narrow (viewWidth f.view) f (valA x f i * valB x f i)))⟩]

/-- Logic and shifts (R106): an amount at or above the width gives 0, or the sign fill. -/
def bitRows : List LaneRow :=
  [plainRow 0x02 .vand fun x f i => elA x f i &&& elB x f i, plainRow 0x03 .vor fun x f i => elA x f i ||| elB x f i,
   plainRow 0x04 .vxor fun x f i => elA x f i ^^^ elB x f i,
   plainRow 0x05 .vshl fun x f i => if viewWidth f.view ≤ elB x f i then 0 else elA x f i * 2 ^ elB x f i % 2 ^ viewWidth f.view,
   plainRow 0x06 .vshr fun x f i => if viewWidth f.view ≤ elB x f i then 0 else elA x f i / 2 ^ elB x f i,
   plainRow 0x07 .vsra fun x f i =>
     (elemVal (viewWidth f.view) true (elA x f i) / 2 ^ min (elB x f i) (viewWidth f.view) % 2 ^ viewWidth f.view).toNat,
   plainRow 0x15 .vbcast fun x f _ => (xget x f.s).toNat % 2 ^ viewWidth f.view]

/-- FP32 arithmetic (R107): the product of VFMAC is rounded before the sum. -/
def floatRows : List LaneRow :=
  [plainRow 0x0C .vfadd fun x f i => (fadd (BitVec.ofNat 32 (elA x f i)) (BitVec.ofNat 32 (elB x f i))).toNat,
   plainRow 0x0D .vfsub fun x f i => (fsub (BitVec.ofNat 32 (elA x f i)) (BitVec.ofNat 32 (elB x f i))).toNat,
   plainRow 0x0E .vfmul fun x f i => (fmul (BitVec.ofNat 32 (elA x f i)) (BitVec.ofNat 32 (elB x f i))).toNat,
   plainRow 0x0F .vfmac fun x f i => (fadd (BitVec.ofNat 32 (elD x f i))
     (fmul (BitVec.ofNat 32 (elA x f i)) (BitVec.ofNat 32 (elB x f i)))).toNat]

/-- Whether the first of two elements of the type FMT and SIGN choose is less, and whether one is a NaN (R108). -/
def typedLess (f : RInst) (a b : Nat) : Prop :=
  if f.fmt = 7 then flt (BitVec.ofNat 32 a) (BitVec.ofNat 32 b) = true
  else elemVal (viewWidth f.view) f.sign a < elemVal (viewWidth f.view) f.sign b
def typedNan (f : RInst) (a b : Nat) : Prop := f.fmt = 7 ∧ (isNan32 (BitVec.ofNat 32 a) = true ∨ isNan32 (BitVec.ofNat 32 b) = true)

/-- A saturation or NaN counter of a dale after `n` more (R72, R73), which an isolated dale does not count (R75). -/
def countUp (x : Dale) (old n : Nat) : Nat := if x.isolated then old else holdAdd old n

/-- What an element-wise instruction leaves (R104, R105, R72): `value` where the governing predicate bit is 1, elsewhere the old
element or, with ZERO, 0; the other registers, the rest of the dale and every other counter as before. -/
structure LaneOut (u t : State) (d : Nat) (f : RInst) (value : Nat → Nat) (sat : Nat → Bool) : Prop extends UnitFrame u t d where
  lanes : ∀ i, i < viewCount f.view → velem f.view (vget (Machine.dale t d) f.d) i =
    if (pget (Machine.dale u d) f.pg).getLsbD i then value i else if f.zero then 0 else velem f.view (vget (Machine.dale u d) f.d) i
  keep  : ∀ m, m % 32 ≠ f.d % 32 → vget (Machine.dale t d) m = vget (Machine.dale u d) m
  dale  : Machine.dale t d = { Machine.dale u d with
    v := (Machine.dale t d).v, badBytes := (Machine.dale t d).badBytes, satLast := (Machine.dale t d).satLast,
    satCount := countUp (Machine.dale u d) (Machine.dale u d).satCount
      ((List.range (viewCount f.view)).filter fun i => (pget (Machine.dale u d) f.pg).getLsbD i && sat i).length }
  od    : ∀ k, k ≠ 0x410001 → odRaw t k = odRaw u k

/-- No byte of a vector register of a dale fails parity (R123). -/
def VectorsClean (x : Dale) : Prop := ∀ b ∈ x.badBytes, b.1 ≠ 0

/-- An instruction of a unit that traps while it executes (R189): the cause, the status and its address are held, the event is
handed to the recorder, SEQ_TRAPS counts, and nothing else changes. -/
structure TrapsIn (u t : State) (d cause : Nat) (st : Status) (pc code : Nat) : Prop where
  rest  : t = { u with dales := t.dales, od := t.od, handed := t.handed }
  other : ∀ e, e ≠ d → dale t e = dale u e
  dale  : dale t d = { dale u d with trap := some ⟨cause, st, pc, false⟩ }
  event : ∃ e : Event, e.code = code ∧ e.source = pathOf d ∧ t.handed = u.handed ++ [e]
  count : odRaw t 0x440002 = (odRaw u 0x440002 + 1) % 2 ^ 64
  od    : ∀ k, k ≠ 0x440002 → odRaw t k = odRaw u k

/-- Whether element i of a view participates (R104). -/
def governed (x : Dale) (f : RInst) (view i : Nat) : Prop := i < viewCount view ∧ (pget x f.pg).getLsbD i = true

/-- Equality of two elements of the type FMT and SIGN choose: −0 equals +0, and a NaN equals nothing (R108). -/
def typedEq (f : RInst) (a b : Nat) : Prop := if f.fmt = 7 then feq (BitVec.ofNat 32 a) (BitVec.ofNat 32 b) = true else a = b

/-- The comparisons of VCMP by code: EQ, NE, LT, LE, GT, GE (R108, R186). -/
def cmpHolds (code : Nat) (f : RInst) (a b : Nat) : Prop :=
  match code with
  | 0 => typedEq f a b
  | 1 => ¬ typedEq f a b
  | 2 => typedLess f a b
  | 3 => typedLess f a b ∨ typedEq f a b
  | 4 => typedLess f b a
  | _ => typedLess f b a ∨ typedEq f a b

/-- Order of two elements of a type, and whether an element is a NaN (R108). -/
def tyLess (ty : ElemTy) (view a b : Nat) : Prop :=
  if ty.fp then flt (BitVec.ofNat 32 a) (BitVec.ofNat 32 b) = true else elemVal (viewWidth view) ty.signed a < elemVal (viewWidth view) ty.signed b
def tyNan (ty : ElemTy) (a : Nat) : Prop := ty.fp = true ∧ isNan32 (BitVec.ofNat 32 a) = true

/-- Strictly better in a MAX or MIN search (R109, R110): a NaN is better than every number. -/
def outranks (ty : ElemTy) (view : Nat) (min : Bool) (a b : Nat) : Prop :=
  ¬ tyNan ty b ∧ (tyNan ty a ∨ if min then tyLess ty view a b else tyLess ty view b a)

/-- The value a search keeps of an element (R50), of none (R109), and as a scalar. -/
def Keeps (ty : ElemTy) (a v : Nat) : Prop := (tyNan ty a → v = 0x7FC00000) ∧ (¬ tyNan ty a → v = a)
def noBest (ty : ElemTy) : Nat × Nat := (if ty.fp then 0x7FC00000 else 0, 0xFFFFFFFF)
def searchScalar (ty : ElemTy) (view v : Nat) : W64 :=
  if ty.fp then BitVec.ofNat 64 v else BitVec.ofInt 64 (elemVal (viewWidth view) ty.signed v)

/-- The running best of an element of a search or of none. -/
def bestOf (sr : Search) (i : Nat) : Nat × Nat := (tget none sr.best i).getD (noBest sr.ty)

/-- A dale store whose words are clean and whose slots carry no poison mark. -/
structure StoreClean (s : State) (d : Nat) : Prop where
  words : ∀ a, a < 0xC0000 → synOf s (daleBase d + a) = 0
  slots : ∀ k t, slotOf (dale s d) k = some t → t.poison = 0

/-- The fields of a circular-buffer register (R111), and the store offset of byte i of an access through it (R112). -/
def circBase (c : W64) : Nat := c.toNat % 2 ^ 20
def circLen (c : W64) : Nat := c.toNat / 2 ^ 20 % 2 ^ 20
def circPtr (c : W64) : Nat := c.toNat / 2 ^ 40 % 2 ^ 20
def circAt (c : W64) (i : Nat) : Nat := circBase c + (if circLen c = 0 then circPtr c + i else (circPtr c + i) % circLen c)

/-- The pointer after an access with increment `inc` (R112). -/
def circAfter (c : W64) (inc : Int) : Nat :=
  if circLen c = 0 then ((circPtr c + inc) % 2 ^ 20).toNat
  else if (circLen c : Int) ≤ circPtr c + inc then (circPtr c + inc - circLen c).toNat
  else if circPtr c + inc < 0 then (circPtr c + inc + circLen c).toNat else (circPtr c + inc).toNat

/-- An access of 256 bytes through a register that R113 lets through: the buffer lies in the store, holds the access, and the
increment is in range. -/
structure CircFits (c : W64) (inc : Int) : Prop where
  inside : circBase c + circLen c ≤ 0xC0000
  ptr    : circLen c ≠ 0 → circPtr c < circLen c ∧ 256 ≤ circLen c ∧ -circLen c ≤ inc ∧ inc ≤ circLen c
  linear : circLen c = 0 → circBase c + circPtr c + 256 ≤ 0xC0000

/-- An input slot of a set instruction that is there, whole and unmarked, and its keys of `n` bytes (R114, R177). -/
structure SetSlot (s : State) (d k n : Nat) (t : Slot) (keys : List Nat) : Prop where
  slot   : slotOf (dale s d) k = some t
  fits   : SlotFits t
  filled : t.fill % 2 ^ t.rows = 2 ^ t.rows - 1
  ready  : smWriterPending (dale s d) k = false
  length : keys.length = t.rows * t.rowBytes / n
  keys   : ∀ i, i < keys.length → keys.getD i 0 = leNat (memBytes s (daleBase d + t.base + n * i) n)

/-- The set instructions: opcode, command, and the keys of the output (R114). -/
def setRows : List (Nat × (Nat → RInst → Instr) × (Prop → Prop → Prop)) :=
  [(0x01, .sinter, fun a b => a ∧ b), (0x02, .smerge, fun a b => a ∨ b), (0x03, .sdiff, fun a b => a ∧ ¬ b)]

/-- Rank of top-k pairs (R120): better first, equal values by lower index. -/
def ranksBefore (tk : TopK) (e h : Nat × Nat) : Prop :=
  outranks tk.ty tk.view tk.min e.1 h.1 ∨ ¬ outranks tk.ty tk.view tk.min h.1 e.1 ∧ e.2 < h.2

/-! ### Special functions and random generation -/

/-- The FP32 result of a native function at an argument under a class (R128, R129). -/
def sfOut (fn : Nat) (prop : Bool) (a : W32) : W32 := BitVec.ofNat 32 (sfFinish .fp32 prop (sfNative .fp32 fn (val32 a))).1.bits

/-- The rows of R129 and the exact zeros: slot, argument, FP32 result in propagating class, in clamped class. -/
def sfTable : List (Nat × W32 × Nat × Nat) :=
  [(0, 0xFF800000#32, 0, 0), (1, 0xFF800000#32, 0, 0), (0, 0x7F800000#32, 0x7F800000, 0x7F7FFFFF),
   (1, 0x7F800000#32, 0x7F800000, 0x7F7FFFFF), (0, 0#32, 0x3F800000, 0x3F800000), (0, 0x80000000#32, 0x3F800000, 0x3F800000),
   (2, 0#32, 0xFF800000, 0xFF7FFFFF), (3, 0x80000000#32, 0xFF800000, 0xFF7FFFFF), (2, 0x7F800000#32, 0x7F800000, 0x7F7FFFFF),
   (3, 0x7F800000#32, 0x7F800000, 0x7F7FFFFF), (2, 0xFF800000#32, 0x7FC00000, 0), (3, 0xBF800000#32, 0x7FC00000, 0),
   (4, 0#32, 0x7F800000, 0x7F7FFFFF), (4, 0x80000000#32, 0xFF800000, 0xFF7FFFFF), (4, 0x7F800000#32, 0, 0),
   (4, 0xFF800000#32, 0x80000000, 0x80000000)] ++
  [(5, 0x80000000#32, 0x80000000, 0x80000000), (5, 0x7F800000#32, 0x7F800000, 0x7F7FFFFF), (5, 0xFF800000#32, 0x7FC00000, 0),
   (6, 0#32, 0x7F800000, 0x7F7FFFFF), (6, 0x80000000#32, 0xFF800000, 0xFF7FFFFF), (6, 0x7F800000#32, 0, 0),
   (6, 0xBF800000#32, 0x7FC00000, 0), (7, 0x7F800000#32, 0x3F800000, 0x3F800000), (7, 0xFF800000#32, 0xBF800000, 0xBF800000),
   (13, 0xFF800000#32, 0xBF800000, 0xBF800000), (8, 0xFF800000#32, 0, 0), (8, 0x7F800000#32, 0x3F800000, 0x3F800000),
   (9, 0xFF800000#32, 0x80000000, 0x80000000), (10, 0xFF800000#32, 0x80000000, 0x80000000), (11, 0xFF800000#32, 0x80000000, 0x80000000),
   (9, 0x7F800000#32, 0x7F800000, 0x7F7FFFFF)] ++
  [(12, 0x7F800000#32, 0x7F800000, 0x7F7FFFFF), (12, 0xFF800000#32, 0, 0), (14, 0x7F800000#32, 0x7FC00000, 0),
   (15, 0xFF800000#32, 0x7FC00000, 0), (7, 0x80000000#32, 0x80000000, 0x80000000), (14, 0x80000000#32, 0x80000000, 0x80000000),
   (9, 0x80000000#32, 0x80000000, 0x80000000), (11, 0#32, 0, 0), (15, 0x80000000#32, 0x3F800000, 0x3F800000)]

/-- An instruction that writes one statistic context of its dale and counts once in SFU_INSTRUCTIONS (R138, R150). -/
structure ScOut (u t : State) (d n : Nat) (c : StatCtx) : Prop extends UnitFrame u t d where
  dale  : dale t d = { Machine.dale u d with sc := (Machine.dale t d).sc }
  dest  : scget (Machine.dale t d) n = c
  keep  : ∀ m, m % 8 ≠ n % 8 → scget (Machine.dale t d) m = scget (Machine.dale u d) m
  count : odRaw t 0x481001 = (odRaw u 0x481001 + 1) % 2 ^ 64
  od    : ∀ k, k ≠ 0x481001 → odRaw t k = odRaw u k

/-- The participating FP32 elements of vA in ascending position (R138). -/
def statElems (x : Dale) (f : RInst) : List W32 :=
  ((List.range 64).filter fun i => (pget x f.pg).getLsbD i).map fun i => BitVec.ofNat 32 (velem 0 (vget x f.a) i)

/-- The larger of two FP32 values, the canonical NaN with a NaN (R109). -/
def larger (a b : W32) : W32 := if isNan32 a || isNan32 b then 0x7FC00000#32 else if flt a b then b else a

/-- exp of a difference (R139): a difference of two −∞ is −∞. -/
def expDiff (a b : W32) : W32 := nativeFp 0 (val32 (if a = 0xFF800000#32 ∧ b = 0xFF800000#32 then 0xFF800000#32 else fsub a b))

/-- A uniform of a draw (R152). -/
def uniformAt (w key ctr j : Nat) : Nat := arx10 key ctr / 2 ^ (uniBits w * j) % 2 ^ uniBits w

/-- The key, mode, tensor, substream and base a draw instruction names (R157, R160, R186). -/
def drawStream (f : RInst) : Bool := f.imm.getLsbD 17
def drawTensor (x : Dale) (f : RInst) : Nat := (xget x f.s).toNat % 2 ^ 32
def drawSub (x : Dale) (f : RInst) : Nat := (xget x f.s).toNat / 2 ^ 32 % 2 ^ 16
def drawBase (x : Dale) (f : RInst) : Nat := (xget x f.a).toNat

/-- The counter of the draw that serves element position i, and the uniform of it the element takes (R153, R154). -/
def drawCtr (x : Dale) (f : RInst) (w i : Nat) : Nat :=
  if drawStream f then (x.rng.ctr + i / (128 / uniBits w)) % 2 ^ 128
  else (drawBase x f + i) % 2 ^ 64 / (128 / uniBits w) + 2 ^ 64 * (w + 2 ^ 16 * drawSub x f + 2 ^ 32 * drawTensor x f)
def drawPos (x : Dale) (f : RInst) (w i : Nat) : Nat :=
  (if drawStream f then i else drawBase x f + i) % (128 / uniBits w)

/-- The uniform of element position i (R153, R154); while KEY_SET is clear the key is 0 (R157). -/
def drawn (x : Dale) (f : RInst) (w i : Nat) : Nat :=
  uniformAt w (if x.rng.keySet then x.rng.key else 0) (drawCtr x f w i) (drawPos x f w i)

/-- The draws an instruction of n elements makes (R154, R160, R168). -/
def drawsMade (x : Dale) (f : RInst) (w n : Nat) : Nat :=
  if drawStream f then (n + 128 / uniBits w - 1) / (128 / uniBits w)
  else (drawBase x f + n - 1) / (128 / uniBits w) - drawBase x f / (128 / uniBits w) + 1

/-- What a draw leaves beside its destination: CTR moves by the draws of stream mode, RNG_DRAWS counts them, and while KEY_SET is
clear RNG_UNSEEDED too and event 0x0501 once (R154, R157, R168). -/
structure DrawOut (u t : State) (d : Nat) (f : RInst) (w n : Nat) : Prop where
  rest  : t = { u with dales := t.dales, od := t.od, handed := t.handed }
  other : ∀ e, e ≠ d → dale t e = dale u e
  dale  : dale t d = { Machine.dale u d with
    v := (Machine.dale t d).v, p := (Machine.dale t d).p,
    rng := { (Machine.dale u d).rng with
      ctr := if drawStream f then ((Machine.dale u d).rng.ctr + drawsMade (Machine.dale u d) f w n) % 2 ^ 128 else (Machine.dale u d).rng.ctr,
      reported := (Machine.dale u d).rng.reported || !(Machine.dale u d).rng.keySet } }
  draws : odRaw t 0x430001 = (odRaw u 0x430001 + drawsMade (Machine.dale u d) f w n) % 2 ^ 64
  unseeded : odRaw t 0x430002 = if (Machine.dale u d).rng.keySet then odRaw u 0x430002
    else (odRaw u 0x430002 + drawsMade (Machine.dale u d) f w n) % 2 ^ 64
  od    : ∀ k, k ≠ 0x430001 → k ≠ 0x430002 → odRaw t k = odRaw u k
  event : if (Machine.dale u d).rng.keySet || (Machine.dale u d).rng.reported then t.handed = u.handed
    else ∃ e : Event, e.code = 0x0501 ∧ e.source = pathOf d ∧ t.handed = u.handed ++ [e]

/-! ### Matrix instructions -/

/-- Element i of row r of a slot, as stored and as an operand: a NaN of a clamped tensor enters as +0 (R52). -/
def slotElem (s : State) (d : Nat) (t : Slot) (r i : Nat) : Nat :=
  elemBits t.fmt (memBytes s (daleBase d + t.base + r * t.rowBytes) t.rowBytes) i
def operandElem (s : State) (d : Nat) (t : Slot) (r i : Nat) : Nat :=
  if t.cls = false ∧ fpIsNan (fpDecode t.fmt (slotElem s d t r i)) = true then 0 else slotElem s d t r i

/-- The checksum column's sums beside the active registers of a partition, where it holds any, are those of the tile the
registers hold (R85, R95). -/
def SumsOk (x : Dale) (half : Nat) : Prop :=
  ∀ c, tget none x.sums (sumsKey x half true) = some c → c = formSums c.fmt c.n (activeTile x c.fmt half c.k c.n)

/-- An MMUL without SPLIT, COMP, FUSED or SR whose shape R80 accepts, in a dale whose array holds no fault, and whose operand
rows are filled and unmarked (R177, R188). -/
structure MmulFits (s : State) (d : Nat) (f : MInst) (ta tb td : Slot) : Prop where
  fields  : f.mOk = true
  plain   : f.split = false ∧ f.comp = false ∧ f.fused = false ∧ f.sr = false
  slotA   : slotOf (dale s d) f.ta = some ta
  slotB   : slotOf (dale s d) f.tb = some tb
  slotD   : slotOf (dale s d) f.td = some td
  fits    : SlotFits ta ∧ SlotFits tb ∧ SlotFits td
  shape   : f.k ≤ (tileShape ta.fmt).1 ∧ f.n ≤ (if f.part = 0 then (tileShape ta.fmt).2 else (tileShape ta.fmt).2 / 2) ∧ f.part < 3
  even    : fmtBits ta.fmt = 4 → f.k % 2 = 0
  rows    : f.m ≤ ta.rows ∧ f.k ≤ tb.rows ∧ f.m ≤ td.rows
  bytes   : elemsBytes ta.fmt f.k ≤ ta.rowBytes ∧ elemsBytes tb.fmt f.n ≤ tb.rowBytes ∧ elemsBytes td.fmt f.n ≤ td.rowBytes
  filledA : ta.fill % 2 ^ f.m = 2 ^ f.m - 1 ∧ smWriterPending (dale s d) f.ta = false
  filledB : f.swap = true → tb.fill % 2 ^ f.k = 2 ^ f.k - 1
  filledD : f.acc = true → td.fill % 2 ^ f.m = 2 ^ f.m - 1
  clean   : StoreClean s d
  parity  : (dale s d).badBytes = []
  cells   : (dale s d).par0 = [] ∧ (dale s d).par1 = []
  sums    : SumsOk (dale s d) f.part
  free    : (dale s d).mxWest = false ∧ (dale s d).mxEast = false
  service : s.svc.testBit 0 = false ∨ s.svc.testBit 1 = true

/-- Element (k, n) of the stationary tile an MMUL multiplies with: of its slot with SWAP, else of the active registers (R80). -/
def tileElem (s : State) (d : Nat) (f : MInst) (tb : Slot) (k n : Nat) : Nat :=
  if f.swap then operandElem s d tb k n else activeElem (dale s d) tb.fmt f.part k n

/-- What an MMUL leaves beside the values of its output: the rest of memory, the other dales, its output rows filled and unmarked,
the new tile active, and ARRAY_PASSES counted. -/
structure MmulOut (u t : State) (d : Nat) (f : MInst) (tb td : Slot) : Prop where
  rest  : t = { u with dales := t.dales, od := t.od, mem := t.mem, synd := t.synd }
  other : ∀ e, e ≠ d → dale t e = dale u e
  dale  : ∃ a b c n m k, dale t d = { dale u d with
    t := a, s0 := b, s1 := c, active1 := n, satCount := m, satLast := k,
    sums := (dale t d).sums, halves := decide (f.part ≠ 0), nanCount := (dale t d).nanCount }
  sums  : SumsOk (Machine.dale t d) f.part
  slot  : slotOf (Machine.dale t d) f.td = some { td with fill := 2 ^ td.rows - 1, poison := 0 }
  keep  : ∀ j, j % 16 ≠ f.td % 16 → slotOf (Machine.dale t d) j = slotOf (Machine.dale u d) j
  tile  : f.swap = true → ∀ k n, k < f.k → n < f.n → activeElem (Machine.dale t d) tb.fmt f.part k n = operandElem u d tb k n
  mem   : ∀ a, a < daleBase d + td.base ∨ daleBase d + td.base + f.m * td.rowBytes ≤ a → memGet t a = memGet u a
  count : odRaw t 0x401001 = (odRaw u 0x401001 + 1) % 2 ^ 64
  fails : odRaw u 0x401003 < 2 ^ 64 → odRaw t 0x401003 = odRaw u 0x401003

/-! ### Registers and counters -/

/-- A clear row of the object dictionary, by its command: index `index` with the clear entry, its subindices `subs`, and the power
domain `dom` of the unit that holds the counters. Its unit off, it answers UNAVAILABLE; another value than 1 is refused; 1 sets
exactly its counters to 0 (R476, R480, R482). -/
structure ClearsTo (c : Nat → Instr) (index : Nat) (subs : List Nat) (dom : Option Nat) (s : State) : Prop where
  off   : ∀ n v, dom = some n → domainOn s n = false → exec (c v) s = .next (answer s .formatError 6)
  other : ∀ v, (∀ n, dom = some n → domainOn s n = true) → v ≠ 1 → exec (c v) s = .next (answer s .formatError 3)
  clear : (∀ n, dom = some n → domainOn s n = true) → ∃ t, exec (c 1) s = .next t ∧ t.ans = (.done, 0) ∧
    (∀ k ∈ subs, odRaw t (odKey index k) = 0) ∧
    (∀ key, (∀ k ∈ subs, key ≠ odKey index k) → odRaw t key = odRaw s key) ∧
    t = { s with od := t.od, dales := t.dales, win := t.win, ans := t.ans } ∧
    (index ≠ 0x4100 → index ≠ 0x7820 → t.dales = s.dales) ∧
    (index ≠ 0x5800 → (index < 0x3010 ∨ 0x3018 ≤ index) → t.win = s.win)

/-- The dale-wide clear rows: what a clear of ARITH and of the integrity counters sets in every dale, and a clear of the sector and
HBM counters in the windows (R76, R307, R326, R449). -/
structure ClearsMore (s : State) : Prop where
  arith : ∃ t, exec (.arithClear 1) s = .next t ∧ ∀ d, (dale t d).satCount = 0 ∧ (dale t d).nanCount = 0 ∧
    dale t d = { dale s d with satCount := 0, nanCount := 0 }
  store : ∃ t, exec (.integrityStatsClear 1) s = .next t ∧ ∀ d, dale t d = { dale s d with storeCe := 0, storeUe := 0 }
  sect  : ∃ t, exec (.steppeStatsClear 1) s = .next t ∧ ∀ k, k < 16 →
    winGet t (sectorWin k 0x10) = 0 ∧ winGet t (sectorWin k 0x14) = 0 ∧ winGet t (sectorWin k 0x18) = 0
  hbm   : ∀ k, k < 8 → domainOn s (144 + k) = true → ∃ t, exec (.hbmStatsClear k 1) s = .next t ∧
    ∀ j, j < 32 → winGet t (hbmWin k (0x20 + 8 * j)) = 0 ∧ winGet t (hbmWin k (0x24 + 8 * j)) = 0

/-! ### Commands in flight -/

/-- The command a row names by its tag is in flight, undecided, with an opcode, and is the one command of its place. -/
def Awaits (s : State) (tag op : Nat) (c : Cmd) : Prop := cmdOf s tag [op] = some c ∧ cmdAt s c.seq = some c

/-- A command has an outcome, decided and committed; nothing else of its descriptor changed. -/
def Decided (t : State) (c : Cmd) (o : Outcome) : Prop :=
  ∃ e, cmdAt t c.seq = some e ∧ e.outcome = some o ∧ e.committed = true ∧ e.tag = c.tag ∧ e.queue = c.queue ∧ e.index = c.index ∧
    e.opcode = c.opcode ∧ e.cookie = c.cookie ∧ e.notify = c.notify

/-- A command taken up. -/
def takenUp (s : State) (c : Cmd) : State := updCmd s c.seq fun x => { x with taken := true }

/-- A pipeline command may act: it is not held back (R216, R217) and its pipeline is not disabled (R221). -/
def MayAct (s : State) (c : Cmd) : Prop := cmdReady s c = true ∧ (pipe s c.pipe).disable = none

/-- A decision touches only the command processor and the events handed over. -/
def OnlyCp (s t : State) : Prop := t = { s with cp := t.cp, handed := t.handed }

/-- A ring's write was refused (R201): FORMAT_ERROR, event 0x0709, and no register changes. -/
def RingRefused (s t : State) : Prop :=
  t.ans = (.formatError, 0) ∧ (∃ e : Event, e.code = 0x0709 ∧ t.handed = s.handed ++ [e]) ∧
    t = { s with handed := t.handed, ans := t.ans }

/-- A ring's write put a value into one register and changed no other. -/
def RegisterPut (s t : State) (a v : Nat) : Prop :=
  t.ans = (.done, 0) ∧ winGet t a = v ∧ ∀ b, b ≠ a → winGet t b = winGet s b

/-! ### Streams -/

/-- No block of a dale's channels moves through its ports or waits for one, and no port queue is bound (R332). -/
structure PortsIdle (s : State) (d : Nat) : Prop where
  fronts : ∀ c b, frontBlock s d c = some b → isPort b = false ∧ b.begun = true
  bound  : ∀ q, (tget PortQueue.reset (dale s d).portIn q).bound = none

/-- A dale's channel became `h`; the dale's other channels stay. -/
structure ChannelSet (s t : State) (d c : Nat) (h : Channel) : Prop where
  chan  : chanOf (dale t d) c = h
  keep  : ∀ k, k ≠ c → chanOf (dale t d) k = chanOf (dale s d) k
  other : ∀ e, e ≠ d → dale t e = dale s e

/-- The channel of a dale whose block sends a group and still lacks the READY, or the acknowledgement, of a leaf; and that whose
block receives a group of a sender (R238). -/
def lacksReady (s : State) (d g leaf : Nat) : Option Nat :=
  channelWith (dale s d) fun b => b.kind == 2 && groupOf b == g && !b.ready.contains leaf
def lacksAck (s : State) (d g leaf : Nat) : Option Nat :=
  channelWith (dale s d) fun b => b.kind == 2 && groupOf b == g && !b.acked.contains leaf
def takesGroup (s : State) (d sender g : Nat) : Option Nat :=
  channelWith (dale s d) fun b => b.kind == 3 && senderOf b == sender && groupOf b == g

/-- The words of a block descriptor lie clean in the store at an offset (R231, R432). -/
def DescAt (s : State) (d off : Nat) (ws : List W64) : Prop :=
  ws.length = 4 ∧ ∀ i w, i < 4 → ws[i]? = some w →
    synOf s (daleBase d + off + 8 * i) = 0 ∧ leNat (memBytes s (daleBase d + off + 8 * i) 8) = w.toNat

/-! ### The network -/

/-- No other flit waits at a col on a plane, and no other packet holds an output of another virtual channel there (R272). -/
structure AloneAt (s : State) (c port plane vc : Nat) : Prop where
  inputs : ∀ q ∈ inputPorts, ∀ v, v < 4 → ¬ (q = port ∧ v = vc) → bufOf s (bufKey c q plane v) = []
  held   : ∀ o v, o < 5 → v < 4 → v ≠ vc → tget none s.net.owners (bufKey c o plane v) = none

/-- The buffer towards its unit that a packet comes to. -/
def unitBuf (c : Nat) (p : Packet) : Nat := bufKey c 4 p.plane (vcOf p.typ)

/-- A packet of `n` flits that its unit takes has left the network. -/
def packetTaken (s : State) (c : Nat) (p : Packet) (n : Nat) : State := flitsPop s (unitBuf c p) n

/-- A packet of a type with good parity, come whole to a col that serves its unit as its first flits there (R256, R262, R276). -/
structure Served (s : State) (c : Nat) (p : Packet) (typ n : Nat) : Prop where
  col    : c < 612
  type   : p.typ = typ ∧ typeKnown typ = true
  parity : p.hdrBad = 0 ∧ p.dataBad = 0
  unit   : (ni s c).state = 0
  come   : ∃ fs rest, upToTail (bufOf s (unitBuf c p)) = some (fs, rest) ∧ packetOf fs = some p ∧ fs.length = n ∧
    ∀ f ∈ fs, f.late = none

/-- An interface was handed one packet more than in `u`. -/
def Handed (u t : State) (c : Nat) (p : Packet) : Prop := (ni t c).toInject = (ni u c).toInject ++ [p]

/-- The words of a dale's store from an offset are clean (R301, R432). -/
def CleanWords (s : State) (d off n : Nat) : Prop := ∀ w ∈ wordsOf (daleBase d + off) n, synOf s w = 0

/-- No request of an interface but `r` has its TAG and type (R554). -/
def Outstanding (s : State) (c : Nat) (p : Packet) (types : List Nat) (r : Request) : Prop := requestOf s c p types = some r

/-- No probe counts (R282). -/
def NoProbes (s : State) : Prop := ∀ k, k < 32 → probeOn s k = false

/-- The bytes an answer brings leave every row of a block still short of some (R233). -/
def RowsShort (b : Block) : Prop := b.done = 0 ∧ 0 < b.rows ∧ ∀ r, r < b.rows → rowArrived b r = false

/-! ### The steppe and configuration -/

/-- The front block of a channel leaves by a queue of the dale's port: all its beats are queued, more than one still to be
taken; no other block of the dale's moves through a port, and the bytes in the queue have good parity (R331, R333). -/
structure EndingOut (s : State) (d q c : Nat) (b : Block) : Prop where
  front  : frontBlock s d c = some b
  out    : b.outbound = true ∧ portQueue b = q
  queued : portBytes b ≤ b.next * 32 ∧ 1 < b.waiting
  others : ∀ k e, k ≠ c → frontBlock s d k = some e → isPort e = false
  begun  : ∀ k e, frontBlock s d k = some e → e.begun = true
  bound  : ∀ i, (tget PortQueue.reset (dale s d).portIn i).bound = none
  parity : (dale s d).badBytes.find? (fun e => e.1 == 0x40 + q && e.2.1 == 0) = none
  alone  : isShadow s d = false

/-- A load has begun from a source: nothing of an image is held. -/
structure LoadBegun (s t : State) (src : Nat) : Prop where
  unit  : t.cfg = { s.cfg with st := 2, src := src, header := [], table := [], received := 0, frames := 0, stagedAt := [], hashed := [], devFrame := [],
                               clocks := [], sigSeen := false, relay := src == 0 && strandLeader s, strand := 0 }
  bytes : winGet t (cfgWin 0x20) = 0
  rest  : t = { s with cfg := t.cfg, win := t.win, ans := t.ans }

/-- A load was rejected (R353): the unit waits again, or is idle; the check, its status and the frame that failed show in its
registers; what was staged is as the active configuration; and event 0x0C02 is handed over. -/
structure LoadRejected (s t : State) (check : Nat) (st : Status) (fail : Nat) : Prop where
  shown  : t.cfg.st = if s.cfg.boot then 1 else 0
  status : winGet t (cfgWin 0x18) = statusCode st * 2 ^ 16 + check * 2 ^ 8
  frame  : winGet t (cfgWin 0x28) = fail
  count  : odRaw t 0x591002 = (odRaw s 0x591002 + 1) % 2 ^ 64
  staged : ∀ k, k < 16 → sector t k = { sector s k with staged := (sector s k).plane }
  event  : ∃ e : Event, e.code = 0x0C02 ∧ e.source = srcConfig ∧ t.handed = s.handed ++ [e]
  rest   : t = { s with cfg := t.cfg, win := t.win, od := t.od, sectors := t.sectors, handed := t.handed, ans := t.ans }

/-- The unit loads the golden image (R350). -/
structure GoldenBegun (s t : State) : Prop where
  unit  : t.cfg.st = 2 ∧ t.cfg.src = 2 ∧ t.cfg.boot = false ∧ t.cfg.header = [] ∧ t.cfg.received = 0
  count : odRaw t 0x591003 = (odRaw s 0x591003 + 1) % 2 ^ 64

/-! ### Heonlink -/

/-- An agent has one message more to place than in `u`, and nothing else changed. -/
structure Sent (u t : State) (j : Nat) (m : HeonMsg) : Prop where
  agent : Machine.agent t j = { Machine.agent u j with toHost := (Machine.agent u j).toHost ++ [m] }
  other : ∀ k, k ≠ j → Machine.agent t k = Machine.agent u k
  rest  : t = { u with heon := t.heon }

/-- An invalid message was answered, with event 0x0D06 (R386). -/
structure SentInvalid (u t : State) (j : Nat) (m : HeonMsg) : Prop where
  agent : Machine.agent t j = { Machine.agent u j with toHost := (Machine.agent u j).toHost ++ [m] }
  event : ∃ e : Event, e.code = 0x0D06 ∧ e.source = dieSource (16 + j) ∧ t.handed = u.handed ++ [e]
  rest  : t = { u with heon := t.heon, handed := t.handed }

/-! ### Serial lanes -/

/-- An active group retrains for a cause (R407): its lanes train from stored coefficients, its link is down, and event 0x0E03 is
handed over. -/
structure Retrained (s t : State) (g cause : Nat) : Prop where
  group : (lgroup t g).stage = 2 ∧ (lgroup t g).fast = true ∧ (lgroup t g).cause = cause ∧
    (lgroup t g).retrains = holdAdd (lgroup s g).retrains 1
  lanes : ∀ m ∈ groupLanes g, (sLane t m).stage = 2 ∧ (sLane t m).ready = false
  other : ∀ h, h ≠ g → lgroup t h = lgroup s h
  link  : (agent t (if g < 16 then 4 + g else g - 16)).up = false
  count : odRaw t 0x681003 = (odRaw s 0x681003 + 1) % 2 ^ 64
  event : ∃ e : Event, e.code = 0x0E03 ∧ e.source = dieSource g ∧ t.handed = s.handed ++ [e]

/-! ### Peer links -/

/-- The port by which the answer of a message leaves, and the answer (R418). -/
def ackPort (s : State) (port : Nat) (m : PeerMsg) : Nat :=
  if (relayEntry s m.src).testBit 15 = true ∧ (relayEntry s m.src).testBit 14 = false then relayEntry s m.src % 16 else port
def ackMsg (s : State) (m : PeerMsg) (st : Status) : PeerMsg :=
  { opcode := 0x08, src := peerId s, dst := m.src, rvc := false, poison := false, hopsLeft := 15, pipeline := m.pipeline, epoch := m.epoch,
    bytes := 0, tag := m.tag, arg := statusCode st * 2 ^ 40 + m.tag, payload := [] }

/-- A message was answered with a status; nothing else is sent by a port. -/
structure AckSent (s t : State) (port : Nat) (m : PeerMsg) (st : Status) : Prop where
  out   : (peerPort t (ackPort s port m)).out = (peerPort s (ackPort s port m)).out ++ [ackMsg s m st]
  other : ∀ q, q ≠ ackPort s port m → (peerPort t q).out = (peerPort s q).out

/-- A port that is at work was given one job more, the writes of an epoch it held and holds no longer, each cut where it crosses 256
bytes (R236), with the increments of the epoch's signals after them (R424). -/
structure JobGiven (s t : State) (port : Nat) (e : PeerEpoch) (todo : List (Nat × List Byte × Bool)) : Prop where
  jobs   : (peerPort t port).jobs = (peerPort s port).jobs ++ [⟨(peerPort s port).nextNo,
    todo.flatMap fun w => (splitRange (w.2.1.length + 1) w.1 w.2.1).map fun p => (p.1, p.2, w.2.2), 0, false, signalsOf e.msgs⟩]
  epochs : (peerPort t port).epochs = (peerPort s port).epochs.filter (· != e)
  other  : ∀ q, q ≠ port → (peerPort t q).epochs = (peerPort s q).epochs ∧ (peerPort t q).jobs = (peerPort s q).jobs

/-! ### Management -/

/-- A persistent numeric entry whose write puts its value and nothing else into effect (R478, R480). -/
structure PlainEntry (index sub : Nat) (r : OdRow) : Prop where
  row    : odRow index sub = some r
  write  : r.acc = 1 ∧ r.persist = true ∧ r.typ ≤ 6 ∧ r.least = r.most
  plain  : index ≠ 0x8000 ∧ index ≠ 0x9000 ∧ index ≠ 0x9003 ∧ (index ≠ 0x6800 ∨ sub ≠ 3) ∧ (index ≠ 0x2000 ∨ sub ≠ 1)

/-- A response frame of the device (R487): its identifier and its padded data field. -/
def canFrame (s : State) (bs : List Byte) : List Byte := leBytes 2 (0x280 + canNode s) ++ padFrame bs

/-- An authorised write was refused (R485): AUTH_FAIL, counted, with event 0x1204, and the path's token is discarded. -/
structure AuthRefused (s t : State) (path fault : Nat) : Prop where
  reply : t.ans = (.formatError, odAuthFail)
  count : odRaw t 0x1F0203 = (odRaw s 0x1F0203 + 1) % 2 ^ 64 ∧ odRaw t 0x903001 = (odRaw s 0x903001 + 1) % 2 ^ 64
  token : stagedParts t path = []
  event : ∃ e : Event, e.code = 0x1204 ∧ e.source = srcSaddle ∧ t.handed.getLast? = some e
  fault : fault < 4

/-! ### Security and bring-up -/

/-- No OTP bit changed (R507). -/
def OtpSame (s t : State) : Prop :=
  t.sec.programmed = s.sec.programmed ∧ t.sec.revoked = s.sec.revoked ∧ t.sec.svn = s.sec.svn ∧ t.sec.ownerDigest = s.sec.ownerDigest

/-- A start-up of a kind has begun (R527 step 1, R531): the saddle's domain alone is on, and no service is shown. -/
structure Started (t : State) (kind : Nat) : Prop where
  boot   : t.boot.good = true ∧ t.boot.kind = kind ∧ t.boot.stage = 1 ∧ t.boot.starting = true
  domain : domainOn t 198 = true ∧ ∀ n, n < 198 → domainOn t n = false
  quiet  : t.svc = 0 ∧ t.pipes = []

end Sys2Proof.Machine
end

