-- ==== Sys2Proof/Certificates/Slice0/Obligations.lean ====
section
/-! DEFINITION. The statements about this model, from the numbered rules of the spec. -/
open Sys2Proof Sys2Proof.Machine

/-- A step runs the command at the front of the queue on the state with the queue's rest (spec/95: each row is one step). What it
does on an empty queue is the model's choice (log entries 1, 73 and 75). -/
def Obligations.StepRunsFront : Prop :=
  (∀ (c : Instr) (rest : List Instr) (s : State), s.pending = c :: rest → step s = exec c { s with pending := rest }) ∧
  (∀ s : State, s.pending = [] → ∃ t, step s = .next t ∧ t = linksTick (steppeTick s) ∧ t.pending = [])

/-- Right after reset the machine invariant holds. -/
def Obligations.InvariantAtReset : Prop := MachineInv State.reset

/-- Every step keeps the machine invariant, from every state that has it: the queue stays well formed, memory and its check
bits keep their canonical form, and so do the security-version counters. -/
def Obligations.StepKeepsInvariant : Prop := ∀ s t : State, MachineInv s → step s = .next t → MachineInv t

/-- OTP bits change only from 0 to 1 (R507): whatever command runs, no PROGRAMMED or REVOKED bit is cleared, no
security-version counter falls, and the digest of a programmed owner slot stays. -/
def Obligations.OtpBitsOnlyRise : Prop := ∀ s t : State, MachineInv s → step s = .next t → OtpUp s.sec t.sec

/-- No command's effect touches the queue of waiting commands: only the step takes one from it. -/
def Obligations.ExecLeavesQueue : Prop :=
  ∀ (c : Instr) (s t : State), MemoryOk s → CountersOk s → exec c s = .next t → t.pending = s.pending

/-- ADD, SUB, AND, OR, XOR, SHL, SHR, SRA and MUL (R186): the result and the frame. ADDI, SUBI, ANDI, ORI, XORI, SHLI, SHRI, SRAI, LI and LIH (R186): the result and the frame. -/
def Obligations.ScalarArithmetic : Prop :=
  (∀ (d : Nat) (f : RInst) (s : State), d < 512 → ∀ e ∈ scalarRR, Ready s d (encR 0 e.1 f) →
    ∃ t, exec (e.2.1 d f) s = .next t ∧
      ScalarOut s t d f.d (e.2.2 (xget (dale s d) f.a) (xget (dale s d) f.b)) ((dale s d).pc + 8)) ∧
  (∀ (d : Nat) (f : IInst) (s : State), d < 512 →
    (∀ e ∈ scalarRI, Ready s d (encI 0 e.1 f) →
      ∃ t, exec (e.2.1 d f) s = .next t ∧
        ScalarOut s t d f.d (e.2.2 (xget (dale s d) f.a) (f.imm.signExtend 64)) ((dale s d).pc + 8)) ∧
    (Ready s d (encI 0 0x1A f) →
      ∃ t, exec (.lih d f) s = .next t ∧
        ScalarOut s t d f.d (BitVec.ofNat 64 (f.imm.toNat * 2 ^ 32 + (xget (dale s d) f.d).toNat % 2 ^ 32)) ((dale s d).pc + 8)))

/-- The conditional branches (R186, R194). JAL and JR (R186, R194). -/
def Obligations.BranchesAndJumps : Prop :=
  (∀ (d : Nat) (f : IInst) (s : State), d < 512 → ∀ e ∈ branches, Ready s d (encI 0 e.1 f) →
    (¬ e.2.2 (dale s d) f → ∃ t, exec (e.2.1 d f) s = .next t ∧ ControlOut s t d ((dale s d).pc + 8)) ∧
    (e.2.2 (dale s d) f → ∀ pc : Nat, (pc : Int) = (dale s d).pc + 8 * f.imm.toInt → pc ≤ 0xFFF8 →
      ∃ t, exec (e.2.1 d f) s = .next t ∧ ControlOut s t d pc) ∧
    (e.2.2 (dale s d) f → ((dale s d).pc + 8 * f.imm.toInt < 0 ∨ 0xFFF8 < (dale s d).pc + 8 * f.imm.toInt) →
      ∃ t, exec (e.2.1 d f) s = .next t ∧ Trapped s t d 2 .formatError 0x0602)) ∧
  (∀ (d : Nat) (f : IInst) (s : State), d < 512 →
    (Ready s d (encI 0 0x2E f) → ∀ pc : Nat, (pc : Int) = (dale s d).pc + 8 * f.imm.toInt → pc ≤ 0xFFF8 →
      ∃ t, exec (.jal d f) s = .next t ∧ ScalarOut s t d f.d (BitVec.ofNat 64 ((dale s d).pc + 8)) pc) ∧
    (Ready s d (encI 0 0x2F f) → (xget (dale s d) f.a).toNat % 8 = 0 → (xget (dale s d) f.a).toNat ≤ 0xFFFF →
      ∃ t, exec (.jr d f) s = .next t ∧ ControlOut s t d (xget (dale s d) f.a).toNat) ∧
    (Ready s d (encI 0 0x2F f) → ((xget (dale s d) f.a).toNat % 8 ≠ 0 ∨ 0xFFFF < (xget (dale s d) f.a).toNat) →
      ∃ t, exec (.jr d f) s = .next t ∧ Trapped s t d 2 .formatError 0x0602))

/-- LD and ST (R186, R432, R8, R191 reason 0x09). -/
def Obligations.ScalarLoadsAndStores : Prop :=
  ∀ (d : Nat) (f : IInst) (s : State), d < 512 →
    (Ready s d (encI 0 0x20 f) → scalarAddr s d f % 8 = 0 → scalarAddr s d f < 0xC0000 →
      markedRow (dale s d) (scalarAddr s d f) 8 = none → synOf s (daleBase d + scalarAddr s d f) = 0 →
      ∃ t, exec (.ld d f) s = .next t ∧
        ScalarOut s t d f.d (BitVec.ofNat 64 (leNat (memBytes s (daleBase d + scalarAddr s d f) 8))) ((dale s d).pc + 8)) ∧
    (Ready s d (encI 0 0x21 f) → scalarAddr s d f % 8 = 0 → scalarAddr s d f < 0xC0000 →
      ∃ t, exec (.st d f) s = .next t ∧ StoreOut s t d ∧
        (∀ i, i < 8 → memGet t (daleBase d + scalarAddr s d f + i) = BitVec.ofNat 8 ((xget (dale s d) f.b).toNat / 2 ^ (8 * i))) ∧
        (∀ a, a < daleBase d + scalarAddr s d f ∨ daleBase d + scalarAddr s d f + 8 ≤ a → memGet t a = memGet s a)) ∧
    (Ready s d (encI 0 0x20 f) → scalarAddr s d f % 8 = 0 → 0xC0000 ≤ scalarAddr s d f → scalarAddr s d f < 0x100000 →
      ∃ t, exec (.ld d f) s = .next t ∧ ScalarOut s t d f.d 0#64 ((dale s d).pc + 8)) ∧
    (Ready s d (encI 0 0x21 f) → scalarAddr s d f % 8 = 0 → 0xC0000 ≤ scalarAddr s d f → scalarAddr s d f < 0x100000 →
      ∃ t, exec (.st d f) s = .next t ∧ ControlOut s t d ((dale s d).pc + 8)) ∧
    (Ready s d (encI 0 0x20 f) → (scalarAddr s d f % 8 ≠ 0 ∨ 0x100000 ≤ scalarAddr s d f) →
      ∃ t, exec (.ld d f) s = .next t ∧ Trapped s t d 3 .formatError 0x0603) ∧
    (Ready s d (encI 0 0x21 f) → (scalarAddr s d f % 8 ≠ 0 ∨ 0x100000 ≤ scalarAddr s d f) →
      ∃ t, exec (.st d f) s = .next t ∧ Trapped s t d 3 .formatError 0x0603)

/-- NOP, QSYNC, CSRR and ILLEGAL (R180, R184, R186, R190, R191 reason 0x07). -/
def Obligations.ControlInstructions : Prop :=
  ∀ (d : Nat) (f : IInst) (s : State), d < 512 →
    (Ready s d (encI 0 0x01 f) → ∃ t, exec (.nop d f) s = .next t ∧ ControlOut s t d ((dale s d).pc + 8)) ∧
    (Ready s d (encI 0 0x03 f) → (∀ k, k < 8 → f.imm.getLsbD k = true → queueIdle (dale s d) k = true) →
      ∃ t, exec (.qsync d f) s = .next t ∧ ControlOut s t d ((dale s d).pc + 8)) ∧
    (∀ k, k < 8 → f.imm.getLsbD k = true → queueIdle (dale s d) k = false → exec (.qsync d f) s = .next s) ∧
    (Ready s d (encI 0 0x04 f) → ∀ e ∈ csrs (dale s d) d, f.imm.toNat % 4096 = e.1 →
      ∃ t, exec (.csrr d f) s = .next t ∧ ScalarOut s t d f.d (BitVec.ofNat 64 e.2) ((dale s d).pc + 8)) ∧
    (Ready s d (encI 0 0x04 f) → f.imm.toNat % 4096 ∉ [0x000, 0x010, 0x011, 0x012, 0x013, 0x020, 0x021] →
      ∃ t, exec (.csrr d f) s = .next t ∧ Trapped s t d 3 .formatError 0x0603) ∧
    (canIssue s d = true → ∃ t, exec (.illegal d f) s = .next t ∧ Trapped s t d 2 .formatError 0x0602)

/-- TDESC (R175, R176, R190 cause 0x05). -/
def Obligations.TileSlotDescriptors : Prop :=
  ∀ (d : Nat) (f : IInst) (s : State), d < 512 → Ready s d (encI 0 0x05 f) →
    (∀ (t : Slot) (c : Nat), tdescAddr s d f % 32 = 0 → tdescAddr s d f + 32 ≤ 0xC0000 →
      (∀ i, i < 4 → synOf s (daleBase d + tdescAddr s d f + 8 * i) = 0 ∧
        leNat (memBytes s (daleBase d + tdescAddr s d f + 8 * i) 8) = (slotWords c t).getD i 0) →
      fmtOfCode c = some t.fmt → SlotFits t → t.fill = 2 ^ t.rows - 1 → t.poison = 0 →
      (∀ j u, j < 16 → j ≠ f.d % 16 → slotOf (dale s d) j = some u → slotEnd u ≤ t.base ∨ slotEnd t ≤ u.base) →
      ∃ r, exec (.tdesc d f) s = .next r ∧ DaleOut s r d { dale s d with t := (dale r d).t } ∧
        slotOf (dale r d) f.d = some t ∧ ∀ j, j % 16 ≠ f.d % 16 → slotOf (dale r d) j = slotOf (dale s d) j) ∧
    ((tdescAddr s d f % 32 ≠ 0 ∨ 0xC0000 < tdescAddr s d f + 32) →
      ∃ r, exec (.tdesc d f) s = .next r ∧ Trapped s r d 5 .formatError 0x0605) ∧
    (∀ w : Nat, tdescAddr s d f % 32 = 0 → tdescAddr s d f + 32 ≤ 0xC0000 →
      (∀ i, i < 4 → synOf s (daleBase d + tdescAddr s d f + 8 * i) = 0) →
      leNat (memBytes s (daleBase d + tdescAddr s d f) 8) = w →
      w / 2 ^ 38 % 2 ^ 13 ≠ 0 → (w % 64 ≠ 0 ∨ w / 2 ^ 24 % 4 ≠ 0) →
      ∃ r, exec (.tdesc d f) s = .next r ∧ Trapped s r d 5 .formatError 0x0605)

/-- SEQUENCER_FETCH (R170, R184, R193, R194, R459). Which steps of 256 a gap holds is the model's choice (log entry 56). END and TRAP_DRAINED (R183, R189, R192). -/
def Obligations.FetchAndEndOfStep : Prop :=
  (∀ (d : Nat) (s : State), d < 512 →
    (∀ (f : RInst) (b : Bool), gapHolds s d = false → f.rOk = true → (dale s d).pc ≤ 0xFFF8 → ∀ e ∈ scalarRR, Ready s d (encR 0 e.1 f) →
      tget none (dale s d).imem ((dale s d).pc / 8) = some ⟨encR 0 e.1 f, 0, b⟩ →
      exec (.sequencerFetch d) s = exec (e.2.1 d f) s) ∧
    (∀ (f : IInst) (b : Bool), gapHolds s d = false → f.iOk = true → (dale s d).pc ≤ 0xFFF8 → ∀ e ∈ scalarRI, Ready s d (encI 0 e.1 f) →
      tget none (dale s d).imem ((dale s d).pc / 8) = some ⟨encI 0 e.1 f, 0, b⟩ →
      exec (.sequencerFetch d) s = exec (e.2.1 d f) s) ∧
    (∀ (f : IInst) (b : Bool), gapHolds s d = false → f.iOk = true → (dale s d).pc ≤ 0xFFF8 → Ready s d (encI 0 0x01 f) →
      tget none (dale s d).imem ((dale s d).pc / 8) = some ⟨encI 0 0x01 f, 0, b⟩ →
      ∃ t, exec (.sequencerFetch d) s = .next t ∧ ControlOut s t d ((dale s d).pc + 8)) ∧
    (canIssue s d = true → gapHolds s d = false → (0xFFF8 < (dale s d).pc ∨ tget none (dale s d).imem ((dale s d).pc / 8) = none) →
      ∃ u, Trapped s u d 2 .formatError 0x0602 ∧
        exec (.sequencerFetch d) s = .next (updDale u d fun x => { x with stallCount := (x.stallCount + 1) % 2 ^ 64 })) ∧
    (canIssue s d = true → gapHolds s d = true → ∃ t, exec (.sequencerFetch d) s = .next t ∧ t = { s with dales := t.dales, od := t.od } ∧
      dale t d = { dale s d with stallCount := ((dale s d).stallCount + 1) % 2 ^ 64 } ∧ (∀ e, e ≠ d → dale t e = dale s e) ∧
      ∀ k, odRaw t k = if k = 0x401005 ∧ (dale s d).lockstep = true then (odRaw s k + 1) % 2 ^ 64 else odRaw s k)) ∧
  (∀ (d : Nat) (f : IInst) (s : State), d < 512 →
    (Ready s d (encI 0 0x02 f) → drained s d = true → (dale s d).partner = none →
      ∃ t, exec (.endStep d f) s = .next t ∧ t = { s with dales := t.dales, od := t.od, net := t.net } ∧
        dale t d = counted { dale s d with report := some (partStatus (dale s d)), running := false, runPkt := none } ((dale s d).pc + 8)
          (dale s d).issueNo (dale s d).stepCount ∧
        (∀ e, e ≠ d → dale t e = dale s e) ∧
        (∀ r, (dale s d).runPkt = some r → (ni t (daleCol d)).toInject = (ni s (daleCol d)).toInject ++
          [answerPacket r (daleCol d) tyEndReport (statusCode (partStatus (dale s d))) false []]) ∧
        ((dale s d).runPkt = none → t.net = s.net)) ∧
    (drained s d = false → exec (.endStep d f) s = .next s) ∧
    (∀ r : Trap, (dale s d).trap = some r → r.reported = false → drained s d = true →
      (((dale s d).stopped = true ∨ (dale s d).runPkt = none) →
        ∃ t, exec (.trapDrained d) s = .next t ∧ t = { s with dales := t.dales } ∧ (∀ e, e ≠ d → dale t e = dale s e) ∧
          dale t d = { dale s d with trap := some { r with reported := true }, report := some r.status, running := false }) ∧
      (∀ p, (dale s d).stopped = false → (dale s d).runPkt = some p →
        ∃ t, exec (.trapDrained d) s = .next t ∧ t = { s with dales := t.dales, net := t.net } ∧ (∀ e, e ≠ d → dale t e = dale s e) ∧
          dale t d = { dale s d with trap := some { r with reported := true }, report := some r.status, running := false, runPkt := none } ∧
          (ni t (daleCol d)).toInject = (ni s (daleCol d)).toInject ++
            [answerPacket p (daleCol d) tyEndReport (statusCode r.status) false []])))

/-- Encoding and decoding agree in formats R, I and M (R185), in both directions. -/
def Obligations.EncodingRoundTrip : Prop :=
  (∀ cls op : Nat, cls < 16 → op < 256 →
    (∀ f : RInst, f.rOk = true → wclass (encR cls op f) = cls ∧ wop (encR cls op f) = op ∧ decR (encR cls op f) = f) ∧
    (∀ f : IInst, f.iOk = true → wclass (encI cls op f) = cls ∧ wop (encI cls op f) = op ∧ decI (encI cls op f) = f) ∧
    (∀ f : MInst, f.mOk = true → wclass (encM cls op f) = cls ∧ wop (encM cls op f) = op ∧ decM (encM cls op f) = f)) ∧
  (∀ w : W64, encR (wclass w) (wop w) (decR w) = w) ∧
  (∀ w : W64, w.getLsbD 32 = false → encI (wclass w) (wop w) (decI w) = w) ∧
  (∀ w : W64, w.toNat % 128 = 0 → encM (wclass w) (wop w) (decM w) = w)

/-- Semaphores (R44, R45, R191 reason 0x08). SIGNAL and WAIT (R38, R39, R191 reason 0x08). -/
def Obligations.SemaphoresAndLines : Prop :=
  (∀ (d : Nat) (s : State), d < 512 →
    (∀ sem : Nat, sem < 32 → (ni s (daleCol d)).state = 0 → exec (.semWrite d sem 0) s = .next (answer s .done 0)) ∧
    (∀ sem amount : Nat, sem < 32 → 0 < amount → amount < 2 ^ 32 → (ni s (daleCol d)).state = 0 →
      (∀ e, (dale s d).blocked = some e → wop e.word ≠ 2 ∧ wop e.word ≠ 4) → (dale s d).isPartner = false →
      ∃ t, exec (.semWrite d sem amount) s = .next t ∧ t.ans = (.done, 0) ∧
        dale t d = setSem (dale s d) sem (min (semOf (dale s d) sem + amount) 0xFFFFFFFF) ∧
        (∀ e, e ≠ d → dale t e = dale s e) ∧ t = { s with dales := t.dales, handed := t.handed, ans := t.ans } ∧
        (semOf (dale s d) sem + amount ≤ 0xFFFFFFFF → t.handed = s.handed) ∧
        (0xFFFFFFFF < semOf (dale s d) sem + amount → ∃ e : Event, e.code = 0x0104 ∧ t.handed = s.handed ++ [e])) ∧
    (∀ (sem amount : Nat) (e : QEnt), sem < 32 → 0 < amount → amount < 2 ^ 32 → (ni s (daleCol d)).state = 0 → (dale s d).blocked = some e →
      wop e.word = 4 → semNo (decI e.word) = sem → semN (decI e.word) ≤ semOf (dale s d) sem + amount →
      semOf (dale s d) sem + amount ≤ 0xFFFFFFFF → (dale s d).partner = none → (dale s d).isPartner = false →
      ∃ t, exec (.semWrite d sem amount) s = .next t ∧ (dale t d).blocked = none ∧
        semOf (dale t d) sem = semOf (dale s d) sem + amount - semN (decI e.word) ∧ (dale t d).waits = (dale s d).waits + 1) ∧
    (∀ (f : IInst) (pc : Nat) (u : State), StartsSy s d 5 f pc u → f.imm.getLsbD 5 = true → isShadow s d = false →
      (∀ e, (dale s d).blocked = some e → wop e.word ≠ 2 ∧ wop e.word ≠ 4) → (dale s d).isPartner = false →
      0 < (xget (dale s d) f.b).toNat % 2 ^ 32 →
      semOf (dale s d) (semNo f) + (xget (dale s d) f.b).toNat % 2 ^ 32 ≤ 0xFFFFFFFF →
      ∃ t, exec (.seminc d f) s = .next t ∧ UnitFrame u t d ∧
        dale t d = setSem (dale u d) (semNo f) (semOf (dale s d) (semNo f) + (xget (dale s d) f.b).toNat % 2 ^ 32)) ∧
    (∀ f : IInst, queueOf (dale s d) 7 = [] → Ready s d (encI 7 5 f) → f.imm.getLsbD 5 = false →
      511 < (xget (dale s d) f.a).toNat % 65536 →
      ∃ t, exec (.seminc d f) s = .next t ∧ Trapped s t d 3 .formatError 0x0603) ∧
    (∀ f : IInst, f.iOk = true → Ready s d (encI 7 4 f) → (dale s d).partner = none → (dale s d).isPartner = false →
      (semN f ≤ semOf (dale s d) (semNo f) → ∃ t, exec (.semwait d f) s = .next t ∧ IssueFrame s t d ∧
        dale t d = { setSem (blockedOn s d 4 f) (semNo f) (semOf (dale s d) (semNo f) - semN f) with
          blocked := none, waits := (dale s d).waits + 1 }) ∧
      (semOf (dale s d) (semNo f) < semN f → ∃ t, exec (.semwait d f) s = .next t ∧ IssueFrame s t d ∧ dale t d = blockedOn s d 4 f))) ∧
  (∀ (d n : Nat) (f : IInst) (s : State), d < 512 →
    (∀ (pc : Nat) (u : State), StartsSy s d 1 f pc u → lineNo f < 2 → neighbour d (lineDir f) = some n → daleGone s n = none →
      isShadow s d = false →
      (inboundOf (dale s n) (lineKey (lineDir f + 2) (lineNo f + 2)) < 15 → (dale s n).blocked = none →
        ∃ t, exec (.signal d f) s = .next t ∧
          OnlyDale u t n (setInbound (dale s n) (lineKey (lineDir f + 2) (lineNo f + 2))
            (inboundOf (dale s n) (lineKey (lineDir f + 2) (lineNo f + 2)) + 1))) ∧
      (inboundOf (dale s n) (lineKey (lineDir f + 2) (lineNo f + 2)) = 15 → exec (.signal d f) s = .next s) ∧
      (∀ e, inboundOf (dale s n) (lineKey (lineDir f + 2) (lineNo f + 2)) = 0 → (dale s n).blocked = some e → wop e.word = 2 →
        lineKey (lineDir (decI e.word)) (lineNo (decI e.word)) = lineKey (lineDir f + 2) (lineNo f + 2) →
        (dale s n).partner = none → (dale s n).isPartner = false →
        ∃ t, exec (.signal d f) s = .next t ∧ (dale t n).blocked = none ∧ (dale t n).waits = (dale s n).waits + 1 ∧
          inboundOf (dale t n) (lineKey (lineDir f + 2) (lineNo f + 2)) = 0)) ∧
    (queueOf (dale s d) 7 = [] → Ready s d (encI 7 1 f) → 2 ≤ lineNo f →
      ∃ t, exec (.signal d f) s = .next t ∧ Trapped s t d 3 .formatError 0x0603) ∧
    (queueOf (dale s d) 7 = [] → Ready s d (encI 7 1 f) → lineNo f < 2 → neighbour d (lineDir f) = none →
      ∃ t, exec (.signal d f) s = .next t ∧ Trapped s t d 6 .formatError 0x0101) ∧
    (Ready s d (encI 7 2 f) → lineNo f < 2 → ∃ t, exec (.wait d f) s = .next t ∧ Trapped s t d 3 .formatError 0x0603) ∧
    (f.iOk = true → Ready s d (encI 7 2 f) → 2 ≤ lineNo f → neighbour d (lineDir f) = some n → daleGone s n = none →
      (dale s d).partner = none → (dale s d).isPartner = false →
      (0 < inboundOf (dale s d) (lineKey (lineDir f) (lineNo f)) → ∃ t, exec (.wait d f) s = .next t ∧ IssueFrame s t d ∧
        dale t d = { setInbound (blockedOn s d 2 f) (lineKey (lineDir f) (lineNo f))
            (inboundOf (dale s d) (lineKey (lineDir f) (lineNo f)) - 1) with blocked := none, waits := (dale s d).waits + 1 }) ∧
      (inboundOf (dale s d) (lineKey (lineDir f) (lineNo f)) = 0 →
        ∃ t, exec (.wait d f) s = .next t ∧ IssueFrame s t d ∧ dale t d = blockedOn s d 2 f)))

/-- ARRIVE (R41 to R43, R191 reason 0x08). -/
def Obligations.Barriers : Prop :=
  ∀ (d : Nat) (f : IInst) (s : State), d < 512 → f.iOk = true → Ready s d (encI 7 3 f) →
    ((arriveLevel f = 0 ∨ 5 < arriveLevel f) → ∃ t, exec (.arrive d f) s = .next t ∧ Trapped s t d 3 .formatError 0x0603) ∧
    (∀ key, 1 ≤ arriveLevel f → arriveLevel f ≤ 5 → key = barrierKey (arriveLevel f) d (arriveChan f) → isShadow s d = false →
      d ∉ (barrierOf s key).arrived →
      (∀ e, e ∈ participants' s key → e ≠ d → e ∉ (barrierOf s key).arrived →
        ∃ t, exec (.arrive d f) s = .next t ∧ dale t d = blockedOn s d 3 f ∧ (∀ c, c ≠ d → dale t c = dale s c) ∧
          barrierOf t key = { barrierOf s key with arrived := (barrierOf s key).arrived ++ [d] }) ∧
      ((∀ e, e ∈ participants' s key → e = d ∨ e ∈ (barrierOf s key).arrived) → d ∈ participants' s key →
        (barrierOf s key).removed = [] → (barrierOf s key).second = [] → (dale s d).partner = none →
        (∀ e, e ∈ (barrierOf s key).arrived → (dale s e).partner = none ∧
          ∃ q, (dale s e).blocked = some q ∧ wop q.word = 3 ∧ barrierKey (arriveLevel (decI q.word)) e (arriveChan (decI q.word)) = key) →
        ∃ t, exec (.arrive d f) s = .next t ∧ (dale t d).blocked = none ∧ (f.d % 8 ≠ 0 → pget (dale t d) f.d = 0#256) ∧
          (∀ e q, e ∈ (barrierOf s key).arrived → (dale s e).blocked = some q →
            (dale t e).blocked = none ∧ ((decI q.word).d % 8 ≠ 0 → pget (dale t e) (decI q.word).d = 0#256)) ∧
          (barrierOf t key).arrived = []))

/-- The integer arithmetic of the vector unit (R103 to R107, R72). -/
def Obligations.VectorIntegerArithmetic : Prop :=
  ∀ (d : Nat) (f : RInst) (s u : State) (pc : Nat), d < 512 → f.view < 3 → VectorsClean (dale s d) → (dale s d).satCount ≤ 0xFFFFFFFF →
    ∀ r ∈ intRows, (r.op = 0x0A → f.imm.toNat % 32 < viewWidth f.view) → StartsR s d 2 r.op f pc u →
      ∃ t, exec (r.instr d f) s = .next t ∧ LaneOut u t d f (r.value (dale u d) f) (r.sats (dale u d) f)

/-- Logic, shifts and broadcast of the vector unit (R104, R106, R186). -/
def Obligations.VectorLogicAndShifts : Prop :=
  ∀ (d : Nat) (f : RInst) (s u : State) (pc : Nat), d < 512 → f.view < 3 → VectorsClean (dale s d) → (dale s d).satCount ≤ 0xFFFFFFFF →
    ∀ r ∈ bitRows, StartsR s d 2 r.op f pc u →
      ∃ t, exec (r.instr d f) s = .next t ∧ LaneOut u t d f (r.value (dale u d) f) (r.sats (dale u d) f)

/-- FP32 arithmetic of the vector unit (R103, R107, R191 reason 0x09). VMAX and VMIN (R108). -/
def Obligations.VectorFloat : Prop :=
  (∀ (d : Nat) (f : RInst) (s u : State) (pc : Nat), d < 512 → ∀ r ∈ floatRows,
    (f.view = 0 → VectorsClean (dale s d) → (dale s d).satCount ≤ 0xFFFFFFFF → StartsR s d 2 r.op f pc u →
      ∃ t, exec (r.instr d f) s = .next t ∧ LaneOut u t d f (r.value (dale u d) f) (r.sats (dale u d) f)) ∧
    (f.view = 1 ∨ f.view = 2 → queueOf (dale s d) 2 = [] → Ready s d (encR 2 r.op f) →
      ∃ t, exec (r.instr d f) s = .next t ∧ Trapped s t d 3 .formatError 0x0603)) ∧
  (∀ (d : Nat) (f : RInst) (s u : State) (pc : Nat), d < 512 → f.view < 3 → f.fmt < 10 → (f.fmt = 7 → f.view = 0) →
    VectorsClean (dale s d) → (dale s d).satCount ≤ 0xFFFFFFFF →
    (StartsR s d 2 0x10 f pc u → ∃ (t : State) (value : Nat → Nat), exec (.vmax d f) s = .next t ∧ LaneOut u t d f value (fun _ => false) ∧
      ∀ i, (typedNan f (elA (dale u d) f i) (elB (dale u d) f i) → value i = 0x7FC00000) ∧
        (¬ typedNan f (elA (dale u d) f i) (elB (dale u d) f i) →
          (typedLess f (elA (dale u d) f i) (elB (dale u d) f i) → value i = elB (dale u d) f i) ∧
          (¬ typedLess f (elA (dale u d) f i) (elB (dale u d) f i) → value i = elA (dale u d) f i))) ∧
    (StartsR s d 2 0x11 f pc u → ∃ (t : State) (value : Nat → Nat), exec (.vmin d f) s = .next t ∧ LaneOut u t d f value (fun _ => false) ∧
      ∀ i, (typedNan f (elA (dale u d) f i) (elB (dale u d) f i) → value i = 0x7FC00000) ∧
        (¬ typedNan f (elA (dale u d) f i) (elB (dale u d) f i) →
          (typedLess f (elB (dale u d) f i) (elA (dale u d) f i) → value i = elB (dale u d) f i) ∧
          (¬ typedLess f (elB (dale u d) f i) (elA (dale u d) f i) → value i = elA (dale u d) f i))))

/-- Compares, selects, predicate logic and the dither context (R104, R108, R165, R186). -/
def Obligations.ComparesAndPredicates : Prop :=
  ∀ (d : Nat) (f : RInst) (s u : State) (pc : Nat), d < 512 → VectorsClean (dale s d) →
    (f.view < 3 → f.fmt < 10 → (f.fmt = 7 → f.view = 0) → f.imm.toNat % 8 < 6 → f.d % 8 ≠ 0 → StartsR s d 2 0x12 f pc u →
      ∃ t, exec (.vcmp d f) s = .next t ∧ OnlyDale u t d { dale u d with p := (dale t d).p } ∧
        (∀ m, m % 8 ≠ f.d % 8 → pget (dale t d) m = pget (dale u d) m) ∧
        (∀ i, governed (dale u d) f f.view i → ((pget (dale t d) f.d).getLsbD i = true ↔
          cmpHolds (f.imm.toNat % 8) f (elA (dale u d) f i) (elB (dale u d) f i))) ∧
        (∀ i, i < viewCount f.view → ¬ governed (dale u d) f f.view i → (pget (dale t d) f.d).getLsbD i =
          (!f.zero && (pget (dale u d) f.d).getLsbD i))) ∧
    (f.view < 3 → f.fmt < 10 → (f.fmt = 7 → f.view = 0) → f.imm.toNat % 8 < 6 → f.d % 8 = 0 → StartsR s d 2 0x12 f pc u →
      ∃ t, exec (.vcmp d f) s = .next t ∧ OnlyDale u t d (dale u d)) ∧
    (f.view < 3 → StartsR s d 2 0x13 f pc u →
      ∃ t, exec (.vsel d f) s = .next t ∧ OnlyDale u t d { dale u d with v := (dale t d).v, badBytes := (dale t d).badBytes } ∧
        (∀ m, m % 32 ≠ f.d % 32 → vget (dale t d) m = vget (dale u d) m) ∧
        (∀ i, governed (dale u d) f f.view i → elD (dale t d) f i = elA (dale u d) f i) ∧
        (∀ i, i < viewCount f.view → ¬ governed (dale u d) f f.view i → elD (dale t d) f i = elB (dale u d) f i)) ∧
    (∀ r ∈ ([(0x30, .pand, fun a b => a &&& b), (0x31, .por, fun a b => a ||| b), (0x32, .pxor, fun a b => a ^^^ b),
        (0x33, .pnot, fun a _ => ~~~ a)] : List (Nat × (Nat → RInst → Instr) × (PReg → PReg → PReg))), StartsR s d 2 r.1 f pc u →
      ∃ t, exec (r.2.1 d f) s = .next t ∧ OnlyDale u t d { dale u d with p := (dale t d).p } ∧
        pget (dale t d) f.d = (if f.d % 8 = 0 then BitVec.allOnes 256 else r.2.2 (pget (dale u d) f.a) (pget (dale u d) f.b)) ∧
        (∀ m, m % 8 ≠ f.d % 8 → pget (dale t d) m = pget (dale u d) m)) ∧
    (StartsR s d 2 0x16 f pc u →
      ∃ t, exec (.dset d f) s = .next t ∧ OnlyDale u t d { dale u d with
        dither := ⟨(xget (dale u d) f.s).toNat % 2 ^ 32, (xget (dale u d) f.s).toNat / 2 ^ 32 % 2 ^ 16, (xget (dale u d) f.a).toNat⟩ })

/-- VCVT (R53 to R56, R108, R165). -/
def Obligations.VectorConversions : Prop :=
  ∀ (d : Nat) (f : RInst) (s u : State) (pc : Nat) (a b : Fmt), d < 512 → f.view < 3 →
    fmtOfCode (f.imm.toNat % 16) = some a → fmtOfCode f.fmt = some b →
    (fmtBits a ≤ viewWidth f.view → fmtBits b ≤ viewWidth f.view → (dale s d).badBytes = [] → StartsR s d 2 0x14 f pc u →
      (f.sr = true → a = .fp32) →
      ∃ (t : State) (dither : Nat → Option Nat), exec (.vcvt d f) s = .next t ∧
        (∀ i, dither i = if f.sr = true ∧ ditherTarget b = true then
            some (ditherByte (dale u d) (dale u d).dither.tensorId (dale u d).dither.substream ((dale u d).dither.base + i)) else none) ∧
        (∀ e, e ≠ d → dale t e = dale u e) ∧ t.mem = u.mem ∧
        (∀ i, i < viewCount f.view → elD (dale t d) f i =
          if (pget (dale u d) f.pg).getLsbD i then (convTo b f.tc (dither i) (fpDecode a (elA (dale u d) f i % 2 ^ fmtBits a))).bits
          else if f.zero then 0 else elD (dale u d) f i) ∧
        (∀ m, m % 32 ≠ f.d % 32 → vget (dale t d) m = vget (dale u d) m) ∧
        ((dale u d).satCount ≤ 0xFFFFFFFF → (dale t d).satCount = countUp (dale u d) (dale u d).satCount
          ((List.range (viewCount f.view)).filter fun i => (pget (dale u d) f.pg).getLsbD i &&
            (convTo b f.tc (dither i) (fpDecode a (elA (dale u d) f i % 2 ^ fmtBits a))).sat).length) ∧
        ((dale u d).nanCount ≤ 0xFFFFFFFF → (dale t d).nanCount = countUp (dale u d) (dale u d).nanCount
          ((List.range (viewCount f.view)).filter fun i => (pget (dale u d) f.pg).getLsbD i &&
            (convTo b f.tc (dither i) (fpDecode a (elA (dale u d) f i % 2 ^ fmtBits a))).nan).length)) ∧
    ((viewWidth f.view < fmtBits a ∨ viewWidth f.view < fmtBits b ∨ (f.sr = true ∧ a ≠ .fp32)) →
      queueOf (dale s d) 2 = [] → Ready s d (encR 2 0x14 f) →
      ∃ t, exec (.vcvt d f) s = .next t ∧ Trapped s t d 3 .formatError 0x0603) ∧
    (∀ v : Nat, v < 0x7F7F0000 → (convTo .bf16 f.tc none (fpDecode .fp32 v)).bits = (v + 0x7FFF + v / 2 ^ 16 % 2) / 2 ^ 16)

/-- Circular buffers (R104, R111 to R113). -/
def Obligations.CircularBuffers : Prop :=
  ∀ (d : Nat) (f : RInst) (s u : State) (pc : Nat), d < 512 →
    (StartsR s d 2 0x1B f pc u → ∃ t, exec (.cget d f) s = .next t ∧ OnlyDale u t d { dale u d with x := (dale t d).x } ∧
      xget (dale t d) f.d = (if f.d % 32 = 0 then 0#64 else cget (dale u d) f.a) ∧
      ∀ m, m % 32 ≠ f.d % 32 → xget (dale t d) m = xget (dale u d) m) ∧
    (∀ c, c = xget (dale u d) f.s → StartsR s d 2 0x1A f pc u →
      ((circBase c % 4 = 0 ∧ circLen c % 4 = 0 ∧ circBase c + circLen c ≤ 0xC0000 ∧ (circLen c ≠ 0 → circPtr c < circLen c)) →
        ∃ t, exec (.cset d f) s = .next t ∧ OnlyDale u t d { dale u d with c := (dale t d).c } ∧
          (cget (dale t d) f.d).toNat = c.toNat % 2 ^ 60 ∧ ∀ m, m % 8 ≠ f.d % 8 → cget (dale t d) m = cget (dale u d) m) ∧
      ((circBase c % 4 ≠ 0 ∨ circLen c % 4 ≠ 0 ∨ 0xC0000 < circBase c + circLen c ∨ (circLen c ≠ 0 ∧ circLen c ≤ circPtr c)) →
        (dale s d).trap = none → ∃ t, exec (.cset d f) s = .next t ∧ TrapsIn u t d causeCircular .formatError pc 0x0302)) ∧
    (∀ c, c = cget (dale u d) f.a → f.view < 3 → (dale s d).badBytes = [] → StoreClean s d → CircFits c f.imm.toInt →
      (StartsR s d 2 0x18 f pc u →
        ∃ t, exec (.vld d f) s = .next t ∧ OnlyDale u t d { dale u d with v := (dale t d).v, c := (dale t d).c } ∧
          (∀ i, i < viewCount f.view → elD (dale t d) f i =
            if (pget (dale u d) f.pg).getLsbD i then
              leNat ((List.range (viewWidth f.view / 8)).map fun k => memGet u (daleBase d + circAt c (viewWidth f.view / 8 * i + k)))
            else if f.zero then 0 else elD (dale u d) f i) ∧
          (∀ m, m % 32 ≠ f.d % 32 → vget (dale t d) m = vget (dale u d) m) ∧
          circPtr (cget (dale t d) f.a) = circAfter c f.imm.toInt ∧ circLen (cget (dale t d) f.a) = circLen c ∧
          circBase (cget (dale t d) f.a) = circBase c ∧ ∀ m, m % 8 ≠ f.a % 8 → cget (dale t d) m = cget (dale u d) m) ∧
      (StartsR s d 2 0x19 f pc u →
        ∃ t, exec (.vst d f) s = .next t ∧ t = { u with dales := t.dales, mem := t.mem, synd := t.synd } ∧
          (∀ e, e ≠ d → dale t e = dale u e) ∧ dale t d = { dale u d with c := (dale t d).c } ∧
          (∀ i, i < 256 → (pget (dale u d) f.pg).getLsbD (i / (viewWidth f.view / 8)) = true →
            memGet t (daleBase d + circAt c i) = BitVec.ofNat 8 ((vget (dale u d) f.d).toNat / 2 ^ (8 * i))) ∧
          (∀ a, (∀ i, i < 256 → (pget (dale u d) f.pg).getLsbD (i / (viewWidth f.view / 8)) = true → a ≠ daleBase d + circAt c i) →
            memGet t a = memGet u a) ∧
          circPtr (cget (dale t d) f.a) = circAfter c f.imm.toInt ∧ circLen (cget (dale t d) f.a) = circLen c ∧
          circBase (cget (dale t d) f.a) = circBase c ∧ ∀ m, m % 8 ≠ f.a % 8 → cget (dale t d) m = cget (dale u d) m)) ∧
    (∀ c, c = cget (dale u d) f.a → f.view < 3 → (dale s d).trap = none →
      ((circLen c = 0 ∧ 0xC0000 < circBase c + circPtr c + 256) ∨ (circLen c ≠ 0 ∧ (circLen c < 256 ∨ circLen c < f.imm.toInt.natAbs))) →
      (StartsR s d 2 0x18 f pc u → ∃ t, exec (.vld d f) s = .next t ∧ TrapsIn u t d causeCircular .formatError pc 0x0302) ∧
      (StartsR s d 2 0x19 f pc u → ∃ t, exec (.vst d f) s = .next t ∧ TrapsIn u t d causeCircular .formatError pc 0x0302))

/-- Searches (R108 to R110). In a narrow view an index that does not fit an element is a free value of the model (log entry 3);
where one register is both destinations the index stays, and an element no SSRCH has updated reads as an empty search (log
entry 65). -/
def Obligations.Searches : Prop :=
  ∀ (d : Nat) (f : RInst) (s u : State) (pc : Nat), d < 512 → VectorsClean (dale s d) →
    (f.view < 3 → f.fmt < 10 → (f.fmt = 7 → f.view = 0) → StartsR s d 2 0x20 f pc u →
      ∃ t v n, exec (.vsrch d f) s = .next t ∧ OnlyDale u t d { dale u d with x := (dale t d).x } ∧
        (f.d % 32 ≠ f.b % 32 → xget (dale t d) f.d = if f.d % 32 = 0 then 0#64 else searchScalar (elemTy f) f.view v) ∧
        xget (dale t d) f.b = (if f.b % 32 = 0 then 0#64 else BitVec.ofNat 64 n) ∧
        (∀ m, m % 32 ≠ f.d % 32 → m % 32 ≠ f.b % 32 → xget (dale t d) m = xget (dale u d) m) ∧
        ((∀ i, ¬ governed (dale u d) f f.view i) → (v, n) = noBest (elemTy f)) ∧
        ((∃ i, governed (dale u d) f f.view i) → ∃ j, governed (dale u d) f f.view j ∧ Keeps (elemTy f) (elA (dale u d) f j) v ∧
          n = ((xget (dale u d) f.s).toNat + j) % 2 ^ 32 ∧
          ∀ k, governed (dale u d) f f.view k → ¬ outranks (elemTy f) f.view (f.imm.getLsbD 0) (elA (dale u d) f k) (elA (dale u d) f j) ∧
            (k < j → outranks (elemTy f) f.view (f.imm.getLsbD 0) (elA (dale u d) f j) (elA (dale u d) f k)))) ∧
    (f.view < 3 → f.fmt < 10 → (f.fmt = 7 → f.view = 0) → StartsR s d 2 0x21 f pc u →
      ∃ t, exec (.ssinit d f) s = .next t ∧ OnlyDale u t d { dale u d with
        search := ⟨f.imm.getLsbD 0, ⟨decide (f.fmt = 7), f.sign⟩, f.view, (xget (dale u d) f.s).toNat % 2 ^ 32, 0, []⟩ }) ∧
    (∀ sr, sr = (dale u d).search → StartsR s d 2 0x22 f pc u →
      ∃ t r, exec (.ssrch d f) s = .next t ∧ OnlyDale u t d { dale u d with search := { sr with count := sr.count + 1, best := r } } ∧
        (∀ i, ¬ governed (dale u d) f sr.view i → tget none r i = tget none sr.best i) ∧
        (∀ i, governed (dale u d) f sr.view i → ∃ v, Keeps sr.ty (velem sr.view (vget (dale u d) f.a) i) v ∧
          (tget none sr.best i = none → tget none r i = some (v, (sr.start + sr.count) % 2 ^ 32)) ∧
          (∀ o, tget none sr.best i = some o →
            (outranks sr.ty sr.view sr.min (velem sr.view (vget (dale u d) f.a) i) o.1 → tget none r i = some (v, (sr.start + sr.count) % 2 ^ 32)) ∧
            (¬ outranks sr.ty sr.view sr.min (velem sr.view (vget (dale u d) f.a) i) o.1 → tget none r i = some o)))) ∧
    (∀ sr, sr = (dale u d).search → StartsR s d 2 0x23 f pc u →
      ∃ t, exec (.ssread d f) s = .next t ∧ OnlyDale u t d { dale u d with v := (dale t d).v, badBytes := (dale t d).badBytes } ∧
        (∀ m, m % 32 ≠ f.d % 32 → m % 32 ≠ f.b % 32 → vget (dale t d) m = vget (dale u d) m) ∧
        ∀ i, i < viewCount sr.view →
          (f.d % 32 ≠ f.b % 32 → velem sr.view (vget (dale t d) f.d) i = (bestOf sr i).1 % 2 ^ viewWidth sr.view) ∧
          ((bestOf sr i).2 < 2 ^ viewWidth sr.view → velem sr.view (vget (dale t d) f.b) i = (bestOf sr i).2)) ∧
    (∀ sr, sr = (dale u d).search → sr.view < 3 → (sr.ty.fp = true → sr.view = 0) →
      (∀ i e, tget none sr.best i = some e → e.1 < 2 ^ viewWidth sr.view) → StartsR s d 2 0x24 f pc u →
      ∃ t r, exec (.ssred d f) s = .next t ∧ OnlyDale u t d { dale u d with x := (dale t d).x } ∧
        (f.d % 32 ≠ f.b % 32 → xget (dale t d) f.d = if f.d % 32 = 0 then 0#64 else searchScalar sr.ty sr.view r.1) ∧
        xget (dale t d) f.b = (if f.b % 32 = 0 then 0#64 else BitVec.ofNat 64 r.2) ∧
        ((∀ i, governed (dale u d) f sr.view i → tget none sr.best i = none) → r = noBest sr.ty) ∧
        ((∃ i, governed (dale u d) f sr.view i ∧ tget none sr.best i ≠ none) → ∃ i, governed (dale u d) f sr.view i ∧ tget none sr.best i = some r ∧
          ∀ k e, governed (dale u d) f sr.view k → tget none sr.best k = some e → ¬ outranks sr.ty sr.view sr.min e.1 r.1 ∧
            (¬ outranks sr.ty sr.view sr.min r.1 e.1 → r.2 ≤ e.2)))

/-- Compaction, prefix sums and histograms (R117 to R119). -/
def Obligations.CompactionScanAndHistogram : Prop :=
  ∀ (d : Nat) (f : RInst) (s u : State) (pc : Nat), d < 512 → (dale s d).badBytes = [] →
    (f.view < 3 → StartsR s d 2 0x25 f pc u → ∀ l, l = (dale u d).compact.elems ++
        ((List.range (viewCount f.view)).filter fun i => (pget (dale u d) f.pg).getLsbD i).map (elA (dale u d) f) →
      ((dale u d).compact.elems = [] ∨ (dale u d).compact.view = f.view → l.length < viewCount f.view →
        ∃ t, exec (.vcompact d f) s = .next t ∧ OnlyDale u t d { dale u d with compact := ⟨f.view, l⟩ }) ∧
      ((dale u d).compact.elems = [] ∨ (dale u d).compact.view = f.view → viewCount f.view ≤ l.length →
        ∃ t, exec (.vcompact d f) s = .next t ∧
          OnlyDale u t d { dale u d with compact := ⟨f.view, l.drop (viewCount f.view)⟩, v := (dale t d).v } ∧
          (∀ m, m % 32 ≠ f.d % 32 → vget (dale t d) m = vget (dale u d) m) ∧
          ∀ i, i < viewCount f.view → elD (dale t d) f i = l.getD i 0 % 2 ^ viewWidth f.view) ∧
      ((dale u d).compact.elems ≠ [] → (dale u d).compact.view ≠ f.view → (dale s d).trap = none →
        ∃ t, exec (.vcompact d f) s = .next t ∧ TrapsIn u t d causeRefused .formatError pc 0x0603)) ∧
    (∀ b, b = (dale u d).compact → b.elems.length ≤ viewCount b.view → f.view < 3 → StartsR s d 2 0x26 f pc u →
      ∃ t, exec (.vcflush d f) s = .next t ∧ OnlyDale u t d { dale u d with compact := ⟨b.view, []⟩, v := (dale t d).v, x := (dale t d).x } ∧
        (∀ i, i < viewCount b.view → velem b.view (vget (dale t d) f.d) i = b.elems.getD i 0 % 2 ^ viewWidth b.view) ∧
        (∀ m, m % 32 ≠ f.d % 32 → vget (dale t d) m = vget (dale u d) m) ∧
        xget (dale t d) f.b = (if f.b % 32 = 0 then 0#64 else BitVec.ofNat 64 b.elems.length) ∧
        ∀ m, m % 32 ≠ f.b % 32 → xget (dale t d) m = xget (dale u d) m) ∧
    (f.view < 3 → f.fmt < 10 → (f.fmt = 7 → f.view = 0) → (dale s d).satCount ≤ 0xFFFFFFFF → StartsR s d 2 0x27 f pc u →
      ∃ (t : State) (run : Nat → Nat), exec (.vscan d f) s = .next t ∧ UnitFrame u t d ∧
        run 0 = (xget (dale u d) f.s).toNat % 2 ^ viewWidth f.view ∧
        (∀ i, i < viewCount f.view → run (i + 1) = if ¬ (pget (dale u d) f.pg).getLsbD i then run i
          else if f.fmt = 7 then (fadd (BitVec.ofNat 32 (run i)) (BitVec.ofNat 32 (elA (dale u d) f i))).toNat
          else narrow (viewWidth f.view) f (elemVal (viewWidth f.view) f.sign (run i) + valA (dale u d) f i)) ∧
        (∀ i, i < viewCount f.view → elD (dale t d) f i = if f.imm.getLsbD 0 then run (i + 1) else run i) ∧
        xget (dale t d) f.s = (if f.s % 32 = 0 then 0#64 else searchScalar (elemTy f) f.view (run (viewCount f.view))) ∧
        (dale t d).satCount = countUp (dale u d) (dale u d).satCount ((List.range (viewCount f.view)).filter fun i =>
          (pget (dale u d) f.pg).getLsbD i && decide (f.fmt ≠ 7) &&
            overflows (viewWidth f.view) f (elemVal (viewWidth f.view) f.sign (run i) + valA (dale u d) f i)).length ∧
        (∀ m, m % 32 ≠ f.d % 32 → vget (dale t d) m = vget (dale u d) m) ∧
        ∀ m, m % 32 ≠ f.s % 32 → xget (dale t d) m = xget (dale u d) m) ∧
    (f.view < 3 → (∀ b, tget 0 (dale u d).hist b ≤ 0xFFFFFFFF) → StartsR s d 2 0x28 f pc u →
      ∃ t, exec (.vhist d f) s = .next t ∧ UnitFrame u t d ∧ (dale t d).v = (dale u d).v ∧ (dale t d).x = (dale u d).x ∧
        ∀ b, b < 256 → tget 0 (dale t d).hist b = min 0xFFFFFFFF (tget 0 (dale u d).hist b +
          (((List.range (viewCount f.view)).filter fun i => (pget (dale u d) f.pg).getLsbD i &&
            decide (elA (dale u d) f i / 2 ^ (f.imm.toNat % 32) % 256 = b)).map fun i =>
              if f.imm.getLsbD 5 then elB (dale u d) f i % (if f.view = 0 then 2 ^ 16 else 2 ^ 32) else 1).sum)) ∧
    (f.d ≤ 28 → StartsR s d 2 0x29 f pc u →
      ∃ t, exec (.vhread d f) s = .next t ∧ OnlyDale u t d { dale u d with v := (dale t d).v } ∧
        (∀ i, i < 256 → velem 0 (vget (dale t d) (f.d + i / 64)) (i % 64) = tget 0 (dale u d).hist i % 2 ^ 32) ∧
        ∀ m, m < 32 → (m < f.d ∨ f.d + 3 < m) → vget (dale t d) m = vget (dale u d) m) ∧
    (StartsR s d 2 0x2A f pc u → ∃ t, exec (.vhclear d f) s = .next t ∧ OnlyDale u t d { dale u d with hist := [] })

/-- The k best of a stream (R110, R120). The position of an element is the model's reading of R120 (log entry 49); where one
register is both destinations of TKREAD the indices stay (log entry 65). -/
def Obligations.TopK : Prop :=
  ∀ (d : Nat) (f : RInst) (s u : State) (pc : Nat), d < 512 → (dale s d).badBytes = [] →
    (f.view < 3 → f.fmt < 10 → (f.fmt = 7 → f.view = 0) → StartsR s d 2 0x2B f pc u →
      ∃ t, exec (.tkinit d f) s = .next t ∧ OnlyDale u t d { dale u d with
        topk := ⟨f.imm.toNat % 64 + 1, f.imm.getLsbD 6, ⟨decide (f.fmt = 7), f.sign⟩, f.view, (xget (dale u d) f.s).toNat % 2 ^ 32, 0, []⟩ }) ∧
    (∀ tk, tk = (dale u d).topk → (tk.ty.fp = true → tk.view = 0) → tk.pairs.length ≤ tk.k → tk.pairs.Pairwise (fun a b => ¬ ranksBefore tk b a) →
      (∀ e ∈ tk.pairs, e.1 < 2 ^ viewWidth tk.view) → StartsR s d 2 0x2C f pc u →
      ∃ (t : State) (new all : List (Nat × Nat)), exec (.vtopk d f) s = .next t ∧
        OnlyDale u t d { dale u d with topk := { tk with count := tk.count + 1, pairs := all.take tk.k } } ∧
        all.Pairwise (fun a b => ¬ ranksBefore tk b a) ∧ all.Perm (tk.pairs ++ new) ∧
        new.length = ((List.range (viewCount tk.view)).filter fun i => (pget (dale u d) f.pg).getLsbD i).length ∧
        ∀ j i : Nat, ((List.range (viewCount tk.view)).filter fun i => (pget (dale u d) f.pg).getLsbD i)[j]? = some i →
          ∃ v : Nat, (new : List (Nat × Nat))[j]? = some (v, (tk.start + tk.count) % 2 ^ 32) ∧ Keeps tk.ty (velem tk.view (vget (dale u d) f.a) i) v) ∧
    (∀ tk, tk = (dale u d).topk → StartsR s d 2 0x2D f pc u →
      ∃ t, exec (.tkread d f) s = .next t ∧
        OnlyDale u t d { dale u d with v := (dale t d).v } ∧
        (f.d % 32 ≠ f.b % 32 → ∀ i, i < viewCount tk.view → velem tk.view (vget (dale t d) f.d) i = (tk.pairs.getD i (noBest tk.ty)).1 % 2 ^ viewWidth tk.view) ∧
        (∀ i, i < 64 → velem 0 (vget (dale t d) f.b) i = (tk.pairs.getD i (noBest tk.ty)).2 % 2 ^ 32) ∧
        ∀ m, m % 32 ≠ f.d % 32 → m % 32 ≠ f.b % 32 → vget (dale t d) m = vget (dale u d) m)

/-- The sorted-set unit (R114 to R116). -/
def Obligations.SetOperations : Prop :=
  ∀ (d : Nat) (f : RInst) (s : State) (n : Nat) (ta tb tz : Slot) (ka kb : List Nat), d < 512 →
    f.rOk = true → f.a < 16 → f.b < 16 → f.d < 16 → f.imm.getLsbD 5 = false → n = (if f.imm.getLsbD 6 then 8 else 4) →
    SetSlot s d f.a n ta ka → SetSlot s d f.b n tb kb → slotOf (dale s d) f.d = some tz → SlotFits tz → StoreClean s d →
    (dale s d).badBytes = [] → queueOf (dale s d) 3 = [] →
    ∀ r ∈ setRows, Ready s d (encR 3 r.1 f) →
      (ka.Pairwise (· < ·) → kb.Pairwise (· < ·) →
        ∃ (t : State) (ks : List Nat), exec (r.2.1 d f) s = .next t ∧ ks.Pairwise (· < ·) ∧ (∀ k, k ∈ ks ↔ r.2.2 (k ∈ ka) (k ∈ kb)) ∧
          (∀ i, i < ks.length → n * (i + 1) ≤ tz.rows * tz.rowBytes →
            leNat (memBytes t (daleBase d + tz.base + n * i) n) = ks.getD i 0) ∧
          (∀ a, a < daleBase d + tz.base ∨ daleBase d + slotEnd tz ≤ a → memGet t a = memGet s a) ∧
          xget (dale t d) f.s = (if f.s % 32 = 0 then 0#64 else BitVec.ofNat 64 ks.length) ∧
          (∀ m, m % 32 ≠ f.s % 32 → xget (dale t d) m = xget (dale s d) m) ∧ (∀ e, e ≠ d → dale t e = dale s e) ∧
          dale t d = counted { dale s d with x := (dale t d).x, t := (dale t d).t, queues := (dale t d).queues } ((dale s d).pc + 8)
            (dale s d).issueNo (dale s d).stepCount ∧
          queueOf (dale t d) 3 = []) ∧
      (kb ≠ [] → (∃ i, i + 1 < 64 ∧ i + 1 < ka.length ∧ ka.getD (i + 1) 0 ≤ ka.getD i 0) →
        ∃ t e, exec (r.2.1 d f) s = .next t ∧ (dale t d).trap = some ⟨causeUnsorted, .formatError, (dale s d).pc, false⟩ ∧
          t.handed = s.handed ++ [e] ∧ e.code = 0x0301)

/-- SFN (R126 to R136). The result of a native function elsewhere is a free value within R128's bound and the
monotone guarantees (log entry 8). -/
def Obligations.SpecialFunctions : Prop :=
  (∀ e ∈ sfTable, ∀ g : Fmt, (sfFinish .fp32 true (sfNative g e.1 (val32 e.2.1))).1.bits = e.2.2.1 ∧
    (sfFinish .fp32 false (sfNative g e.1 (val32 e.2.1))).1.bits = e.2.2.2) ∧
  (∀ (d : Nat) (f : RInst) (s : State), d < 512 → queueOf (dale s d) 4 = [] → Ready s d (encR 4 0x01 f) →
    (f.view = 3 ∨ ∀ g ∈ [Fmt.e4m3, .e5m2, .e2m1, .bf16, .fp16, .fp32], fmtOfCode f.fmt = some g →
      viewWidth f.view < fmtBits g ∨ viewCount f.view < 64 * (f.imm.toNat / 32 % 4) + 64) →
    ∃ t, exec (.sfn d f) s = .next t ∧ Trapped s t d 3 .formatError 0x0603) ∧
  ∀ (d : Nat) (f : RInst) (s u : State) (pc k off : Nat) (g : Fmt), d < 512 → k = f.imm.toNat % 32 → off = f.imm.toNat / 32 % 4 →
    fmtOfCode f.fmt = some g →
    (g ∈ [Fmt.e4m3, .e5m2, .e2m1, .bf16, .fp16, .fp32] → f.view < 3 → fmtBits g ≤ viewWidth f.view → 64 * off + 64 ≤ viewCount f.view →
      (dale s d).badBytes = [] → slotBytes (dale s d) (sfMode (dale s d) k) ≠ none →
      ((dale s d).hd7 = true → k < 16 → k ∈ [0, 2, 4, 6, 7, 8, 10]) → StartsR s d 4 0x01 f pc u →
      ∃ t, exec (.sfn d f) s = .next t ∧ UnitFrame u t d ∧
        (∀ m, m % 32 ≠ f.d % 32 → vget (dale t d) m = vget (dale u d) m) ∧ (dale t d).x = (dale u d).x ∧
        (∀ i, i < viewCount f.view → (i < 64 * off ∨ 64 * off + 64 ≤ i) → elD (dale t d) f i = elD (dale u d) f i) ∧
        (∀ j, j < 64 → (pget (dale u d) f.pg).getLsbD j = false →
          elD (dale t d) f (64 * off + j) = if f.zero then 0 else elD (dale u d) f (64 * off + j)) ∧
        (∀ j, j < 64 → (pget (dale u d) f.pg).getLsbD j = true → k < 16 → (dale s d).hd7 = false → (dale s d).sfOver.testBit k = false → elD (dale t d) f (64 * off + j) =
          (sfFinish g f.tc (sfNative g k (val32 (BitVec.ofNat 32 (velem 0 (vget (dale u d) f.a) j))))).1.bits) ∧
        (∀ j, j < 64 → (pget (dale u d) f.pg).getLsbD j = true → (dale s d).hd7 = true → (dale s d).sfOver = 0 → g = .fp32 →
          ∀ e ∈ [(7, 0x3F11FFFF, 0x3F03FDA0), (7, 0x3F120000, 0x3F03FD9F), (7, 0x3FA1FFFF, 0x3F5A447C), (7, 0x3FA20000, 0x3F5A447B),
            (8, 0x3F53FFFF, 0x3F322A54), (8, 0x3F540000, 0x3F322A53), (8, 0x401DFFFF, 0x3F6C0312), (8, 0x401E0000, 0x3F6C0311)],
          k = e.1 → velem 0 (vget (dale u d) f.a) j = e.2.1 → elD (dale t d) f (64 * off + j) = e.2.2)) ∧
    (queueOf (dale s d) 4 = [] → Ready s d (encR 4 0x01 f) →
      (g ∈ [Fmt.e4m3, .e5m2, .e2m1, .bf16, .fp16, .fp32] → f.view < 3 → fmtBits g ≤ viewWidth f.view → 64 * off + 64 ≤ viewCount f.view →
        ((dale s d).hd7 = true → k < 16 → k ∉ [0, 2, 4, 6, 7, 8, 10] →
          ∃ t, exec (.sfn d f) s = .next t ∧ Trapped s t d causeSfuSlot .formatError 0x0405) ∧
        (((dale s d).hd7 = true → k < 16 → k ∈ [0, 2, 4, 6, 7, 8, 10]) → slotBytes (dale s d) (sfMode (dale s d) k) = none →
          ∃ t, exec (.sfn d f) s = .next t ∧ Trapped s t d causeSfuSlot .formatError 0x0402)))

/-- Row statistics (R138 to R141); the values of exp, RCP and RSQRT are native results (log entry 8);
which dale a channel joins to which is open, so SCRECV names the sender (log entry 66); where one register is both destinations
of SNFIN or SMFIN the second result stays (log entry 65). -/
def Obligations.RowStatistics : Prop :=
  ∀ (d : Nat) (f : RInst) (s u : State) (pc : Nat), d < 512 → (dale s d).badBytes = [] → (dale s d).hd7 = false → (dale s d).sfOver = 0 →
    (StartsR s d 4 0x02 f pc u → ∃ t, exec (.scinit d f) s = .next t ∧ ScOut u t d f.d ⟨0xFF800000#32, 0#32, 0#32, 0#32⟩) ∧
    (∀ n, n < 512 → StartsR s d 4 0x05 f pc u →
      ((∀ e ∈ (dale s n).statsSent, e.1 ≠ f.imm.toNat % 16) → exec (.screcv d f n) s = .next s) ∧
      (∀ (pre post : List (Nat × StatCtx)) (c : StatCtx), (dale s n).statsSent = pre ++ (f.imm.toNat % 16, c) :: post →
        (∀ e ∈ pre, e.1 ≠ f.imm.toNat % 16) →
        ∃ t, exec (.screcv d f n) s = .next t ∧ t = { u with dales := t.dales, od := t.od } ∧
          (∀ e, dale t e = { dale u e with sc := if e = d then (dale t d).sc else (dale u e).sc,
                                           statsSent := if e = n then pre ++ post else (dale u e).statsSent }) ∧
          scget (dale t d) f.d = c ∧ (∀ m, m % 8 ≠ f.d % 8 → scget (dale t d) m = scget (dale u d) m) ∧
          odRaw t 0x481001 = (odRaw u 0x481001 + 1) % 2 ^ 64)) ∧
    (StartsR s d 4 0x06 f pc u → ∃ t, exec (.scsend d f) s = .next t ∧ UnitFrame u t d ∧
      dale t d = { dale u d with statsSent := (dale u d).statsSent ++ [(f.imm.toNat % 16, scget (dale u d) f.a)] }) ∧
    (∀ c vs, c = scget (dale u d) f.d → vs = statElems (dale u d) f → StartsR s d 4 0x03 f pc u →
      (vs = [] → ∃ t, exec (.smaxsum d f) s = .next t ∧ ScOut u t d f.d c) ∧
      (vs ≠ [] → ∀ m, m = larger c.m (vs.tail.foldl larger (larger (vs.getD 0 0#32) (vs.getD 0 0#32))) →
        ∃ t, exec (.smaxsum d f) s = .next t ∧ ScOut u t d f.d
          ⟨m, vs.foldl (fun a v => fadd a (expDiff v m)) (if flt c.m m then fmul c.s (expDiff c.m m) else c.s), c.q,
            c.n + BitVec.ofNat 32 vs.length⟩) ∧
      (c = ⟨0xFF800000#32, 0#32, 0#32, 0#32⟩ → (∀ v ∈ vs, v = 0xFF800000#32) →
        ∃ t, exec (.smaxsum d f) s = .next t ∧ ScOut u t d f.d ⟨0xFF800000#32, 0#32, 0#32, BitVec.ofNat 32 vs.length⟩)) ∧
    (∀ c vs, c = scget (dale u d) f.d → vs = statElems (dale u d) f → StartsR s d 4 0x07 f pc u →
      ∃ t, exec (.snacc d f) s = .next t ∧ ScOut u t d f.d
        ⟨c.m, vs.foldl fadd c.s, vs.foldl (fun q v => fadd q (fmul v v)) c.q, c.n + BitVec.ofNat 32 vs.length⟩) ∧
    (∀ a b m, a = scget (dale u d) f.d → b = scget (dale u d) f.a → m = larger a.m b.m → StartsR s d 4 0x04 f pc u →
      ∃ t, exec (.scmerge d f) s = .next t ∧ ScOut u t d f.d
        ⟨m, fadd (fmul a.s (expDiff a.m m)) (fmul b.s (expDiff b.m m)), fadd a.q b.q, a.n + b.n⟩) ∧
    (∀ c eps, c = scget (dale u d) f.a → eps = (xget (dale u d) f.s).setWidth 32 →
      (StartsR s d 4 0x08 f pc u →
        ∃ (t : State) (mu rho : W32), exec (.snfin d f) s = .next t ∧ UnitFrame u t d ∧
          (f.d % 32 ≠ 0 → f.d % 32 ≠ f.b % 32 → xget (dale t d) f.d = mu.setWidth 64) ∧
          (f.b % 32 ≠ 0 → xget (dale t d) f.b = rho.setWidth 64) ∧
          (∀ r, r % 32 ≠ f.d % 32 → r % 32 ≠ f.b % 32 → xget (dale t d) r = xget (dale u d) r) ∧
          (c.n = 0#32 → mu = (if f.tc then 0x7FC00000#32 else 0#32) ∧ rho = mu) ∧
          (c.n ≠ 0#32 → ∀ k, k = sfOut 4 f.tc (rne32 (fpOfInt c.n.toNat)) →
            (f.imm.getLsbD 0 = true → mu = 0#32 ∧ rho = sfOut 6 f.tc (fadd (fmul c.q k) eps)) ∧
            (f.imm.getLsbD 0 = false → mu = fmul c.s k ∧
              rho = sfOut 6 f.tc (fadd (larger 0#32 (fsub (fmul c.q k) (fmul (fmul c.s k) (fmul c.s k)))) eps)))) ∧
      (StartsR s d 4 0x09 f pc u →
        ∃ (t : State) (m r : W32), exec (.smfin d f) s = .next t ∧ UnitFrame u t d ∧
          (f.d % 32 ≠ 0 → f.d % 32 ≠ f.b % 32 → xget (dale t d) f.d = m.setWidth 64) ∧
          (f.b % 32 ≠ 0 → xget (dale t d) f.b = r.setWidth 64) ∧
          (∀ r, r % 32 ≠ f.d % 32 → r % 32 ≠ f.b % 32 → xget (dale t d) r = xget (dale u d) r) ∧
          (c.n = 0#32 → m = (if f.tc then 0x7FC00000#32 else 0#32) ∧ r = m) ∧
          (c.n ≠ 0#32 → m = c.m ∧ r = sfOut 4 f.tc c.s)))

/-- Random generation (R151 to R164). Where one register is both destinations of RCGET the upper half stays (log entry 65). -/
def Obligations.RandomGeneration : Prop :=
  ∀ (d : Nat) (f : RInst) (s u : State) (pc : Nat), d < 512 → (dale s d).badBytes = [] →
    (∀ r ∈ ([(0x01, .runi, fun x i => drawn x f f.view i), (0x02, .runif, fun x i => (rne32 (.fin false (drawn x f 0 i / 2 ^ 8) (-24))).toNat),
        (0x04, .rnormTab, fun x i => (normTab (drawn x f 0 i)).toNat)] : List (Nat × (Nat → RInst → Instr) × (Dale → Nat → Nat))),
      f.view < 3 → (r.1 ≠ 0x01 → f.view = 0) → (r.1 = 0x04 → f.imm.getLsbD 0 = false) → StartsR s d 5 r.1 f pc u →
      ∃ t, exec (r.2.1 d f) s = .next t ∧ DrawOut u t d f f.view (viewCount f.view) ∧ (dale t d).p = (dale u d).p ∧
        (∀ i, i < viewCount f.view → elD (dale t d) f i =
          if (pget (dale u d) f.pg).getLsbD i then r.2.2 (dale u d) i else if f.zero then 0 else elD (dale u d) f i) ∧
        ∀ m, m % 32 ≠ f.d % 32 → vget (dale t d) m = vget (dale u d) m) ∧
    (f.view = 0 → f.imm.getLsbD 0 = true → StartsR s d 5 0x04 f pc u →
      ∃ t, exec (.rnormBm d f) s = .next t ∧ DrawOut u t d f 0 64 ∧ (dale t d).p = (dale u d).p ∧
        (∀ i, i < 64 → (pget (dale u d) f.pg).getLsbD i = true → ∀ e j key, e = (if drawStream f then i else drawBase (dale u d) f + i) →
          j = e % 4 / 2 * 2 → key = (if (dale u d).rng.keySet then (dale u d).rng.key else 0) → elD (dale t d) f i =
            (if e % 2 = 0 then (boxMuller (uniformAt 0 key (drawCtr (dale u d) f 0 i) j) (uniformAt 0 key (drawCtr (dale u d) f 0 i) (j + 1))).1
             else (boxMuller (uniformAt 0 key (drawCtr (dale u d) f 0 i) j) (uniformAt 0 key (drawCtr (dale u d) f 0 i) (j + 1))).2).toNat) ∧
        (∀ i, i < 64 → (pget (dale u d) f.pg).getLsbD i = false → elD (dale t d) f i = if f.zero then 0 else elD (dale u d) f i) ∧
        ∀ m, m % 32 ≠ f.d % 32 → vget (dale t d) m = vget (dale u d) m) ∧
    (f.view = 1 ∨ (f.view = 2 ∧ f.imm.toNat / 2 ^ 8 % 2 ^ 8 = 0) → f.d % 8 ≠ 0 → StartsR s d 5 0x03 f pc u →
      ∃ t, exec (.rbern d f) s = .next t ∧ DrawOut u t d f f.view (viewCount f.view) ∧ (dale t d).v = (dale u d).v ∧
        (∀ i, i < viewCount f.view → (pget (dale t d) f.d).getLsbD i =
          if (pget (dale u d) f.pg).getLsbD i then decide (drawn (dale u d) f f.view i < f.imm.toNat % (if f.view = 2 then 2 ^ 8 else 2 ^ 16))
          else !f.zero && (pget (dale u d) f.d).getLsbD i) ∧
        ∀ m, m % 8 ≠ f.d % 8 → pget (dale t d) m = pget (dale u d) m) ∧
    (StartsR s d 5 0x08 f pc u → ∃ t, exec (.rkey d f) s = .next t ∧ OnlyDale u t d { dale u d with rng := { (dale u d).rng with
      key := (xget (dale u d) f.a).toNat + 2 ^ 64 * (xget (dale u d) f.b).toNat, keySet := true } }) ∧
    (StartsR s d 5 0x09 f pc u → ∃ t, exec (.rctr d f) s = .next t ∧ OnlyDale u t d { dale u d with rng := { (dale u d).rng with
      ctr := (xget (dale u d) f.a).toNat + 2 ^ 64 * (xget (dale u d) f.b).toNat } }) ∧
    (StartsR s d 5 0x0A f pc u →
      ∃ t, exec (.rcget d f) s = .next t ∧ OnlyDale u t d { dale u d with x := (dale t d).x } ∧
        (f.d % 32 ≠ 0 → f.d % 32 ≠ f.b % 32 → xget (dale t d) f.d = BitVec.ofNat 64 (dale u d).rng.ctr) ∧
        (f.b % 32 ≠ 0 → xget (dale t d) f.b = BitVec.ofNat 64 ((dale u d).rng.ctr / 2 ^ 64)) ∧
        ∀ m, m % 32 ≠ f.d % 32 → m % 32 ≠ f.b % 32 → xget (dale t d) m = xget (dale u d) m) ∧
    (f.view = 3 → queueOf (dale s d) 5 = [] → Ready s d (encR 5 0x01 f) →
      ∃ t, exec (.runi d f) s = .next t ∧ Trapped s t d causeRngWidth .formatError 0x0503)

/-- MMUL and MFUSE (R57 to R65, R78 to R80, R85, R93 to R99, R137, R188). What an array fault strikes is an operand of the command. -/
def Obligations.MatrixProducts : Prop :=
  (∀ (d : Nat) (f : MInst) (s u : State) (no pc : Nat) (ta tb td : Slot), d < 512 → MmulFits s d f ta tb td →
    Starts s d 1 1 (encM 1 1 f) (fun w => decM w = f) no pc u →
    (ta.fmt = tb.fmt → ta.fmt ∈ [Fmt.int8, .int4] → td.fmt = .int32 → ta.scale = 0x3F800000#32 → tb.scale = 0x3F800000#32 →
      (f.acc = true → ∀ r n, r < f.m → n < f.n → slotElem u d td r n < 2 ^ 30 ∨ 2 ^ 32 - 2 ^ 30 ≤ slotElem u d td r n) →
      ∃ t, exec (.mmul d f .none) s = .next t ∧ MmulOut u t d f tb td ∧
        ∀ r n, r < f.m → n < f.n → elemVal 32 true (slotElem t d td r n) =
          (if f.acc then elemVal 32 true (slotElem u d td r n) else 0) +
          ((List.range f.k).map fun k => elemVal (fmtBits ta.fmt) true (slotElem u d ta r k) *
            elemVal (fmtBits ta.fmt) true (tileElem u d f tb k n)).sum) ∧
    (pairingOk ta.fmt tb.fmt = true → fmtIsInt ta.fmt = false → td.fmt ≠ .pair → f.acc = false → (dale s d).residue = false →
      ∃ t, exec (.mmul d f .none) s = .next t ∧ MmulOut u t d f tb td ∧
        ∀ r n, r < f.m → n < f.n → slotElem t d td r n = (convTo td.fmt td.cls none (val32 (fmul
          ((List.range f.k).foldl (fun a k => fadd a (rne32 (fpMul (fpDecode ta.fmt (operandElem u d ta r k))
            (fpDecode tb.fmt (tileElem u d f tb k n))))) 0#32)
          (outScale ta tb td).1))).bits)) ∧
  (∀ (d : Nat) (f : MInst) (flt : ArrayFault) (s : State) (ta tb td : Slot), d < 512 → slotOf (dale s d) f.ta = some ta → slotOf (dale s d) f.tb = some tb →
    slotOf (dale s d) f.td = some td → pairingOk ta.fmt tb.fmt = false → queueOf (dale s d) 1 = [] → Ready s d (encM 1 1 f) →
    ∃ t, exec (.mmul d f flt) s = .next t ∧ Trapped s t d 3 .formatError 0x0603) ∧
  (∀ (d : Nat) (f : MInst) (flt : ArrayFault) (s u : State) (no pc : Nat) (ta tb td : Slot), d < 512 → MmulFits { s with dales := (updDale s d fun x =>
      { x with mxWest := false, mxEast := false }).dales } d f ta tb td → pairingOk ta.fmt tb.fmt = true → f.acc = false →
    (if f.part = 1 then (dale s d).mxWest else if f.part = 2 then (dale s d).mxEast else (dale s d).mxWest || (dale s d).mxEast) = true →
    Starts s d 1 1 (encM 1 1 f) (fun w => decM w = f) no pc u →
    ∃ t, exec (.mmul d f flt) s = .next t ∧ t.mem = u.mem ∧ (∀ e, e ≠ d → dale t e = dale u e) ∧ (dale t d).s0 = (dale u d).s0 ∧
      (dale t d).s1 = (dale u d).s1 ∧ ∃ o, slotOf (dale t d) f.td = some o ∧ ∀ r, r < f.m → o.fill.testBit r = true ∧ o.poison.testBit r = true) ∧
  (∀ (d : Nat) (f : MInst) (s u : State) (no pc r c : Nat) (ps : Bool) (ta tb td : Slot), d < 512 → MmulFits s d f ta tb td →
    pairingOk ta.fmt tb.fmt = true → f.acc = false → (dale s d).residue = false → colPassed f.part c = true →
    Starts s d 1 1 (encM 1 1 f) (fun w => decM w = f) no pc u →
    ∃ t, exec (.mmul d f (.item r c ps 0)) s = .next t ∧ (∀ e, e ≠ d → dale t e = dale u e) ∧
      (dale t d).mxWest = decide (f.part ≠ 2) ∧ (dale t d).mxEast = decide (f.part ≠ 1) ∧ (dale t d).mxStatus = statusCode .uncorrectable ∧
      (∃ o, slotOf (dale t d) f.td = some o ∧ ∀ i, i < f.m → o.fill.testBit i = true ∧ o.poison.testBit i = true) ∧
      (∃ a b : Event, a.code = 0x0204 ∧ b.code = 0x0205 ∧ a.source = pathOf d ∧ b.source = pathOf d ∧ t.handed = u.handed ++ [a, b]) ∧
      (odRaw u 0x401003 < 2 ^ 64 - 1 → odRaw t 0x401003 = odRaw u 0x401003 + 1)) ∧
  (∀ (d : Nat) (f : RInst) (s u : State) (pc : Nat), d < 512 → StartsR s d 1 0x02 f pc u →
    ∃ t, exec (.mfuse d f) s = .next t ∧ OnlyDale u t d { dale u d with
      fused := ⟨f.a % 16, f.imm.toNat % 32, f.imm.getLsbD 5, (xget (dale u d) f.s).setWidth 32⟩ })

/-- A line that faces the edge of the grid (R39): the instruction does not execute, and the sequencer traps with event 0x0101. -/
def Obligations.EdgeLinesTrap : Prop :=
  ∀ (d : Nat) (f : IInst) (s : State), d < 512 → neighbour d (lineDir f) = none →
    (queueOf (dale s d) 7 = [] → Ready s d (encI 7 1 f) → lineNo f < 2 →
      ∃ t, exec (.signal d f) s = .next t ∧ Trapped s t d 6 .formatError 0x0101) ∧
    (queueOf (dale s d) 7 = [] → Ready s d (encI 7 2 f) → 2 ≤ lineNo f →
      ∃ t, exec (.wait d f) s = .next t ∧ Trapped s t d 6 .formatError 0x0101)

/-- A write to a read-only register of the organisation window changes nothing (R32). -/
def Obligations.OrganisationReadOnly : Prop :=
  ∀ (src : Src) (addr size value : Nat) (s : State), (ni s saddleCol).state = 0 →
    winBase ≤ addr → addr - winBase < 0x10000 → (regOf (addr - winBase)).isSome = true →
    exec (.registerWrite src addr size value) s = .next (answer s .formatError 0)

/-- REGISTER_WRITE (R6, R9, R32, R74, R198, R276, R278, R553): the refusals, and that a register's write is its row's effect. -/
def Obligations.RegisterWrites : Prop :=
  ∀ (src : Src) (v : Nat) (s : State),
    (∀ a size, inWindow a = false ∨ wayStatus s a = none ∧ accessOk a size = false →
      exec (.registerWrite src a size v) s = .next (answer s .formatError 0)) ∧
    (∀ a size st, inWindow a = true → wayStatus s a = some st → exec (.registerWrite src a size v) s = .next (answer s st 0)) ∧
    (∀ a r, inWindow a = true → wayStatus s a = none → a % 4 = 0 → regOf (a - winBase) = some (r, 8) →
      exec (.registerWrite src a 4 v) s = .next (answer s .formatError 0)) ∧
    (∀ a, inWindow a = true → wayStatus s a = none → a % 4 = 0 → regOf (a - winBase) = none →
      exec (.registerWrite src a 4 v) s = .next (answer s .done 0)) ∧
    (v < 2 ^ 32 → ∀ d, d < 512 → (ni s (daleCol d)).state = 0 →
      exec (.registerWrite src (winBase + 0x20000 + 0x10 * d) 4 v) s = exec (.satCount d v) s ∧
      exec (.registerWrite src (winBase + 0x20004 + 0x10 * d) 4 v) s = exec (.nanCount d v) s ∧
      exec (.registerWrite src (winBase + 0x20008 + 0x10 * d) 4 v) s = .next (answer s .formatError 0) ∧
      ∀ k, k < 32 → exec (.registerWrite .cmdProc (winBase + 0x10000 + 0x80 * d + 4 * k) 4 v) s = exec (.semWrite d k v) s) ∧
    (v < 2 ^ 32 → (ni s cmdCol).state = 0 → ∀ q, q < 16 →
      exec (.registerWrite src (cqWin q 8) 4 v) s = exec (.cqCtrl q v) s ∧
      exec (.registerWrite src (cqWin q 0x10) 4 v) s = exec (.cqTail q v) s ∧
      exec (.registerWrite src (cplWin q 8) 4 v) s = exec (.cplCtrl q v) s ∧
      exec (.registerWrite src (cplWin q 0x14) 4 v) s = exec (.cplHead q v) s) ∧
    (v < 2 ^ 52 → (ni s cmdCol).state = 0 → ∀ q, q < 16 →
      (ringOn (cqCtrlOf s q) = false → ∃ t, exec (.registerWrite src (cqWin q 0) 8 v) s = .next t ∧ t.ans = (.done, 0) ∧
        t = { s with win := t.win, ans := t.ans } ∧ (∀ a, a ≠ cqWin q 0 → winGet t a = winGet s a) ∧
        windowRead t (cqWin q 0) 8 = (.done, v / 4096 * 4096)) ∧
      (ringOn (cplCtrlOf s q) = false → ∃ t, exec (.registerWrite src (cplWin q 0) 8 v) s = .next t ∧ t.ans = (.done, 0) ∧
        t = { s with win := t.win, ans := t.ans } ∧ (∀ a, a ≠ cplWin q 0 → winGet t a = winGet s a) ∧
        windowRead t (cplWin q 0) 8 = (.done, v / 4096 * 4096)))

/-- SAT_COUNT and NAN_COUNT (R74), NI_CLEAR (R281) and RATE_SAMPLE_STALE (R33). -/
def Obligations.CountersZeroed : Prop :=
  ∀ s : State,
    (∀ d, d < 512 → (ni s (daleCol d)).state = 0 →
      (∃ t, exec (.satCount d 0) s = .next t ∧ t.ans = (.done, 0) ∧ t = { s with dales := t.dales, ans := t.ans } ∧
        dale t d = { dale s d with satCount := 0 } ∧ ∀ e, e ≠ d → dale t e = dale s e) ∧
      (∃ t, exec (.nanCount d 0) s = .next t ∧ t.ans = (.done, 0) ∧ t = { s with dales := t.dales, ans := t.ans } ∧
        dale t d = { dale s d with nanCount := 0 } ∧ ∀ e, e ≠ d → dale t e = dale s e) ∧
      ∀ v, v ≠ 0 → exec (.satCount d v) s = .next (answer s .formatError 0) ∧
        exec (.nanCount d v) s = .next (answer s .formatError 0)) ∧
    (∀ d v, d < 512 → (ni s (daleCol d)).state = 2 → exec (.satCount d v) s = .next (answer s .targetIsolated 0) ∧
      exec (.nanCount d v) s = .next (answer s .targetIsolated 0)) ∧
    (∀ d v, d < 512 → (ni s (daleCol d)).state ≠ 0 → (ni s (daleCol d)).state ≠ 2 →
      exec (.satCount d v) s = .next (answer s .domainOff 0) ∧ exec (.nanCount d v) s = .next (answer s .domainOff 0)) ∧
    (∀ c, c < 612 → (∃ t, exec (.niClear c 1) s = .next t ∧ t.ans = (.done, 0) ∧ t = { s with net := t.net, ans := t.ans } ∧
        (∀ q, q ∈ [0x00, 0x08, 0x10, 0x18, 0x20, 0x28, 0x30, 0x38] → niReg t c q = 0) ∧
        ni t c = { ni s c with
          flitsOut := 0, flitsIn := 0, requests := 0, latSum := 0, latMax := 0, bucketWait := 0, absorbed := 0, parity := 0 } ∧ t.net = { s.net with nis := t.net.nis } ∧ ∀ e, e ≠ c → ni t e = ni s e) ∧
      ∀ v, v ≠ 1 → exec (.niClear c v) s = .next (answer s .formatError 0)) ∧
    (∀ g, g < 128 →
      (g ∈ s.power.stale → exec (.rateSampleStale g) s = .next s) ∧
      (g ∉ s.power.stale → ∃ t, ∃ e : Event, exec (.rateSampleStale g) s = .next t ∧ e.code = 0x0105 ∧ e.sev = sevWarning ∧
        e.source = 0x2000 + 4 * g ∧ e.detail = g + 2 ^ 7 * (winGet s (0x020000000100 + 4 * g) / 2 ^ 24 % 2 ^ 8 +
          2 ^ 8 * (winGet s (0x020000000100 + 4 * g) % 2 ^ 16)) ∧
        t = { s with handed := s.handed ++ [e], power := { s.power with stale := s.power.stale ++ [g] } }))

/-- The statistics clear entries (R76, R101, R120, R142, R166, R195, R226, R254, R286, R307, R326, R355, R384, R413, R429, R449,
R474, R491, R523). -/
def Obligations.StatisticsClears : Prop :=
  ∀ s : State, ClearsTo .arithClear 0x4100 [1, 2] none s ∧ ClearsTo .arrayStatsClear 0x4010 [1, 2, 3, 4, 5] none s ∧
    ClearsTo .vecStatsClear 0x4200 [1, 2, 3] none s ∧ ClearsTo .sfuStatsClear 0x4810 [1, 2, 3] none s ∧
    ClearsTo .rngStatsClear 0x4300 [1, 2, 3] none s ∧ ClearsTo .seqStatsClear 0x4400 [1, 2, 3, 4] none s ∧
    ClearsTo .cmdStatsClear 0x4510 [2, 3, 4, 5] (some 196) s ∧ ClearsTo .streamStatsClear 0x5000 [1, 2, 3] none s ∧
    (∀ k, k < 8 → ClearsTo (.gatherStatsClear k) (0x5100 + k) [1, 2, 3, 4, 6] (some (144 + k)) s) ∧
    ClearsTo .netStatsClear 0x3800 [1, 2, 3] none s ∧
    (∀ k, k < 8 → ClearsTo (.hbmStatsClear k) (0x3010 + k) [1, 2, 3, 4, 5, 6] (some (144 + k)) s) ∧
    ClearsTo .steppeStatsClear 0x5800 [1, 2, 3, 4] none s ∧ ClearsTo .cfgStatsClear 0x5910 [1, 2, 3, 4, 5, 6] none s ∧
    (∀ k, k < 4 → ClearsTo (.heonStatsClear k) (0x6010 + k) [1, 2, 3, 4, 5] (some (160 + 9 * k)) s) ∧
    ClearsTo .laneStatsClear 0x6810 [1, 2, 3] none s ∧ ClearsTo .peerStatsClear 0x7010 [1, 2, 3, 4, 5, 6] none s ∧
    ClearsTo .integrityStatsClear 0x7820 [1, 2, 3, 4, 5, 6, 7] none s ∧ ClearsTo .powerStatsClear 0x2010 [1, 2, 3] none s ∧
    ClearsTo .odStatsClear 0x1F02 [1, 2, 3, 4] none s ∧ ClearsTo .secStatsClear 0x9030 [1, 2, 3] (some 197) s ∧ ClearsMore s

/-- The ring registers (R198 to R203). -/
def Obligations.RingRegisters : Prop :=
  ∀ (q v : Nat) (s : State), q < 16 →
    (v % 65536 < 2 ^ (cqCtrlOf s q / 2 ^ 16 % 2 ^ 5) → ∃ t, exec (.cqTail q v) s = .next t ∧ RegisterPut s t (cqWin q 0x10) (v % 65536) ∧
      t = { s with win := t.win, ans := t.ans }) ∧
    (2 ^ (cqCtrlOf s q / 2 ^ 16 % 2 ^ 5) ≤ v % 65536 → ∃ t, exec (.cqTail q v) s = .next t ∧ RingRefused s t) ∧
    (v % 65536 < 2 ^ (cplCtrlOf s q / 2 ^ 16 % 2 ^ 5) → ∃ t, exec (.cplHead q v) s = .next t ∧ RegisterPut s t (cplWin q 0x14) (v % 65536) ∧
      tget false t.cp.full q = (tget false s.cp.full q &&
        decide ((winGet s (cplWin q 0x10) + 1) % 2 ^ (cplCtrlOf s q / 2 ^ 16 % 2 ^ 5) = v % 65536)) ∧ t = { s with win := t.win, ans := t.ans, cp := { s.cp with full := t.cp.full } }) ∧
    (2 ^ (cplCtrlOf s q / 2 ^ 16 % 2 ^ 5) ≤ v % 65536 → ∃ t, exec (.cplHead q v) s = .next t ∧ RingRefused s t) ∧
    (let new := Nat.land v 0x801F030F
     let log := v / 2 ^ 16 % 2 ^ 5
     let ok := 4 ≤ log ∧ log ≤ 16 ∧ ((cqCtrlOf s q).testBit 31 = true → cqCtrlOf s q % 2 ^ 31 = new % 2 ^ 31)
     (ok → ∃ t, exec (.cqCtrl q v) s = .next t ∧ RegisterPut s t (cqWin q 8) new ∧ t = { s with win := t.win, ans := t.ans }) ∧
     (¬ ok → ∃ t, exec (.cqCtrl q v) s = .next t ∧ RingRefused s t)) ∧
    (let new := Nat.land v 0x801F0010
     let old := cplCtrlOf s q
     let log := v / 2 ^ 16 % 2 ^ 5
     let ok := 4 ≤ log ∧ log ≤ 16 ∧ (old.testBit 31 = true → old % 2 ^ 31 = new % 2 ^ 31) ∧
       (old.testBit 31 = true → v.testBit 31 = false → ∀ c ∈ s.cp.inflight, cqCtrlOf s c.queue % 16 ≠ q)
     (ok → ¬ (v.testBit 31 = true ∧ old.testBit 31 = false) →
       ∃ t, exec (.cplCtrl q v) s = .next t ∧ RegisterPut s t (cplWin q 8) new ∧ t = { s with win := t.win, ans := t.ans }) ∧
     (ok → v.testBit 31 = true → old.testBit 31 = false →
       ∃ t, exec (.cplCtrl q v) s = .next t ∧ t.ans = (.done, 0) ∧ winGet t (cplWin q 8) = new ∧ winGet t (cplWin q 0x10) = 0 ∧
         tget false t.cp.phase q = true ∧ tget false t.cp.full q = false ∧
         ∀ a, a ≠ cplWin q 8 → a ≠ cplWin q 0x10 → winGet t a = winGet s a) ∧
     (¬ ok → ∃ t, exec (.cplCtrl q v) s = .next t ∧ RingRefused s t))

/-- COMMAND_FETCH (R202, R204 to R206, R530). -/
def Obligations.DescriptorFetch : Prop :=
  ∀ (q a h : Nat) (b : List Byte) (s : State), q < 16 →
    (cpServes s = false → exec .commandFetch s = .next s) ∧
    (cpServes s = true → ringOn (cqCtrlOf s q) = true → (∀ r, r < 16 → r ≠ q → ringOn (cqCtrlOf s r) = false) →
      unfetched s q = 1 → s.cp.inflight.length < 1024 → h = winGet s (cqWin q 0x14) →
      a = winGet s (cqWin q 0) + 64 * h → a < 2 ^ 52 → a % 64 = 0 → b.length = 64 → lineHeld s q a = some (b, false) →
      ∃ t, exec .commandFetch s = .next t ∧ t.cp.nextSeq = s.cp.nextSeq + 1 ∧
        winGet t (cqWin q 0x14) = (h + 1) % ringSize (cqCtrlOf s q) ∧ (∀ x, x ≠ cqWin q 0x14 → winGet t x = winGet s x) ∧
        t = { s with cp := t.cp, win := t.win, handed := t.handed } ∧
        (descFault b = none → (∀ e ∈ s.cp.inflight, e.tag ≠ fieldAt b 4 2) →
          t.handed = s.handed ∧ ∃ c : Cmd, t.cp.inflight = s.cp.inflight ++ [c] ∧ c.tag = fieldAt b 4 2 ∧ c.queue = q ∧ c.index = h ∧
            c.opcode = fieldAt b 7 1 ∧ c.target = fieldAt b 2 2 ∧ c.pipe = fieldAt b 1 1 ∧ c.notify = (fieldAt b 6 1).testBit 7 ∧
            c.cookie = fieldAt b 8 8 ∧ c.w2 = fieldAt b 16 8 ∧ c.w3 = fieldAt b 24 8 ∧ c.outcome = none ∧ c.taken = false) ∧
        (descFault b = none → (∃ e ∈ s.cp.inflight, e.tag = fieldAt b 4 2) →
          (∃ e : Event, e.code = 0x0702 ∧ e.cmd = some s.cp.nextSeq ∧ t.handed = s.handed ++ [e]) ∧
          ∃ c : Cmd, t.cp.inflight = s.cp.inflight ++ [c] ∧ c.tag = fieldAt b 4 2 ∧ c.dup = true ∧
            c.outcome = some (plainOutcome .formatError 0 0) ∧ c.committed = false) ∧
        (descFault b = some false → (∀ e ∈ s.cp.inflight, e.tag ≠ fieldAt b 4 2) → (∃ e : Event, e.code = 0x0701 ∧ e.cmd = some s.cp.nextSeq ∧ t.handed = s.handed ++ [e]) ∧
          ∃ c : Cmd, t.cp.inflight = s.cp.inflight ++ [c] ∧ c.tag = fieldAt b 4 2 ∧
            c.outcome = some (plainOutcome .formatError 0 0) ∧ c.committed = false))

/-- COMPLETION_WRITE (R203, R207, R226). -/
def Obligations.CompletionRecords : Prop :=
  ∀ (tag r : Nat) (c : Cmd) (o : Outcome) (s : State),
    (s.svc.testBit 2 = true → exec (.completionWrite tag) s = .next s) ∧
    (s.svc.testBit 2 = false → c ∈ s.cp.inflight → c.tag = tag → recordNext s c = true → c.outcome = some o →
      (∀ e ∈ s.cp.inflight, e.tag = tag → recordNext s e = true → e = c) → r = cqCtrlOf s c.queue % 16 → ringOn (cplCtrlOf s r) = true →
      (let next := (winGet s (cplWin r 0x10) + 1) % 2 ^ (cplCtrlOf s r / 2 ^ 16 % 2 ^ 5)
       (next ≠ winGet s (cplWin r 0x14) →
        ∃ t, ∃ e : ExtReq, exec (.completionWrite tag) s = .next t ∧ t.ext = s.ext ++ [e] ∧ e.wr = true ∧
          e.addr = winGet s (cplWin r 0) + 32 * winGet s (cplWin r 0x10) ∧ e.len = 32 ∧
          e.bytes = recordBytes c o (tget false s.cp.phase r) ∧
          winGet t (cplWin r 0x10) = next ∧ (∀ a, a ≠ cplWin r 0x10 → winGet t a = winGet s a) ∧
          t.cp.inflight = s.cp.inflight.filter (fun x => x.seq != c.seq) ∧
          tget false t.cp.phase r = (if next = 0 then !tget false s.cp.phase r else tget false s.cp.phase r) ∧
          odRaw t 0x451002 = (odRaw s 0x451002 + 1) % 2 ^ 64 ∧
          t = { s with ext := t.ext, win := t.win, cp := t.cp, od := t.od }) ∧
       (next = winGet s (cplWin r 0x14) → tget false s.cp.full r = false →
        ∃ t, ∃ e : Event, exec (.completionWrite tag) s = .next t ∧ e.code = 0x0706 ∧ t.handed = s.handed ++ [e] ∧
          tget false t.cp.full r = true ∧ t = { s with handed := t.handed, cp := { s.cp with full := t.cp.full } }) ∧
       (next = winGet s (cplWin r 0x14) → tget false s.cp.full r = true → exec (.completionWrite tag) s = .next s)))

/-- LOAD_PLACEMENT, PLACEMENT_RELEASE and START_PIPELINE (R209 to R213). -/
def Obligations.Placements : Prop :=
  ∀ (tag : Nat) (c : Cmd) (s : State),
    (Awaits s tag 1 c → MayAct s c → c.w3.testBit 32 = false → ∀ (img : List Byte) (u : State),
      cpRead (takenUp s c) (readerOf c.seq) c.w2 (c.w3 % 2 ^ 32) = (u, some (img, .done)) →
      (imageFaultOf u c.pipe img = none → (∀ e ∈ imageUnits img false, katHolds u e.1 = false) → u.power.sw = [] →
        ∃ t, exec (.loadPlacement tag) s = .next t ∧ Decided t c (plainOutcome .done (fieldAt img 6 2) (fieldAt img 0x20 4)) ∧
          (pipe t c.pipe).st = .loaded ∧ (pipe t c.pipe).stages = imageStages u img ∧
          ∀ g d, g ∈ imageStages u img → d ∈ stageDales g → (∀ h ∈ imageStages u img, d ∈ stageDales h → h = g) →
            (dale t d).pipe = some c.pipe ∧ (dale t d).pc = g.entry ∧ (dale t d).running = false ∧ (dale t d).trap = none ∧
              (dale t d).lockstep = g.lockstep ∧ (dale t d).hd7 = g.hd7) ∧
      (∀ st k j, imageFaultOf u c.pipe img = some (st, k, j) → st ≠ .authFail →
        ∃ t, ∃ e : Event, exec (.loadPlacement tag) s = .next t ∧ Decided t c ⟨st, 0, 0, refusingDale u c.pipe img st, 0⟩ ∧ e.code = 0x0703 ∧
          t.handed = u.handed ++ [e] ∧ OnlyCp u t)) ∧
    (Awaits s tag 1 c → MayAct s c → c.w3.testBit 32 = true → s.power.sw = [] →
      ∃ t, exec (.placementRelease tag) s = .next t ∧ Decided t c (plainOutcome .done 0 0) ∧
        (pipe t c.pipe).st = .empty ∧ (pipe t c.pipe).stages = [] ∧
        ∀ d ∈ pipeDales (pipe s c.pipe), (dale t d).pipe = none ∧ (dale t d).partner = none ∧ (dale t d).running = false) ∧
    (Awaits s tag 2 c → MayAct s c → startable (pipe s c.pipe).st = true →
      (∀ d ∈ pipeDales (pipe s c.pipe), (dale s d).isolated = false) →
      ∃ t, exec (.startPipeline tag) s = .next t ∧ Decided t c (plainOutcome .done (pipe s c.pipe).stages.length 0) ∧
        pipe t c.pipe = { pipe s c.pipe with st := .idle, epoch := c.w2 % 65536, haltStatus := .done, haltBasin := noBasin } ∧
        t.mem = s.mem ∧ t.synd = s.synd ∧
        ∀ g d, g ∈ (pipe s c.pipe).stages → d ∈ stageDales g → (∀ h ∈ (pipe s c.pipe).stages, d ∈ stageDales h → h = g) →
          (dale t d).pc = g.entry ∧ (dale t d).trap = none ∧ (dale t d).running = false ∧ (dale t d).stopped = false ∧
            (∀ k, k < 32 → semOf (dale t d) k = fieldAt g.sync (4 * k) 4) ∧ (dale t d).x = (dale s d).x ∧ (dale t d).v = (dale s d).v) ∧
    (Awaits s tag 2 c → MayAct s c → startable (pipe s c.pipe).st = false →
      ∃ t, exec (.startPipeline tag) s = .next t ∧ Decided t c (plainOutcome .formatError 0 0) ∧ OnlyCp s t ∧ t.handed = s.handed)

/-- RUN_STEP, RUN, END_REPORT, STEP_END and STEP_WATCHDOG (R213 to R219). -/
def Obligations.PipelineSteps : Prop :=
  ∀ (tag p : Nat) (c : Cmd) (s : State),
    (Awaits s tag 3 c → MayAct s c → c.taken = false → (pipe s c.pipe).st = .idle →
      (∀ d ∈ pipeDales (pipe s c.pipe), rtValid (routeEntry s cmdCol (0x100 + daleCol d)) = true) → (ni s cmdCol).state < 2 →
      ∃ t, exec (.runStep tag) s = .next t ∧ (pipe t c.pipe).st = .running ∧ (pipe t c.pipe).run = some c.seq ∧
        (pipe t c.pipe).inStep = true ∧ (pipe t c.pipe).epoch = (pipe s c.pipe).epoch ∧
        ∃ tags : Nat → Nat,
          (ni t cmdCol).toInject = (ni s cmdCol).toInject ++ ((pipeDales (pipe s c.pipe)).map fun d =>
            mkPacket (routeEntry s cmdCol (0x100 + daleCol d)) tyRun cmdCol (tags d) 0 0 0 (pipe s c.pipe).epoch 0 false []) ∧
          (ni t cmdCol).out = (ni s cmdCol).out ++ ((pipeDales (pipe s c.pipe)).map fun d =>
            ⟨tags d, tyRun, 0, 0, 6000, c.pipe, d, (pipe s c.pipe).epoch, false⟩)) ∧
    (Awaits s tag 3 c → MayAct s c → c.taken = false → (pipe s c.pipe).st = .halted →
      ∃ t, exec (.runStep tag) s = .next t ∧ OnlyCp s t ∧ t.handed = s.handed ∧
        Decided t c ⟨(pipe s c.pipe).haltStatus, 0, c.w2 % 65536, (pipe s c.pipe).haltBasin, 0⟩) ∧
    (∀ (d n : Nat) (q : Packet), d < 512 → Served s (daleCol d) q tyRun n → (dale s d).pipe = some p →
      (((pipe s p).st = .running ∧ (pipe s p).inStep = true ∧ (pipe s p).halting = none ∧ q.epoch = (pipe s p).epoch ∧
          (dale s d).running = false ∧ (dale s d).report = none ∧ (dale s d).trap = none) →
        ∃ t, exec (.run (daleCol d) q) s = .next t ∧ t = { packetTaken s (daleCol d) q n with dales := t.dales } ∧
          (dale t d).running = true ∧ (dale t d).stopped = false ∧ (dale t d).pc = (dale s d).pc ∧ (dale t d).x = (dale s d).x ∧
          (dale t d).mxWest = false ∧ (dale t d).mxEast = false ∧ ∀ e, e ≠ d → dale t e = dale s e) ∧
      (¬ ((pipe s p).st = .running ∧ (pipe s p).inStep = true ∧ (pipe s p).halting = none ∧ q.epoch = (pipe s p).epoch ∧
          (dale s d).running = false ∧ (dale s d).report = none ∧ (dale s d).trap = none) →
        exec (.run (daleCol d) q) s = .next (packetTaken s (daleCol d) q n))) ∧
    (∀ (k n : Nat) (q : Packet) (r : Request), Served s k q tyEndReport n → Outstanding s k q [tyRun] r →
      (dale s r.row).pipe = some r.chan → (pipe s r.chan).epoch = r.off → (pipe s r.chan).st = .running →
      tget none (pipe s r.chan).reports r.row = none →
      ∃ t, exec (.endReport k q) s = .next t ∧ tget none (pipe t r.chan).reports r.row = some (statusOf q.status) ∧
        (ni t k).out = (ni s k).out.erase r ∧
        (statusOf q.status = .done → (pipe t r.chan).halting = (pipe s r.chan).halting ∧
          t = { s with pipes := t.pipes, net := t.net, free := t.free }) ∧
        (statusOf q.status ≠ .done → (pipe s r.chan).halting = none → (pipe t r.chan).halting = some none)) ∧
    (p < 256 → (pipe s p).st = .running → (pipe s p).inStep = true → (pipe s p).halting = none →
      (∀ d ∈ pipeDales (pipe s p), tget none (pipe s p).reports d = some .done ∧ (dale s d).isolated = false ∧ (dale s d).poisonSent = 0) →
      (∀ e ∈ s.handed, ∀ k ∈ e.strike, k.1 ∉ pipeDales (pipe s p)) →
      openOptimistic s = [] → (pipe s p).deferred = [] → (pipe s p).run = some c.seq → cmdAt s c.seq = some c →
      s.cp.inflight.find? (fun x => x.opcode == 3 && x.pipe == p && x.taken) = some c → c.outcome = none →
      ∃ t, exec (.stepEnd p) s = .next t ∧ (pipe t p).inStep = false ∧ (pipe t p).epoch = ((pipe s p).epoch + 1) % 65536 ∧
        (pipe t p).committed = (pipe s p).epoch ∧ t.handed = s.handed ∧
        (c.stepsDone + 1 < c.w2 % 65536 → (pipe t p).st = .running ∧ ∃ e, cmdAt t c.seq = some e ∧ e.stepsDone = c.stepsDone + 1 ∧ e.outcome = none) ∧
        (c.w2 % 65536 ≤ c.stepsDone + 1 → (pipe t p).st = .idle ∧ (pipe t p).run = none ∧
          Decided t c ⟨.done, c.stepsDone + 1, c.w2 % 65536, noBasin, ((pipe s p).epoch + 1 + 65535) % 65536⟩)) ∧
    (p < 256 → (pipe s p).st = .running → (pipe s p).inStep = true → (pipe s p).halting.isSome = true →
      (∀ d ∈ pipeDales (pipe s p), dalePartDone s (pipe s p) d = true ∧ (dale s d).poisonSent = 0) →
      (∀ e ∈ s.handed, ∀ k ∈ e.strike, k.1 ∉ pipeDales (pipe s p)) →
      pipeRegions (pipe s p) = [] → (pipe s p).disable = none → (pipe s p).run = some c.seq → cmdAt s c.seq = some c → c.outcome = none →
      ∃ t, ∃ e : Event, exec (.stepEnd p) s = .next t ∧ (pipe t p).st = .halted ∧ (pipe t p).run = none ∧
        (pipe t p).epoch = ((pipe s p).epoch + 1) % 65536 ∧ (pipe t p).haltStatus = (haltOutcome s (pipe s p)).1 ∧
        e.code = 0x0705 ∧ t.handed = s.handed ++ [e] ∧
        Decided t c ⟨(haltOutcome s (pipe s p)).1, 0, c.w2 % 65536, (haltOutcome s (pipe s p)).2, (pipe s p).epoch⟩) ∧
    (p < 256 → (pipe s p).st = .running → (pipe s p).inStep = true → (pipe s p).halting = none → pipeRegions (pipe s p) = [] →
      ∃ t, ∃ e : Event, exec (.stepWatchdog p) s = .next t ∧ (pipe t p).halting = some (some .timeout) ∧ (pipe t p).st = .running ∧
        e.code = 0x0704 ∧ e.sev = sevError ∧ e.source = pipeSource (pipe s p) ∧ t.handed = s.handed ++ [e] ∧
        ∀ d ∈ pipeDales (pipe s p), (dale s d).report = none → (dale s d).trap = none → (dale t d).stopped = true)

/-- FENCE and FENCE_COMPLETE (R217), ABORT (R220), and the four parts of DISABLE_FUNCTION (R221). -/
def Obligations.CommandControl : Prop :=
  ∀ (tag : Nat) (c e : Cmd) (s : State),
    (Awaits s tag 9 c → c.taken = false → cmdReady s c = true →
      ∃ t, exec (.fence tag) s = .next t ∧ OnlyCp s t ∧ t.handed = s.handed ∧ cmdAt t c.seq = some { c with
        taken := true, waited := (s.cp.inflight.filter fun x => x.seq < c.seq && (c.w2.testBit 0 || x.queue == c.queue)).map (·.seq) }) ∧
    (Awaits s tag 9 c → c.taken = true →
      ((∀ q ∈ c.waited, cmdAt s q = none) → ∃ t, exec (.fenceComplete tag) s = .next t ∧ OnlyCp s t ∧ t.handed = s.handed ∧
        Decided t c (plainOutcome .done c.waited.length 0)) ∧
      ((∃ q ∈ c.waited, cmdAt s q ≠ none) → exec (.fenceComplete tag) s = .next s)) ∧
    (Awaits s tag 6 c → c.w2 % 65536 ≠ c.tag →
      (s.cp.inflight.find? (fun x => x.tag == c.w2 % 65536 && !x.dup && x.seq < c.seq) = none →
        ∃ t, exec (.abort tag) s = .next t ∧ OnlyCp s t ∧ Decided t c (plainOutcome .nothingToAbort (c.w2 % 65536) 0)) ∧
      (s.cp.inflight.find? (fun x => x.tag == c.w2 % 65536 && !x.dup && x.seq < c.seq) = some e → cmdAt s e.seq = some e →
        (e.opcode = 6 → ∃ t, exec (.abort tag) s = .next t ∧ OnlyCp s t ∧ Decided t c (plainOutcome .formatError (c.w2 % 65536) 0)) ∧
        (∀ o, e.opcode ≠ 6 → e.outcome = some o → ∃ t, exec (.abort tag) s = .next t ∧ OnlyCp s t ∧
          Decided t c (plainOutcome .nothingToAbort (c.w2 % 65536) (statusCode o.status))) ∧
        (e.opcode ≠ 6 → e.outcome = none → (e.taken = false ∨ (e.opcode ≠ 3 ∧ e.opcode ≠ 8)) →
          ∃ t, exec (.abort tag) s = .next t ∧ OnlyCp s t ∧
          Decided t e (plainOutcome .aborted (if e.opcode = 4 then e.stepsDone else 0)
            (if e.opcode = 3 then e.w2 % 65536 else if e.opcode = 4 then e.stepsDone else 0)) ∧
          Decided t c (plainOutcome .done (c.w2 % 65536) (statusCode .aborted))) ∧
        (e.opcode = 3 → e.outcome = none → e.taken = true → (pipe s e.pipe).st = .running → (pipe s e.pipe).inStep = true →
          (pipe s e.pipe).halting = none → ∃ t, exec (.abort tag) s = .next t ∧
          (pipe t e.pipe).halting = some (some .aborted) ∧ Decided t c (plainOutcome .done (c.w2 % 65536) (statusCode .aborted))))) ∧
    (Awaits s tag 6 c → c.w2 % 65536 = c.tag →
      ∃ t, exec (.abort tag) s = .next t ∧ OnlyCp s t ∧ Decided t c (plainOutcome .formatError (c.w2 % 65536) 0)) ∧
    (Awaits s tag 7 c → fnOption c = 0 → c.taken = false →
      (fnKind c = 0 → (pipe s (fnIndex c)).disable = none → ∃ t, exec (.functionDrain tag) s = .next t ∧
        pipe t (fnIndex c) = { pipe s (fnIndex c) with
          disable := some .drained, draining := true, disableAt := c.seq }) ∧
      (fnKind c ≠ 0 → tget none s.cp.off (fnKey c) = none → ∃ t, exec (.functionDrain tag) s = .next t ∧
        tget none t.cp.off (fnKey c) = some .drained)) ∧
    (Awaits s tag 7 c → fnOption c = 0 → c.taken = true → fnDrained s c = true →
      ∃ t, ∃ v : Event, exec (.functionDrained tag) s = .next t ∧ Decided t c (plainOutcome .drained c.passed 0) ∧
        v.code = 0x0708 ∧ v.cmd = some c.seq ∧ t.handed = s.handed ++ [v] ∧
        (fnKind c = 0 → (pipe s (fnIndex c)).draining = true →
          (pipe t (fnIndex c)).st = if (pipe s (fnIndex c)).affected then .halted else .disabled)) ∧
    (Awaits s tag 7 c → fnOption c = 1 → c.taken = false → (fnKind c = 1 ∨ fnKind c = 2) → unitWork s (fnKind c) (fnIndex c) = 0 →
      (fnKind c = 2 → (peerPort s (fnIndex c)).epochs = []) →
      ∃ t, ∃ v : Event, exec (.functionCut tag) s = .next t ∧ Decided t c (plainOutcome .poisoned 0 0) ∧
        tget none t.cp.off (fnKey c) = some .poisoned ∧ v.code = 0x0708 ∧ t.handed = s.handed ++ [v]) ∧
    (Awaits s tag 7 c → fnOption c = 1 → c.taken = false → fnKind c = 0 → pipeRegions (pipe s (fnIndex c)) = [] →
      ((pipe s (fnIndex c)).st = .running → (pipe s (fnIndex c)).inStep = true → (pipe s (fnIndex c)).halting = none →
        ∃ t, ∃ v : Event, exec (.functionCut tag) s = .next t ∧ (pipe t (fnIndex c)).halting = some (some .poisoned) ∧
          (pipe t (fnIndex c)).disable = some .poisoned ∧ v.code = 0x0708 ∧ t.handed = s.handed ++ [v] ∧
          ∃ x, cmdAt t c.seq = some x ∧ x.taken = true ∧ x.outcome = none) ∧
      ((pipe s (fnIndex c)).st = .idle → (pipe s (fnIndex c)).affected = false → (pipe s (fnIndex c)).haltStatus = .done →
        ∃ t, ∃ v : Event, exec (.functionCut tag) s = .next t ∧ (pipe t (fnIndex c)).st = .disabled ∧
          (pipe t (fnIndex c)).haltStatus = .poisoned ∧ v.code = 0x0708 ∧ t.handed = s.handed ++ [v] ∧
          Decided t c (plainOutcome .poisoned 0 (earlierCmds s (fnIndex c) c.seq).length))) ∧
    (∀ st, Awaits s tag 3 c → cmdReady s c = true → c.taken = false → (pipe s c.pipe).disable = some st → (pipe s c.pipe).disableAt ≤ c.seq →
      ∃ t, exec (.runStep tag) s = .next t ∧ OnlyCp s t ∧ Decided t c ⟨st, 0, c.w2 % 65536, noBasin, 0⟩) ∧
    (Awaits s tag 7 c → fnOption c = 2 → c.taken = false →
      (∃ t, ∃ v : Event, exec (.functionEnable tag) s = .next t ∧ Decided t c (plainOutcome .done 0 0) ∧
        v.code = 0x0708 ∧ t.handed = s.handed ++ [v] ∧
        (fnKind c ≠ 0 → tget none t.cp.off (fnKey c) = none) ∧
        (fnKind c = 0 → (pipe t (fnIndex c)).disable = none ∧
          ((pipe s (fnIndex c)).disable.isSome = true → (pipe s (fnIndex c)).st = .disabled →
            (pipe t (fnIndex c)).st = if (pipe s (fnIndex c)).disable = some .drained then .idle else .halted))))

/-- SAVE_CONTEXT and RESTORE_CONTEXT (R222 to R225), KAT_RUN, KAT_KERNEL_DONE and KAT_SCHEDULE (R440, R441). -/
def Obligations.ContextsAndKernels : Prop :=
  ∀ (tag : Nat) (c : Cmd) (s : State),
    (Awaits s tag 4 c → MayAct s c → c.taken = false → (pipe s c.pipe).st = .idle → c.w2 < 2 ^ 48 → c.w3 < 2 ^ 32 →
      (ctxImage (takenUp s c) c.pipe c.target).2.length + 4 ≤ c.w3 →
      ∃ t, ∃ e : ExtReq, exec (.saveContext tag) s = .next t ∧ t.ext = s.ext ++ [e] ∧ e.wr = true ∧ e.addr = c.w2 ∧
        e.bytes = leBytes 4 0 ++ (ctxImage (takenUp s c) c.pipe c.target).2 ∧ e.poison = false ∧
        ∃ x, cmdAt t c.seq = some x ∧ x.taken = true ∧ x.outcome = none ∧ x.stepsDone = e.bytes.length) ∧
    (Awaits s tag 4 c → c.taken = true → writesPending s c.seq = false → c.w2 < 2 ^ 48 →
      (∀ d ∈ basinDales c.target, (dale s d).isolated = false) →
      ∃ t, ∃ e : ExtReq, exec (.saveContext tag) s = .next t ∧ t.ext = s.ext ++ [e] ∧ e.wr = true ∧ e.addr = c.w2 ∧
        e.bytes = leBytes 4 0x58544C43 ∧ Decided t c (plainOutcome .done c.stepsDone c.stepsDone)) ∧
    (Awaits s tag 5 c → MayAct s c → startable (pipe s c.pipe).st = true → ∀ (b : List Byte) (u : State),
      cpRead (takenUp s c) (readerOf c.seq) c.w2 (c.w3 % 2 ^ 32) = (u, some (b, .done)) →
      (∀ rs, ctxFault u c.pipe c.target b = .inr rs →
        ∃ t, exec (.restoreContext tag) s = .next t ∧
          Decided t c (basinOutcome u c.target (c.w3 % 2 ^ 32) ((rs.map ctxSize).foldl max 0)) ∧
          (pipe t c.pipe).st = .idle ∧ (pipe t c.pipe).epoch = (pipe s c.pipe).epoch ∧
          ∀ g r d, (g, r) ∈ (contextStages u c.pipe c.target).zip rs → d ∈ stageDales g → r.lanes = 64 →
            (∀ h ∈ (contextStages u c.pipe c.target).zip rs, d ∈ stageDales h.1 → h = (g, r)) →
            (dale t d).pc = fieldAt (r.parts.getD 0 []) 0 8 ∧ (dale t d).trap = none ∧ (dale t d).running = false ∧
            ∀ n, 1 ≤ n → n < 32 → xget (dale t d) n = BitVec.ofNat 64 (fieldAt (r.parts.getD 0 []) (8 * n) 8)) ∧
      (∀ f, ctxFault u c.pipe c.target b = .inl (some f) →
        ∃ t, ∃ e : Event, exec (.restoreContext tag) s = .next t ∧ OnlyCp u t ∧ e.code = 0x0707 ∧ t.handed = u.handed ++ [e] ∧
          Decided t c ⟨f.1, c.w3 % 2 ^ 32, ctxLargest u c b, f.2, 0⟩)) ∧
    (Awaits s tag 8 c → c.taken = false → cmdReady s c = true →
      (∀ d, (basinDales c.target).find? (dalePlaced s) = some d → ∃ t, exec (.katRun tag) s = .next t ∧ OnlyCp s t ∧
        Decided t c ⟨.noCapacity, 0, 0, daleSource d, 0⟩) ∧
      (∀ b ks, (∀ d ∈ basinDales c.target, dalePlaced s d = false ∧ katHolds s d = false) → maskKernels c.w2 = b :: ks →
        (∃ d ∈ basinDales c.target, (dale s d).isolated = false ∧ daleOn s d = true) →
        ∃ t k, exec (.katRun tag) s = .next t ∧ t.cp.kats = s.cp.kats ++ [k] ∧ k.cmd = some c.seq ∧ k.mask = c.w2 ∧
          ∀ d ∈ basinDales c.target, ((dale s d).isolated = false ∧ daleOn s d = true →
            (d, b :: ks) ∈ k.left ∧ (dale t d).kat = b + 1 ∧ (dale t d).pc = 0 ∧ (dale t d).running = true) ∧
            (¬ ((dale s d).isolated = false ∧ daleOn s d = true) → dale t d = dale s d))) ∧
    (∀ (d kernel b : Nat) (k : KatRun) (rest : List Nat) (digest : List Byte), d < 512 → kernel < 24 →
      s.cp.kats.find? (fun k => k.left.any fun e => e.1 == d) = some k →
      (dale s d).isolated = false → (dale s d).kat = kernel + 1 → d ∉ k.rerun →
      (k.left.find? (fun e => e.1 == d) = some (d, kernel :: b :: rest) → digest = Config.katDigest kernel →
        ∃ t, exec (.katKernelDone d kernel digest) s = .next t ∧ (dale t d).kat = b + 1 ∧ (dale t d).pc = 0 ∧ (dale t d).running = true ∧
          odRaw t 0x782002 = (odRaw s 0x782002 + 1) % 2 ^ 64 ∧ ∀ e, e ≠ d → dale t e = dale s e) ∧
      (k.left.find? (fun e => e.1 == d) = some (d, kernel :: b :: rest) → digest ≠ Config.katDigest kernel →
        ∃ t, ∃ e : Event, exec (.katKernelDone d kernel digest) s = .next t ∧ (dale t d).kat = kernel + 1 ∧ (dale t d).running = true ∧
          e.code = 0x1004 ∧ e.source = daleSource d ∧ e ∈ t.handed ∧
          odRaw t 0x782002 = (odRaw s 0x782002 + 1) % 2 ^ 64 ∧ odRaw t 0x782003 = (odRaw s 0x782003 + 1) % 2 ^ 64 ∧
          ∃ k' ∈ t.cp.kats, d ∈ k'.rerun ∧ k'.failed.testBit kernel = true)) ∧
    (∀ entry, 1 ≤ entry → entry ≤ 64 → (odRaw s (odKey 0x7801 entry)).testBit 15 = true → odRaw s (odKey 0x7801 entry) % 4096 ≠ 0 →
      (∃ d ∈ basinDales (odRaw s (odKey 0x7801 entry) / 65536), (policyOf s d).map (·.1) = some entry ∧
        (dale s d).isolated = false ∧ daleOn s d = true ∧ dalePlaced s d = false ∧ katHolds s d = false) →
      ∃ t k, exec (.katSchedule entry) s = .next t ∧ t.cp.kats = s.cp.kats ++ [k] ∧ k.cmd = none ∧ k.mask = 2 ^ 24 - 1 ∧
        ∀ d ∈ basinDales (odRaw s (odKey 0x7801 entry) / 65536), (policyOf s d).map (·.1) = some entry → (dale s d).isolated = false →
          daleOn s d = true → dalePlaced s d = false → katHolds s d = false → (dale t d).kat = 1 ∧ (dale t d).running = true)

/-- SSTART and TCOPY (R186, R228, R231, R233), the fetch of block lists (R231), the issue of requests (R235, R236), and the
multicast exchange (R238 to R240). Where a READY carries ROWS and ELEMS, and a cancel that comes before its block begins, are the
model's (log entry 67). -/
def Obligations.StreamBlocks : Prop :=
  ∀ (d c : Nat) (s : State), d < 512 → c < 16 →
    (∀ f : RInst, immR f % 16 = c → queueOf (dale s d) 6 = [] → canIssue s d = true → (chanOf (dale s d) c).halted = none →
      (f.s % 32 ≠ 0 → (chanOf (dale s d) c).opening = false → (xget (dale s d) f.s).toNat % 32 = 0 → (xget (dale s d) f.s).toNat ≤ 0xBFFE0 →
        ∃ t, exec (.sstart d f) s = .next t ∧ t = { s with dales := t.dales } ∧ (dale t d).pc = (dale s d).pc ∧
          ChannelSet s t d c { chanOf (dale s d) c with
            isOpen := true, opening := true, listOff := (xget (dale s d) f.s).toNat, fetched := [], ended := false }) ∧
      (∀ (w : List W64) (rest : List (List W64)) (b0 : Block), (f.s % 32 = 0 ∨ (chanOf (dale s d) c).opening = true) →
        (chanOf (dale s d) c).isOpen = true → (chanOf (dale s d) c).ended = false → (chanOf (dale s d) c).fetched = w :: rest →
        hazard (dale s d) (encR 6 1 f) w = false → smConflict (dale s d) (some c) f.d (!descReads w) = false →
        (chanOf (dale s d) c).blocks.head? = some b0 → b0.begun = true → PortsIdle s d →
        ∃ t, exec (.sstart d f) s = .next t ∧ t = { s with dales := t.dales, od := t.od } ∧ (dale t d).pc = (dale s d).pc + 8 ∧
          ChannelSet s t d c { chanOf (dale s d) c with
            opening := false, fetched := rest, ended := wbits (w.getD 1 0#64) 57 57 == 1,
            blocks := (chanOf (dale s d) c).blocks ++ [blockOf w (f.d % 16) (dale s d).issueNo (dale s d).pc] })) ∧
    (∀ ws : List W64, (chanOf (dale s d) c).isOpen = true → (chanOf (dale s d) c).ended = false → (chanOf (dale s d) c).halted = none →
      (chanOf (dale s d) c).fetched = [] → daleOn s d = true → (dale s d).isolated = false →
      (chanOf (dale s d) c).listOff % 32 = 0 → (chanOf (dale s d) c).listOff ≤ 0xBFFE0 → DescAt s d (chanOf (dale s d) c).listOff ws →
      wbits (ws.getD 1 0#64) 63 60 ≠ 15 → wbits (ws.getD 1 0#64) 57 57 = 1 →
      ∃ t, exec (.streamListFetch d c) s = .next t ∧ t = { s with dales := t.dales } ∧
        ChannelSet s t d c { chanOf (dale s d) c with listOff := (chanOf (dale s d) c).listOff + 32, fetched := [ws] }) ∧
    (∀ (f : RInst) (a o : Slot), f.imm.getLsbD 0 = false → (queueOf (dale s d) 6 = [] ∧ Ready s d (encR 6 2 f)) ∨
        (∃ e, smNext (dale s d) = some e ∧ wclass e.word = 6 ∧ wop e.word = 2 ∧ decR e.word = f) →
      slotOf (dale s d) f.a = some a → slotOf (dale s d) f.d = some o → SlotFits a → SlotFits o → a.fmt = o.fmt → o.cls = true →
      (a.fmt = .pair → a.cls = true) →
      smConflict (dale s d) none f.a false = false → smConflict (dale s d) none f.d true = false → a.fill % 2 ^ a.rows = 2 ^ a.rows - 1 →
      StoreClean s d → (slotEnd a ≤ o.base ∨ slotEnd o ≤ a.base) →
      ∃ t z, exec (.tcopy d f) s = .next t ∧ t = { s with dales := t.dales, od := t.od, mem := t.mem, synd := t.synd } ∧
        slotOf (dale t d) f.d = some z ∧ z.fill = 2 ^ o.rows - 1 ∧ z.base = o.base ∧ z.fmt = o.fmt ∧
        ∀ r i, r < a.rows → r < o.rows → i < a.rowBytes * 8 / fmtBits a.fmt → i < o.rowBytes * 8 / fmtBits o.fmt →
          slotElem t d z r i = operandElem s d a r i) ∧
    (∀ b : Block, frontBlock s d c = some b → daleOn s d = true → (dale s d).isolated = false → (ni s (daleCol d)).state = 0 →
      PortsIdle s d → requestReady s d c = true → (∀ k, k < 16 → k ≠ c → requestReady s d k = false) →
      b.kind = 0 → b.outbound = false → b.space = 0 →
      (pieceAt b (b.next / 65536) (b.next % 65536)).1 + (pieceAt b (b.next / 65536) (b.next % 65536)).2 ≤ 2 ^ 52 →
      ∃ t, ∃ e : ExtReq, exec (.streamRequestIssue d) s = .next t ∧ t.ext = s.ext ++ [e] ∧ e.wr = false ∧
        (e.addr, e.len) = pieceAt b (b.next / 65536) (b.next % 65536) ∧ e.origin = ⟨d, c, b.next, b.no⟩ ∧
        t = { s with dales := t.dales, ext := t.ext } ∧
        frontBlock t d c = some { b with
          next := pieceNext b (pieceAt b (b.next / 65536) (b.next % 65536)).2, waiting := b.waiting + 1 }) ∧
    (∀ (leaf n : Nat) (q : Packet) (b : Block), leaf < 512 → q.srcCol = daleCol leaf → Served s (daleCol d) q tyMcastReady n →
      (lacksReady s d q.aux leaf = some c → frontBlock s d c = some b → fieldAt q.payload 0 2 = b.rows → fieldAt q.payload 2 2 = b.elems →
        ∃ t, exec (.mcastReady (daleCol d) q) s = .next t ∧ t = { packetTaken s (daleCol d) q n with dales := t.dales } ∧
          frontBlock t d c = some { b with ready := b.ready ++ [leaf] }) ∧
      (lacksReady s d q.aux leaf = some c → frontBlock s d c = some b → b.kind = 2 →
        (fieldAt q.payload 0 2 ≠ b.rows ∨ fieldAt q.payload 2 2 ≠ b.elems) →
        ∃ t, ∃ e : Event, exec (.mcastReady (daleCol d) q) s = .next t ∧ (chanOf (dale t d) c).halted = some .formatError ∧
          (chanOf (dale t d) c).blocks = [] ∧ e.code = 0x0801 ∧ e.source = daleSource d ∧ e ∈ t.handed) ∧
      (lacksReady s d q.aux leaf = none → (∀ e ∈ (dale s d).cancels, e.1 = 512 → e.2.1 ≠ q.aux) →
        ∃ t, exec (.mcastReady (daleCol d) q) s = .next t ∧ t = { packetTaken s (daleCol d) q n with dales := t.dales } ∧
          dale t d = { dale s d with
            readies := (dale s d).readies ++ [(leaf, fieldAt q.payload 0 2, fieldAt q.payload 2 2, q.aux)] })) ∧
    (∀ (leaf n l : Nat) (q : Packet) (b : Block), leaf < 512 → q.srcCol = daleCol leaf → Served s (daleCol d) q tyMcastAck n →
      lacksAck s d q.aux leaf = some c → frontBlock s d c = some b → (∀ k e, k ≠ c → frontBlock s d k = some e → e.kind ≠ 2) →
      l ∈ leafDales s d b → l ∉ b.acked → l ≠ leaf →
      ∃ t, exec (.mcastAck (daleCol d) q) s = .next t ∧ t = { packetTaken s (daleCol d) q n with dales := t.dales, handed := t.handed } ∧
        frontBlock t d c = some { b with acked := b.acked ++ [leaf] } ∧
        (q.status = 0 → t.handed = s.handed ∧ (chanOf (dale t d) c).latched = (chanOf (dale s d) c).latched) ∧
        (q.status ≠ 0 → (chanOf (dale s d) c).latched = none → (chanOf (dale t d) c).latched = some (statusOf q.status) ∧
          ∃ e : Event, e.code = 0x0802 ∧ e.source = daleSource d ∧ t.handed = s.handed ++ [e])) ∧
    (∀ (sender n : Nat) (q : Packet) (b : Block), sender < 512 → q.srcCol = daleCol sender → Served s (daleCol d) q tyMcastCancel n →
      (takesGroup s d sender q.aux = some c → frontBlock s d c = some b →
        ∃ t, ∃ e : Event, exec (.mcastCancel (daleCol d) q) s = .next t ∧ (chanOf (dale t d) c).halted = some (statusOf q.status) ∧
          (chanOf (dale t d) c).blocks = [] ∧ e.code = 0x0801 ∧ e.source = daleSource d ∧ t.handed = s.handed ++ [e]) ∧
      (takesGroup s d sender q.aux = none →
        ∃ t, exec (.mcastCancel (daleCol d) q) s = .next t ∧ t = { packetTaken s (daleCol d) q n with dales := t.dales } ∧
          dale t d = { dale s d with cancels := (dale s d).cancels ++ [(sender, q.aux, statusOf q.status)] }))

/-- GATHER_LOOKUP (R244) and the reload of the hot-key directory (R248 to R252). -/
def Obligations.GatherEngines : Prop :=
  ∀ (k : Nat) (s : State), k < 8 →
    (∀ (d c row : Nat) (l : Lookup) (b : Block), d < 512 → c < 16 →
      (gather s k).waiting.find? (fun l => l.dale == d && l.chan == c && l.row == row) = some l → domainOn s (144 + k) = true →
      (gather s k).misses.length + piecesOf (b.addr + l.key * b.rowStride) l.len ≤ 2048 → frontBlock s d c = some b → b.begun = true → b.no = l.no →
      (∀ (e : Nat) (g2 : Gather) (bs : List Byte) (po : Bool) (t0 : Slot),
        gatherFind { gather s k with waiting := (gather s k).waiting.erase l } (Nat.xor l.key (b.args / 2 ^ 48 * 2 ^ 48)) l.len =
          ({ gather s k with waiting := (gather s k).waiting.erase l }, some e) →
        readLines { gather s k with waiting := (gather s k).waiting.erase l } (deSlot e) ((l.len + 63) / 64) [] false = .inl (g2, bs, po) →
        b.kind = 1 → b.outbound = false → b.transpose = false → isOperand b = false → gatherIdentity b = false →
        0 < l.len → l.len = remBytes b → l.row < b.rows → 2 ≤ b.rows → b.done = 0 → b.raw = [] →
        slotOf (dale s d) b.slot = some t0 → t0.fmt = b.fmt → t0.cls = true → t0.fill.testBit l.row = false → b.rows ≤ t0.rows →
        ∃ t t1, exec (.gatherLookup k d c row) s = .next t ∧ (gather t k).waiting = (gather s k).waiting.erase l ∧
          odRaw t (odKey (0x5100 + k) 1) = (odRaw s (odKey (0x5100 + k) 1) + 1) % 2 ^ 64 ∧
          odRaw t (odKey (0x5100 + k) 2) = (odRaw s (odKey (0x5100 + k) 2) + 1) % 2 ^ 64 ∧
          slotOf (dale t d) b.slot = some t1 ∧ t1.fill.testBit l.row = true ∧ t1.base = t0.base) ∧
      (gatherFind { gather s k with waiting := (gather s k).waiting.erase l } (Nat.xor l.key (b.args / 2 ^ 48 * 2 ^ 48)) l.len =
          ({ gather s k with waiting := (gather s k).waiting.erase l }, none) →
        gatherIdentity b = false → 0 < l.len → (b.addr + l.key * b.rowStride) % 256 + l.len ≤ 256 →
        b.addr + l.key * b.rowStride + l.len ≤ 0x4800000000 → stackOf (b.addr + l.key * b.rowStride) = k →
        ∃ t, ∃ r : HbmReq, exec (.gatherLookup k d c row) s = .next t ∧ (gather t k).waiting = (gather s k).waiting.erase l ∧
          odRaw t (odKey (0x5100 + k) 3) = (odRaw s (odKey (0x5100 + k) 3) + 1) % 2 ^ 64 ∧
          (gather t k).misses = (gather s k).misses ++ [((gather s k).epoch, { l with key := 0 })] ∧
          (stk t k).queue = (stk s k).queue ++ [r] ∧ r.addr = b.addr + l.key * b.rowStride ∧ r.len = l.len ∧ r.wr = false)) ∧
    (∀ v, (gather s k).phase = 0 → v % 2 ^ 18 ≤ 131072 →
      ∃ t, exec (.reloadCtrl k v) s = .next t ∧ t.ans = (.done, 0) ∧ winGet t (dirWin k 0x18) = v % 2 ^ 18 ∧
        (gather t k).phase = (if v.testBit 31 then 1 else 0) ∧ t = { s with win := t.win, gathers := t.gathers, ans := t.ans }) ∧
    (∀ v, ((gather s k).phase ≠ 0 ∨ 131072 < v % 2 ^ 18) → exec (.reloadCtrl k v) s = .next (answer s .formatError 0)) ∧
    (∀ dir list n : Nat, (gather s k).phase = 1 → (∀ m ∈ (gather s k).misses, m.1 = (gather s k).epoch) → domainOn s (144 + k) = true →
      dir = winGet s (dirWin k 0x08) → list = winGet s (dirWin k 0x10) → n = winGet s (dirWin k 0x18) →
      ((dir % 64 ≠ 0 ∨ 0x4800000000 < dir + 2097152 ∨ list % 16 ≠ 0 ∨ 0x4800000000 < list + 16 * n) →
        ∃ t, ∃ e : Event, exec (.reloadDrained k) s = .next t ∧ (gather t k).phase = 0 ∧ (gather t k).status = .formatError ∧
          (gather t k).live = (gather s k).live ∧ (gather t k).epoch = (gather s k).epoch ∧ e.code = 0x0804 ∧ e.source = gatherSource k ∧
          t.handed = s.handed ++ [e]) ∧
      (∀ (u v w : State) (bs ls : List Byte) (seeds : Tab Nat),
        dir % 64 = 0 → dir + 2097152 ≤ 0x4800000000 → list % 16 = 0 → list + 16 * n ≤ 0x4800000000 →
        seeds = (List.range 4).foldl (fun t i => tset 0 t i (winGet s (dirWin k (0x20 + 8 * i)))) [] →
        hbmRead s dir 2097152 (gatherCol k) = (u, bs, .done) → imageFault seeds (imageEntries bs) [] = none →
        hbmRead u list (16 * n) (gatherCol k) = (v, ls, .done) →
        (firstRunFault (gather v k) (runList n ls) = none →
          loadRuns k (runList n ls) (reloadBank v k n seeds (imageEntries bs)) = (w, none) →
          ∃ t, exec (.reloadDrained k) s = .next t ∧ (gather t k).phase = 3 ∧ t = { w with gathers := t.gathers }) ∧
        (∀ c i, firstRunFault (gather v k) (runList n ls) = some (c, i) →
          ∃ t, ∃ e : Event, exec (.reloadDrained k) s = .next t ∧ (gather t k).phase = 0 ∧ (gather t k).status = .formatError ∧
            (gather t k).lines = (gather v k).lines ∧ (gather t k).live = (gather v k).live ∧ e.code = 0x0804 ∧
            e.source = gatherSource k ∧ t.handed = v.handed ++ [e]))) ∧
    ((gather s k).phase = 3 → ∃ t, ∃ e : Event, exec (.reloadFilled k) s = .next t ∧ (gather t k).phase = 0 ∧
      (gather t k).live = 1 - (gather s k).live ∧ (gather t k).epoch = ((gather s k).epoch + 1) % 65536 ∧ (gather t k).status = .done ∧
      (gather t k).made = ((gather s k).epoch + 1) % 65536 ∧
      odRaw t (odKey (0x5100 + k) 6) = (odRaw s (odKey (0x5100 + k) 6) + 1) % 2 ^ 64 ∧
      e.code = 0x0803 ∧ e.source = gatherSource k ∧ t = { s with gathers := t.gathers, od := t.od, handed := s.handed ++ [e] }) ∧
    ((gather s k).phase ≠ 3 → exec (.reloadFilled k) s = .next s)

/-- PACKET_INJECT (R256, R257, R274) and COL_FORWARD (R256, R262, R265, R266, R272, R276); what a fork and the buffers towards
units take is the model's choice (log entries 68 and 70). -/
def Obligations.NetworkTransport : Prop :=
  ∀ (c : Nat) (p : Packet) (s : State), c < 612 → NoProbes s →
    (∀ k b, p.plane < 3 → k = bufKey c 5 p.plane (vcOf p.typ) → b = tget 0 (ni s c).buckets (p.prio % 4) →
      (8 ≤ creditsUsed s k → exec (.packetInject c p) s = .next s) ∧
      (creditsUsed s k < 8 →
        (∀ i, tget none (ni s c).sending (sendKey p) = some (p, i) →
          ∃ t, exec (.packetInject c p) s = .next t ∧ t = { s with net := t.net } ∧ bufOf t k = bufOf s k ++ [flitAt p i] ∧
            creditsUsed t k = creditsUsed s k + 1 ∧
            ni t c = { ni s c with flitsOut := (ni s c).flitsOut + 1, sending := (ni t c).sending } ∧
            tget none (ni t c).sending (sendKey p) = if i + 1 = flitsOf p then none else some (p, i + 1)) ∧
        (tget none (ni s c).sending (sendKey p) = none →
          (ni s c).toInject.find? (fun q => sendKey q == sendKey p) = some (sound p) →
          (¬ (b.testBit 31 = true ∧ isCharged p = true ∧
              bucketGain b (tget 0 (ni s c).levels (p.prio % 4)) < chargeOf p * 256) →
            ∃ t, exec (.packetInject c p) s = .next t ∧ t = { s with net := t.net } ∧ bufOf t k = bufOf s k ++ [flitAt p 0] ∧
              creditsUsed t k = creditsUsed s k + 1 ∧
              ni t c = { ni s c with
                toInject := (ni s c).toInject.erase (sound p), flitsOut := (ni s c).flitsOut + 1, sending := (ni t c).sending,
                levels := (ni t c).levels } ∧
              tget none (ni t c).sending (sendKey p) = (if flitsOf p = 1 then none else some (p, 1)) ∧
              tget 0 (ni t c).levels (p.prio % 4) = if b.testBit 31 = true ∧ isCharged p = true
                then bucketGain b (tget 0 (ni s c).levels (p.prio % 4)) - chargeOf p * 256
                else tget 0 (ni s c).levels (p.prio % 4)) ∧
          (b.testBit 31 = true → isCharged p = true →
            bucketGain b (tget 0 (ni s c).levels (p.prio % 4)) < chargeOf p * 256 →
            ∃ t, exec (.packetInject c p) s = .next t ∧ t.net.bufs = s.net.bufs ∧ (ni t c).toInject = (ni s c).toInject ∧
              (ni t c).bucketWait = (ni s c).bucketWait + 1)))) ∧
    (∀ (port plane vc k : Nat) (f : Flit) (rest : List Flit), (port < 4 ∨ port = 5) → plane < 3 → vc < 4 →
      k = bufKey c port plane vc →
      (bufOf s k = [] → exec (.colForward c port plane vc) s = .next s) ∧
      (bufOf s k = f :: rest →
        (f.dataBad = 0 → AloneAt s c port plane vc →
          (∀ outs, f.head = true → f.hdr = some p → hdrFaultOf f.hdrBad p.typ = none →
            takenOutputs s c p f.late = (outs, none) →
            (∀ o ∈ outs, tget none s.net.owners (bufKey c o.1 plane vc) = none ∧
              hasRoom s c o.1 plane vc (if (colOutputs p).length > 1 then flitsOf p else 1) = true) →
            ∃ t, exec (.colForward c port plane vc) s = .next t ∧ t = { s with net := t.net } ∧ bufOf t k = rest ∧
              creditsUsed t k = creditsUsed s k - 1 ∧
              tget none t.net.worms k = (if f.tail then none else some ⟨p, outs, none, 0, none⟩) ∧
              ∀ o q, (o, q) ∈ outs → ∀ k', outBuf c o plane vc = some k' →
                bufOf t k' = bufOf s k' ++ [{ f with hdr := some q, late := none }] ∧ creditsUsed t k' = creditsUsed s k' + 1 ∧
                tget none t.net.owners (bufKey c o plane vc) = (if f.tail then none else some port) ∧
                (o = 4 → (ni t c).flitsIn = (ni s c).flitsIn + 1)) ∧
          (∀ h o q k', f.head = false → f.hdr = none → tget none s.net.worms k = some ⟨h, [(o, q)], none, 0, none⟩ → o < 5 →
            outBuf c o plane vc = some k' → creditsUsed s k' < 8 →
            ∃ t, exec (.colForward c port plane vc) s = .next t ∧ t = { s with net := t.net } ∧ bufOf t k = rest ∧
              bufOf t k' = bufOf s k' ++ [{ f with late := none }] ∧ creditsUsed t k' = creditsUsed s k' + 1 ∧
              tget none t.net.owners (bufKey c o plane vc) = (if f.tail then none else some port) ∧
              tget none t.net.worms k = (if f.tail then none else some ⟨h, [(o, q)], none, 0, none⟩)) ∧
          (∀ st, f.head = true → f.tail = true → f.hdr = some p → hdrFaultOf f.hdrBad p.typ = none →
            takenOutputs s c p f.late = ([], some st) →
            ∃ t, exec (.colForward c port plane vc) s = .next t ∧ bufOf t k = rest ∧ (ni t c).absorbed = (ni s c).absorbed + 1)) ∧
        (∀ byte, f.tail = true → f.hdr = some p → firstSet f.hdrBad 24 = some byte →
          ∃ t, ∃ e : Event, exec (.colForward c port plane vc) s = .next t ∧ bufOf t k = rest ∧ e.code = 0x0902 ∧
            e.source = colSource c ∧ t.handed = s.handed ++ [e] ∧ (ni t c).parity = holdAdd (ni s c).parity 1)))

/-- READ, WRITE and TRACE (R260, R261, R289, R432), SEMINC (R44) and the control accesses (R261, R553) at their units. -/
def Obligations.NetworkRequests : Prop :=
  ∀ (c n : Nat) (p : Packet) (s : State),
    (∀ d off, Served s c p tyRead n → p.addr % 256 + packetBytes p ≤ 256 → regionOf p.addr = .store d off → daleCol d = c →
      off + packetBytes p ≤ storeBytes → CleanWords s d off (packetBytes p) →
      ∃ t, exec (.read c p) s = .next t ∧ t = { s with net := t.net } ∧ Handed (packetTaken s c p n) t c
        (answerPacket p c tyReadResp (statusCode .done) false (memBytes s p.addr (packetBytes p)))) ∧
    (Served s c p tyRead n → p.addr % 256 + packetBytes p ≤ 256 → regionOf p.addr = .hbm → hbmCol (stackOf p.addr) (pcOf p.addr / 4) = c →
      ∃ t, ∃ r : HbmReq, exec (.read c p) s = .next t ∧ (stk t (stackOf p.addr)).queue = (stk s (stackOf p.addr)).queue ++ [r] ∧
        r.wr = false ∧ r.addr = p.addr ∧ r.len = packetBytes p ∧ r.src = p.srcCol ∧ r.pkt = some p ∧ t = { s with net := t.net, hbm := t.hbm }) ∧
    (Served s c p tyRead n → 256 < p.addr % 256 + packetBytes p → ∃ t, exec (.read c p) s = .next t ∧ t = { s with net := t.net } ∧
      Handed (packetTaken s c p n) t c (answerPacket p c tyReadResp (statusCode .formatError) false (List.replicate (packetBytes p) 0#8))) ∧
    (Served s c p tyRead n → p.addr % 256 + packetBytes p ≤ 256 → regionOf p.addr = .window → windowCol p.addr = c → packetBytes p ≤ 8 →
      ∃ t, exec (.read c p) s = .next t ∧ t = { s with net := t.net } ∧
        let r := windowRead (packetTaken s c p n) p.addr (packetBytes p)
        Handed (packetTaken s c p n) t c (answerPacket p c tyReadResp (statusCode r.1) false (leBytes (packetBytes p) r.2))) ∧
    (∀ d off, Served s c p tyWrite n → p.addr % 256 + packetBytes p ≤ 256 → regionOf p.addr = .store d off → daleCol d = c →
      off + packetBytes p ≤ storeBytes → CleanWords s d off (packetBytes p) → packetBytes p ≤ p.payload.length → p.poison = false →
      (dale s d).partner = none →
      ∃ t, exec (.write c p) s = .next t ∧ (∀ i, i < packetBytes p → memGet t (p.addr + i) = p.payload.getD i 0#8) ∧
        (∀ a, a < p.addr ∨ p.addr + packetBytes p ≤ a → memGet t a = memGet s a) ∧ t.handed = s.handed ∧
        Handed (packetTaken s c p n) t c (answerPacket p c tyWriteAck (statusCode .done) false [])) ∧
    (Served s c p tyWrite n → p.addr % 256 + packetBytes p ≤ 256 → regionOf p.addr = .hbm → hbmCol (stackOf p.addr) (pcOf p.addr / 4) = c →
      ∃ t, ∃ r : HbmReq, exec (.write c p) s = .next t ∧ (stk t (stackOf p.addr)).queue = (stk s (stackOf p.addr)).queue ++ [r] ∧
        r.wr = true ∧ r.addr = p.addr ∧ r.bytes = bytesAt p.payload 0 (packetBytes p) ∧ r.pkt = some p ∧
        t = { s with net := t.net, hbm := t.hbm }) ∧
    (Served s c p tyTrace n → regionOf p.addr = .hbm → hbmCol (stackOf p.addr) (pcOf p.addr / 4) = c →
      ∃ t, ∃ r : HbmReq, exec (.trace c p) s = .next t ∧ (stk t (stackOf p.addr)).queue = (stk s (stackOf p.addr)).queue ++ [r] ∧
        r.wr = true ∧ r.addr = p.addr ∧ r.len = 32 ∧ r.bytes = bytesAt p.payload 0 32 ∧ t = { s with net := t.net, hbm := t.hbm }) ∧
    (∀ d, Served s c p tySeminc n → colDale c = some d → 0 < leNat (p.payload.take 4) →
      semOf (dale s d) (p.aux % 32) + leNat (p.payload.take 4) ≤ 0xFFFFFFFF →
      (∀ e, (dale s d).blocked = some e → wop e.word ≠ 2 ∧ wop e.word ≠ 4) → (dale s d).isPartner = false →
      ∃ t, exec (.semincRequest c p) s = .next t ∧
        dale t d = setSem (dale s d) (p.aux % 32) (semOf (dale s d) (p.aux % 32) + leNat (p.payload.take 4)) ∧
        (∀ e, e ≠ d → dale t e = dale s e) ∧ Handed (packetTaken s c p n) t c (answerPacket p c tySemincAck (statusCode .done) false [])) ∧
    (Served s c p tyCtrlRead n → inWindow p.addr = true → windowCol p.addr = c →
      ∃ t, exec (.ctrlRead c p) s = .next t ∧ t = { s with net := t.net } ∧
        let r := windowRead (packetTaken s c p n) p.addr (ctrlSize p.addr)
        Handed (packetTaken s c p n) t c (answerPacket p c tyCtrlResp (statusCode r.1) false (leBytes 16 r.2))) ∧
    (∀ d, Served s c p tyCtrlWrite n → d < 512 → c = daleCol d → p.addr = winBase + 0x20000 + 0x10 * d → leNat (p.payload.take 4) = 0 →
      ∃ t, exec (.ctrlWrite c p) s = .next t ∧ dale t d = { dale s d with satCount := 0 } ∧ (∀ e, e ≠ d → dale t e = dale s e) ∧
        Handed (packetTaken s c p n) t c (answerPacket p c tyCtrlResp (statusCode .done) false [])) ∧
    ((inWindow p.addr = false ∨ windowCol p.addr ≠ c) →
      (Served s c p tyCtrlRead n → ∃ t, exec (.ctrlRead c p) s = .next t ∧ t = { s with net := t.net } ∧
        Handed (packetTaken s c p n) t c (answerPacket p c tyCtrlResp (statusCode .formatError) false [])) ∧
      (Served s c p tyCtrlWrite n → ∃ t, exec (.ctrlWrite c p) s = .next t ∧ t = { s with net := t.net } ∧
        Handed (packetTaken s c p n) t c (answerPacket p c tyCtrlResp (statusCode .formatError) false [])))

/-- Answers at their requester (R190, R228, R233, R238, R240, R554), the drain of interfaces (R276, R278, R279) and PROBE_CTRL
(R282). -/
def Obligations.NetworkAnswers : Prop :=
  ∀ (c d k n : Nat) (p : Packet) (r : Request) (b : Block) (s : State),
    (Served s c p tyReadResp n → Outstanding s c p [tyRead] r → r.dale = d → d < 512 → r.chan = k →
      frontBlock s d k = some b → b.begun = true → b.no = r.off →
      (statusOf p.status = .done → b.kind = 0 → isOperand b = false → (slotOf (dale s d) b.slot).isSome = true →
        RowsShort (takeBytes { b with waiting := b.waiting - 1 } (r.row / 65536) (r.row % 65536) (bytesAt p.payload 0 r.len) p.poison) →
        ∃ t, exec (.readResp c p) s = .next t ∧ (ni t c).out = (ni s c).out.erase r ∧ t = { s with net := t.net, dales := t.dales, free := t.free } ∧
          frontBlock t d k = some (takeBytes { b with waiting := b.waiting - 1 } (r.row / 65536) (r.row % 65536)
            (bytesAt p.payload 0 r.len) p.poison)) ∧
      (statusOf p.status = .targetIsolated → ∃ t, ∃ e : Event, exec (.readResp c p) s = .next t ∧ (ni t c).out = (ni s c).out.erase r ∧
        (chanOf (dale t d) k).halted = some .targetIsolated ∧ (chanOf (dale t d) k).blocks = [] ∧ e.code = 0x0801 ∧
        e ∈ t.handed ∧ (b.kind ≠ 2 → t.handed = s.handed ++ [e]))) ∧
    (Served s c p tyWriteAck n → Outstanding s c p [tyWrite] r → r.dale = d → d < 512 → r.chan = k → statusOf p.status = .done →
      frontBlock s d k = some b → b.begun = true → b.no = r.off → 2 ≤ b.waiting →
      ∃ t, exec (.writeAck c p) s = .next t ∧ (ni t c).out = (ni s c).out.erase r ∧
        frontBlock t d k = some { b with waiting := b.waiting - 1 } ∧
        odRaw t 0x500002 = (odRaw s 0x500002 + (pieceAt b (r.row / 65536) (r.row % 65536)).2) % 2 ^ 64 ∧
        t = { s with net := t.net, dales := t.dales, od := t.od, free := t.free }) ∧
    (Served s c p tyMcast n → colDale c = some d → frontBlock s d k = some b → b.kind = 3 → b.begun = true → isOperand b = false →
      daleCol (senderOf b) = p.srcCol → groupOf b = p.aux →
      (∀ e ∈ (dale s d).channels, ∀ q, e.2.blocks.head? = some q → q.begun = true → q.kind ≠ 2 ∧ (q.kind = 3 → e.1 = k)) →
      (slotOf (dale s d) b.slot).isSome = true →
      ∀ off m, off = (b.raw.filter fun e => e.1 / 65536 == p.tag).length → m = min p.payload.length (remBytes b - off) →
      RowsShort (takeBytes b p.tag off (p.payload.take m) p.poison) →
      ∃ t, exec (.mcastData c p) s = .next t ∧ t = { s with net := t.net, dales := t.dales } ∧
        frontBlock t d k = some { takeBytes b p.tag off (p.payload.take m) p.poison with came := some p }) ∧
    (Served s c p tySemincAck n → Outstanding s c p [tySeminc] r → r.dale = d → d < 512 →
      (p.status = 0 → ∃ t, exec (.semincAck c p) s = .next t ∧ t = { s with net := t.net, free := t.free } ∧
        (ni t c).out = (ni s c).out.erase r) ∧
      (p.status ≠ 0 → (dale s d).trap = none → ∃ t, ∃ e : Event, exec (.semincAck c p) s = .next t ∧
        dale t d = { dale s d with trap := some ⟨causeSemincGone, statusOf p.status, r.off, false⟩ } ∧
        (ni t c).out = (ni s c).out.erase r ∧ e.code = 0x0607 ∧ e.source = daleSource d ∧ t.handed = s.handed ++ [e])) ∧
    (Served s c p tyCtrlResp n → Outstanding s c p [tyCtrlRead, tyCtrlWrite] r →
      ∃ t, exec (.ctrlResp c p) s = .next t ∧ t = { s with net := t.net, free := t.free } ∧ (ni t c).out = (ni s c).out.erase r) ∧
    (Served s c p tyDrainReq n →
      ∃ t, exec (.drainReq c p) s = .next t ∧ t = { s with net := t.net } ∧ (ni t c).state = 1 ∧ (ni t c).drain = some p ∧
        (ni t c).out = (ni s c).out) ∧
    (c < 612 → (ni s c).state = 1 → (ni s c).out = [] → (ni s c).toInject = [] → (ni s c).sending = [] → accepted s c = 0 →
      ∃ t, ∃ e : Event, exec (.interfaceDrained c) s = .next t ∧ (ni t c).state = 3 ∧ (ni t c).drain = none ∧
        (∀ q, (ni s c).drain = some q → (ni t c).toInject = [answerPacket q c tyDrainDone (statusCode .domainOff) false []]) ∧
        e.code = 0x0903 ∧ e.source = colSource c ∧ t.handed = s.handed ++ [e] ∧ odRaw t 0x380003 = (odRaw s 0x380003 + 1) % 2 ^ 64 ∧
        t = { s with net := t.net, handed := t.handed, od := t.od }) ∧
    (c < 612 → (ni s c).state = 1 → ((ni s c).out ≠ [] ∨ (ni s c).toInject ≠ [] ∨ (ni s c).sending ≠ [] ∨ accepted s c ≠ 0) →
      exec (.interfaceDrained c) s = .next s) ∧
    (c < 612 → (domainOfCol s c).isSome = true → (ni s c).state < 2 →
      ∃ t, ∃ e f : Event, exec (.drainForced c) s = .next t ∧ (ni t c).state = 3 ∧ (ni t c).out = [] ∧
        (∀ q, (ni s c).drain = some q → (ni t c).toInject = [answerPacket q c tyDrainDone (statusCode .domainOff) false []]) ∧
        e.code = 0x0904 ∧ f.code = 0x0903 ∧
        e.source = colSource c ∧ t.handed = s.handed ++ [e, f] ∧ odRaw t 0x380003 = (odRaw s 0x380003 + 1) % 2 ^ 64) ∧
    (Served s c p tyDrainDone n → Outstanding s c p [tyDrainReq] r →
      (domainOfCol s r.row = none →
        ∃ t, exec (.drainDone c p) s = .next t ∧ t = { s with net := t.net, free := t.free } ∧ (ni t c).out = (ni s c).out.erase r) ∧
      (∀ i w u, domainOfCol s r.row = some i → switchOf s i = some w → w.off = true → w.deferred = false → r.row ∈ w.waits →
        u ∈ w.waits → u ≠ r.row →
        ∃ t, exec (.drainDone c p) s = .next t ∧ t = { s with net := t.net, power := t.power, free := t.free } ∧
          (ni t c).out = (ni s c).out.erase r ∧ switchOf t i = some { w with waits := w.waits.filter (· != r.row) })) ∧
    (∀ v, k < 32 →
      let w := Nat.land v 0xFE0003FF
      let bad := w / 2 ^ 28 % 4 = 3 ∨ 5 < w / 2 ^ 25 % 8 ∨ 611 < w % 1024 ∨
        (probeOn s k = true ∧ w % 2 ^ 31 ≠ winGet s (probeWin k 0) % 2 ^ 31)
      (bad → exec (.probeCtrl k v) s = .next (answer s .formatError 0)) ∧
      (¬ bad → ∃ t, exec (.probeCtrl k v) s = .next t ∧ RegisterPut s t (probeWin k 0) w ∧ t = { s with win := t.win, ans := t.ans }))

/-- HBM_COMMAND_ISSUE (R287, R293, R295-R298, R302), HBM_REFRESH (R296, R297; the rolling count by log entry 72), HBM_TEMP_READ
(R296, R310) and HBM_SCRUB_ACCESS (R291, R309). HBM_TRAINING_DONE (R527, R528), HBM_FILL_DONE (R307) and HOST_SNOOP_TIMEOUT (R377). -/
def Obligations.HbmControllers : Prop :=
  (∀ (k pc now : Nat) (sev : Bool) (bad : List Nat) (s : State), k < 8 → pc < 32 →
    (domainOn s (144 + k) = true → (stk s k).trained = true →
      (∀ r : HbmReq, (winGet s (hbmWin k 0)).testBit pc = true → (stk s k).queue = [r] → (stk s k).filter = [] → (stk s k).snoops = [] →
        r.host = none → pcOf r.addr = pc → stackOf r.addr = k → r.addr % 256 + r.len ≤ 256 → r.bytes.length ≤ r.len →
        (tget none (stk s k).rows (bankKey r.addr) = none → tget [] (stk s k).counts (bankKey r.addr) = [] →
          rfmDue (stk s k) (bankKey r.addr) = false →
          ∃ t, exec (.hbmCommandIssue k pc now sev bad) s = .next t ∧ t = { s with hbm := t.hbm } ∧ (stk t k).queue = [r] ∧
            tget none (stk t k).rows (bankKey r.addr) = some (rowOf r.addr) ∧
            tget [] (stk t k).counts (bankKey r.addr) = [(rowOf r.addr, 1)] ∧
            tget 0 (stk t k).raa (bankKey r.addr) = tget 0 (stk s k).raa (bankKey r.addr) + 1 ∧ (∀ j, j ≠ k → stk t j = stk s j) ∧
            (∀ b, b ≠ bankKey r.addr → tget none (stk t k).rows b = tget none (stk s k).rows b)) ∧
        (tget none (stk s k).rows (bankKey r.addr) = none → rfmDue (stk s k) (bankKey r.addr) = true →
          ∃ t, exec (.hbmCommandIssue k pc now sev bad) s = .next t ∧ t = { s with hbm := t.hbm, od := t.od } ∧ (stk t k).queue = [r] ∧
            tget none (stk t k).rows (bankKey r.addr) = none ∧ tget 0 (stk t k).raa (bankKey r.addr) = 0 ∧
            odRaw t (odKey (0x3010 + k) 5) = (odRaw s (odKey (0x3010 + k) 5) + 1) % 2 ^ 64) ∧
        (∀ row, tget none (stk s k).rows (bankKey r.addr) = some row → row ≠ rowOf r.addr →
          ∃ t, exec (.hbmCommandIssue k pc now sev bad) s = .next t ∧ t = { s with hbm := t.hbm } ∧ (stk t k).queue = [r] ∧
            tget none (stk t k).rows (bankKey r.addr) = none ∧ (stk t k).counts = (stk s k).counts) ∧
        (∀ p, tget none (stk s k).rows (bankKey r.addr) = some (rowOf r.addr) → r.port ≠ 5 → r.pkt = some p → p.typ ≠ tyTrace →
          (r.wr = false → (∀ w ∈ wordsOf r.addr r.len, synOf s w = 0) →
            ∃ t, exec (.hbmCommandIssue k pc now sev bad) s = .next t ∧ t = { s with hbm := t.hbm, net := t.net, od := t.od } ∧
              (stk t k).queue = [] ∧ (stk t k).rows = (stk s k).rows ∧
              (∀ key, odRaw t key =
                if sev = true ∧ key = odKey (0x3010 + k) 6 then (odRaw s key + 1) % 2 ^ 64 else odRaw s key) ∧
              Handed s t r.col (answerPacket p r.col tyReadResp (statusCode .done) false (memBytes s r.addr r.len))) ∧
          (r.wr = true → r.poison = false → (∀ w ∈ wordsOf r.addr r.bytes.length, synOf s w = 0) →
            (bad = [] → ∃ t, exec (.hbmCommandIssue k pc now sev bad) s = .next t ∧
              t = { s with hbm := t.hbm, net := t.net, mem := t.mem, synd := t.synd } ∧ (stk t k).queue = [] ∧
              (∀ i, i < r.bytes.length → memGet t (r.addr + i) = r.bytes.getD i 0#8) ∧
              (∀ a, a < r.addr ∨ r.addr + r.bytes.length ≤ a → memGet t a = memGet s a) ∧
              Handed s t r.col (answerPacket p r.col tyWriteAck (statusCode .done) false [])) ∧
            (∀ i, bad = [i] → i < r.bytes.length → ∃ t, ∃ e : Event, exec (.hbmCommandIssue k pc now sev bad) s = .next t ∧
              (stk t k).queue = [] ∧ synOf t ((r.addr + i) / 8 * 8) = poisonSyn ∧ e.code = 0x0A03 ∧ e.source = stackSource k ∧
              t.handed = s.handed ++ [e] ∧ Handed s t r.col (answerPacket p r.col tyWriteAck (statusCode .done) false [])))) ∧
        (∀ n, tget none (stk s k).rows (bankKey r.addr) = some (rowOf r.addr) → r.port = 5 → r.wr = false → r.again = false → sev = false →
          n = tget 0 (stk s k).scrub pc → r.addr = accessAddr k pc n → (∀ i, i < 4 → synOf s (r.addr + 8 * i) = 0) →
          (scrubDone { stk s k with scrub := tset 0 (stk s k).scrub pc (n + 1) } < accessCount * 32 →
            ∃ t, exec (.hbmCommandIssue k pc now sev bad) s = .next t ∧ t = { s with hbm := t.hbm, win := t.win } ∧
              (stk t k).queue = [] ∧ tget 0 (stk t k).scrub pc = n + 1 ∧
              (∀ j, j ≠ pc → tget 0 (stk t k).scrub j = tget 0 (stk s k).scrub j)) ∧
          (scrubDone { stk s k with scrub := tset 0 (stk s k).scrub pc (n + 1) } = accessCount * 32 →
            ∃ t, ∃ e : Event, exec (.hbmCommandIssue k pc now sev bad) s = .next t ∧ (stk t k).queue = [] ∧ (stk t k).scrub = [] ∧
              e.code = 0x0A04 ∧ e.source = stackSource k ∧
              t = { s with hbm := t.hbm, win := t.win, handed := s.handed ++ [e] }))) ∧
      (∀ (again : Bool) (n : Nat), winGet s (hbmWin k 0) = 0xFFFFFFFF → odRaw s 0x300002 ≠ 0 → n = tget 0 (stk s k).scrub pc →
        n < accessCount → (∀ r ∈ (stk s k).queue, r.port = 5 → pcOf r.addr ≠ pc) →
        ∃ t, ∃ r : HbmReq, exec (.hbmScrubAccess k pc again) s = .next t ∧ t = { s with hbm := t.hbm } ∧
          (stk t k).queue = (stk s k).queue ++ [r] ∧ r.port = 5 ∧ r.addr = accessAddr k pc n ∧ r.len = 32 ∧ r.wr = false ∧
          r.again = again ∧ (stk t k).scrub = (stk s k).scrub)) ∧
    (domainOn s (144 + k) = true →
      (∀ bank window, bank < 48 → ∃ t, exec (.hbmRefresh k pc bank window) s = .next t ∧ t = { s with hbm := t.hbm } ∧
        tget none (stk t k).rows (pc * 64 + bank) = none ∧
        (∀ b, b ≠ pc * 64 + bank → tget none (stk t k).rows b = tget none (stk s k).rows b) ∧
        tget [] (stk t k).counts (pc * 64 + bank) = (if window then [] else tget [] (stk s k).counts (pc * 64 + bank)) ∧
        (∀ b, b ≠ pc * 64 + bank → tget [] (stk t k).counts b = tget [] (stk s k).counts b) ∧
        tget 0 (stk t k).raa (pc * 64 + bank) = tget 0 (stk s k).raa (pc * 64 + bank) - Config.raaLimit ∧
        (stk t k).queue = (stk s k).queue) ∧
      (∀ celsius : Int, ∃ t, exec (.hbmTempRead k celsius) s = .next t ∧ t = { s with win := t.win, handed := t.handed } ∧
        winGet t (hbmWin k 0x120) = (celsius % 65536).toNat + (if celsius > 85 then 2 ^ 31 else 0) ∧
        (∀ a, a ≠ hbmWin k 0x120 → winGet t a = winGet s a) ∧
        (decide (celsius > 85) = (winGet s (hbmWin k 0x120)).testBit 31 → t.handed = s.handed) ∧
        (decide (celsius > 85) ≠ (winGet s (hbmWin k 0x120)).testBit 31 →
          ∃ e : Event, e.code = 0x0A06 ∧ e.source = stackSource k ∧ t.handed = s.handed ++ [e]))) ∧
    ((stk s k).trained = false → ∀ again, exec (.hbmScrubAccess k pc again) s = .next s ∧
      ∃ t, exec (.hbmCommandIssue k pc now sev bad) s = .next t ∧ t = { s with hbm := t.hbm } ∧ (stk t k).queue = (stk s k).queue ∧
        (stk t k).rows = (stk s k).rows) ∧
    (domainOn s (144 + k) = false → ∀ bank window celsius again, bank < 48 →
      exec (.hbmRefresh k pc bank window) s = .next s ∧ exec (.hbmTempRead k celsius) s = .next s ∧
      exec (.hbmScrubAccess k pc again) s = .next s)) ∧
  (∀ (k : Nat) (s : State), k < 8 →
    (domainOn s (144 + k) = true → (s.boot.starting = false ∨ s.boot.stage ≠ 9) →
      ((stk s k).trained = false →
        (∃ t, exec (.hbmTrainingDone k true) s = .next t ∧ t = { s with hbm := t.hbm, net := t.net, handed := t.handed } ∧
          stk t k = { stk s k with trained := true, tries := 0 } ∧ (∀ j, j ≠ k → stk t j = stk s j) ∧
          (∀ i, i < 8 → (ni t (hbmCol k i)).state = if (ni s (hbmCol k i)).state = 3 then 0 else (ni s (hbmCol k i)).state) ∧
          (s.boot.starting = true → t.handed = s.handed)) ∧
        ((stk s k).tries + 1 < 3 → ∃ t, exec (.hbmTrainingDone k false) s = .next t ∧ t = { s with hbm := t.hbm } ∧
          stk t k = { stk s k with tries := (stk s k).tries + 1 }) ∧
        (3 ≤ (stk s k).tries + 1 → ∃ t, ∃ e : Event, exec (.hbmTrainingDone k false) s = .next t ∧ domainOn t (144 + k) = false ∧
          (odRaw t 0xA00103).testBit k = true ∧ e.code = 0x1406 ∧ e.source = stackSource k ∧ t.handed.getLast? = some e)) ∧
      (∀ micros, winGet s (hbmWin k 0) ≠ 0xFFFFFFFF → ∃ t, ∃ e : Event, exec (.hbmFillDone k micros) s = .next t ∧
        t = { s with win := t.win, handed := s.handed ++ [e] } ∧ winGet t (hbmWin k 0) = 0xFFFFFFFF ∧
        (∀ a, a ≠ hbmWin k 0 → winGet t a = winGet s a) ∧ e.code = 0x0A05 ∧ e.source = stackSource k)) ∧
    (∀ line inv late, (stk s k).snoops.find? (fun e => e.1 == line) = some (line, inv, late) → line % 64 = 0 →
      ∃ t, ∃ e : Event, exec (.hostSnoopTimeout k line) s = .next t ∧
        t = { s with synd := t.synd, win := t.win, od := t.od, hbm := t.hbm, handed := s.handed ++ [e] } ∧
        stk t k = { stk s k with filter := (stk s k).filter.filter (fun e => e.1 != line), snoops := (stk s k).snoops.filter (fun e => e.1 != line) } ∧
        (∀ i, i < 8 → synOf t (line + 8 * i) = poisonSyn) ∧ (∀ a, a < line ∨ line + 64 ≤ a → synOf t a = synOf s a) ∧
        e.code = 0x0D05 ∧ e.source = stackSource k) ∧
    (∀ line, (stk s k).snoops.find? (fun e => e.1 == line) = none → exec (.hostSnoopTimeout k line) s = .next s))

/-- CLOCK_UNLOCKED and CLOCK_LOCKED (R321, R322), SECTOR_RESET and SECTOR_CLEAR (R323, R340), BRAM_ACCESS (R326 to R328) and
QUEUE_ACCESS (R329); the tick of logic and handshake cells (R314, R315, R324). The port shapes, trees and tables of a design are log entry
40's, the tick and the length of a pulse log entry 73's. -/
def Obligations.SteppeClocksAndMemories : Prop :=
  ∀ (g k m p : Nat) (s : State), g < 4 → k < 16 → m < 192 → p < 2 →
    ((clockGen s g).locked = true → ∃ t, ∃ e : Event, exec (.clockUnlocked g) s = .next t ∧
      t = { s with clocks := t.clocks, od := t.od, handed := s.handed ++ [e] } ∧
      clockGen t g = { clockGen s g with locked := false, lost := true } ∧ (∀ h, h ≠ g → clockGen t h = clockGen s h) ∧
      odRaw t 0x580004 = (odRaw s 0x580004 + 1) % 2 ^ 64 ∧ e.code = 0x0B03 ∧ e.source = srcSteppe) ∧
    ((clockGen s g).locked = false → exec (.clockUnlocked g) s = .next s) ∧
    ((clockGen s g).enabled = true → (clockGen s g).locked = false → (s.boot.starting = false ∨ s.boot.stage ≠ 9) →
      (s.cfg.clocks.contains g = false → ∃ t, exec (.clockLocked g) s = .next t ∧
        t = { s with clocks := t.clocks, handed := t.handed } ∧
        clockGen t g = { clockGen s g with locked := true, lost := false } ∧ (∀ h, h ≠ g → clockGen t h = clockGen s h) ∧
        ((clockGen s g).lost = false → t.handed = s.handed) ∧
        ((clockGen s g).lost = true → ∃ e : Event, e.code = 0x0B06 ∧ e.source = srcSteppe ∧ t.handed = s.handed ++ [e])) ∧
      (s.cfg.clocks = [g] → ∃ t, exec (.clockLocked g) s = .next t ∧ t.cfg.st = 0 ∧ t.cfg.clocks = [])) ∧
    (∀ v, v < 16 → ∃ t, exec (.sectorReset k v) s = .next t ∧ t = { s with sectors := t.sectors, ans := (.done, 0) } ∧
      (∀ j, j ≠ k → sector t j = sector s j) ∧
      (∀ q, (tget MemQueue.reset (sector t k).queues q).words =
        if v.testBit (Config.queueTree (sector s k).design q % 4) then [] else (tget MemQueue.reset (sector s k).queues q).words) ∧
      (∀ r, r < 4 → tget 0 (sector t k).asserted r =
        if v.testBit r then max 19 (tget 0 (sector s k).asserted r) else tget 0 (sector s k).asserted r)) ∧
    (∀ v, 16 ≤ v → exec (.sectorReset k v) s = .next (answer s .formatError 0)) ∧
    (∃ t, exec (.sectorClear k 1) s = .next t ∧ t = { s with win := t.win, ans := (.done, 0) } ∧
      (∀ a ∈ [sectorWin k 0x10, sectorWin k 0x14, sectorWin k 0x18], winGet t a = 0) ∧
      (∀ a, a ∉ [sectorWin k 0x10, sectorWin k 0x14, sectorWin k 0x18] → winGet t a = winGet s a)) ∧
    (∀ v, v ≠ 1 → exec (.sectorClear k v) s = .next (answer s .formatError 0)) ∧
    (s.pending = [] → domainOn s (128 + k) = true → (sectorRegion s k).testBit 5 = true →
      ∃ t, step s = .next t ∧ ∀ v : Sector, v = sector s k →
        (∀ i, i < 98304 →
          (treeAsserted s k (resetTree v (i / 16)) = false → clockTicks (clockGen s (clockTree v (i / 16))) = true →
            (cellShifts v i = false → logicCell (sector t k) i =
              { logicCell v i with
                r0 := if (cellPins v i).en0 then (lutOut (cellTable v i) (cellSplit v i) (cellPins v i).ins).1 else (logicCell v i).r0,
                r1 := if (cellPins v i).en1 then (lutOut (cellTable v i) (cellSplit v i) (cellPins v i).ins).2 else (logicCell v i).r1 }) ∧
            (cellShifts v i = true → (cellPins v i).chained = false → (cellPins v i).en1 = true →
              (logicCell (sector t k) i).shift =
                ((logicCell v i).shift * 2 + if (cellPins v i).data then 1 else 0) % 2 ^ 32)) ∧
          (treeAsserted s k (resetTree v (i / 16)) = false → clockTicks (clockGen s (clockTree v (i / 16))) = false →
            logicCell (sector t k) i = logicCell v i) ∧
          (treeAsserted s k (resetTree v (i / 16)) = true → clockTicks (clockGen s (clockTree v (i / 16))) = true →
            (logicCell (sector t k) i).r0 = (cellStart v i).r0 ∧ (logicCell (sector t k) i).r1 = (cellStart v i).r1)) ∧
        (∀ c h p, c < 6144 → tget Handshake.reset v.joins c = h → Config.joinPins v.design c (signals v) = p →
          (p.testBit 0 = p.testBit 1 → (tget Handshake.reset (sector t k).joins c).out = p.testBit 0) ∧
          (p.testBit 0 ≠ p.testBit 1 → (tget Handshake.reset (sector t k).joins c).out = h.out))) ∧
    (sectorRuns s k = true → sideRuns s (Config.bramClock (sector s k).design m p) = true →
      (∀ (w : Nat) (x y : BitVec 72), w < 1024 * 2 ^ (Config.bramShape (sector s k).design m p % 4) →
        (∃ t, exec (.bramAccess k m p true w x) s = .next t ∧ t = { s with sectors := t.sectors } ∧ (∀ j, j ≠ k → sector t j = sector s j) ∧
          exec (.bramAccess k m p false w y) t = .next (answer t .done
            (if Config.bramPlain (sector s k).design m then x.toNat % 2 ^ (72 / 2 ^ (Config.bramShape (sector s k).design m p % 4))
             else x.toNat % 2 ^ (64 / 2 ^ (Config.bramShape (sector s k).design m p % 4))))) ∧
        (∀ b, (sector s k).memBad.find? (fun b => b.1 == m && (bramBytes (Config.bramShape (sector s k).design m p % 4) w).contains b.2) = some b →
          ∃ t, exec (.bramAccess k m p false w y) s = .next t ∧
            (if Config.bramPlain (sector s k).design m then t.ans.1 = .done ∧ t = { s with ans := t.ans }
             else t.ans.1 = .uncorrectable ∧ winGet t (sectorWin k 0x10) = holdAdd (winGet s (sectorWin k 0x10)) 1 ∧
               ((sector s k).memSeen.contains m = true → t.handed = s.handed) ∧
               ((sector s k).memSeen.contains m = false →
                 ∃ e : Event, e.code = 0x0B01 ∧ e.source = sectorSource k ∧ t.handed = s.handed ++ [e]))))) ∧
    (∀ (x : BitVec 72) (q : MemQueue), sectorRuns s k = true → tget MemQueue.reset (sector s k).queues m = q →
      (sideRuns s (Config.bramClock (sector s k).design m 0) = true →
        (q.words.length < queueEntries (sector s k) m → ∃ t, exec (.queueAccess k m true x) s = .next t ∧ t = { s with sectors := t.sectors } ∧
          tget MemQueue.reset (sector t k).queues m = { q with words := q.words ++ [x.toNat] }) ∧
        (queueEntries (sector s k) m ≤ q.words.length → ∃ t, exec (.queueAccess k m true x) s = .next t ∧
          tget MemQueue.reset (sector t k).queues m = { q with overflow := true, recorded := true } ∧
          winGet t (sectorWin k 0x18) = holdAdd (winGet s (sectorWin k 0x18)) 1 ∧
          (q.recorded = false → ∃ e : Event, e.code = 0x0B04 ∧ e.source = sectorSource k ∧ t.handed = s.handed ++ [e]))) ∧
      (sideRuns s (Config.bramClock (sector s k).design m 1) = true →
        (∀ w rest, q.words = w :: rest → ∃ t, exec (.queueAccess k m false x) s = .next t ∧ t = { s with sectors := t.sectors, ans := (.done, w) } ∧
          tget MemQueue.reset (sector t k).queues m = { q with words := rest, out := w }) ∧
        (q.words = [] → ∃ t, exec (.queueAccess k m false x) s = .next t ∧ t.ans = (.done, q.out) ∧
          tget MemQueue.reset (sector t k).queues m = { q with underflow := true, recorded := true } ∧
          (q.recorded = true → t.handed = s.handed))))

/-- PORT_BEAT_OUT and PORT_BEAT_IN (R331 to R334), PORT_DRAIN_REQUEST, PORT_DRAINED and PORT_DRAIN_FORCED (R338). -/
def Obligations.SteppePorts : Prop :=
  ∀ (d q k : Nat) (s : State), d < 512 → q < 4 → k < 16 →
    (∀ (data : List Byte) (poison last : Bool) (rest : List (List Byte × Bool × Bool)) (c : Nat) (b : Block), portSideRuns s d = true →
      tget PortQueue.reset (dale s d).portOut q = ⟨(data, poison, last) :: rest, some c⟩ → EndingOut s d q c b →
      ∃ t, exec (.portBeatOut d q) s = .next t ∧ t = { s with dales := t.dales, ans := t.ans } ∧
        t.ans = (if poison then .poisoned else .done, leNat data + (if last then 2 ^ 256 else 0)) ∧
        (tget PortQueue.reset (dale t d).portOut q).beats = rest ∧
        ChannelSet s t d c { chanOf (dale s d) c with blocks := { b with waiting := b.waiting - 1 } :: (chanOf (dale s d) c).blocks.tail }) ∧
    (∀ (data : List Byte) (poison last : Bool), portSideRuns s d = true → data ≠ [] → data.length ≤ 32 → (dale s d).portLive ≠ 0 → PortsIdle s d →
      ((tget PortQueue.reset (dale s d).portIn q).beats.length < 16 →
        ∃ t, exec (.portBeatIn d q data poison last) s = .next t ∧ (∀ e, e ≠ d → dale t e = dale s e) ∧ t = { s with dales := t.dales } ∧
          tget PortQueue.reset (dale t d).portIn q = { tget PortQueue.reset (dale s d).portIn q with
            beats := (tget PortQueue.reset (dale s d).portIn q).beats ++ [(data, poison, last)] }) ∧
      (16 ≤ (tget PortQueue.reset (dale s d).portIn q).beats.length → exec (.portBeatIn d q data poison last) s = .next s)) ∧
    ((portSideRuns s d = false ∨ (tget PortQueue.reset (dale s d).portOut q).beats = []) → exec (.portBeatOut d q) s = .next s) ∧
    (portSideRuns s d = false → ∀ data poison last, exec (.portBeatIn d q data poison last) s = .next s) ∧
    (sectorSwitching s k = true → ∃ t, exec (.portDrainRequest k) s = .next t ∧ t = { s with dales := t.dales } ∧
      (∀ e, dale t e = { dale s e with portLive := if e ∈ sectorDales k ∧ (dale s e).portLive = 1 then 2 else (dale s e).portLive })) ∧
    (sectorSwitching s k = false → exec (.portDrainRequest k) s = .next s) ∧
    (∀ w : Switch, switchOf s (128 + sectorOf d) = some w → w.off = true → w.deferred = false → w.waits.contains d = true →
      w.waits.filter (fun u => u != d) ≠ [] →
      ((dale s d).portLive ≠ 1 → portIdle (dale s d) = true → ∃ t, exec (.portDrained d) s = .next t ∧
        t = { s with dales := t.dales, power := t.power } ∧ dale t d = { dale s d with portLive := 0 } ∧
        switchOf t (128 + sectorOf d) = some { w with waits := w.waits.filter (fun u => u != d) }) ∧
      ((dale s d).portLive = 2 → portChannels (dale s d) = [] → (∀ c b, frontBlock s d c = some b → b.begun = true) →
        ∃ t, ∃ e : Event, exec (.portDrainForced d) s = .next t ∧ t = { s with dales := t.dales, power := t.power, handed := s.handed ++ [e] } ∧
          (dale t d).portLive = 0 ∧ portBeats (dale t d) = 0 ∧ e.code = 0x0B05 ∧ e.source = sectorSource (sectorOf d) ∧
          switchOf t (128 + sectorOf d) = some { w with waits := w.waits.filter (fun u => u != d), forced := true }))

/-- CFG_GO (R348, R349), CFG_ABANDON, CFG_HEADER_RECEIVED, CFG_REGION_TABLE_RECEIVED, CFG_FRAME_RECEIVED, CFG_LAST_BYTE and
CFG_SIGNATURE_VERIFIED (R344 to R347, R352, R353). -/
def Obligations.ConfigurationLoads : Prop :=
  ∀ s : State, (s.boot.starting = false ∨ s.boot.stage ≠ 9) →
    (cfgShown s < 2 → strandFollower s = false → ∃ t, exec .cfgGo s = .next t ∧ LoadBegun s t 0 ∧ t.ans = (.done, 0)) ∧
    ((2 ≤ cfgShown s ∨ strandFollower s = true) → exec .cfgGo s = .next (answer s .formatError 0)) ∧
    (cfgShown s = 2 → s.cfg.late = false → ∃ t, exec .cfgAbandon s = .next t ∧ LoadRejected s t 16 .aborted 0xFFFFFFFFFFFFFFFF ∧ t.ans = (.done, 0)) ∧
    (cfgShown s ≠ 2 →
      exec .cfgAbandon s = .next { s with cfg := { s.cfg with relay := false }, ans := (.done, 0) }) ∧
    (s.cfg.st = 2 →
      (∀ h : List Byte, s.cfg.header = [] → h.length = 256 → fromFlash s 0 h = true →
        (headerFault s h = none → ∃ t, exec (.cfgHeaderReceived h) s = .next t ∧ t = { s with cfg := { (forwardBytes s 256).cfg with header := h, received := 256 }, win := t.win } ∧
          winGet t (cfgWin 0x20) = 256) ∧
        (∀ c st, headerFault s h = some (c, st) → c ≠ 4 → s.cfg.src ≠ 2 → s.cfg.late = false →
          ∃ t, exec (.cfgHeaderReceived h) s = .next t ∧ LoadRejected s t c st 0xFFFFFFFFFFFFFFFF)) ∧
      (∀ b : List Byte, s.cfg.header ≠ [] → s.cfg.table = [] → b.length = 16 * hdrRegions s.cfg.header → fromFlash s tableAt b = true →
        tableFault (winSet { s with cfg := { (forwardBytes s (32 + b.length)).cfg with table := b, hashed := b, received := tableAt + b.length } }
          (cfgWin 0x20) (tableAt + b.length)) = none →
        ∃ t, exec (.cfgRegionTableReceived b) s = .next t ∧ winGet t (cfgWin 0x20) = tableAt + b.length ∧
          t = { s with cfg := { (forwardBytes s (32 + b.length)).cfg with table := b, hashed := b, received := tableAt + b.length }, win := t.win }) ∧
      (∀ f : List Byte, s.cfg.table ≠ [] → f.length = 4112 → s.cfg.frames < hdrFrames s.cfg.header →
        fromFlash s (tableAt + 16 * hdrRegions s.cfg.header + 4112 * s.cfg.frames) f = true →
        (frmSeq f = s.cfg.frames → fieldAt f 12 4 = crc32 (f.take 12 ++ f.drop 16) →
          (frmSlot f = 0xFF ∨ frmSlot f = strandSlot s) → frameOk s f = true → frmType f ≠ 4 → (applySectors s).contains (frmSector f) = true →
          ∃ t, exec (.cfgFrameReceived f) s = .next t ∧ t = { s with cfg := t.cfg, sectors := t.sectors, win := t.win } ∧
            sector t (frmSector f) = { sector s (frmSector f) with
              staged := tset [] (sector s (frmSector f)).staged (frmType f * 4096 + frmIndex f) (f.drop 16) } ∧
            t.cfg.frames = s.cfg.frames + 1 ∧ t.cfg.hashed = s.cfg.hashed ++ f ∧ t.cfg.stagedAt = s.cfg.stagedAt ++ [frmAddr f]) ∧
        (s.cfg.src ≠ 2 → s.cfg.late = false →
          (frmSeq f ≠ s.cfg.frames →
            ∃ t, exec (.cfgFrameReceived f) s = .next t ∧ LoadRejected s t 10 .formatError (frmSeq f * 2 ^ 32 + frmAddr f)) ∧
          (frmSeq f = s.cfg.frames → fieldAt f 12 4 ≠ crc32 (f.take 12 ++ f.drop 16) →
            ∃ t, exec (.cfgFrameReceived f) s = .next t ∧ LoadRejected s t 11 .formatError (frmSeq f * 2 ^ 32 + frmAddr f)))) ∧
      (s.cfg.header ≠ [] → hdrBytes s.cfg.header ≤ s.cfg.received → s.cfg.sigSeen = false →
        exec .cfgLastByte s = .next { s with cfg := { s.cfg with st := 3, relay := false } }) ∧
      ((s.cfg.header = [] ∨ s.cfg.received < hdrBytes s.cfg.header) → s.cfg.src ≠ 2 → s.cfg.late = false →
        ∃ t, exec .cfgLastByte s = .next t ∧ LoadRejected s t 14 .formatError 0xFFFFFFFFFFFFFFFF) ∧
      (∀ sig : List Byte, s.cfg.header ≠ [] → s.cfg.sigSeen = false → sig.length = 29792 → fromFlash s 0x100 sig = true → s.cfg.src ≠ 2 →
        s.cfg.late = false → ∃ t, exec (.cfgSignatureVerified sig) s = .next t ∧
          if sigOk s (hdrKey s.cfg.header) s.cfg.header sig then t.cfg.sigSeen = true ∧ t.cfg.st = 2 ∧ t = { s with cfg := t.cfg, win := t.win }
          else LoadRejected s t 6 .authFail 0xFFFFFFFFFFFFFFFF))

/-- CFG_COMMIT (R355), CFG_DEADLINE and CFG_ENUM_WAIT_EXPIRED (R350), STRAND_START_MARK and STRAND_GAP (R351), and
CFG_SCRUB_FRAME (R357 to R359). -/
def Obligations.ConfigurationCommit : Prop :=
  ∀ s : State, (s.boot.starting = false ∨ s.boot.stage ≠ 9) →
    (s.cfg.st = 4 → s.cfg.clocks = [] →
      (hdrFloor s.cfg.header ≤ supplyMv s → hdrKind s.cfg.header = 1 → ∀ r design, applying s = [(r, design)] → r < 31 →
        ∃ t, ∃ e : Event, exec .cfgCommit s = .next t ∧ t.cfg.st = 0 ∧ t.cfg.lastSrc = s.cfg.src ∧ t.handed = s.handed ++ [e] ∧ e.code = 0x0C01 ∧
          e.source = srcConfig ∧ odRaw t 0x591001 = (odRaw s 0x591001 + 1) % 2 ^ 64 ∧
          (∀ k ∈ regionSectors r, sectorRegion t k = 0x20 + r ∧ odRaw t (odKey 0x5920 (k + 1)) = design ∧
            (sector t k).design = design ∧ (sector t k).floor = hdrFloor s.cfg.header ∧
            (sector t k).plane = (sector s k).staged.filter (fun e => e.1 / 4096 != 1) ∧ (sector t k).staged = (sector t k).plane) ∧
          (∀ d ∈ regionDales r, (dale t d).portLive = 1) ∧ tget 0 t.sec.mrCount 3 = tget 0 s.sec.mrCount 3 + 1) ∧
      (supplyMv s < hdrFloor s.cfg.header → exec .cfgCommit s = .next s)) ∧
    (s.cfg.boot = true →
      (enumerated s = true → s.cfg.st = 1 → ∃ t, ∃ e : Event, exec .cfgDeadline s = .next t ∧ GoldenBegun s t ∧
        e.code = 0x0C03 ∧ t.handed = s.handed ++ [e]) ∧
      (enumerated s = true → s.cfg.st = 2 → s.cfg.src ≠ 2 → ∃ t, ∃ e f : Event, exec .cfgDeadline s = .next t ∧ GoldenBegun s t ∧
        e.code = 0x0C02 ∧ f.code = 0x0C03 ∧ t.handed = s.handed ++ [e, f]) ∧
      (enumerated s = false → s.cfg.st = 1 → ∃ t, ∃ e : Event, exec .cfgEnumWaitExpired s = .next t ∧ GoldenBegun s t ∧
        e.code = 0x0C03 ∧ t.handed = s.handed ++ [e])) ∧
    (s.cfg.boot = false → exec .cfgDeadline s = .next s ∧ exec .cfgEnumWaitExpired s = .next s) ∧
    (strandFollower s = true → cfgShown s < 2 → ∃ t, exec .strandStartMark s = .next t ∧ LoadBegun s t 1 ∧ t.ans = s.ans) ∧
    (strandFollower s = false → exec .strandStartMark s = .next s) ∧
    (s.cfg.src = 1 → s.cfg.st = 2 → s.cfg.late = false → ∃ t, exec .strandGap s = .next t ∧ LoadRejected s t 14 .formatError 0xFFFFFFFFFFFFFFFF) ∧
    (∀ k n w j i, k < 16 → n < 1585 → w < 512 → odRaw s 0x590003 ≠ 0 → domainOn s (128 + k) = true → (sectorRegion s k).testBit 5 = true →
      scrubPaused s k = false → j < 16 → i < scrubFrames → (sectorRegion s j).testBit 5 = true → j * 2048 + i ≠ k * 2048 + n →
      s.cfg.scrubbed.contains (j * 2048 + i) = false →
      (∃ t, exec (.cfgScrubFrame k n w 0 0) s = .next t ∧ t = { s with cfg := t.cfg, sectors := t.sectors } ∧
        t.cfg.scrubbed.contains (k * 2048 + n) = true ∧
        sector t k = { sector s k with clean := tset 0 (sector s k).clean n (((scrubServes s k).1.map fun p => (pipe s p).epoch).getD 0) }) ∧
      (∃ t, exec (.cfgScrubFrame k n w 0 1) s = .next t ∧ odRaw t 0x591005 = (odRaw s 0x591005 + 1) % 2 ^ 64 ∧
        tget 0 t.cfg.benign k = tget 0 s.cfg.benign k + 1 ∧
        (s.cfg.told.contains k = true → t.handed = s.handed) ∧
        (s.cfg.told.contains k = false → ∃ e : Event, e.code = 0x0C05 ∧ e.source = sectorSource k ∧ t.handed = s.handed ++ [e])) ∧
      (essentialWord (sector s k) n (2 * w) = true → (scrubServes s k).1 = none → ∃ t, ∃ e : Event, exec (.cfgScrubFrame k n w 1 0) s = .next t ∧
        t = { s with cfg := t.cfg, od := t.od, handed := s.handed ++ [e] } ∧ odRaw t 0x591006 = (odRaw s 0x591006 + 1) % 2 ^ 64 ∧
        e.code = 0x0C06 ∧ e.source = sectorSource k))

/-- RD_SHARED, RD_OWN, RD_NC, WR_NC, WR_BACK and EVICT of the host (R371, R372, R375, R378, R386), MMIO_RD32 to MMIO_WR64 (R380,
R385) and CFG_RD and CFG_WR (R384, R385). -/
def Obligations.HostRequests : Prop :=
  ∀ (j tag line : Nat) (s : State), j < 4 →
    (line % 64 = 0 →
      (∀ i op, (i, op) ∈ [(Instr.rdShared true j tag line, 0x01), (Instr.rdOwn j tag line, 0x02), (Instr.rdNc true j tag line, 0x03)] →
        (subOf line = j → regionOf line = .hbm → hbmGone s line = none → ∃ t, ∃ r : HbmReq, exec i s = .next t ∧
          (stk t (stackOf line)).queue = (stk s (stackOf line)).queue ++ [r] ∧ r.wr = false ∧ r.addr = line ∧ r.len = 64 ∧ r.port = 1 ∧
          r.host = some (j, heonMsg op tag line 0 0 0 false 0) ∧ agent t j = agent (fromHost s j op tag) j ∧
          t = { s with heon := t.heon, hbm := t.hbm }) ∧
        (∀ st, subOf line = j → regionOf line = .hbm → hbmGone s line = some st →
          ∃ t, exec i s = .next t ∧ Sent (fromHost s j op tag) t j (heonMsg 0x18 tag 0 0 (statusCode st) 0 false 0)) ∧
        (subOf line ≠ j → ∃ t, exec i s = .next t ∧ SentInvalid (fromHost s j op tag) t j (heonMsg 0x18 tag 0 0 (statusCode .formatError) 0 false 0))) ∧
      (∀ (mask : Nat) (bytes : List Byte) (poison : Bool),
        (subOf line = j → bytes.length = 64 → regionOf line = .hbm → hbmGone s line = none →
          ∃ t, ∃ r : HbmReq, exec (.wrNc true j tag line mask bytes poison) s = .next t ∧
            (stk t (stackOf line)).queue = (stk s (stackOf line)).queue ++ [r] ∧ r.wr = true ∧ r.addr = line ∧ r.bytes = bytes ∧ r.poison = poison ∧
            r.host = some (j, heonMsg 0x04 tag line mask 0 0 false 0) ∧ t = { s with heon := t.heon, hbm := t.hbm }) ∧
        (subOf line = j → bytes = [] → (agent s j).datas.find? (fun e => e.1 == tag) = none →
          ∃ t, exec (.wrNc true j tag line mask bytes poison) s = .next t ∧ t = { s with heon := t.heon } ∧
            (agent t j).hostReqs = (agent s j).hostReqs ++ [heonMsg 0x04 tag line mask 0 0 true 0]) ∧
        (subOf line ≠ j → ∃ t, exec (.wrNc true j tag line mask bytes poison) s = .next t ∧
          SentInvalid (fromHost s j 0x04 tag) t j (heonMsg 0x19 tag 0 0 (statusCode .formatError) 0 false 0)) ∧
        (subOf line = j → regionOf line = .hbm → (agent s j).resetting = false → bytes.length = 64 →
          (filterOf (stk s (stackOf line)) line = some true → (stk s (stackOf line)).snoops = [] →
            ((∀ w ∈ wordsOf line 64, synOf s w = 0) → poison = false → ∃ t, exec (.wrBack j tag line bytes poison) s = .next t ∧
              t = { s with heon := t.heon, hbm := t.hbm, mem := t.mem, synd := t.synd } ∧
              (∀ i, i < 64 → memGet t (line + i) = bytes.getD i 0#8) ∧ (∀ a, a < line ∨ line + 64 ≤ a → memGet t a = memGet s a) ∧
              filterOf (stk t (stackOf line)) line = none ∧
              agent t j = { agent (fromHost s j 0x05 tag) j with
                toHost := (agent s j).toHost ++ [heonMsg 0x19 tag 0 0 (statusCode .done) 0 false 0] }) ∧
            (∃ t, exec (.evict j tag line) s = .next t ∧ t = { s with heon := t.heon, hbm := t.hbm } ∧
              filterOf (stk t (stackOf line)) line = none ∧
              agent t j = { agent (fromHost s j 0x06 tag) j with
                toHost := (agent s j).toHost ++ [heonMsg 0x19 tag 0 0 (statusCode .done) 0 false 0] })) ∧
          (filterOf (stk s (stackOf line)) line ≠ some true →
            (∃ t, exec (.wrBack j tag line bytes poison) s = .next t ∧
              Sent (fromHost s j 0x05 tag) t j (heonMsg 0x19 tag 0 0 (statusCode .formatError) 0 false 0)) ∧
            (∃ t, exec (.evict j tag line) s = .next t ∧
              Sent (fromHost s j 0x06 tag) t j (heonMsg 0x19 tag 0 0 (statusCode .formatError) 0 false 0)))))) ∧
    (∀ i op size, (i, op, size) ∈ [(Instr.mmioRd32 0 tag line, 0x08, 4), (Instr.mmioRd64 0 tag line, 0x09, 8)] →
      (s.svc.testBit 0 = true → line % size = 0 →
        (∀ d off, regionOf line = .store d off → daleGone s d = none → (ni s (daleCol d)).state = 0 → off + size ≤ storeBytes →
          CleanWords s d off size → ∃ t, exec i s = .next t ∧
            Sent (fromHost s 0 op tag) t 0 (heonMsg 0x1B tag 0 (leNat (memBytes s (daleBase d + off) size)) (statusCode .done) 0 false 0)) ∧
        (regionOf line = .window → ∃ t, exec i s = .next t ∧ Sent (fromHost s 0 op tag) t 0
          (heonMsg 0x1B tag 0 (accessRead (fromHost s 0 op tag) line size).2 (statusCode (accessRead (fromHost s 0 op tag) line size).1) 0 false 0))) ∧
      (s.svc.testBit 0 = false → ∃ t, exec i s = .next t ∧
        Sent (fromHost s 0 op tag) t 0 (heonMsg 0x1B tag 0 0 (statusCode .domainOff) 0 false 0)) ∧
      (s.svc.testBit 0 = true → line % size ≠ 0 → ∃ t, exec i s = .next t ∧
        Sent (fromHost s 0 op tag) t 0 (heonMsg 0x1B tag 0 0 (statusCode .formatError) 0 false 0))) ∧
    (∀ v i op size, (i, op, size) ∈ [(Instr.mmioWr32 0 tag line v, 0x0A, 4), (Instr.mmioWr64 0 tag line v, 0x0B, 8)] →
      (s.svc.testBit 0 = true → line % size = 0 →
        (∀ d off, regionOf line = .store d off → daleGone s d = none → (ni s (daleCol d)).state = 0 → off + size ≤ storeBytes →
          CleanWords s d off size → (dale s d).partner = none → ∃ t, exec i s = .next t ∧
            (∀ k, k < size → memGet t (daleBase d + off + k) = (leBytes size (v % 2 ^ (8 * size))).getD k 0#8) ∧
            (∀ a, a < daleBase d + off ∨ daleBase d + off + size ≤ a → memGet t a = memGet s a) ∧ t.handed = s.handed ∧
            (agent t 0).toHost = (agent s 0).toHost ++ [heonMsg 0x19 tag 0 0 (statusCode .done) 0 false 0])) ∧
      (s.svc.testBit 0 = false → ∃ t, exec i s = .next t ∧
        Sent (fromHost s 0 op tag) t 0 (heonMsg 0x19 tag 0 0 (statusCode .domainOff) 0 false 0))) ∧
    (∀ reg, ∃ t, exec (.cfgRd 0 tag reg) s = .next t ∧
      Sent (fromHost s 0 0x0C tag) t 0 (heonMsg 0x1B tag 0 (cfgReg s (reg % 4096)) (statusCode .done) 0 false 0)) ∧
    (∀ reg v, 0x020 ≤ reg → reg < 0x060 → reg % 4 = 0 → ∃ t, exec (.cfgWr 0 tag reg v) s = .next t ∧
      tget 0 t.notify ((reg - 0x020) / 4) = Nat.land v 0x8000FFFF ∧
      Sent { fromHost s 0 0x0D tag with notify := t.notify } t 0 (heonMsg 0x19 tag 0 0 (statusCode .done) 0 false 0))

/-- The device's RD_SHARED, RD_NC and WR_NC (R372, R379), snoops and answers (R373, R374, R376), ENUM_DONE (R388), LINK_RESET
(R389), LINK_DOWN (R387), HOST_LOST (R388), FLIT_RECEIVED (R366 to R370) and the sending of a flit at a tick (log entry 75). -/
def Obligations.CoherenceAndFlits : Prop :=
  ∀ (j tag line : Nat) (s : State), j < 4 →
    (s.svc.testBit 2 = false → subOf line = j →
      (∀ i shared, (i, shared) ∈ [(Instr.rdShared false j tag line, true), (Instr.rdNc false j tag line, false)] → ∀ e : ExtReq,
        s.ext.find? (fun e => !e.wr && ((e.origin.dale == 2048) == shared) && (linesOf e.addr e.len).contains line && !e.asked.contains line) = some e →
        canPlace s j tag 0 = true → ∃ t, exec i s = .next t ∧ t = { s with heon := t.heon, ext := t.ext } ∧
          (agent t j).out = (agent s j).out ++ [⟨tag, if shared then 0x01 else 0x03, line, none, none, false⟩] ∧
          (agent t j).txSlots = (agent s j).txSlots ++ heonSlots (heonMsg (if shared then 0x01 else 0x03) tag line 0 0 0 false 0) ∧
          t.ext = s.ext.map (fun x => if x = e then { e with asked := e.asked ++ [line] } else x) ∧
          tget 0 (agent t j).credits 0 = tget 0 (agent s j).credits 0 + 1) ∧
      (∀ e : ExtReq, s.ext.find? (fun e => e.wr && (linesOf e.addr e.len).contains line && !e.asked.contains line) = some e →
        canPlace s j tag 5 = true → ∃ t, exec (.wrNc false j tag line (writeMask e line) (writeBytes e line) e.poison) s = .next t ∧
          t = { s with heon := t.heon, ext := t.ext } ∧ (agent t j).out = (agent s j).out ++ [⟨tag, 0x04, line, none, none, false⟩] ∧
          (agent t j).txSlots = (agent s j).txSlots ++ heonSlots (heonMsg 0x04 tag line (writeMask e line) 0 0 false 0)
            ++ heonSlots { heonMsg 0x20 0 0 0 0 0 false (if e.poison then 1 else 0) with tags := [tag], lines := [writeBytes e line] } ∧
          tget 0 (agent t j).credits 0 = tget 0 (agent s j).credits 0 + 1 ∧ tget 0 (agent t j).credits 3 = tget 0 (agent s j).credits 3 + 5)) ∧
    (subOf line = j → line % 64 = 0 →
      (∃ t, exec (.snpShare true j tag line) s = .next t ∧
        Sent (fromHost s j 0x10 tag) t j (heonMsg 0x1A tag 0 0 0 (if inCache s j line then 1 else 0) false 0)) ∧
      (∃ t, exec (.snpInv true j tag line) s = .next t ∧ t = { s with heon := t.heon } ∧ inCache t j line = false ∧
        (∀ e, e.1 ≠ line → (e ∈ (agent t j).cache ↔ e ∈ (agent s j).cache)) ∧
        (agent t j).toHost = (agent s j).toHost ++ [heonMsg 0x1A tag 0 0 0 0 false 0])) ∧
    (∀ (i : Instr) (m : HeonMsg) (rest : List HeonMsg), (agent s j).toHost = m :: rest →
      (i, m.op) ∈ [(Instr.snpShare false j m.tag m.addr, 0x10), (.snpInv false j m.tag m.addr, 0x11), (.go false j m.tag m.st m.status, 0x18),
        (.comp false j m.tag m.status, 0x19), (.data false j m.tags m.lines m.poison, 0x20)] →
      ∃ t, exec i s = .next t ∧ t = { s with heon := t.heon } ∧ (∀ k, k ≠ j → agent t k = agent s k) ∧
        agent t j =
          if (agent s j).up = true ∧ creditsHold (agent s j) j (heonClass m.op) (heonSlots m).length = true
          then placeSlots { agent s j with toHost := rest } (heonClass m.op) (heonSlots m) else agent s j) ∧
    ((agent s j).resetting = false →
      (∀ (bs : List Byte) (e : ExtReq), (agent s j).out = [⟨tag, 0x01, line, some (bs, false), none, false⟩] →
        s.ext.find? (fun e => !e.wr && e.origin.dale == 2048 && e.addr == line && e.asked.contains line) = some e →
        ∃ t, exec (.go true j tag 1 0) s = .next t ∧ t = { s with heon := t.heon, ext := s.ext.erase e, cp := t.cp, free := t.free } ∧
          (agent t j).out = [] ∧ (agent t j).cache.getLast? = some (line, bs) ∧ t.cp.got = s.cp.got ++ [(e.origin.key, line, bs, false)]) ∧
      (∀ e : ExtReq, (agent s j).out = [⟨tag, 0x04, line, none, none, false⟩] → s.ext = [e] → e.wr = true → e.asked = [line] → e.done = [] →
        linesOf e.addr e.len = [line] → e.origin.dale = 2048 → e.origin.chan ≠ 2 →
        ∃ t, exec (.comp true j tag 0) s = .next t ∧ t = { s with heon := t.heon, ext := [] } ∧ (agent t j).out = []) ∧
      (∀ k inv l, snoopOf (fromHost s j 0x1A tag) j tag = some (k, line, inv, l) → ∃ t, exec (.snpRsp j tag 1 none) s = .next t ∧
        t = { s with heon := t.heon, hbm := t.hbm } ∧ filterOf (stk t k) line = some false ∧ (stk t k).snoops = (stk s k).snoops.filter (fun e => e.1 != line)) ∧
      (∀ k inv l (bs : List Byte), snoopOf (fromHost s j 0x1A tag) j tag = some (k, line, inv, l) → bs.length = 64 → line % 64 = 0 →
        (∀ w ∈ wordsOf line 64, synOf s w = 0) → ∃ t, exec (.snpRsp j tag 0 (some (bs, false))) s = .next t ∧
          t = { s with heon := t.heon, hbm := t.hbm, mem := t.mem, synd := t.synd } ∧ (∀ i, i < 64 → memGet t (line + i) = bs.getD i 0#8) ∧
          (∀ a, a < line ∨ line + 64 ≤ a → memGet t a = memGet s a) ∧ filterOf (stk t k) line = none ∧
          (stk t k).snoops = (stk s k).snoops.filter (fun e => e.1 != line)) ∧
      (∀ (bs : List Byte) (r : HeonReq), (agent s j).out = [r] → r.tag = tag → r.op ≠ 0x04 → r.data = none → r.go = none → bs.length = 64 →
        ∃ t, exec (.data true j [tag] [bs] 0) s = .next t ∧ t = { s with heon := t.heon } ∧
          (agent t j).out = [{ r with data := some (bs, false) }])) ∧
    (∀ ms, ∃ t, ∃ e : Event, exec (.enumDone ms) s = .next t ∧ t = { s with svc := t.svc, handed := s.handed ++ [e] } ∧ e.code = 0x0D07 ∧
      e.source = dieSource 16 ∧ t.svc.testBit 3 = true ∧ t.svc.testBit 0 = s.svc.testBit 0 ∧ t.svc.testBit 1 = s.svc.testBit 1 ∧
      t.svc.testBit 2 = (s.svc.testBit 2 && !((List.range 4).all fun k => groupActive s (16 + k)))) ∧
    ((∀ k, k < 4 → (agent s k).out = [] ∧ (agent s k).hostReqs = [] ∧ (agent s k).inbox = [] ∧ groupActive s (16 + k) = false) →
      (∀ k, k < 8 → (stk s k).filter = [] ∧ (stk s k).snoops = [] ∧ (stk s k).queue = []) →
      ∃ t, exec .linkReset s = .next t ∧ t = { s with heon := t.heon, hostWin := (odRaw s 0x600101, odRaw s 0x600102) } ∧
        (∀ k, k < 4 → (agent t k).cache = [] ∧ (agent t k).resetting = false ∧ (agent t k).credits = [] ∧ (agent t k).txSeq = 0 ∧ (agent t k).rxSeq = 0xFFF ∧
          (agent t k).txSlots = [])) ∧
    ((agent s j).up = false → (agent s j).told = false → ∃ t, ∃ e : Event, exec (.linkDown j) s = .next t ∧
      t = { s with heon := t.heon, handed := s.handed ++ [e] } ∧ agent t j = { agent s j with told := true } ∧ e.code = 0x0D03 ∧ e.source = dieSource (16 + j)) ∧
    (((agent s j).up = true ∨ (agent s j).told = true) → exec (.linkDown j) s = .next s) ∧
    (groupActive s (16 + j) = false → s.svc.testBit 2 = false → (∀ e ∈ s.pipes, e.2.st ≠ .running) → s.ext = [] →
      ∃ t, ∃ e : Event, exec .hostLost s = .next t ∧ t.svc.testBit 2 = true ∧ t.handed = s.handed ++ [e] ∧ e.code = 0x0D04 ∧ e.source = srcCmd ∧
        (∀ q, q < 16 → (winGet t (cqWin q 8)).testBit 31 = false ∧ (winGet t (cplWin q 8)).testBit 31 = false) ∧
        (∀ k, k < 4 → (agent t k).cache = [] ∧ (agent t k).out = []) ∧ (∀ k, k < 8 → (stk t k).filter = [] ∧ (stk t k).snoops = []) ∧
        t.cp.inflight = [] ∧ t.dales = s.dales) ∧
    (∀ flit : List Byte, (agent s j).up = true →
      ((flit.length ≠ 256 ∨ fieldAt flit 252 4 ≠ crc32 (flit.take 252)) → ∃ t, exec (.flitReceived j flit) s = .next t ∧
        t = { s with heon := t.heon, od := t.od } ∧ agent t j = { agent s j with awaiting := true } ∧
        odRaw t (odKey (0x6010 + j) 3) = (odRaw s (odKey (0x6010 + j) 3) + 1) % 2 ^ 64) ∧
      (∀ h x, h = fieldAt flit 0 12 → flit.length = 256 → (lgroup s (16 + j)).badWord = false → fieldAt flit 252 4 = crc32 (flit.take 252) →
        bitsOf h 70 68 = 0 → bitsOf h 95 84 = ((agent s j).rxSeq + 1) % 4096 → h.testBit 71 = false → (agent s j).slots = [] →
        (List.range 15).filterMap (fun i => if h.testBit (33 + i) then some (bytesAt flit (12 + 16 * i) 16) else none) = [x] →
        slotsOfHeon (leNat x) = 1 → hostOpcode (bitsOf (leNat x) 127 122) = true → reservedOk (leNat x) = true →
        ∃ t, exec (.flitReceived j flit) s = .next t ∧ t = { s with heon := t.heon, od := t.od } ∧
          (agent t j).rxSeq = bitsOf h 95 84 ∧ (agent t j).slots = [] ∧ (agent t j).inbox = (agent s j).inbox ++ [messageOf (leNat x) []] ∧
          odRaw t (odKey (0x6010 + j) 2) = (odRaw s (odKey (0x6010 + j) 2) + 1) % 2 ^ 64)) ∧
    (s.pending = [] → (agent s j).up = true → (agent s j).txSlots ≠ [] → (lgroup s (16 + j)).txIdle = false →
      (agent s j).replay.length < 256 → ∃ t, step s = .next t ∧
        agent t j = { agent s j with
          replay := (agent s j).replay ++ [((agent s j).txSeq, linkFlit (agent s j) j ((agent s j).txSlots.take 15))],
          txSeq := ((agent s j).txSeq + 1) % 4096, txSlots := (agent s j).txSlots.drop 15,
          credits := creditsSent j (agent s j).credits } ∧
        odRaw t (odKey (0x6010 + j) 1) = (odRaw s (odKey (0x6010 + j) 1) + 1) % 2 ^ 64) ∧
    (∀ k flit, k < 20 → (agent s k).up = false → exec (.flitReceived k flit) s = .next s)

/-- LANE_DETECT_PROBE, TRAINING_FRAME, EXCHANGE_FRAME, TRAIN_LIMIT_EXPIRED and TRAIN_RETRY (R404 to R408), ALIGNMENT_MARKER,
MARKER_SEND and MARKER_TIMEOUT (R398 to R400), CODEWORD_RECEIVED (R402, R403), LANE_LOCK_LOST and GROUP_RETRAIN (R407), IDLE_ENTRY
and IDLE_EXIT (R409), DEEP_REQUEST, DEEP_REQUEST_TIMEOUT, DEEP_WAKE and WAKE_BURST (R410), LANE_CTRL, LANE_BITSLIP and GROUP_CLEAR
(R411, R412; log entry 41) and PORT_ENABLE (R413). The stuffs of a marker itself are log entry 74's. -/
def Obligations.SerialLanes : Prop :=
  ∀ (n g k : Nat) (s : State), n < 144 → g < 20 → k < groupN g →
    (g = laneGroup n →
      ((lgroup s g).stage = 1 → (sLane s n).stage = 1 → ∀ found : Bool,
        ((∃ m ∈ groupLanes g, m ≠ n ∧ (sLane s m).detected = false) → ∃ t, exec (.laneDetectProbe n found) s = .next t ∧
          t = { s with lanes := t.lanes } ∧ sLane t n = { sLane s n with detected := found } ∧ (∀ m, m ≠ n → sLane t m = sLane s m)) ∧
        ((∀ m ∈ groupLanes g, m ≠ n → (sLane s m).detected = true) → ∃ t, exec (.laneDetectProbe n true) s = .next t ∧
          (lgroup t g).stage = 2 ∧ (lgroup t g).fast = false ∧ ∀ m ∈ groupLanes g, (sLane t m).stage = 2 ∧ (sLane t m).ready = false)) ∧
      ((lgroup s g).stage = 2 → ((sLane s n).stage = 2 ∨ (sLane s n).stage = 3) → ∀ (syms : List Nat) (f : TrainFrame) (adapted inverted : Bool),
        (trainOf syms = none → exec (.trainingFrame n syms adapted inverted) s = .next s) ∧
        (trainOf syms = some f → (∃ m ∈ groupLanes g, m ≠ n ∧ ((sLane s m).stage ≠ 3 ∨ (sLane s m).ready = false)) →
          ∃ t, exec (.trainingFrame n syms adapted inverted) s = .next t ∧ t = { s with lanes := t.lanes } ∧
            ((sLane s n).control = some f → (sLane t n).run = (sLane s n).run + 1) ∧ ((sLane s n).control ≠ some f → (sLane t n).run = 1) ∧
            (sLane t n).control = some f ∧ (sLane t n).stage = (if adapted then 3 else (sLane s n).stage) ∧
            (sLane t n).ready = (if (sLane t n).run = 3 then f.rxReady else (sLane s n).ready) ∧
            ((sLane t n).coefs, (sLane t n).status) =
              (if (sLane t n).run = 3 then coefsAfter (sLane s n).coefs f else ((sLane s n).coefs, (sLane s n).status)) ∧ (∀ m, m ≠ n → sLane t m = sLane s m)) ∧
        (trainOf syms = some f → (∀ m ∈ groupLanes g, m ≠ n → (sLane s m).stage = 3 ∧ (sLane s m).ready = true) → (sLane s n).ready = true → f.rxReady = true →
          ∃ t, exec (.trainingFrame n syms true inverted) s = .next t ∧ (lgroup t g).stage = 4 ∧ t = { s with lanes := t.lanes, groupsL := t.groupsL })) ∧
      (groupActive s g = true → ∃ t, exec (.laneLockLost n) s = .next t ∧ Retrained s t g 0) ∧
      (groupActive s g = false → exec (.laneLockLost n) s = .next s) ∧
      (∀ v, (g < 16 → portEnabled s g = false → laneCtrlOk v = true → groupPowered s g = true → ∃ t, exec (.laneCtrl n v) s = .next t ∧
          t = { s with lanes := t.lanes, ans := (.done, 0) } ∧ (sLane t n).ctrl = v - 4 * bitsOf v 3 2 ∧
          (sLane t n).stage = (if v - 4 * bitsOf v 3 2 = 0 then 0 else 9)) ∧
        ((16 ≤ g ∨ portEnabled s g = true ∨ laneCtrlOk v = false ∨ groupPowered s g = false) →
          exec (.laneCtrl n v) s = .next (answer s .formatError 0))) ∧
      ((sLane s n).stage = 9 → (sLane s n).ctrl.testBit 7 = true → ∃ t, exec (.laneBitslip n 1) s = .next t ∧
        t = { s with lanes := t.lanes, ans := (.done, 0) } ∧ (sLane t n).offset = ((sLane s n).offset + 1) % 128 ∧ (sLane t n).found = false) ∧
      (∀ v, (v ≠ 1 ∨ (sLane s n).stage ≠ 9) → exec (.laneBitslip n v) s = .next (answer s .formatError 0))) ∧
    (n = (groupLanes g).getD k 0 →
      ((lgroup s g).stage = 4 → ∀ (syms : List Nat) (r : ExchRecord) (micros : Nat),
        (exchOf syms = none → ∃ t, exec (.exchangeFrame g k syms true micros) s = .next t ∧ t = { s with lanes := t.lanes } ∧
          sLane t n = { sLane s n with found := true, exch := none, exchRun := 0 }) ∧
        (exchOf syms = some r →
        ((sLane s n).exch ≠ some r → (lgroup s g).ack = false → ∃ t, exec (.exchangeFrame g k syms true micros) s = .next t ∧
          t = { s with lanes := t.lanes } ∧ sLane t n = { sLane s n with found := true, exch := some r, exchRun := 1, partner := r.lane }) ∧
        ((sLane s n).exch ≠ some r → (lgroup s g).ack = true → r.ack = true →
          (∀ m ∈ groupLanes g, m ≠ n → (sLane s m).exch.map (·.ack) = some true) →
          ∃ t, ∃ e : Event, exec (.exchangeFrame g k syms true micros) s = .next t ∧ (lgroup t g).stage = 5 ∧ (lgroup t g).fails = 0 ∧
            (agent t (if g < 16 then 4 + g else g - 16)).up = true ∧ e.code = 0x0E01 ∧ e.source = dieSource g ∧ e ∈ t.handed) ∧
        ((sLane s n).exch = some r → 2 ≤ (sLane s n).exchRun → (r.kind ≠ partnerKind g ∨ r.lanes ≠ groupN g) →
          ∃ t, exec (.exchangeFrame g k syms true micros) s = .next t ∧ (lgroup t g).stage = 0 ∧ (lgroup t g).fails = (lgroup s g).fails + 1))) ∧
      (∀ (syms : List Nat) (early skewOk : Bool) (o : Unstuffed) (l : SerialLane), o = unstuffLine syms (sLane s n).rxRun →
        l = { sLane s n with rxRun := o.run, stuffs := holdAdd (sLane s n).stuffs o.gone, stuffErr := holdAdd (sLane s n).stuffErr o.wrong } →
        ((lgroup s g).stage = 5 → (sLane s n).stage ≠ 9 →
          (∀ lane state, markerOf o.kept = some (lane, state) →
            (skewOk = true → state % 4 < 2 → (state.testBit 3 = false ∨ (lgroup s g).deep ≠ 1) →
              ∃ t, exec (.alignmentMarker g k syms early skewOk) s = .next t ∧ t = { s with lanes := t.lanes, groupsL := t.groupsL } ∧
                sLane t n = { l with partner := lane % 8, slips := if early then holdAdd l.slips 1 else l.slips } ∧
                lgroup t g = { lgroup s g with rxIdle := decide (state % 4 = 1) }) ∧
            (skewOk = false → ∃ t, exec (.alignmentMarker g k syms early skewOk) s = .next t ∧ Retrained s t g 2)) ∧
          (markerOf o.kept = none → ∃ t, exec (.alignmentMarker g k syms early skewOk) s = .next t ∧ t = { s with lanes := t.lanes } ∧
            sLane t n = l)) ∧
        ((lgroup s g).stage ≠ 5 → (sLane s n).stage ≠ 9 → exec (.alignmentMarker g k syms early skewOk) s = .next s))) ∧
    ((lgroup s g).stage = 5 →
      (∀ words : List Nat, (lgroup s g).txIdle = false → (lgroup s g).deep = 0 → ∃ t, exec (.markerSend g words) s = .next t ∧
        t = { s with groupsL := t.groupsL, lanes := t.lanes } ∧ (lgroup t g).pads.length = groupN g ∧
        (∀ i, i < groupN g → ∃ big, (∀ j, j < groupN g → (lineSince s g j words).2 ≤ big) ∧
          (big = 0 ∨ ∃ j, j < groupN g ∧ (lineSince s g j words).2 = big) ∧
          (lgroup t g).pads.getD i 0 = min 255 (big - (lineSince s g i words).2 + tget 0 (lgroup s g).carry i) ∧
          tget 0 (lgroup t g).carry i + (lgroup t g).pads.getD i 0 = big - (lineSince s g i words).2 + tget 0 (lgroup s g).carry i ∧
          (sLane t ((groupLanes g).getD i 0)).sent =
            (stuffLine (markerSyms (g * 8 + i) ((lgroup t g).pads.getD i 0 * 256 + (if (lgroup s g).nak then 8 else 0) + (lgroup s g).next))
              (lineSince s g i words).1).1)) ∧
      (∃ t, exec (.markerTimeout g) s = .next t ∧ Retrained s t g 1) ∧
      (∃ t, exec (.groupRetrain g) s = .next t ∧ Retrained s t g 4 ∧ t.ans = (.done, 0)) ∧
      (∀ (lines : List (List Nat)) (errors : List Nat), (lgroup s g).rxIdle = false → ∃ t, exec (.codewordReceived g lines errors) s = .next t ∧
        (∀ o : Unstuffed, o = unstuffLine (lines.getD k []) (sLane s ((groupLanes g).getD k 0)).rxRun →
          (sLane t ((groupLanes g).getD k 0)).rxRun = o.run ∧
          (sLane t ((groupLanes g).getD k 0)).stuffs = holdAdd (sLane s ((groupLanes g).getD k 0)).stuffs o.gone ∧
          (sLane t ((groupLanes g).getD k 0)).stuffErr = holdAdd (sLane s ((groupLanes g).getD k 0)).stuffErr o.wrong) ∧
        (errors = [] → (lgroup t g).badWord = false ∧ t = { s with lanes := t.lanes, groupsL := t.groupsL }) ∧
        (0 < errors.length → errors.length ≤ 15 → (lgroup t g).badWord = false ∧ (lgroup t g).fecC = (lgroup s g).fecC + 1 ∧
          odRaw t 0x681001 = (odRaw s 0x681001 + 1) % 2 ^ 64 ∧
          (sLane t ((groupLanes g).getD k 0)).symErr =
            (sLane s ((groupLanes g).getD k 0)).symErr + (errors.filter fun e => e % groupN g == k).length) ∧
        (15 < errors.length → (lgroup t g).badWord = true ∧ (lgroup t g).fecU = (lgroup s g).fecU + 1 ∧
          odRaw t 0x681002 = (odRaw s 0x681002 + 1) % 2 ^ 64)) ∧
      (odRaw s 0x680001 ≠ 0 → (lgroup s g).deep = 0 → ∃ t, exec (.idleEntry g) s = .next t ∧ t = { s with groupsL := t.groupsL } ∧
        lgroup t g = { lgroup s g with txIdle := true, next := 1 }) ∧
      ((lgroup s g).txIdle = true → ∃ t, exec (.idleExit g) s = .next t ∧ t = { s with groupsL := t.groupsL } ∧
        lgroup t g = { lgroup s g with txIdle := false, next := 0 }) ∧
      (g < 16 → (lgroup s g).deep = 0 → ∃ t, exec (.deepRequest g) s = .next t ∧ t = { s with groupsL := t.groupsL, ans := (.done, 0) } ∧
        lgroup t g = { lgroup s g with deep := 1, next := if linkQuiet s g then 2 else (lgroup s g).next })) ∧
    (16 ≤ g → exec (.deepRequest g) s = .next (answer s .formatError 0)) ∧
    ((lgroup s g).stage ∈ [1, 2, 3, 4, 8] → ∃ t, exec (.trainLimitExpired g) s = .next t ∧ (lgroup t g).stage = 0 ∧
      (lgroup t g).fails = (lgroup s g).fails + 1 ∧ (∀ m ∈ groupLanes g, (sLane t m).stage = 0) ∧
      ((lgroup s g).fails = 0 → ∃ e : Event, e.code = 0x0E02 ∧ e.source = dieSource g ∧ t.handed = s.handed ++ [e])) ∧
    ((lgroup s g).stage = 0 → 0 < (lgroup s g).fails → groupPowered s g = true → portEnabled s g = true →
      ∃ t, exec (.trainRetry g) s = .next t ∧ (lgroup t g).stage = 1 ∧ (∀ m ∈ groupLanes g, (sLane t m).stage = 1) ∧
        t = { s with lanes := t.lanes, groupsL := t.groupsL }) ∧
    ((lgroup s g).deep = 1 → (lgroup s g).next ≠ 2 → ∃ t, ∃ e : Event, exec (.deepRequestTimeout g) s = .next t ∧
      t = { s with groupsL := t.groupsL, handed := s.handed ++ [e] } ∧ lgroup t g = { lgroup s g with deep := 0, next := 0 } ∧
      e.code = 0x0E04 ∧ e.source = dieSource g) ∧
    ((lgroup s g).stage = 7 → (∃ t, ∃ e : Event, exec (.deepWake g) s = .next t ∧
        t = { s with groupsL := t.groupsL, handed := s.handed ++ [e], ans := (.done, 0) } ∧ lgroup t g = { lgroup s g with stage := 8 } ∧ e.code = 0x0E04) ∧
      (∃ t, ∃ e : Event, exec (.wakeBurst g) s = .next t ∧ t = { s with groupsL := t.groupsL, handed := s.handed ++ [e] } ∧
        lgroup t g = { lgroup s g with stage := 8 } ∧ e.code = 0x0E04)) ∧
    ((lgroup s g).stage ≠ 7 → exec (.deepWake g) s = .next (answer s .done 0) ∧ exec (.wakeBurst g) s = .next s) ∧
    (∃ t, exec (.groupClear g 1) s = .next t ∧ t = { s with lanes := t.lanes, groupsL := t.groupsL, ans := (.done, 0) } ∧
      lgroup t g = { lgroup s g with fecC := 0, fecU := 0, retrains := 0 } ∧
      (∀ m ∈ groupLanes g, sLane t m = { sLane s m with symErr := 0, stuffs := 0, stuffErr := 0, slips := 0, testErr := 0 }) ∧
      (∀ m, m ∉ groupLanes g → sLane t m = sLane s m)) ∧
    (∀ v, v ≠ 1 → exec (.groupClear g v) s = .next (answer s .formatError 0)) ∧
    (∀ v, v < 65536 → ∃ t, exec (.portEnable v) s = .next t ∧ t.ans = (.done, 0) ∧ odRaw t 0x680003 = v ∧
      (g < 16 → v.testBit g = false → (lgroup t g).stage = 0) ∧
      (g < 16 → v.testBit g = true → (lgroup t g).stage = if (lgroup s g).stage = 0 ∧ groupPowered s g = true then 1 else (lgroup s g).stage)) ∧
    (∀ v, 65536 ≤ v → exec (.portEnable v) s = .next (answer s .formatError 0))

/-- The messages of the peer links as a port takes them (R417, R418, R420), check epochs (R421 to R425), reductions (R427), PORT_DOWN
(R425) and the host epoch (R422). -/
def Obligations.PeerMessages : Prop :=
  ∀ (port : Nat) (m : PeerMsg) (s : State), port < 16 →
    (∀ i op, (i, op) ∈ [(Instr.peerWrite port m, 0x01), (.peerReduce port m, 0x02), (.peerAck port m, 0x08), (.peerCommit port m, 0x09),
        (.peerRetract port m, 0x0A), (.peerSignal port m, 0x0B)] →
      (peerMsgOk m op = false → ∃ t, ∃ e : Event, exec i s = .next t ∧ t = { s with heon := t.heon, peers := t.peers, handed := s.handed ++ [e] } ∧
        AckSent s t port m .formatError ∧ e.code = 0x0F07 ∧ e.source = dieSource port) ∧
      (peerMsgOk m op = true →
        ((relayEntry s m.dst).testBit 15 = false → ∃ t, ∃ e : Event, exec i s = .next t ∧
          t = { s with heon := t.heon, peers := t.peers, handed := s.handed ++ [e] } ∧ AckSent s t port m .targetIsolated ∧
          e.code = 0x0F04 ∧ e.source = dieSource port) ∧
        ((relayEntry s m.dst).testBit 15 = true → (relayEntry s m.dst).testBit 14 = false →
          (m.rvc = false ∨ (relayEntry s m.dst).testBit 13 = false) → 0 < m.hopsLeft → peerOff s port = none →
          peerOff s (relayEntry s m.dst % 16) = none → ∃ t, exec i s = .next t ∧ t = { s with heon := t.heon, peers := t.peers, od := t.od } ∧
            peerPort t (relayEntry s m.dst % 16) = { peerPort s (relayEntry s m.dst % 16) with
              out := (peerPort s (relayEntry s m.dst % 16)).out ++ [{ m with rvc := m.rvc || (relayEntry s m.dst).testBit 13, hopsLeft := m.hopsLeft - 1 }] } ∧
            odRaw t 0x701005 = (odRaw s 0x701005 + 1) % 2 ^ 64))) ∧
    ((relayEntry s m.dst).testBit 15 = true → (relayEntry s m.dst).testBit 14 = true →
      (∀ i op, (i, op) ∈ [(Instr.peerWrite port m, 0x01), (.peerSignal port m, 0x0B)] → peerMsgOk m op = true → peerOff s port = none →
        (storeHolds s port m = true → (odRaw s 0x700004).testBit port = false → (peerPort s port).epochs.any (sameEpoch · m.src m.pipeline m.epoch) = false →
          ∃ t, exec i s = .next t ∧ t = { s with heon := t.heon, peers := t.peers } ∧ AckSent s t port m .done ∧
            (peerPort t port).epochs = (peerPort s port).epochs ++ [⟨m.src, m.pipeline, m.epoch, [m], false⟩]) ∧
        (∀ e, storeHolds s port m = true → (peerPort s port).epochs = [e] → sameEpoch e m.src m.pipeline m.epoch = true → e.applied = false →
          ∃ t, exec i s = .next t ∧ AckSent s t port m .done ∧ (peerPort t port).epochs = [{ e with msgs := e.msgs ++ [m] }]) ∧
        (storeHolds s port m = false → exec i s = .next s)) ∧
      (∀ g who off, peerMsgOk m 0x02 = true → peerOff s port = none → g = bitsOf m.arg 47 42 → who = bitsOf m.arg 41 38 → off = m.arg % 2 ^ 32 →
        ((groupWord s g 0).testBit 63 = true → who < groupN' s g → off + m.bytes ≤ groupBytes s g → storeHolds s port m = true →
          ∃ t, exec (.peerReduce port m) s = .next t ∧ t = { s with heon := t.heon, peers := t.peers, groups := t.groups } ∧ AckSent s t port m .done ∧
            (redGroup t g).parts = (redGroup s g).parts ++
              [⟨tget 0 (redGroup s g).sent who / groupBytes s g, who, off, m.payload, m.poison, (port, m.src, m.pipeline, m.epoch), none⟩] ∧
            tget 0 (redGroup t g).sent who = tget 0 (redGroup s g).sent who + m.bytes) ∧
        (((groupWord s g 0).testBit 63 = false ∨ groupN' s g ≤ who ∨ groupBytes s g < off + m.bytes) →
          ∃ t, exec (.peerReduce port m) s = .next t ∧ t = { s with heon := t.heon, peers := t.peers } ∧ AckSent s t port m .formatError)) ∧
      (peerMsgOk m 0x08 = true → s.cp.closing = none →
        (∀ p : PeerSent, s.peerOut.find? (fun p => p.msg.tag == m.arg % 4096 && p.msg.dst == m.src) = some p →
          (p.origin = none → ∃ t, exec (.peerAck port m) s = .next t ∧ t = { s with heon := t.heon, peerOut := s.peerOut.erase p }) ∧
          (∀ o j, p.origin = some o → o.dale = 6000 + j → j < 4 → ∃ t, exec (.peerAck port m) s = .next t ∧
            t = { s with heon := t.heon, peerOut := s.peerOut.erase p } ∧
            (agent t j).toHost = (agent s j).toHost ++ [heonMsg 0x19 o.key 0 0 (statusCode (statusOf (bitsOf m.arg 47 40))) 0 false 0]))) ∧
      (∀ i op, (i, op) ∈ [(Instr.peerCommit port m, 0x09), (.peerRetract port m, 0x0A)] → peerMsgOk m op = true → markerEpoch s port m = none →
        ∃ t, exec i s = .next t ∧ t = { s with heon := t.heon, peers := t.peers } ∧ AckSent s t port m .done) ∧
      (∀ (e : PeerEpoch) (j : PeerJob) (rest : List PeerJob), markerEpoch s port m = some e → e.applied = false → s.groups = [] →
        (peerPort s port).jobs = j :: rest → j.begun = true → j.todo = [] → j.left ≠ 0 →
        (peerMsgOk m 0x09 = true → ∃ t, exec (.peerCommit port m) s = .next t ∧ t = { s with heon := t.heon, peers := t.peers, od := t.od } ∧
          JobGiven s t port e ((writesOf e.msgs).map fun w => (w.arg, w.payload, w.poison)) ∧ odRaw t 0x701001 = (odRaw s 0x701001 + 1) % 2 ^ 64) ∧
        (peerMsgOk m 0x0A = true → ∃ t, ∃ f : Event, exec (.peerRetract port m) s = .next t ∧
          JobGiven s t port e (poisonTodo s e.msgs).2 ∧ odRaw t 0x701002 = (odRaw s 0x701002 + 1) % 2 ^ 64 ∧
          t.handed = s.handed ++ [f] ∧ f.code = 0x0F02 ∧ f.source = dieSource port) ∧
        (m.src = e.src → m.pipeline = e.pipeline → m.epoch = e.epoch → ∃ t, ∃ f h : Event,
          exec (.epochExpired port m.src m.pipeline m.epoch) s = .next t ∧ JobGiven s t port e (poisonTodo s e.msgs).2 ∧
          odRaw t 0x701003 = (odRaw s 0x701003 + 1) % 2 ^ 64 ∧ t.handed = s.handed ++ [f, h] ∧ f.code = 0x0F02 ∧ h.code = 0x0F03))) ∧
    (markerEpoch s port m = none → exec (.epochExpired port m.src m.pipeline m.epoch) s = .next s) ∧
    (groupActive s port = true → exec (.portDown port) s = .next s) ∧
    (groupActive s port = false → (peerPort s port).down = false → (peerPort s port).epochs = [] → s.cp.closing = none →
      (∀ p ∈ s.peerOut, p.port = port → p.origin = none ∧ p.msg.opcode ≠ 0x09) → ∃ t, ∃ e : Event, exec (.portDown port) s = .next t ∧
        t = { s with peers := t.peers, peerOut := s.peerOut.filter (fun p => p.port != port), handed := s.handed ++ [e] } ∧
        peerPort t port = { peerPort s port with
          down := true, out := (peerPort s port).out.filter fun m => !(s.peerOut.any fun p => p.port == port && p.msg == m) } ∧ e.code = 0x0F01 ∧ e.source = dieSource port) ∧
    (∀ i commit, (i, commit) ∈ [(Instr.hostEpochCommit, true), (Instr.hostEpochRetract, false)] →
      (s.cp.closing = none → s.peerOut.any (hostMsg s) = false → s.cp.hostPorts = [] → ∃ t, exec i s = .next t ∧
        t = { s with win := t.win, ans := (.done, 0) } ∧ hostEpoch t = (hostEpoch s + 1) % 65536) ∧
      (s.cp.closing = none → s.peerOut.any (hostMsg s) = true → exec i s = .next { s with cp := { s.cp with closing := some commit }, ans := (.done, 0) }) ∧
      (s.cp.closing.isSome = true → exec i s = .next (answer s .formatError 0)))

/-- SHADOW_SIG (R437, R448), EVENT_RECORD (R442, R496, R499), RECORD_FLASH_WRITE (R497), LOG_ERASE_DONE (R502),
HALT_LIMIT_EXPIRED (R443) and ISOLATE_DALE (R443, R449). -/
def Obligations.EventsAndIsolation : Prop :=
  ∀ (d k v : Nat) (s : State), d < 512 →
    (∀ q, (dale s d).partner = some q → (dale s d).isPartner = false →
      (∀ b, (dale s d).report = none → compareSigs 0 (dale s d).sigs ((dale s d).sigsSeen ++ [v % 2 ^ 32]) = (none, b) →
        ∃ t, exec (.shadowSig d v (.col (daleCol q))) s = .next t ∧ t = { s with dales := t.dales, ans := (.done, 0) } ∧
          dale t d = { dale s d with sigsSeen := (dale s d).sigsSeen ++ [v % 2 ^ 32] } ∧ (∀ e, e ≠ d → dale t e = dale s e)) ∧
      (∀ src, src ≠ .col (daleCol q) → exec (.shadowSig d v src) s = .next (answer s .formatError 0))) ∧
    ((dale s d).partner = none → ∀ src, exec (.shadowSig d v src) s = .next (answer s .formatError 0)) ∧
    (∀ e : Event, s.handed[k]? = some e → e.cmd = none → e.sev < odRaw s 0x1F0301 →
      (slotOfSeq s.log s.log.head < 65279 → s.log.queue.length < 256 →
        (e.strike = [] → exec (.eventRecord k) s = .next { s with handed := s.handed.eraseIdx k, log := { s.log with queue := s.log.queue ++ [(s.log.head, recordBytesOf s s.log.head e)], head := (s.log.head + 1) % 2 ^ 32 } }) ∧
        (∀ sig, e.strike = [(d, sig)] → (dale s d).isolated = false → (dale s d).strikes = [] → 1 < odRaw s 0x781002 →
          ∃ t, ∃ f : Event, exec (.eventRecord k) s = .next t ∧ t.handed = s.handed.eraseIdx k ++ [f] ∧ f.code = 0x1001 ∧ f.source = daleSource d ∧
            dale t d = { dale s d with strikes := [(opSeconds s, sig, daleEpoch s d)], lastSig := sig } ∧
            odRaw t 0x782004 = (odRaw s 0x782004 + 1) % 2 ^ 64)) ∧
      (slotOfSeq s.log s.log.head < logSlots → 256 ≤ s.log.queue.length → e.strike = [] →
        ∃ t, exec (.eventRecord k) s = .next t ∧ t = { s with handed := s.handed.eraseIdx k, log := t.log } ∧ t.log.queue = s.log.queue ∧
          t.log.head = s.log.head ∧ t.log.drops = holdAdd s.log.drops 1 ∧ t.log.dropRun = s.log.dropRun + 1) ∧
      (logSlots ≤ slotOfSeq s.log s.log.head → e.strike = [] →
        ∃ t, exec (.eventRecord k) s = .next t ∧ t = { s with handed := s.handed.eraseIdx k, log := t.log, free := t.free } ∧
          t.log = { s.log with overflow := holdAdd s.log.overflow 1 })) ∧
    (∀ seq bs rest, s.log.queue = (seq, bs) :: rest →
      (s.log.clearing = false → s.boot.held = false → s.log.dropRun = 0 → exec (.recordFlashWrite true) s =
        .next { s with log := { s.log with queue := rest, log := tset [] s.log.log (slotOfSeq s.log seq) bs } }) ∧
      (s.log.clearing = true ∨ s.boot.held = true → exec (.recordFlashWrite true) s = .next s) ∧
      exec (.recordFlashWrite false) s = .next s) ∧
    (s.log.clearing = true → s.boot.held = false → s.log.dropRun = 0 → ∃ t, exec .logEraseDone s = .next t ∧
      t = { s with log := { s.log with log := t.log.log, queue := [], clearing := false } } ∧
      (∀ seq bs, s.log.queue = [(seq, bs)] → tget [] t.log.log (slotOfSeq s.log seq) = bs)) ∧
    (s.log.clearing = false → exec .logEraseDone s = .next s) ∧
    ((dale s d).isolated = false → pipesOfDale s d = [] →
      ((dale s d).stopped = true → drained s d = false → ∃ t, ∃ e : Event, exec (.haltLimitExpired d) s = .next t ∧
        (dale t d).isolated = true ∧ (dale t d).stopped = true ∧ (ni t (daleCol d)).state = 2 ∧ e.code = 0x1002 ∧ e.source = daleSource d ∧
        t.handed.getLast? = some e) ∧
      (∃ t, ∃ e : Event, exec (.isolateDale (2 ^ 15 + d)) s = .next t ∧ t.ans = (.done, 0) ∧ (dale t d).isolated = true ∧
        (dale t d).stopped = true ∧ (ni t (daleCol d)).state = 2 ∧ e.code = 0x1002 ∧ e.source = daleSource d ∧ t.handed.getLast? = some e)) ∧
    ((dale s d).stopped = false → exec (.haltLimitExpired d) s = .next s) ∧
    ((65536 ≤ v ∨ v.testBit 15 = false ∨ 512 ≤ v % 2 ^ 15) → exec (.isolateDale v) s = .next (answer s .formatError 0))

/-- OD_CMD_READ and OD_CMD_WRITE (R383, R477 to R482), the CAN rows (R486 to R490; log entry 47), AUTH_TOKEN (R484), LOG_CLEAR
(R485, R502) and RESTORE_DEFAULTS (R485, R491). -/
def Obligations.ManagementRequests : Prop :=
  ∀ (index sub tid : Nat) (s : State), index < 65536 → sub < 256 → tid < 256 → s.boot.stage ≠ 0 →
    (s.mgmt.waiting = [] → s.mgmt.odBusy = false →
      (∀ r, odRow index sub = some r → r.acc ≠ 2 → odOn s index sub = true → odNoValue index sub = false → r.typ ≤ 6 →
        ∃ t, exec (.odCmdRead index sub) s = .next t ∧ t.ans = (.done, 0) ∧ t.mgmt.odLen = r.most ∧
          t.mgmt.odData = leBytes r.most (odNum s 1 index sub) ∧ t.mgmt.odBusy = false ∧ t.mgmt.odCode = 0 ∧
          odRaw t 0x1F0201 = (odRaw s 0x1F0201 + 1) % 2 ^ 64 ∧ t = { s with mgmt := t.mgmt, od := t.od, ans := t.ans }) ∧
      (∀ code, (odRow index sub = none ∧ code = odNoEntry) ∨ ((odRow index sub).map (·.acc) = some 2 ∧ code = odNoAccess) →
        ∃ t, exec (.odCmdRead index sub) s = .next t ∧ t.ans = (.formatError, code) ∧ t.mgmt.odCode = code ∧
          odRaw t 0x1F0202 = (odRaw s 0x1F0202 + 1) % 2 ^ 64) ∧
      (∀ r v, PlainEntry index sub r → v < 2 ^ (8 * r.most) → s.mgmt.odLen = r.most → bytesAt s.mgmt.odData 0 r.most = leBytes r.most v → s.boot.held = false →
        (odValueOk s index sub v = true → ∃ t, exec (.odCmdWrite index sub true) s = .next t ∧ t.ans = (.done, 0) ∧
          odRaw t (odKey index sub) = v ∧ t.mgmt.store.getLast? = some (odKey index sub, leBytes r.most v) ∧ t.mgmt.odBusy = false ∧
          odRaw t 0x1F0201 = (odRaw s 0x1F0201 + 1) % 2 ^ 64) ∧
        (odValueOk s index sub v = false → ∃ t, exec (.odCmdWrite index sub true) s = .next t ∧ t.ans = (.formatError, odRefused) ∧
          odRaw t (odKey index sub) = odRaw s (odKey index sub) ∧ t.mgmt.store = s.mgmt.store)) ∧
      (∀ r, PlainEntry index sub r → s.mgmt.odLen ≠ r.most → ∃ t, exec (.odCmdWrite index sub true) s = .next t ∧
        t.ans = (.formatError, odLength))) ∧
    (canNode s ≠ 0 → s.mgmt.busOff = false → s.mgmt.notices = [] →
      (s.mgmt.last = none →
        (∀ r, odRow index sub = some r → r.acc ≠ 2 → odOn s index sub = true → odNoValue index sub = false → r.typ ≤ 6 →
          ∃ t, exec (.canRead tid index sub) s = .next t ∧ t.mgmt.open_ = none ∧
            t.mgmt.sent = s.mgmt.sent ++ [canFrame s (canBytes 0x81 tid (odKey index sub) 0 0 r.most (leBytes 2 r.most ++ leBytes r.most (odNum s 0 index sub)))] ∧
            odRaw t 0x1F0201 = (odRaw s 0x1F0201 + 1) % 2 ^ 64) ∧
        (∀ r v, PlainEntry index sub r → v < 2 ^ (8 * r.most) → s.boot.held = false → odValueOk s index sub v = true →
          ∃ t, exec (.canWrite tid index sub r.most (leBytes r.most v) true) s = .next t ∧ odRaw t (odKey index sub) = v ∧
            t.mgmt.store.getLast? = some (odKey index sub, leBytes r.most v) ∧
            t.mgmt.sent = s.mgmt.sent ++ [canFrame s (canBytes 0x82 tid (odKey index sub) 0 0 0 [])]) ∧
        (∀ (n : Nat) (bytes : List Byte), 54 < n → n < 65536 → bytes.length = 54 → ∃ t, exec (.canWrite tid index sub n bytes true) s = .next t ∧
          t.mgmt.open_ = some ⟨true, tid, odKey index sub, bytes, n, 1, false⟩ ∧
          t.mgmt.sent = s.mgmt.sent ++ [canFrame s (canBytes 0x83 tid (odKey index sub) 0 1 0 [])] ∧ t.od = s.od) ∧
        (∀ (o : CanOpen) (bytes : List Byte), s.mgmt.open_ = some o → o.wr = true → o.tid = tid → o.broken = false → 0 < o.seq → o.seq < 256 →
          o.seq % 8 ≠ 0 → bytes.length = 56 → o.value.length + 56 < o.len → ∃ t, exec (.canSegment tid o.seq bytes true) s = .next t ∧
            t = { s with mgmt := t.mgmt } ∧ t.mgmt.open_ = some { o with value := o.value ++ bytes, seq := o.seq + 1 } ∧ t.mgmt.sent = s.mgmt.sent) ∧
        (∃ t, exec (.canAbort tid) s = .next t ∧ t.mgmt.open_ = none ∧
          t.mgmt.sent = s.mgmt.sent ++ [canFrame s (canBytes 0x85 tid ((s.mgmt.open_.map (·.key)).getD 0) 0 0 0 [])]) ∧
        (∀ r, odRow index sub = some r → ∃ t, exec (.canDescribe tid index sub) s = .next t ∧
          t.mgmt.sent = s.mgmt.sent ++ [canFrame s (canBytes 0x86 tid (odKey index sub) 0 0 6
            (leBytes 1 r.typ ++ leBytes 1 r.acc ++ leBytes 1 (if r.persist then 1 else 0) ++ [0#8] ++ leBytes 2 r.most))])) ∧
      (∀ bs : List Byte, bs ≠ [] → s.mgmt.last = some ([1, tid, index, sub], bs) → ∃ t, exec (.canRead tid index sub) s = .next t ∧
        t = { s with mgmt := { s.mgmt with sent := s.mgmt.sent ++ [canFrame s bs] } }) ∧
      (∀ (o : CanOpen) (q : Nat), s.mgmt.open_ = some o → o.wr = false → o.tid = tid → o.broken = false → 0 < q → q ≤ canParts o.len → q < 256 →
        ∃ t, exec (.canReadMore tid q) s = .next t ∧ t = { s with mgmt := { s.mgmt with sent := t.mgmt.sent } } ∧
          t.mgmt.sent = s.mgmt.sent ++ ((List.range (min 8 (canParts o.len + 1 - q))).map fun i =>
            canFrame s (canBytes 0x84 o.tid o.key 0 (q + i) (canPart o.value (q + i)).length (canPart o.value (q + i))))) ∧
      (∀ o : CanOpen, s.mgmt.open_ = some o → o.seq ≠ 0 →
        exec .canTransferTimeout s = .next { s with mgmt := { s.mgmt with open_ := some { o with broken := true } } }) ∧
      exec .canBusOff s = .next { s with mgmt := { s.mgmt with busOff := true } }) ∧
    (∀ path part (bytes : List Byte), 0 < part → part < 9 →
      (bytes ≠ [] → bytes.length ≤ 4096 → ∃ t, exec (.authToken path part bytes) s = .next t ∧ t = { s with mgmt := t.mgmt, ans := (.done, 0) } ∧
        (stagedParts t path).getD (part - 1) [] = bytes) ∧
      ((bytes = [] ∨ 4096 < bytes.length) → exec (.authToken path part bytes) s = .next (answer s .formatError odLength))) ∧
    (∀ path, path < 2 → securityOn s = true → s.sec.nonce ≠ [] → s.boot.held = false →
      (∃ t, exec (.logClear path 1 true) s = .next t ∧
        match tokenFault s path 0x8000 7 [1#8] with
        | none => t.ans = (.done, 0) ∧ t.log.clearing = true ∧ t.log.first = s.log.head ∧ t.log.overflow = 0 ∧ t.log.log = []
        | some f => AuthRefused s t path f) ∧
      (∃ t, exec (.restoreDefaults path 1) s = .next t ∧
        match tokenFault s path 0x1F01 1 [1#8] with
        | none => t.ans = (.done, 0) ∧ ∀ k, odPersistent k = true → k ≠ 0x680003 → odRaw t k = odDefault k
        | some f => AuthRefused s t path f))

/-- OWNER_PROVISION, OWNER_REVOKE and SVN_ADVANCE (R507 to R513, R485), VENDOR_ROOT_KEY and OWNER_KEY (R509), ATTEST_NONCE and
ATTESTATION_SIGNED (R520), ENTROPY_FAULT, DRAW_TIMEOUT and HEALTH_TESTS_PASS (R522). -/
def Obligations.KeysAndAttestation : Prop :=
  ∀ (path k : Nat) (bytes : List Byte) (s : State), path < 2 →
    (securityOn s = true → s.sec.nonce ≠ [] →
      (bytes.length = 65 → k = fieldAt bytes 0 1 → 0 < k → k < 5 → ownerState s k = 0 → ∃ t, exec (.ownerProvision path bytes true) s = .next t ∧
        match tokenFault s path 0x9004 1 bytes with
        | none => t.ans = (.done, 0) ∧ ownerState t k = 1 ∧ tget [] t.sec.ownerDigest k = digest32 (bytes.drop 1) ∧
            tget [] t.sec.keys k = bytes.drop 1 ∧ tget 0 t.sec.mrCount 5 = tget 0 s.sec.mrCount 5 + 1 ∧
            ∃ e : Event, e.code = 0x1303 ∧ e.source = srcSecurity ∧ t.handed = s.handed ++ [e]
        | some f => AuthRefused s t path f ∧ OtpSame s t) ∧
      (0 < k → k < 5 → ownerState s k = 1 → 1 < (validOwners s).length → ∃ t, exec (.ownerRevoke path k true) s = .next t ∧
        match tokenFault s path 0x9004 2 (leBytes 1 k) with
        | none => t.ans = (.done, 0) ∧ ownerState t k = 2 ∧ (∀ j, j ≠ k → ownerState t j = ownerState s j) ∧
            tget 0 t.sec.mrCount 5 = tget 0 s.sec.mrCount 5 + 1 ∧ ∃ e : Event, e.code = 0x1304 ∧ t.handed = s.handed ++ [e]
        | some f => AuthRefused s t path f ∧ OtpSame s t) ∧
      (∀ c n, c < 4 → n ≤ 128 → svnOf s c < n → ∃ t, exec (.svnAdvance path (c * 2 ^ 24 + n) true) s = .next t ∧
        match tokenFault s path 0x9005 5 (leBytes 4 (c * 2 ^ 24 + n)) with
        | none => t.ans = (.done, 0) ∧ svnOf t c = n ∧ (∀ e, e ≠ c → svnOf t e = svnOf s e) ∧
            tget 0 t.sec.mrCount 5 = tget 0 s.sec.mrCount 5 + 1 ∧ ∃ e : Event, e.code = 0x1305 ∧ t.handed = s.handed ++ [e]
        | some f => AuthRefused s t path f ∧ OtpSame s t)) ∧
    (bytes.length ≠ 65 → exec (.ownerProvision path bytes true) s = .next (odReply s odLength)) ∧
    (securityOn s = true → bytes.length = 64 →
      (∃ t, exec (.vendorRootKey bytes) s = .next t ∧
        if digest32 bytes = vendorRootDigest then t.ans = (.done, 0) ∧ tget [] t.sec.keys 0 = bytes ∧ OtpSame s t else t = odReply s odRefused) ∧
      (0 < k → k < 5 → ownerState s k = 1 → ∃ t, exec (.ownerKey k bytes) s = .next t ∧
        if digest32 bytes = tget [] s.sec.ownerDigest k then t.ans = (.done, 0) ∧ tget [] t.sec.keys k = bytes ∧ OtpSame s t else t = odReply s odRefused) ∧
      (0 < k → k < 5 → ownerState s k ≠ 1 → exec (.ownerKey k bytes) s = .next (odReply s odRefused))) ∧
    (securityOn s = true → bytes.length = 32 → ∃ t, exec (.attestNonce path bytes) s = .next t ∧ t = { s with sec := t.sec, ans := (.done, 0) } ∧
      t.sec.reportSeq = (s.sec.reportSeq + 1) % 2 ^ 32 ∧ (attestOf t path).st = 1 ∧ (attestOf t path).nonce = bytes ∧
      bytesAt (attestOf t path).body 0x10 32 = bytes ∧ (∀ p, p ≠ path → attestOf t p = attestOf s p)) ∧
    ((attestOf s path).st = 1 →
      (∃ t, ∃ e : Event, exec (.attestationSigned path true) s = .next t ∧ t = { s with sec := t.sec, od := t.od, handed := s.handed ++ [e] } ∧
        attestOf t path = { attestOf s path with st := 2, sig := Config.slhSign (attestOf s path).body } ∧ e.code = 0x1307 ∧
        odRaw t 0x903003 = (odRaw s 0x903003 + 1) % 2 ^ 64) ∧
      (∃ t, ∃ e : Event, exec (.attestationSigned path false) s = .next t ∧ t = { s with sec := t.sec, handed := s.handed ++ [e] } ∧
        attestOf t path = { attestOf s path with st := 3 } ∧ e.code = 0x1306)) ∧
    ((attestOf s path).st ≠ 1 → ∀ ok, exec (.attestationSigned path ok) s = .next s) ∧
    (∀ b, ∃ t, ∃ e : Event, exec (.entropyFault b) s = .next t ∧ t = { s with sec := { s.sec with held := true }, od := t.od, handed := s.handed ++ [e] } ∧
      e.code = 0x1306 ∧ e.source = srcSecurity ∧ odRaw t 0x903002 = (odRaw s 0x903002 + 1) % 2 ^ 64) ∧
    (s.sec.held = true → ∃ t, exec .drawTimeout s = .next t ∧ t = { s with sec := { s.sec with heldDraws := 0, nonceHeld := false }, lanes := t.lanes } ∧
      ∀ n, n < 144 → sLane t n = if (sLane s n).stage = 2 ∧ (sLane s n).seed = 0 then { sLane s n with seed := 0x5A5A5A5A } else sLane s n) ∧
    (s.sec.held = false → exec .drawTimeout s = .next s) ∧
    (∃ t, exec .healthTestsPass s = .next t ∧ t.sec.held = false ∧ t.sec.heldDraws = 0 ∧
      (∀ n, n < 144 → (sLane s n).stage = 2 → (sLane t n).seed ≠ 0) ∧
      (s.sec.nonceHeld = true → t.sec.nonceHeld = false ∧ t.sec.nonce.length = 32) ∧ (s.sec.nonceHeld = false → t.sec.nonce = s.sec.nonce) ∧
      t = { s with sec := t.sec, lanes := t.lanes, free := t.free })

/-- SENSOR_SAMPLE (R460 to R466), LIMITER_TICK (R458), SUPPLY_DEVIATION (R457), DOMAIN_GATE, DOMAIN_WAKE and DOMAIN_WOKEN (R452 to
R455), DEVICE_SLEEP_ENTER, DEVICE_SLEEP_WAKE and WAKE_PIN (R472, R545), COUNTER_PERSIST and ORDERLY_SHUTDOWN (R470, R471, R474),
RULESET_CTRL and RULESET_VERIFIED (R467 to R469). -/
def Obligations.PowerManagement : Prop :=
  ∀ (n req rule : Nat) (s : State), n < 199 → req < 4 →
    (∀ (raw : List (Nat × Int)) (avs : Bool), s.power.rules = [] →
      ((∀ k, k < 3 → tget 0 s.power.trips k = 0) → ∃ t, exec (.sensorSample raw avs) s = .next t ∧ t.pipes = s.pipes ∧ t.handed = s.handed ∧
        t.power.ticks = (s.power.ticks + 1) % 10000 ∧ t.power.stopped = s.power.stopped ∧
        ∀ i, i < 0x420 → inputValue t.power 0 i = (sampleInputs s raw avs).getD i 0 ∧
          tget 0 t.power.fast i = filterStep (tget none s.power.raw i).isNone (s.power.filters.getD (2 * inputClass i) 0#8).toNat
            (tget 0 s.power.fast i) ((sampleInputs s raw avs).getD i 0) ∧
          tget 0 t.power.slow i = filterStep (tget none s.power.raw i).isNone (s.power.filters.getD (2 * inputClass i + 1) 0#8).toNat
            (tget 0 s.power.slow i) ((sampleInputs s raw avs).getD i 0)) ∧
      (s.power.stopped = false → tget 0 s.power.trips 0 = 1 → 125 * 16 ≤ (sampleInputs s raw avs).getD (0x200 + n) 0 →
        ∃ t, exec (.sensorSample raw avs) s = .next t ∧ t.power.stopped = true ∧ t.power.alert = true ∧ t.pipes = [] ∧
          ∀ m, m < 198 → domainOn t m = false)) ∧
    (s.power.stopped = false → s.power.sleep = 0 →
      ((odRaw s 0x200002 : Int) < inputValue s.power 1 0x41C → max (floorNow s) 550 < s.power.target →
        ∃ t, exec .limiterTick s = .next t ∧ t.power.limiterV = s.power.target - 5 ∧ t.power.gap = s.power.gap ∧
          (s.power.rested = true → ∃ e : Event, e.code = 0x1104 ∧ e.source = srcSaddle ∧ t.handed = s.handed ++ [e]) ∧
          (s.power.rested = false → t.handed = s.handed)) ∧
      (100 * inputValue s.power 1 0x41C < 97 * (odRaw s 0x200002 : Int) → s.power.gap = 0 →
        ∃ t, exec .limiterTick s = .next t ∧ t.power.limiterV = min (s.power.limiterV + 5) 850 ∧ t.handed = s.handed)) ∧
    (s.power.reached = true → (supplyMv s + 25 < s.power.target ∨ s.power.target + 25 < supplyMv s) → ∃ t, ∃ e : Event,
      exec .supplyDeviation s = .next t ∧ t = { s with power := { s.power with reached := false }, handed := s.handed ++ [e] } ∧ e.code = 0x110B) ∧
    (s.power.reached = false → exec .supplyDeviation s = .next s) ∧
    (switchable n = true → s.power.stopped = false → switchOf s n = none →
      (domainOn s n = true → gateHolder s n = none → ∃ t, exec (.domainGate n req rule) s = .next t ∧ t.ans = (.done, 0) ∧
        switchOf t n = some ⟨true, false, req, rule, drainUnits n, false, none⟩ ∧ t.handed = s.handed ∧ domainOn t n = true) ∧
      (∀ p, domainOn s n = true → gateHolder s n = some p → ∃ t, ∃ e : Event, exec (.domainGate n req rule) s = .next t ∧
        t = { s with power := t.power, handed := s.handed ++ [e], ans := (.done, 0) } ∧ e.code = 0x1103 ∧
        switchOf t n = some ⟨true, true, req, rule, [], false, none⟩) ∧
      (domainOn s n = false → ∃ t, exec (.domainWake n req rule) s = .next t ∧ t = { s with power := t.power, ans := (.done, 0) } ∧
        switchOf t n = some ⟨false, false, req, rule, [], false, none⟩) ∧
      (domainOn s n = false → exec (.domainGate n req rule) s = .next (answer s .done 0))) ∧
    (switchable n = false → exec (.domainGate n req rule) s = .next (answer s .formatError 0) ∧
      exec (.domainWake n req rule) s = .next (answer s .formatError 0)) ∧
    (∀ w micros, switchOf s n = some w → w.off = false → w.next = none → ∃ t, exec (.domainWoken n micros) s = .next t ∧
      domainOn t n = true ∧ switchOf t n = none ∧
      (w.by_ ≠ 3 → odRaw t 0x201001 = (odRaw s 0x201001 + 1) % 2 ^ 64 ∧ ∃ e : Event, e.code = 0x1102 ∧ t.handed.getLast? = some e)) ∧
    (switchOf s n = none → ∀ micros, exec (.domainWoken n micros) s = .next s) ∧
    (s.power.stopped = false → s.power.sleep = 0 →
      ((∀ ns ∈ sleepOrder, ∀ m ∈ ns, domainOn s m = false) → exec (.deviceSleepEnter req) s = .next { s with power := { s.power with sleep := 2 } }) ∧
      ((∀ m, m < 128 → gateHolder s m = none ∧ switchOf s m = none) → n < 128 → domainOn s n = true → ∃ t, exec (.deviceSleepEnter req) s = .next t ∧
        t.power.sleep = 1 ∧ ∃ w, switchOf t n = some w ∧ w.off = true ∧ w.by_ = 2)) ∧
    (s.power.sleep ≠ 0 → exec (.deviceSleepEnter req) s = .next s) ∧
    (∀ i, i = .deviceSleepWake ∨ i = .wakePin → (s.power.sleep = 2 → ∃ t, exec i s = .next t ∧ t.power.sleep = 0 ∧ t.boot.kind = 3 ∧
        t.boot.starting = true ∧ t.boot.stage = 1) ∧ (s.power.sleep ≠ 2 → exec i s = .next s)) ∧
    (s.boot.held = false →
      exec (.counterPersist true) s = .next { s with power := { s.power with counters := s.power.counters ++ [counterRecord s], badCount := false } } ∧
      (∃ t, ∃ e : Event, exec (.counterPersist false) s = .next t ∧ t = { s with power := { s.power with badCount := true }, handed := s.handed ++ [e] } ∧
        e.code = 0x110A ∧ e.source = srcSaddle) ∧
      exec (.orderlyShutdown 1) s = .next { s with power := { s.power with counters := s.power.counters ++ [counterRecord s], badCount := false }, ans := (.done, 0) }) ∧
    (∀ v, v ≠ 1 → exec (.orderlyShutdown v) s = .next (answer s .formatError 0)) ∧
    (∀ v, (v.testBit 0 = false → exec (.rulesetCtrl v) s = .next (answer s .done 0)) ∧
      (v.testBit 0 = true → rulesetLoading s = true → exec (.rulesetCtrl v) s = .next (answer s .formatError 0)) ∧
      (v.testBit 0 = true → rulesetLoading s = false → ∃ t, exec (.rulesetCtrl v) s = .next t ∧ rulesetLoading t = true ∧
        winGet t 0x0200000F006C = 2 ^ 30 ∧ t.ans = (.done, 0))) ∧
    (s.power.toLoad = none → exec .rulesetVerified s = .next s) ∧
    (∀ bs, s.power.toLoad = some bs → ∃ t, exec .rulesetVerified s = .next t ∧ t.power.toLoad = none ∧
      match rulesetFault s bs with
      | none => t.power.gen = s.power.gen + 1 ∧ t.power.rules = ((List.range (fieldAt bs 6 2)).map fun i => fieldAt bs (0x74D0 + 16 * i) 16) ∧
          rulesActive t = 0 ∧ tget 0 t.sec.mrCount 2 = tget 0 s.sec.mrCount 2 + 1 ∧ ∃ e : Event, e.code = 0x1107 ∧ t.handed = s.handed ++ [e]
      | some f => t.power.rules = s.power.rules ∧ winGet t 0x0200000F006C = statusCode f.2 * 2 ^ 16 + f.1 * 2 ^ 8 ∧
          ∃ e : Event, e.code = 0x1108 ∧ t.handed.getLast? = some e)

/-- POWER_GOOD, PWR_GOOD_FALL, RST_N_FALL, RST_N_RISE and CORE_RESET (R531, R532, R542), FIRMWARE_CHECK and BASE_IMAGE_CHECK (R526,
R527), REDUCED_READY, FULL_READY and FULL_READY_LATE (R527, R529), FLASH_HOLD, FLASH_HOLD_RELEASED and PERSISTENCE_WAIT_EXPIRED (R546)
and TEST_ACCESS_PORT (R549). The test port's assignment is log entry 6's. -/
def Obligations.BringUp : Prop :=
  ∀ (ms : Nat) (s : State),
    (s.boot.good = false → s.boot.rstHigh = true → s.boot.held = false → s.mgmt.waiting = [] → ∃ t, exec .powerGood s = .next t ∧ Started t 0) ∧
    (s.boot.good = true → exec .powerGood s = .next s) ∧
    (s.boot.good = true → ∃ t, exec .pwrGoodFall s = .next t ∧ t.boot.good = false ∧ t.boot.stage = 0 ∧ t.boot.starting = false ∧ t.boot.kind = 0 ∧
      t.svc = 0 ∧ (s.boot.held = false → t.power.counters = s.power.counters ++ [counterRecord s])) ∧
    (s.boot.good = false → exec .pwrGoodFall s = .next s) ∧
    (s.boot.rstHigh = true → s.boot.good = true → s.boot.stage ≠ 0 → ∃ t, exec .rstNFall s = .next t ∧ t.boot.rstHigh = false ∧ t.boot.stage = 0 ∧
      t.boot.starting = false ∧ t.boot.kind = 1 ∧ t.svc = 0) ∧
    (s.boot.rstHigh = false → exec .rstNFall s = .next s) ∧
    (s.boot.rstHigh = false → s.boot.good = true → s.boot.held = false → s.boot.stage = 0 → s.mgmt.waiting = [] →
      ∃ t, exec .rstNRise s = .next t ∧ Started t s.boot.kind) ∧
    (s.boot.rstHigh = false → s.boot.good = false → exec .rstNRise s = .next { s with boot := { s.boot with rstHigh := true } }) ∧
    (s.boot.good = true → s.boot.stage ≠ 0 → ∃ t, exec (.coreReset 1) s = .next t ∧ Started t 2 ∧ t.ans = (.done, 0)) ∧
    (∀ v, v ≠ 1 → exec (.coreReset v) s = .next (answer s .formatError 0)) ∧
    (s.boot.starting = true → s.boot.fwDone = false → securityOn s = true → testMode s = false → ∃ t, exec .firmwareCheck s = .next t ∧ t.boot.fwDone = true ∧
      match (checkCopies { s with boot := { s.boot with fwDone := true } } 0 Config.firmwareCopy).2 with
      | none => ∃ e : Event, e.code = 0x1408 ∧ e.source = srcSaddle ∧ t.handed.getLast? = some e
      | some c => t.boot.stage = 6 ∧ odRaw t 0xA00005 = c ∧ tget 0 t.sec.mrCount 0 = tget 0 s.sec.mrCount 0 + 1 ∧
          switchOf t 196 = some ⟨false, false, 3, 0, [], false, none⟩) ∧
    (s.boot.starting = true → s.boot.baseDone = false → s.boot.stage = 6 → domainOn s 196 = true → ∃ t, exec .baseImageCheck s = .next t ∧
      t.boot.baseDone = true ∧ t.boot.stage = 8 ∧ (∀ n, n < 8 → domainOn s n = false → switchOf t n = some ⟨false, false, 3, 0, [], false, none⟩) ∧
      match (checkCopies { s with boot := { s.boot with baseDone := true, stage := 8 } } 1 Config.baseCopy).2 with
      | none => ∃ e : Event, e.code = 0x1407 ∧ e.source = srcSaddle ∧ t.handed.getLast? = some e
      | some c => odRaw t 0xA00006 = c ∧ tget 0 t.sec.mrCount 1 = tget 0 s.sec.mrCount 1 + 1) ∧
    (s.boot.starting = false → exec .firmwareCheck s = .next s ∧ exec .baseImageCheck s = .next s ∧ exec (.reducedReady ms) s = .next s ∧
      exec (.fullReady ms) s = .next s ∧ exec .fullReadyLate s = .next s) ∧
    (s.boot.starting = true →
      (s.boot.stage = 8 → (∀ k, k < 8 → domainOn s k = true) → groupActive s 16 = true → s.power.reached = true → s.cfg.st ≠ 0 →
        ∃ t, ∃ e : Event, exec (.reducedReady ms) s = .next t ∧ t.svc.testBit 0 = true ∧ t.svc.testBit 1 = s.svc.testBit 1 ∧ t.boot.stage = 9 ∧
          odRaw t 0xA00101 = ms % 2 ^ 32 ∧ e.code = 0x1403 ∧ e.source = srcCmd ∧ t.handed = s.handed ++ [e]) ∧
      ((s.boot.stage ≠ 8 ∨ groupActive s 16 = false ∨ s.power.reached = false) → exec (.reducedReady ms) s = .next s) ∧
      (s.boot.stage = 12 → startWakes s = false → s.power.reached = true → ∃ t, ∃ e : Event, exec (.fullReady ms) s = .next t ∧
        t.svc.testBit 1 = true ∧ t.svc.testBit 0 = s.svc.testBit 0 ∧ t.boot.stage = 13 ∧ t.boot.starting = false ∧ odRaw t 0xA00102 = ms % 2 ^ 32 ∧
        e.code = 0x1404 ∧ e.source = srcCmd ∧ t.handed = s.handed ++ [e]) ∧
      ((s.boot.stage ≠ 12 ∨ startWakes s = true ∨ s.power.reached = false) → exec (.fullReady ms) s = .next s) ∧
      (s.boot.late = false → ∃ t, ∃ e : Event, exec .fullReadyLate s = .next t ∧
        t = { s with boot := { s.boot with late := true }, handed := s.handed ++ [e] } ∧ e.code = 0x1405 ∧ e.source = srcSaddle) ∧
      (s.boot.late = true → exec .fullReadyLate s = .next s)) ∧
    exec .flashHold s = .next { s with boot := { s.boot with held := true } } ∧
    (s.boot.held = true → s.boot.stage ≠ 0 →
      (s.mgmt.waiting = [] → exec .flashHoldReleased s = .next { s with boot := { s.boot with held := false } }) ∧
      (∀ r p, s.mgmt.waiting = [(0, r, p)] →
        (∃ t, exec .flashHoldReleased s = .next t ∧ t.boot.held = false ∧ t.mgmt.waiting = [] ∧ t.power.counters = s.power.counters ++ [r]) ∧
        (∃ t, ∃ e : Event, exec .persistenceWaitExpired s = .next t ∧ t.mgmt.waiting = [] ∧ t.power.counters = s.power.counters ∧
          t.power.badCount = true ∧ e.code = 0x110A ∧ t.handed = s.handed ++ [e]))) ∧
    (s.boot.held = false → exec .flashHoldReleased s = .next s ∧ exec .persistenceWaitExpired s = .next s) ∧
    (∀ tms tdi : Bool, ∃ t, exec (.testAccessPort tms tdi) s = .next t ∧ t = { s with tap := t.tap, free := t.free } ∧ t.tap.st = tapNext s.tap.st tms ∧
      (s.tap.st = 2 → t.tap.tdo = (s.tap.dr % 2 == 1) ∧ t.tap.dr = shiftIn (tapBits (tapSelects s s.tap.ir)) s.tap.dr tdi) ∧
      (s.tap.st = 6 → s.tap.ir = 1 → t.tap.dr = idcode) ∧ (tapNext s.tap.st tms = 0xF → t.tap.ir = 1) ∧
      (s.tap.st = 0xD → tapNext s.tap.st tms ≠ 0xF → t.tap.ir = Config.tapInstr s.tap.sh)) ∧
    (∀ st, st < 16 → tapNext (tapNext (tapNext (tapNext (tapNext st true) true) true) true) true = 0xF)

/-- No command of the block stops it: what the spec does not let a command do leaves the state as it was, or is answered (R10). -/
def Obligations.EveryCommandCompletes : Prop :=
  ∀ (i : Instr) (s : State), (wellFormed i = true → Completes i s) ∧ (Completes i s ∨ exec i s = .refused .noSuchUnit ∨ exec i s = .refused .malformed)
end

