-- ==== Sys2Proof/Laws/Tables.lean ====
section
/-! SUPPORT. Sparse tables: reading after writing, and the canonical form that every write keeps. -/
namespace Sys2Proof.Machine

/-- A value listed under a key is read back. -/
theorem tget_tins_same {α : Type} (d : α) (t : Tab α) (k : Nat) (v : α) : tget d (tins t k v) k = v := by
  induction t with
  | nil => simp [tins, tget]
  | cons e t ih =>
    obtain ⟨j, w⟩ := e
    simp only [tins]
    split
    · simp [tget]
    · split
      · simp [tget]
      · simp [tget, *]

/-- Listing a value under a key leaves the other keys. -/
theorem tget_tins_other {α : Type} (d : α) (t : Tab α) (k j : Nat) (v : α) (h : j ≠ k) :
    tget d (tins t k v) j = tget d t j := by
  induction t with
  | nil => simp [tins, tget, Ne.symm h]
  | cons e t ih =>
    obtain ⟨i, w⟩ := e
    simp only [tins]
    split
    · rename_i e; subst e; simp [tget, Ne.symm h]
    · split
      · simp [tget, Ne.symm h]
      · simp only [tget]; split <;> simp [*]

/-- Removing a key leaves the other keys. -/
theorem tget_terase_other {α : Type} (d : α) (t : Tab α) (k j : Nat) (h : j ≠ k) :
    tget d (terase t k) j = tget d t j := by
  induction t with
  | nil => rfl
  | cons e t ih =>
    obtain ⟨i, w⟩ := e
    simp only [terase, List.filter] at ih ⊢
    split
    · simp only [tget, ih]
    · rename_i e
      have : i = k := by simpa using e
      subst this
      simp only [tget, Ne.symm h, if_false]
      exact ih

/-- A removed key reads as the default. -/
theorem tget_terase_same {α : Type} (d : α) (t : Tab α) (k : Nat) : tget d (terase t k) k = d := by
  induction t with
  | nil => rfl
  | cons e t ih =>
    obtain ⟨i, w⟩ := e
    simp only [terase, List.filter] at ih ⊢
    split
    · rename_i e
      have : i ≠ k := by simpa using e
      simp only [tget, this, if_false]
      exact ih
    · exact ih

/-- Reading the key just written. -/
theorem tget_tset_same {α : Type} [DecidableEq α] (d : α) (t : Tab α) (k : Nat) (v : α) : tget d (tset d t k v) k = v := by
  simp only [tset]
  split
  · rename_i e; subst e; exact tget_terase_same _ t k
  · exact tget_tins_same d t k v

/-- Reading another key than the one written. -/
theorem tget_tset_other {α : Type} [DecidableEq α] (d : α) (t : Tab α) (k j : Nat) (v : α) (h : j ≠ k) :
    tget d (tset d t k v) j = tget d t j := by
  simp only [tset]
  split
  · exact tget_terase_other d t k j h
  · exact tget_tins_other d t k j v h

/-- A lower bound may fall. -/
theorem twf_mono {α : Type} [DecidableEq α] (d : α) (t : Tab α) (lo lo' : Nat) (h : twf d lo t = true) (hl : lo' ≤ lo) :
    twf d lo' t = true := by
  cases t with
  | nil => rfl
  | cons e t =>
    simp only [twf, Bool.and_eq_true, decide_eq_true_eq] at h ⊢
    exact ⟨⟨by omega, h.1.2⟩, h.2⟩

/-- Listing a value that is not the default keeps the canonical form. -/
theorem twf_tins {α : Type} [DecidableEq α] (d : α) (t : Tab α) (lo k : Nat) (v : α) (h : twf d lo t = true)
    (hk : lo ≤ k) (hv : v ≠ d) : twf d lo (tins t k v) = true := by
  induction t generalizing lo with
  | nil => simp [tins, twf, hk, hv]
  | cons e t ih =>
    obtain ⟨i, w⟩ := e
    simp only [twf, Bool.and_eq_true, decide_eq_true_eq] at h
    simp only [tins]
    split
    · rename_i e; subst e; simp [twf, hk, hv, h.2]
    · split
      · simp only [twf, Bool.and_eq_true, decide_eq_true_eq]
        exact ⟨⟨hk, hv⟩, ⟨by omega, h.1.2⟩, h.2⟩
      · simp only [twf, Bool.and_eq_true, decide_eq_true_eq]
        exact ⟨h.1, ih (i + 1) h.2 (by omega)⟩

/-- Forgetting entries keeps the canonical form. -/
theorem twf_filter {α : Type} [DecidableEq α] (d : α) (t : Tab α) (lo : Nat) (p : Nat × α → Bool) (h : twf d lo t = true) :
    twf d lo (t.filter p) = true := by
  induction t generalizing lo with
  | nil => rfl
  | cons e t ih =>
    simp only [twf, Bool.and_eq_true, decide_eq_true_eq] at h
    simp only [List.filter]
    split
    · simp only [twf, Bool.and_eq_true, decide_eq_true_eq]
      exact ⟨h.1, ih _ h.2⟩
    · exact ih lo (twf_mono d t _ _ h.2 (by omega))

/-- Removing a key keeps the canonical form. -/
theorem twf_terase {α : Type} [DecidableEq α] (d : α) (t : Tab α) (lo k : Nat) (h : twf d lo t = true) :
    twf d lo (terase t k) = true := twf_filter d t lo _ h

/-- A write keeps the canonical form. -/
theorem twf_tset {α : Type} [DecidableEq α] (d : α) (t : Tab α) (k : Nat) (v : α) (h : twf d 0 t = true) :
    twf d 0 (tset d t k v) = true := by
  simp only [tset]
  split
  · exact twf_terase d t 0 k h
  · rename_i hv; exact twf_tins d t 0 k v h (by omega) hv

/-- The bytes `memPut` does not reach keep their values. -/
theorem memGet_memPut_other (s : State) (a b : Nat) (bs : List Byte) (h : b < a ∨ a + bs.length ≤ b) :
    memGet (memPut s a bs) b = memGet s b := by
  induction bs generalizing s a with
  | nil => rfl
  | cons x bs ih =>
    simp only [List.length_cons] at h
    rw [memPut, ih _ _ (by omega)]
    exact tget_tset_other _ _ _ _ _ (by omega)

/-- `memPut` keeps memory canonical. -/
theorem memPut_wf (s : State) (a : Nat) (bs : List Byte) (h : Memory.wf s.mem = true) :
    Memory.wf (memPut s a bs).mem = true := by
  induction bs generalizing s a with
  | nil => exact h
  | cons x bs ih => exact ih _ _ (twf_tset _ _ _ _ h)

/-- `memPut` touches nothing but memory. -/
theorem memPut_rest (s : State) (a : Nat) (bs : List Byte) : ∃ m, memPut s a bs = { s with mem := m } := by
  induction bs generalizing s a with
  | nil => exact ⟨s.mem, rfl⟩
  | cons x bs ih => obtain ⟨m, e⟩ := ih { s with mem := tset memDefault s.mem a x } (a + 1); exact ⟨m, e⟩

/-- The byte at an address that `memPut` wrote. -/
theorem memGet_memPut_same (s : State) (a i : Nat) (bs : List Byte) (hi : i < bs.length) :
    memGet (memPut s a bs) (a + i) = bs.getD i 0#8 := by
  induction bs generalizing s a i with
  | nil => simp at hi
  | cons x bs ih =>
    simp only [memPut]
    cases i with
    | zero =>
      rw [memGet_memPut_other _ _ _ _ (by omega)]
      simpa [memGet] using tget_tset_same memDefault s.mem a x
    | succ j =>
      have := ih { s with mem := tset memDefault s.mem a x } (a + 1) j (by simpa using hi)
      rw [show a + (j + 1) = a + 1 + j by omega, this]
      rfl

end Sys2Proof.Machine
end

