-- ==== Sys2Proof/Laws/State.lean ====
section
/-! SUPPORT. What each plain update leaves of each field of the state, one lemma a field. -/
namespace Sys2Proof.Machine

variable (s : State)

@[simp] theorem setDale_pending (d : Nat) (v : Dale) : (setDale s d v).pending = s.pending := rfl
@[simp] theorem setDale_mem (d : Nat) (v : Dale) : (setDale s d v).mem = s.mem := rfl
@[simp] theorem setDale_synd (d : Nat) (v : Dale) : (setDale s d v).synd = s.synd := rfl
@[simp] theorem setDale_win (d : Nat) (v : Dale) : (setDale s d v).win = s.win := rfl
@[simp] theorem setDale_od (d : Nat) (v : Dale) : (setDale s d v).od = s.od := rfl
@[simp] theorem setDale_handed (d : Nat) (v : Dale) : (setDale s d v).handed = s.handed := rfl
@[simp] theorem setDale_ans (d : Nat) (v : Dale) : (setDale s d v).ans = s.ans := rfl
@[simp] theorem setDale_free (d : Nat) (v : Dale) : (setDale s d v).free = s.free := rfl
@[simp] theorem setDale_barriers (d : Nat) (v : Dale) : (setDale s d v).barriers = s.barriers := rfl
@[simp] theorem setDale_pipes (d : Nat) (v : Dale) : (setDale s d v).pipes = s.pipes := rfl
@[simp] theorem setDale_cp (d : Nat) (v : Dale) : (setDale s d v).cp = s.cp := rfl
@[simp] theorem setDale_net (d : Nat) (v : Dale) : (setDale s d v).net = s.net := rfl
@[simp] theorem setDale_gathers (d : Nat) (v : Dale) : (setDale s d v).gathers = s.gathers := rfl
@[simp] theorem setDale_ext (d : Nat) (v : Dale) : (setDale s d v).ext = s.ext := rfl
@[simp] theorem setDale_peerOut (d : Nat) (v : Dale) : (setDale s d v).peerOut = s.peerOut := rfl
@[simp] theorem setDale_svc (d : Nat) (v : Dale) : (setDale s d v).svc = s.svc := rfl
@[simp] theorem setDale_heon (d : Nat) (v : Dale) : (setDale s d v).heon = s.heon := rfl
@[simp] theorem setDale_peers (d : Nat) (v : Dale) : (setDale s d v).peers = s.peers := rfl
@[simp] theorem setDale_groups (d : Nat) (v : Dale) : (setDale s d v).groups = s.groups := rfl
@[simp] theorem setDale_hbm (d : Nat) (v : Dale) : (setDale s d v).hbm = s.hbm := rfl
@[simp] theorem setDale_hostWin (d : Nat) (v : Dale) : (setDale s d v).hostWin = s.hostWin := rfl
@[simp] theorem setDale_sec (d : Nat) (v : Dale) : (setDale s d v).sec = s.sec := rfl
@[simp] theorem setDale_sectors (d : Nat) (v : Dale) : (setDale s d v).sectors = s.sectors := rfl
@[simp] theorem setDale_clocks (d : Nat) (v : Dale) : (setDale s d v).clocks = s.clocks := rfl
@[simp] theorem setDale_cfg (d : Nat) (v : Dale) : (setDale s d v).cfg = s.cfg := rfl
@[simp] theorem setDale_lanes (d : Nat) (v : Dale) : (setDale s d v).lanes = s.lanes := rfl
@[simp] theorem setDale_groupsL (d : Nat) (v : Dale) : (setDale s d v).groupsL = s.groupsL := rfl
@[simp] theorem setDale_power (d : Nat) (v : Dale) : (setDale s d v).power = s.power := rfl
@[simp] theorem setDale_mgmt (d : Nat) (v : Dale) : (setDale s d v).mgmt = s.mgmt := rfl
@[simp] theorem setDale_log (d : Nat) (v : Dale) : (setDale s d v).log = s.log := rfl
@[simp] theorem setDale_boot (d : Nat) (v : Dale) : (setDale s d v).boot = s.boot := rfl
@[simp] theorem setDale_tap (d : Nat) (v : Dale) : (setDale s d v).tap = s.tap := rfl
@[simp] theorem setDale_notify (d : Nat) (v : Dale) : (setDale s d v).notify = s.notify := rfl

@[simp] theorem updDale_pending (d : Nat) (f : Dale → Dale) : (updDale s d f).pending = s.pending := rfl
@[simp] theorem updDale_mem (d : Nat) (f : Dale → Dale) : (updDale s d f).mem = s.mem := rfl
@[simp] theorem updDale_synd (d : Nat) (f : Dale → Dale) : (updDale s d f).synd = s.synd := rfl
@[simp] theorem updDale_win (d : Nat) (f : Dale → Dale) : (updDale s d f).win = s.win := rfl
@[simp] theorem updDale_od (d : Nat) (f : Dale → Dale) : (updDale s d f).od = s.od := rfl
@[simp] theorem updDale_handed (d : Nat) (f : Dale → Dale) : (updDale s d f).handed = s.handed := rfl
@[simp] theorem updDale_ans (d : Nat) (f : Dale → Dale) : (updDale s d f).ans = s.ans := rfl
@[simp] theorem updDale_free (d : Nat) (f : Dale → Dale) : (updDale s d f).free = s.free := rfl
@[simp] theorem updDale_barriers (d : Nat) (f : Dale → Dale) : (updDale s d f).barriers = s.barriers := rfl
@[simp] theorem updDale_pipes (d : Nat) (f : Dale → Dale) : (updDale s d f).pipes = s.pipes := rfl
@[simp] theorem updDale_cp (d : Nat) (f : Dale → Dale) : (updDale s d f).cp = s.cp := rfl
@[simp] theorem updDale_net (d : Nat) (f : Dale → Dale) : (updDale s d f).net = s.net := rfl
@[simp] theorem updDale_gathers (d : Nat) (f : Dale → Dale) : (updDale s d f).gathers = s.gathers := rfl
@[simp] theorem updDale_ext (d : Nat) (f : Dale → Dale) : (updDale s d f).ext = s.ext := rfl
@[simp] theorem updDale_peerOut (d : Nat) (f : Dale → Dale) : (updDale s d f).peerOut = s.peerOut := rfl
@[simp] theorem updDale_svc (d : Nat) (f : Dale → Dale) : (updDale s d f).svc = s.svc := rfl
@[simp] theorem updDale_heon (d : Nat) (f : Dale → Dale) : (updDale s d f).heon = s.heon := rfl
@[simp] theorem updDale_peers (d : Nat) (f : Dale → Dale) : (updDale s d f).peers = s.peers := rfl
@[simp] theorem updDale_groups (d : Nat) (f : Dale → Dale) : (updDale s d f).groups = s.groups := rfl
@[simp] theorem updDale_hbm (d : Nat) (f : Dale → Dale) : (updDale s d f).hbm = s.hbm := rfl
@[simp] theorem updDale_hostWin (d : Nat) (f : Dale → Dale) : (updDale s d f).hostWin = s.hostWin := rfl
@[simp] theorem updDale_sec (d : Nat) (f : Dale → Dale) : (updDale s d f).sec = s.sec := rfl
@[simp] theorem updDale_sectors (d : Nat) (f : Dale → Dale) : (updDale s d f).sectors = s.sectors := rfl
@[simp] theorem updDale_clocks (d : Nat) (f : Dale → Dale) : (updDale s d f).clocks = s.clocks := rfl
@[simp] theorem updDale_cfg (d : Nat) (f : Dale → Dale) : (updDale s d f).cfg = s.cfg := rfl
@[simp] theorem updDale_lanes (d : Nat) (f : Dale → Dale) : (updDale s d f).lanes = s.lanes := rfl
@[simp] theorem updDale_groupsL (d : Nat) (f : Dale → Dale) : (updDale s d f).groupsL = s.groupsL := rfl
@[simp] theorem updDale_power (d : Nat) (f : Dale → Dale) : (updDale s d f).power = s.power := rfl
@[simp] theorem updDale_mgmt (d : Nat) (f : Dale → Dale) : (updDale s d f).mgmt = s.mgmt := rfl
@[simp] theorem updDale_log (d : Nat) (f : Dale → Dale) : (updDale s d f).log = s.log := rfl
@[simp] theorem updDale_boot (d : Nat) (f : Dale → Dale) : (updDale s d f).boot = s.boot := rfl
@[simp] theorem updDale_tap (d : Nat) (f : Dale → Dale) : (updDale s d f).tap = s.tap := rfl
@[simp] theorem updDale_notify (d : Nat) (f : Dale → Dale) : (updDale s d f).notify = s.notify := rfl

@[simp] theorem winSet_pending (a v : Nat) : (winSet s a v).pending = s.pending := rfl
@[simp] theorem winSet_dales (a v : Nat) : (winSet s a v).dales = s.dales := rfl
@[simp] theorem winSet_mem (a v : Nat) : (winSet s a v).mem = s.mem := rfl
@[simp] theorem winSet_synd (a v : Nat) : (winSet s a v).synd = s.synd := rfl
@[simp] theorem winSet_od (a v : Nat) : (winSet s a v).od = s.od := rfl
@[simp] theorem winSet_handed (a v : Nat) : (winSet s a v).handed = s.handed := rfl
@[simp] theorem winSet_ans (a v : Nat) : (winSet s a v).ans = s.ans := rfl
@[simp] theorem winSet_free (a v : Nat) : (winSet s a v).free = s.free := rfl
@[simp] theorem winSet_barriers (a v : Nat) : (winSet s a v).barriers = s.barriers := rfl
@[simp] theorem winSet_pipes (a v : Nat) : (winSet s a v).pipes = s.pipes := rfl
@[simp] theorem winSet_cp (a v : Nat) : (winSet s a v).cp = s.cp := rfl
@[simp] theorem winSet_net (a v : Nat) : (winSet s a v).net = s.net := rfl
@[simp] theorem winSet_gathers (a v : Nat) : (winSet s a v).gathers = s.gathers := rfl
@[simp] theorem winSet_ext (a v : Nat) : (winSet s a v).ext = s.ext := rfl
@[simp] theorem winSet_peerOut (a v : Nat) : (winSet s a v).peerOut = s.peerOut := rfl
@[simp] theorem winSet_svc (a v : Nat) : (winSet s a v).svc = s.svc := rfl
@[simp] theorem winSet_heon (a v : Nat) : (winSet s a v).heon = s.heon := rfl
@[simp] theorem winSet_peers (a v : Nat) : (winSet s a v).peers = s.peers := rfl
@[simp] theorem winSet_groups (a v : Nat) : (winSet s a v).groups = s.groups := rfl
@[simp] theorem winSet_hbm (a v : Nat) : (winSet s a v).hbm = s.hbm := rfl
@[simp] theorem winSet_hostWin (a v : Nat) : (winSet s a v).hostWin = s.hostWin := rfl
@[simp] theorem winSet_sec (a v : Nat) : (winSet s a v).sec = s.sec := rfl
@[simp] theorem winSet_sectors (a v : Nat) : (winSet s a v).sectors = s.sectors := rfl
@[simp] theorem winSet_clocks (a v : Nat) : (winSet s a v).clocks = s.clocks := rfl
@[simp] theorem winSet_cfg (a v : Nat) : (winSet s a v).cfg = s.cfg := rfl
@[simp] theorem winSet_lanes (a v : Nat) : (winSet s a v).lanes = s.lanes := rfl
@[simp] theorem winSet_groupsL (a v : Nat) : (winSet s a v).groupsL = s.groupsL := rfl
@[simp] theorem winSet_power (a v : Nat) : (winSet s a v).power = s.power := rfl
@[simp] theorem winSet_mgmt (a v : Nat) : (winSet s a v).mgmt = s.mgmt := rfl
@[simp] theorem winSet_log (a v : Nat) : (winSet s a v).log = s.log := rfl
@[simp] theorem winSet_boot (a v : Nat) : (winSet s a v).boot = s.boot := rfl
@[simp] theorem winSet_tap (a v : Nat) : (winSet s a v).tap = s.tap := rfl
@[simp] theorem winSet_notify (a v : Nat) : (winSet s a v).notify = s.notify := rfl

@[simp] theorem odPut_pending (k v : Nat) : (odPut s k v).pending = s.pending := rfl
@[simp] theorem odPut_dales (k v : Nat) : (odPut s k v).dales = s.dales := rfl
@[simp] theorem odPut_mem (k v : Nat) : (odPut s k v).mem = s.mem := rfl
@[simp] theorem odPut_synd (k v : Nat) : (odPut s k v).synd = s.synd := rfl
@[simp] theorem odPut_win (k v : Nat) : (odPut s k v).win = s.win := rfl
@[simp] theorem odPut_handed (k v : Nat) : (odPut s k v).handed = s.handed := rfl
@[simp] theorem odPut_ans (k v : Nat) : (odPut s k v).ans = s.ans := rfl
@[simp] theorem odPut_free (k v : Nat) : (odPut s k v).free = s.free := rfl
@[simp] theorem odPut_barriers (k v : Nat) : (odPut s k v).barriers = s.barriers := rfl
@[simp] theorem odPut_pipes (k v : Nat) : (odPut s k v).pipes = s.pipes := rfl
@[simp] theorem odPut_cp (k v : Nat) : (odPut s k v).cp = s.cp := rfl
@[simp] theorem odPut_net (k v : Nat) : (odPut s k v).net = s.net := rfl
@[simp] theorem odPut_gathers (k v : Nat) : (odPut s k v).gathers = s.gathers := rfl
@[simp] theorem odPut_ext (k v : Nat) : (odPut s k v).ext = s.ext := rfl
@[simp] theorem odPut_peerOut (k v : Nat) : (odPut s k v).peerOut = s.peerOut := rfl
@[simp] theorem odPut_svc (k v : Nat) : (odPut s k v).svc = s.svc := rfl
@[simp] theorem odPut_heon (k v : Nat) : (odPut s k v).heon = s.heon := rfl
@[simp] theorem odPut_peers (k v : Nat) : (odPut s k v).peers = s.peers := rfl
@[simp] theorem odPut_groups (k v : Nat) : (odPut s k v).groups = s.groups := rfl
@[simp] theorem odPut_hbm (k v : Nat) : (odPut s k v).hbm = s.hbm := rfl
@[simp] theorem odPut_hostWin (k v : Nat) : (odPut s k v).hostWin = s.hostWin := rfl
@[simp] theorem odPut_sec (k v : Nat) : (odPut s k v).sec = s.sec := rfl
@[simp] theorem odPut_sectors (k v : Nat) : (odPut s k v).sectors = s.sectors := rfl
@[simp] theorem odPut_clocks (k v : Nat) : (odPut s k v).clocks = s.clocks := rfl
@[simp] theorem odPut_cfg (k v : Nat) : (odPut s k v).cfg = s.cfg := rfl
@[simp] theorem odPut_lanes (k v : Nat) : (odPut s k v).lanes = s.lanes := rfl
@[simp] theorem odPut_groupsL (k v : Nat) : (odPut s k v).groupsL = s.groupsL := rfl
@[simp] theorem odPut_power (k v : Nat) : (odPut s k v).power = s.power := rfl
@[simp] theorem odPut_mgmt (k v : Nat) : (odPut s k v).mgmt = s.mgmt := rfl
@[simp] theorem odPut_log (k v : Nat) : (odPut s k v).log = s.log := rfl
@[simp] theorem odPut_boot (k v : Nat) : (odPut s k v).boot = s.boot := rfl
@[simp] theorem odPut_tap (k v : Nat) : (odPut s k v).tap = s.tap := rfl
@[simp] theorem odPut_notify (k v : Nat) : (odPut s k v).notify = s.notify := rfl

@[simp] theorem odBump_pending (i j n : Nat) : (odBump s i j n).pending = s.pending := rfl
@[simp] theorem odBump_dales (i j n : Nat) : (odBump s i j n).dales = s.dales := rfl
@[simp] theorem odBump_mem (i j n : Nat) : (odBump s i j n).mem = s.mem := rfl
@[simp] theorem odBump_synd (i j n : Nat) : (odBump s i j n).synd = s.synd := rfl
@[simp] theorem odBump_win (i j n : Nat) : (odBump s i j n).win = s.win := rfl
@[simp] theorem odBump_handed (i j n : Nat) : (odBump s i j n).handed = s.handed := rfl
@[simp] theorem odBump_ans (i j n : Nat) : (odBump s i j n).ans = s.ans := rfl
@[simp] theorem odBump_free (i j n : Nat) : (odBump s i j n).free = s.free := rfl
@[simp] theorem odBump_barriers (i j n : Nat) : (odBump s i j n).barriers = s.barriers := rfl
@[simp] theorem odBump_pipes (i j n : Nat) : (odBump s i j n).pipes = s.pipes := rfl
@[simp] theorem odBump_cp (i j n : Nat) : (odBump s i j n).cp = s.cp := rfl
@[simp] theorem odBump_net (i j n : Nat) : (odBump s i j n).net = s.net := rfl
@[simp] theorem odBump_gathers (i j n : Nat) : (odBump s i j n).gathers = s.gathers := rfl
@[simp] theorem odBump_ext (i j n : Nat) : (odBump s i j n).ext = s.ext := rfl
@[simp] theorem odBump_peerOut (i j n : Nat) : (odBump s i j n).peerOut = s.peerOut := rfl
@[simp] theorem odBump_svc (i j n : Nat) : (odBump s i j n).svc = s.svc := rfl
@[simp] theorem odBump_heon (i j n : Nat) : (odBump s i j n).heon = s.heon := rfl
@[simp] theorem odBump_peers (i j n : Nat) : (odBump s i j n).peers = s.peers := rfl
@[simp] theorem odBump_groups (i j n : Nat) : (odBump s i j n).groups = s.groups := rfl
@[simp] theorem odBump_hbm (i j n : Nat) : (odBump s i j n).hbm = s.hbm := rfl
@[simp] theorem odBump_hostWin (i j n : Nat) : (odBump s i j n).hostWin = s.hostWin := rfl
@[simp] theorem odBump_sec (i j n : Nat) : (odBump s i j n).sec = s.sec := rfl
@[simp] theorem odBump_sectors (i j n : Nat) : (odBump s i j n).sectors = s.sectors := rfl
@[simp] theorem odBump_clocks (i j n : Nat) : (odBump s i j n).clocks = s.clocks := rfl
@[simp] theorem odBump_cfg (i j n : Nat) : (odBump s i j n).cfg = s.cfg := rfl
@[simp] theorem odBump_lanes (i j n : Nat) : (odBump s i j n).lanes = s.lanes := rfl
@[simp] theorem odBump_groupsL (i j n : Nat) : (odBump s i j n).groupsL = s.groupsL := rfl
@[simp] theorem odBump_power (i j n : Nat) : (odBump s i j n).power = s.power := rfl
@[simp] theorem odBump_mgmt (i j n : Nat) : (odBump s i j n).mgmt = s.mgmt := rfl
@[simp] theorem odBump_log (i j n : Nat) : (odBump s i j n).log = s.log := rfl
@[simp] theorem odBump_boot (i j n : Nat) : (odBump s i j n).boot = s.boot := rfl
@[simp] theorem odBump_tap (i j n : Nat) : (odBump s i j n).tap = s.tap := rfl
@[simp] theorem odBump_notify (i j n : Nat) : (odBump s i j n).notify = s.notify := rfl

@[simp] theorem setSyn_pending (a v : Nat) : (setSyn s a v).pending = s.pending := rfl
@[simp] theorem setSyn_dales (a v : Nat) : (setSyn s a v).dales = s.dales := rfl
@[simp] theorem setSyn_mem (a v : Nat) : (setSyn s a v).mem = s.mem := rfl
@[simp] theorem setSyn_win (a v : Nat) : (setSyn s a v).win = s.win := rfl
@[simp] theorem setSyn_od (a v : Nat) : (setSyn s a v).od = s.od := rfl
@[simp] theorem setSyn_handed (a v : Nat) : (setSyn s a v).handed = s.handed := rfl
@[simp] theorem setSyn_ans (a v : Nat) : (setSyn s a v).ans = s.ans := rfl
@[simp] theorem setSyn_free (a v : Nat) : (setSyn s a v).free = s.free := rfl
@[simp] theorem setSyn_barriers (a v : Nat) : (setSyn s a v).barriers = s.barriers := rfl
@[simp] theorem setSyn_pipes (a v : Nat) : (setSyn s a v).pipes = s.pipes := rfl
@[simp] theorem setSyn_cp (a v : Nat) : (setSyn s a v).cp = s.cp := rfl
@[simp] theorem setSyn_net (a v : Nat) : (setSyn s a v).net = s.net := rfl
@[simp] theorem setSyn_gathers (a v : Nat) : (setSyn s a v).gathers = s.gathers := rfl
@[simp] theorem setSyn_ext (a v : Nat) : (setSyn s a v).ext = s.ext := rfl
@[simp] theorem setSyn_peerOut (a v : Nat) : (setSyn s a v).peerOut = s.peerOut := rfl
@[simp] theorem setSyn_svc (a v : Nat) : (setSyn s a v).svc = s.svc := rfl
@[simp] theorem setSyn_heon (a v : Nat) : (setSyn s a v).heon = s.heon := rfl
@[simp] theorem setSyn_peers (a v : Nat) : (setSyn s a v).peers = s.peers := rfl
@[simp] theorem setSyn_groups (a v : Nat) : (setSyn s a v).groups = s.groups := rfl
@[simp] theorem setSyn_hbm (a v : Nat) : (setSyn s a v).hbm = s.hbm := rfl
@[simp] theorem setSyn_hostWin (a v : Nat) : (setSyn s a v).hostWin = s.hostWin := rfl
@[simp] theorem setSyn_sec (a v : Nat) : (setSyn s a v).sec = s.sec := rfl
@[simp] theorem setSyn_sectors (a v : Nat) : (setSyn s a v).sectors = s.sectors := rfl
@[simp] theorem setSyn_clocks (a v : Nat) : (setSyn s a v).clocks = s.clocks := rfl
@[simp] theorem setSyn_cfg (a v : Nat) : (setSyn s a v).cfg = s.cfg := rfl
@[simp] theorem setSyn_lanes (a v : Nat) : (setSyn s a v).lanes = s.lanes := rfl
@[simp] theorem setSyn_groupsL (a v : Nat) : (setSyn s a v).groupsL = s.groupsL := rfl
@[simp] theorem setSyn_power (a v : Nat) : (setSyn s a v).power = s.power := rfl
@[simp] theorem setSyn_mgmt (a v : Nat) : (setSyn s a v).mgmt = s.mgmt := rfl
@[simp] theorem setSyn_log (a v : Nat) : (setSyn s a v).log = s.log := rfl
@[simp] theorem setSyn_boot (a v : Nat) : (setSyn s a v).boot = s.boot := rfl
@[simp] theorem setSyn_tap (a v : Nat) : (setSyn s a v).tap = s.tap := rfl
@[simp] theorem setSyn_notify (a v : Nat) : (setSyn s a v).notify = s.notify := rfl

@[simp] theorem emit_pending (e : Event) : (emit s e).pending = s.pending := rfl
@[simp] theorem emit_dales (e : Event) : (emit s e).dales = s.dales := rfl
@[simp] theorem emit_mem (e : Event) : (emit s e).mem = s.mem := rfl
@[simp] theorem emit_synd (e : Event) : (emit s e).synd = s.synd := rfl
@[simp] theorem emit_win (e : Event) : (emit s e).win = s.win := rfl
@[simp] theorem emit_od (e : Event) : (emit s e).od = s.od := rfl
@[simp] theorem emit_ans (e : Event) : (emit s e).ans = s.ans := rfl
@[simp] theorem emit_free (e : Event) : (emit s e).free = s.free := rfl
@[simp] theorem emit_barriers (e : Event) : (emit s e).barriers = s.barriers := rfl
@[simp] theorem emit_pipes (e : Event) : (emit s e).pipes = s.pipes := rfl
@[simp] theorem emit_cp (e : Event) : (emit s e).cp = s.cp := rfl
@[simp] theorem emit_net (e : Event) : (emit s e).net = s.net := rfl
@[simp] theorem emit_gathers (e : Event) : (emit s e).gathers = s.gathers := rfl
@[simp] theorem emit_ext (e : Event) : (emit s e).ext = s.ext := rfl
@[simp] theorem emit_peerOut (e : Event) : (emit s e).peerOut = s.peerOut := rfl
@[simp] theorem emit_svc (e : Event) : (emit s e).svc = s.svc := rfl
@[simp] theorem emit_heon (e : Event) : (emit s e).heon = s.heon := rfl
@[simp] theorem emit_peers (e : Event) : (emit s e).peers = s.peers := rfl
@[simp] theorem emit_groups (e : Event) : (emit s e).groups = s.groups := rfl
@[simp] theorem emit_hbm (e : Event) : (emit s e).hbm = s.hbm := rfl
@[simp] theorem emit_hostWin (e : Event) : (emit s e).hostWin = s.hostWin := rfl
@[simp] theorem emit_sec (e : Event) : (emit s e).sec = s.sec := rfl
@[simp] theorem emit_sectors (e : Event) : (emit s e).sectors = s.sectors := rfl
@[simp] theorem emit_clocks (e : Event) : (emit s e).clocks = s.clocks := rfl
@[simp] theorem emit_cfg (e : Event) : (emit s e).cfg = s.cfg := rfl
@[simp] theorem emit_lanes (e : Event) : (emit s e).lanes = s.lanes := rfl
@[simp] theorem emit_groupsL (e : Event) : (emit s e).groupsL = s.groupsL := rfl
@[simp] theorem emit_power (e : Event) : (emit s e).power = s.power := rfl
@[simp] theorem emit_mgmt (e : Event) : (emit s e).mgmt = s.mgmt := rfl
@[simp] theorem emit_log (e : Event) : (emit s e).log = s.log := rfl
@[simp] theorem emit_boot (e : Event) : (emit s e).boot = s.boot := rfl
@[simp] theorem emit_tap (e : Event) : (emit s e).tap = s.tap := rfl
@[simp] theorem emit_notify (e : Event) : (emit s e).notify = s.notify := rfl

@[simp] theorem answer_pending (st : Status) (v : Nat) : (answer s st v).pending = s.pending := rfl
@[simp] theorem answer_dales (st : Status) (v : Nat) : (answer s st v).dales = s.dales := rfl
@[simp] theorem answer_mem (st : Status) (v : Nat) : (answer s st v).mem = s.mem := rfl
@[simp] theorem answer_synd (st : Status) (v : Nat) : (answer s st v).synd = s.synd := rfl
@[simp] theorem answer_win (st : Status) (v : Nat) : (answer s st v).win = s.win := rfl
@[simp] theorem answer_od (st : Status) (v : Nat) : (answer s st v).od = s.od := rfl
@[simp] theorem answer_handed (st : Status) (v : Nat) : (answer s st v).handed = s.handed := rfl
@[simp] theorem answer_free (st : Status) (v : Nat) : (answer s st v).free = s.free := rfl
@[simp] theorem answer_barriers (st : Status) (v : Nat) : (answer s st v).barriers = s.barriers := rfl
@[simp] theorem answer_pipes (st : Status) (v : Nat) : (answer s st v).pipes = s.pipes := rfl
@[simp] theorem answer_cp (st : Status) (v : Nat) : (answer s st v).cp = s.cp := rfl
@[simp] theorem answer_net (st : Status) (v : Nat) : (answer s st v).net = s.net := rfl
@[simp] theorem answer_gathers (st : Status) (v : Nat) : (answer s st v).gathers = s.gathers := rfl
@[simp] theorem answer_ext (st : Status) (v : Nat) : (answer s st v).ext = s.ext := rfl
@[simp] theorem answer_peerOut (st : Status) (v : Nat) : (answer s st v).peerOut = s.peerOut := rfl
@[simp] theorem answer_svc (st : Status) (v : Nat) : (answer s st v).svc = s.svc := rfl
@[simp] theorem answer_heon (st : Status) (v : Nat) : (answer s st v).heon = s.heon := rfl
@[simp] theorem answer_peers (st : Status) (v : Nat) : (answer s st v).peers = s.peers := rfl
@[simp] theorem answer_groups (st : Status) (v : Nat) : (answer s st v).groups = s.groups := rfl
@[simp] theorem answer_hbm (st : Status) (v : Nat) : (answer s st v).hbm = s.hbm := rfl
@[simp] theorem answer_hostWin (st : Status) (v : Nat) : (answer s st v).hostWin = s.hostWin := rfl
@[simp] theorem answer_sec (st : Status) (v : Nat) : (answer s st v).sec = s.sec := rfl
@[simp] theorem answer_sectors (st : Status) (v : Nat) : (answer s st v).sectors = s.sectors := rfl
@[simp] theorem answer_clocks (st : Status) (v : Nat) : (answer s st v).clocks = s.clocks := rfl
@[simp] theorem answer_cfg (st : Status) (v : Nat) : (answer s st v).cfg = s.cfg := rfl
@[simp] theorem answer_lanes (st : Status) (v : Nat) : (answer s st v).lanes = s.lanes := rfl
@[simp] theorem answer_groupsL (st : Status) (v : Nat) : (answer s st v).groupsL = s.groupsL := rfl
@[simp] theorem answer_power (st : Status) (v : Nat) : (answer s st v).power = s.power := rfl
@[simp] theorem answer_mgmt (st : Status) (v : Nat) : (answer s st v).mgmt = s.mgmt := rfl
@[simp] theorem answer_log (st : Status) (v : Nat) : (answer s st v).log = s.log := rfl
@[simp] theorem answer_boot (st : Status) (v : Nat) : (answer s st v).boot = s.boot := rfl
@[simp] theorem answer_tap (st : Status) (v : Nat) : (answer s st v).tap = s.tap := rfl
@[simp] theorem answer_notify (st : Status) (v : Nat) : (answer s st v).notify = s.notify := rfl

@[simp] theorem setPipe_pending (p : Nat) (v : Pipe) : (setPipe s p v).pending = s.pending := rfl
@[simp] theorem setPipe_dales (p : Nat) (v : Pipe) : (setPipe s p v).dales = s.dales := rfl
@[simp] theorem setPipe_mem (p : Nat) (v : Pipe) : (setPipe s p v).mem = s.mem := rfl
@[simp] theorem setPipe_synd (p : Nat) (v : Pipe) : (setPipe s p v).synd = s.synd := rfl
@[simp] theorem setPipe_win (p : Nat) (v : Pipe) : (setPipe s p v).win = s.win := rfl
@[simp] theorem setPipe_od (p : Nat) (v : Pipe) : (setPipe s p v).od = s.od := rfl
@[simp] theorem setPipe_handed (p : Nat) (v : Pipe) : (setPipe s p v).handed = s.handed := rfl
@[simp] theorem setPipe_ans (p : Nat) (v : Pipe) : (setPipe s p v).ans = s.ans := rfl
@[simp] theorem setPipe_free (p : Nat) (v : Pipe) : (setPipe s p v).free = s.free := rfl
@[simp] theorem setPipe_barriers (p : Nat) (v : Pipe) : (setPipe s p v).barriers = s.barriers := rfl
@[simp] theorem setPipe_cp (p : Nat) (v : Pipe) : (setPipe s p v).cp = s.cp := rfl
@[simp] theorem setPipe_net (p : Nat) (v : Pipe) : (setPipe s p v).net = s.net := rfl
@[simp] theorem setPipe_gathers (p : Nat) (v : Pipe) : (setPipe s p v).gathers = s.gathers := rfl
@[simp] theorem setPipe_ext (p : Nat) (v : Pipe) : (setPipe s p v).ext = s.ext := rfl
@[simp] theorem setPipe_peerOut (p : Nat) (v : Pipe) : (setPipe s p v).peerOut = s.peerOut := rfl
@[simp] theorem setPipe_svc (p : Nat) (v : Pipe) : (setPipe s p v).svc = s.svc := rfl
@[simp] theorem setPipe_heon (p : Nat) (v : Pipe) : (setPipe s p v).heon = s.heon := rfl
@[simp] theorem setPipe_peers (p : Nat) (v : Pipe) : (setPipe s p v).peers = s.peers := rfl
@[simp] theorem setPipe_groups (p : Nat) (v : Pipe) : (setPipe s p v).groups = s.groups := rfl
@[simp] theorem setPipe_hbm (p : Nat) (v : Pipe) : (setPipe s p v).hbm = s.hbm := rfl
@[simp] theorem setPipe_hostWin (p : Nat) (v : Pipe) : (setPipe s p v).hostWin = s.hostWin := rfl
@[simp] theorem setPipe_sec (p : Nat) (v : Pipe) : (setPipe s p v).sec = s.sec := rfl
@[simp] theorem setPipe_sectors (p : Nat) (v : Pipe) : (setPipe s p v).sectors = s.sectors := rfl
@[simp] theorem setPipe_clocks (p : Nat) (v : Pipe) : (setPipe s p v).clocks = s.clocks := rfl
@[simp] theorem setPipe_cfg (p : Nat) (v : Pipe) : (setPipe s p v).cfg = s.cfg := rfl
@[simp] theorem setPipe_lanes (p : Nat) (v : Pipe) : (setPipe s p v).lanes = s.lanes := rfl
@[simp] theorem setPipe_groupsL (p : Nat) (v : Pipe) : (setPipe s p v).groupsL = s.groupsL := rfl
@[simp] theorem setPipe_power (p : Nat) (v : Pipe) : (setPipe s p v).power = s.power := rfl
@[simp] theorem setPipe_mgmt (p : Nat) (v : Pipe) : (setPipe s p v).mgmt = s.mgmt := rfl
@[simp] theorem setPipe_log (p : Nat) (v : Pipe) : (setPipe s p v).log = s.log := rfl
@[simp] theorem setPipe_boot (p : Nat) (v : Pipe) : (setPipe s p v).boot = s.boot := rfl
@[simp] theorem setPipe_tap (p : Nat) (v : Pipe) : (setPipe s p v).tap = s.tap := rfl
@[simp] theorem setPipe_notify (p : Nat) (v : Pipe) : (setPipe s p v).notify = s.notify := rfl

@[simp] theorem updPipe_pending (p : Nat) (f : Pipe → Pipe) : (updPipe s p f).pending = s.pending := rfl
@[simp] theorem updPipe_dales (p : Nat) (f : Pipe → Pipe) : (updPipe s p f).dales = s.dales := rfl
@[simp] theorem updPipe_mem (p : Nat) (f : Pipe → Pipe) : (updPipe s p f).mem = s.mem := rfl
@[simp] theorem updPipe_synd (p : Nat) (f : Pipe → Pipe) : (updPipe s p f).synd = s.synd := rfl
@[simp] theorem updPipe_win (p : Nat) (f : Pipe → Pipe) : (updPipe s p f).win = s.win := rfl
@[simp] theorem updPipe_od (p : Nat) (f : Pipe → Pipe) : (updPipe s p f).od = s.od := rfl
@[simp] theorem updPipe_handed (p : Nat) (f : Pipe → Pipe) : (updPipe s p f).handed = s.handed := rfl
@[simp] theorem updPipe_ans (p : Nat) (f : Pipe → Pipe) : (updPipe s p f).ans = s.ans := rfl
@[simp] theorem updPipe_free (p : Nat) (f : Pipe → Pipe) : (updPipe s p f).free = s.free := rfl
@[simp] theorem updPipe_barriers (p : Nat) (f : Pipe → Pipe) : (updPipe s p f).barriers = s.barriers := rfl
@[simp] theorem updPipe_cp (p : Nat) (f : Pipe → Pipe) : (updPipe s p f).cp = s.cp := rfl
@[simp] theorem updPipe_net (p : Nat) (f : Pipe → Pipe) : (updPipe s p f).net = s.net := rfl
@[simp] theorem updPipe_gathers (p : Nat) (f : Pipe → Pipe) : (updPipe s p f).gathers = s.gathers := rfl
@[simp] theorem updPipe_ext (p : Nat) (f : Pipe → Pipe) : (updPipe s p f).ext = s.ext := rfl
@[simp] theorem updPipe_peerOut (p : Nat) (f : Pipe → Pipe) : (updPipe s p f).peerOut = s.peerOut := rfl
@[simp] theorem updPipe_svc (p : Nat) (f : Pipe → Pipe) : (updPipe s p f).svc = s.svc := rfl
@[simp] theorem updPipe_heon (p : Nat) (f : Pipe → Pipe) : (updPipe s p f).heon = s.heon := rfl
@[simp] theorem updPipe_peers (p : Nat) (f : Pipe → Pipe) : (updPipe s p f).peers = s.peers := rfl
@[simp] theorem updPipe_groups (p : Nat) (f : Pipe → Pipe) : (updPipe s p f).groups = s.groups := rfl
@[simp] theorem updPipe_hbm (p : Nat) (f : Pipe → Pipe) : (updPipe s p f).hbm = s.hbm := rfl
@[simp] theorem updPipe_hostWin (p : Nat) (f : Pipe → Pipe) : (updPipe s p f).hostWin = s.hostWin := rfl
@[simp] theorem updPipe_sec (p : Nat) (f : Pipe → Pipe) : (updPipe s p f).sec = s.sec := rfl
@[simp] theorem updPipe_sectors (p : Nat) (f : Pipe → Pipe) : (updPipe s p f).sectors = s.sectors := rfl
@[simp] theorem updPipe_clocks (p : Nat) (f : Pipe → Pipe) : (updPipe s p f).clocks = s.clocks := rfl
@[simp] theorem updPipe_cfg (p : Nat) (f : Pipe → Pipe) : (updPipe s p f).cfg = s.cfg := rfl
@[simp] theorem updPipe_lanes (p : Nat) (f : Pipe → Pipe) : (updPipe s p f).lanes = s.lanes := rfl
@[simp] theorem updPipe_groupsL (p : Nat) (f : Pipe → Pipe) : (updPipe s p f).groupsL = s.groupsL := rfl
@[simp] theorem updPipe_power (p : Nat) (f : Pipe → Pipe) : (updPipe s p f).power = s.power := rfl
@[simp] theorem updPipe_mgmt (p : Nat) (f : Pipe → Pipe) : (updPipe s p f).mgmt = s.mgmt := rfl
@[simp] theorem updPipe_log (p : Nat) (f : Pipe → Pipe) : (updPipe s p f).log = s.log := rfl
@[simp] theorem updPipe_boot (p : Nat) (f : Pipe → Pipe) : (updPipe s p f).boot = s.boot := rfl
@[simp] theorem updPipe_tap (p : Nat) (f : Pipe → Pipe) : (updPipe s p f).tap = s.tap := rfl
@[simp] theorem updPipe_notify (p : Nat) (f : Pipe → Pipe) : (updPipe s p f).notify = s.notify := rfl

@[simp] theorem setNi_pending (c : Nat) (v : Ni) : (setNi s c v).pending = s.pending := rfl
@[simp] theorem setNi_dales (c : Nat) (v : Ni) : (setNi s c v).dales = s.dales := rfl
@[simp] theorem setNi_mem (c : Nat) (v : Ni) : (setNi s c v).mem = s.mem := rfl
@[simp] theorem setNi_synd (c : Nat) (v : Ni) : (setNi s c v).synd = s.synd := rfl
@[simp] theorem setNi_win (c : Nat) (v : Ni) : (setNi s c v).win = s.win := rfl
@[simp] theorem setNi_od (c : Nat) (v : Ni) : (setNi s c v).od = s.od := rfl
@[simp] theorem setNi_handed (c : Nat) (v : Ni) : (setNi s c v).handed = s.handed := rfl
@[simp] theorem setNi_ans (c : Nat) (v : Ni) : (setNi s c v).ans = s.ans := rfl
@[simp] theorem setNi_free (c : Nat) (v : Ni) : (setNi s c v).free = s.free := rfl
@[simp] theorem setNi_barriers (c : Nat) (v : Ni) : (setNi s c v).barriers = s.barriers := rfl
@[simp] theorem setNi_pipes (c : Nat) (v : Ni) : (setNi s c v).pipes = s.pipes := rfl
@[simp] theorem setNi_cp (c : Nat) (v : Ni) : (setNi s c v).cp = s.cp := rfl
@[simp] theorem setNi_gathers (c : Nat) (v : Ni) : (setNi s c v).gathers = s.gathers := rfl
@[simp] theorem setNi_ext (c : Nat) (v : Ni) : (setNi s c v).ext = s.ext := rfl
@[simp] theorem setNi_peerOut (c : Nat) (v : Ni) : (setNi s c v).peerOut = s.peerOut := rfl
@[simp] theorem setNi_svc (c : Nat) (v : Ni) : (setNi s c v).svc = s.svc := rfl
@[simp] theorem setNi_heon (c : Nat) (v : Ni) : (setNi s c v).heon = s.heon := rfl
@[simp] theorem setNi_peers (c : Nat) (v : Ni) : (setNi s c v).peers = s.peers := rfl
@[simp] theorem setNi_groups (c : Nat) (v : Ni) : (setNi s c v).groups = s.groups := rfl
@[simp] theorem setNi_hbm (c : Nat) (v : Ni) : (setNi s c v).hbm = s.hbm := rfl
@[simp] theorem setNi_hostWin (c : Nat) (v : Ni) : (setNi s c v).hostWin = s.hostWin := rfl
@[simp] theorem setNi_sec (c : Nat) (v : Ni) : (setNi s c v).sec = s.sec := rfl
@[simp] theorem setNi_sectors (c : Nat) (v : Ni) : (setNi s c v).sectors = s.sectors := rfl
@[simp] theorem setNi_clocks (c : Nat) (v : Ni) : (setNi s c v).clocks = s.clocks := rfl
@[simp] theorem setNi_cfg (c : Nat) (v : Ni) : (setNi s c v).cfg = s.cfg := rfl
@[simp] theorem setNi_lanes (c : Nat) (v : Ni) : (setNi s c v).lanes = s.lanes := rfl
@[simp] theorem setNi_groupsL (c : Nat) (v : Ni) : (setNi s c v).groupsL = s.groupsL := rfl
@[simp] theorem setNi_power (c : Nat) (v : Ni) : (setNi s c v).power = s.power := rfl
@[simp] theorem setNi_mgmt (c : Nat) (v : Ni) : (setNi s c v).mgmt = s.mgmt := rfl
@[simp] theorem setNi_log (c : Nat) (v : Ni) : (setNi s c v).log = s.log := rfl
@[simp] theorem setNi_boot (c : Nat) (v : Ni) : (setNi s c v).boot = s.boot := rfl
@[simp] theorem setNi_tap (c : Nat) (v : Ni) : (setNi s c v).tap = s.tap := rfl
@[simp] theorem setNi_notify (c : Nat) (v : Ni) : (setNi s c v).notify = s.notify := rfl

@[simp] theorem updNi_pending (c : Nat) (f : Ni → Ni) : (updNi s c f).pending = s.pending := rfl
@[simp] theorem updNi_dales (c : Nat) (f : Ni → Ni) : (updNi s c f).dales = s.dales := rfl
@[simp] theorem updNi_mem (c : Nat) (f : Ni → Ni) : (updNi s c f).mem = s.mem := rfl
@[simp] theorem updNi_synd (c : Nat) (f : Ni → Ni) : (updNi s c f).synd = s.synd := rfl
@[simp] theorem updNi_win (c : Nat) (f : Ni → Ni) : (updNi s c f).win = s.win := rfl
@[simp] theorem updNi_od (c : Nat) (f : Ni → Ni) : (updNi s c f).od = s.od := rfl
@[simp] theorem updNi_handed (c : Nat) (f : Ni → Ni) : (updNi s c f).handed = s.handed := rfl
@[simp] theorem updNi_ans (c : Nat) (f : Ni → Ni) : (updNi s c f).ans = s.ans := rfl
@[simp] theorem updNi_free (c : Nat) (f : Ni → Ni) : (updNi s c f).free = s.free := rfl
@[simp] theorem updNi_barriers (c : Nat) (f : Ni → Ni) : (updNi s c f).barriers = s.barriers := rfl
@[simp] theorem updNi_pipes (c : Nat) (f : Ni → Ni) : (updNi s c f).pipes = s.pipes := rfl
@[simp] theorem updNi_cp (c : Nat) (f : Ni → Ni) : (updNi s c f).cp = s.cp := rfl
@[simp] theorem updNi_gathers (c : Nat) (f : Ni → Ni) : (updNi s c f).gathers = s.gathers := rfl
@[simp] theorem updNi_ext (c : Nat) (f : Ni → Ni) : (updNi s c f).ext = s.ext := rfl
@[simp] theorem updNi_peerOut (c : Nat) (f : Ni → Ni) : (updNi s c f).peerOut = s.peerOut := rfl
@[simp] theorem updNi_svc (c : Nat) (f : Ni → Ni) : (updNi s c f).svc = s.svc := rfl
@[simp] theorem updNi_heon (c : Nat) (f : Ni → Ni) : (updNi s c f).heon = s.heon := rfl
@[simp] theorem updNi_peers (c : Nat) (f : Ni → Ni) : (updNi s c f).peers = s.peers := rfl
@[simp] theorem updNi_groups (c : Nat) (f : Ni → Ni) : (updNi s c f).groups = s.groups := rfl
@[simp] theorem updNi_hbm (c : Nat) (f : Ni → Ni) : (updNi s c f).hbm = s.hbm := rfl
@[simp] theorem updNi_hostWin (c : Nat) (f : Ni → Ni) : (updNi s c f).hostWin = s.hostWin := rfl
@[simp] theorem updNi_sec (c : Nat) (f : Ni → Ni) : (updNi s c f).sec = s.sec := rfl
@[simp] theorem updNi_sectors (c : Nat) (f : Ni → Ni) : (updNi s c f).sectors = s.sectors := rfl
@[simp] theorem updNi_clocks (c : Nat) (f : Ni → Ni) : (updNi s c f).clocks = s.clocks := rfl
@[simp] theorem updNi_cfg (c : Nat) (f : Ni → Ni) : (updNi s c f).cfg = s.cfg := rfl
@[simp] theorem updNi_lanes (c : Nat) (f : Ni → Ni) : (updNi s c f).lanes = s.lanes := rfl
@[simp] theorem updNi_groupsL (c : Nat) (f : Ni → Ni) : (updNi s c f).groupsL = s.groupsL := rfl
@[simp] theorem updNi_power (c : Nat) (f : Ni → Ni) : (updNi s c f).power = s.power := rfl
@[simp] theorem updNi_mgmt (c : Nat) (f : Ni → Ni) : (updNi s c f).mgmt = s.mgmt := rfl
@[simp] theorem updNi_log (c : Nat) (f : Ni → Ni) : (updNi s c f).log = s.log := rfl
@[simp] theorem updNi_boot (c : Nat) (f : Ni → Ni) : (updNi s c f).boot = s.boot := rfl
@[simp] theorem updNi_tap (c : Nat) (f : Ni → Ni) : (updNi s c f).tap = s.tap := rfl
@[simp] theorem updNi_notify (c : Nat) (f : Ni → Ni) : (updNi s c f).notify = s.notify := rfl

@[simp] theorem takeFree_pending : (takeFree s).2.pending = s.pending := rfl
@[simp] theorem takeFree_dales : (takeFree s).2.dales = s.dales := rfl
@[simp] theorem takeFree_mem : (takeFree s).2.mem = s.mem := rfl
@[simp] theorem takeFree_synd : (takeFree s).2.synd = s.synd := rfl
@[simp] theorem takeFree_win : (takeFree s).2.win = s.win := rfl
@[simp] theorem takeFree_od : (takeFree s).2.od = s.od := rfl
@[simp] theorem takeFree_handed : (takeFree s).2.handed = s.handed := rfl
@[simp] theorem takeFree_ans : (takeFree s).2.ans = s.ans := rfl
@[simp] theorem takeFree_barriers : (takeFree s).2.barriers = s.barriers := rfl
@[simp] theorem takeFree_pipes : (takeFree s).2.pipes = s.pipes := rfl
@[simp] theorem takeFree_cp : (takeFree s).2.cp = s.cp := rfl
@[simp] theorem takeFree_net : (takeFree s).2.net = s.net := rfl
@[simp] theorem takeFree_gathers : (takeFree s).2.gathers = s.gathers := rfl
@[simp] theorem takeFree_ext : (takeFree s).2.ext = s.ext := rfl
@[simp] theorem takeFree_peerOut : (takeFree s).2.peerOut = s.peerOut := rfl
@[simp] theorem takeFree_svc : (takeFree s).2.svc = s.svc := rfl
@[simp] theorem takeFree_heon : (takeFree s).2.heon = s.heon := rfl
@[simp] theorem takeFree_peers : (takeFree s).2.peers = s.peers := rfl
@[simp] theorem takeFree_groups : (takeFree s).2.groups = s.groups := rfl
@[simp] theorem takeFree_hbm : (takeFree s).2.hbm = s.hbm := rfl
@[simp] theorem takeFree_hostWin : (takeFree s).2.hostWin = s.hostWin := rfl
@[simp] theorem takeFree_sec : (takeFree s).2.sec = s.sec := rfl
@[simp] theorem takeFree_sectors : (takeFree s).2.sectors = s.sectors := rfl
@[simp] theorem takeFree_clocks : (takeFree s).2.clocks = s.clocks := rfl
@[simp] theorem takeFree_cfg : (takeFree s).2.cfg = s.cfg := rfl
@[simp] theorem takeFree_lanes : (takeFree s).2.lanes = s.lanes := rfl
@[simp] theorem takeFree_groupsL : (takeFree s).2.groupsL = s.groupsL := rfl
@[simp] theorem takeFree_power : (takeFree s).2.power = s.power := rfl
@[simp] theorem takeFree_mgmt : (takeFree s).2.mgmt = s.mgmt := rfl
@[simp] theorem takeFree_log : (takeFree s).2.log = s.log := rfl
@[simp] theorem takeFree_boot : (takeFree s).2.boot = s.boot := rfl
@[simp] theorem takeFree_tap : (takeFree s).2.tap = s.tap := rfl
@[simp] theorem takeFree_notify : (takeFree s).2.notify = s.notify := rfl

end Sys2Proof.Machine
end

