-- ==== Sys2Proof/Laws/Access.lean ====
section
/-! SUPPORT. What the accessors of dales, registers, windows and dictionary entries read after each update. -/
namespace Sys2Proof.Machine

variable (s : State)

/-- Reading any key after a write. -/
theorem tget_tset {α : Type} [DecidableEq α] (d : α) (t : Tab α) (k j : Nat) (v : α) :
    tget d (tset d t k v) j = if j = k then v else tget d t j := by
  split
  · rename_i h; subst h; exact tget_tset_same d t j v
  · rename_i h; exact tget_tset_other d t k j v h

/-- Reading another key than the one written, whatever an unlisted key reads as. -/
theorem tget_tset_other' {α : Type} [DecidableEq α] (d d' : α) (t : Tab α) (k j : Nat) (v : α) (h : j ≠ k) :
    tget d' (tset d t k v) j = tget d' t j := by
  simp only [tset]
  split
  · exact tget_terase_other _ _ _ _ h
  · exact tget_tins_other _ _ _ _ _ h

/-! ### Dales -/

@[simp] theorem dale_setDale_same (d : Nat) (v : Dale) : dale (setDale s d v) d = v := tget_tset_same _ _ _ _
theorem dale_setDale_other (d e : Nat) (v : Dale) (h : e ≠ d) : dale (setDale s d v) e = dale s e :=
  tget_tset_other _ _ _ _ _ h
@[simp] theorem dale_updDale_same (d : Nat) (f : Dale → Dale) : dale (updDale s d f) d = f (dale s d) :=
  tget_tset_same _ _ _ _
theorem dale_updDale_other (d e : Nat) (f : Dale → Dale) (h : e ≠ d) : dale (updDale s d f) e = dale s e :=
  tget_tset_other _ _ _ _ _ h
@[simp] theorem dale_odPut (k v d : Nat) : dale (odPut s k v) d = dale s d := rfl
@[simp] theorem dale_odBump (i j n d : Nat) : dale (odBump s i j n) d = dale s d := rfl
@[simp] theorem dale_winSet (a v d : Nat) : dale (winSet s a v) d = dale s d := rfl
@[simp] theorem dale_emit (e : Event) (d : Nat) : dale (emit s e) d = dale s d := rfl
@[simp] theorem dale_setSyn (a v d : Nat) : dale (setSyn s a v) d = dale s d := rfl
@[simp] theorem dale_answer (st : Status) (v d : Nat) : dale (answer s st v) d = dale s d := rfl

/-! ### Dictionary entries and window registers -/

@[simp] theorem odRaw_odPut_same (k v : Nat) : odRaw (odPut s k v) k = v := tget_tset_same _ _ _ _
theorem odRaw_odPut_other (k j v : Nat) (h : j ≠ k) : odRaw (odPut s k v) j = odRaw s j :=
  tget_tset_other' _ _ _ _ _ _ h
@[simp] theorem odRaw_odBump_same (i j n : Nat) : odRaw (odBump s i j n) (odKey i j) = (odRaw s (odKey i j) + n) % 2 ^ 64 :=
  tget_tset_same _ _ _ _
theorem odRaw_odBump_other (i j n k : Nat) (h : k ≠ odKey i j) : odRaw (odBump s i j n) k = odRaw s k :=
  tget_tset_other' _ _ _ _ _ _ h
@[simp] theorem odRaw_setDale (d k : Nat) (v : Dale) : odRaw (setDale s d v) k = odRaw s k := rfl
@[simp] theorem odRaw_updDale (d k : Nat) (f : Dale → Dale) : odRaw (updDale s d f) k = odRaw s k := rfl
@[simp] theorem odRaw_winSet (a v k : Nat) : odRaw (winSet s a v) k = odRaw s k := rfl
@[simp] theorem odRaw_emit (e : Event) (k : Nat) : odRaw (emit s e) k = odRaw s k := rfl
@[simp] theorem winGet_winSet_same (a v : Nat) : winGet (winSet s a v) a = v := tget_tset_same _ _ _ _
theorem winGet_winSet_other (a b v : Nat) (h : b ≠ a) : winGet (winSet s a v) b = winGet s b :=
  tget_tset_other' _ _ _ _ _ _ h
@[simp] theorem winGet_setDale (d a : Nat) (v : Dale) : winGet (setDale s d v) a = winGet s a := rfl
@[simp] theorem winGet_updDale (d a : Nat) (f : Dale → Dale) : winGet (updDale s d f) a = winGet s a := rfl
@[simp] theorem winGet_odPut (k v a : Nat) : winGet (odPut s k v) a = winGet s a := rfl
@[simp] theorem winGet_odBump (i j n a : Nat) : winGet (odBump s i j n) a = winGet s a := rfl
@[simp] theorem winGet_emit (e : Event) (a : Nat) : winGet (emit s e) a = winGet s a := rfl

/-! ### Memory -/

@[simp] theorem memGet_setDale (d a : Nat) (v : Dale) : memGet (setDale s d v) a = memGet s a := rfl
@[simp] theorem memGet_updDale (d a : Nat) (f : Dale → Dale) : memGet (updDale s d f) a = memGet s a := rfl
@[simp] theorem memGet_odBump (i j n a : Nat) : memGet (odBump s i j n) a = memGet s a := rfl
@[simp] theorem memGet_winSet (a b v : Nat) : memGet (winSet s a v) b = memGet s b := rfl
@[simp] theorem memGet_setSyn (a b v : Nat) : memGet (setSyn s a v) b = memGet s b := rfl

/-! ### Registers (R174, R104) -/

variable (x : Dale)

/-- A scalar register after a write: x0 reads 0 whatever was written. -/
theorem xget_xput (n m : Nat) (v : W64) :
    xget (xput x n v) m = if m % 32 = 0 then 0#64 else if m % 32 = n % 32 then v else xget x m := by
  unfold xget xput
  by_cases hm : m % 32 = 0
  · simp [hm]
  · by_cases hn : n % 32 = 0
    · simp [hm, hn]
    · simp only [hm, hn, if_false, tget_tset]

/-- A predicate register after a write: p0 reads all ones whatever was written. -/
theorem pget_pput (n m : Nat) (v : PReg) :
    pget (pput x n v) m = if m % 8 = 0 then BitVec.ofNat 256 (2 ^ 256 - 1) else if m % 8 = n % 8 then v else pget x m := by
  unfold pget pput
  by_cases hm : m % 8 = 0
  · simp [hm]
  · by_cases hn : n % 8 = 0
    · simp [hm, hn]
    · simp only [hm, hn, if_false, tget_tset]

theorem vget_vput (n m : Nat) (v : VReg) : vget (vput x n v) m = if m % 32 = n % 32 then v else vget x m := by
  simp only [vget, vput, tget_tset]

theorem cget_cput (n m : Nat) (v : W64) : cget (cput x n v) m = if m % 8 = n % 8 then v else cget x m := by
  simp only [cget, cput, tget_tset]

/-! ### Issue -/

/-- An issue moves PC on and counts; the rest of the dale stays. -/
theorem dale_issued (d : Nat) :
    dale (issued s d) d = { dale s d with pc := (dale s d).pc + 8, issueNo := (dale s d).issueNo + 1,
                                          stepCount := ((dale s d).stepCount + 1) % 2 ^ 64 } := by
  simp [issued]

theorem dale_issued_other (d e : Nat) (h : e ≠ d) : dale (issued s d) e = dale s e := by
  simp only [issued, dale_odBump]; exact dale_updDale_other _ _ _ _ h

/-- A unit that exists runs: the command completes. -/
theorem guardUnit_true (t : State) : guardUnit true t = .next t := rfl

end Sys2Proof.Machine
end

