-- ==== Sys2Proof/Laws/Issue.lean ====
section
/-! SUPPORT. What an issue of the sequencer does: results, jumps, traps and their frames. -/
namespace Sys2Proof.Machine

/-- An issue changes its dale and SEQ_ISSUED alone (R196). -/
theorem issued_frame (s : State) (d : Nat) : IssueFrame s (issued s d) d where
  rest := rfl
  other := fun e h => dale_issued_other s d e h
  count := by simp only [issued]; exact odRaw_odBump_same _ _ _ _
  od := fun k h => odRaw_odBump_other _ _ _ _ _ h

/-- A ready instruction of the sequencer that nothing refuses runs its effect. -/
theorem seqRun_ready (s : State) (d : Nat) (w : W64) (check) (body) (h : Ready s d w) (hc : check s (dale s d).pc = none) :
    seqRun s d w check body = body (dale s d).pc (issued s d) := by
  unfold seqRun; rw [h.1, h.2, hc]; rfl

/-- A ready instruction of the sequencer that its check refuses traps as the check says. -/
theorem seqRun_check (s t : State) (d : Nat) (w : W64) (check) (body) (h : Ready s d w) (hc : check s (dale s d).pc = some t) :
    seqRun s d w check body = t := by
  unfold seqRun; rw [h.1, h.2, hc]; rfl

/-- A change of the issuing dale keeps the frame of an issue. -/
theorem frame_updDale {s t : State} {d : Nat} (h : IssueFrame s t d) (f : Dale → Dale) : IssueFrame s (updDale t d f) d where
  rest := by
    have := h.rest
    show ({ t with dales := _ } : State) = _
    rw [this]; rfl
  other := fun e he => (dale_updDale_other _ _ _ _ he).trans (h.other e he)
  count := h.count
  od := h.od

/-- A scalar result written at issue, and its frame. -/
theorem scalar_out (s : State) (d n : Nat) (v : W64) (g : Dale → W64) (hv : g (dale (issued s d) d) = v) :
    ScalarOut s (updDale (issued s d) d fun x => xput x n (g x)) d n v ((dale s d).pc + 8) where
  toIssueFrame := frame_updDale (issued_frame s d) _
  dale := by
    rw [dale_updDale_same, dale_issued]
    unfold xput counted
    split <;> rfl
  dest := by
    rw [dale_updDale_same, hv, xget_xput]
    simp
  keep := fun m hm => by
    rw [dale_updDale_same, xget_xput, if_neg hm, dale_issued]
    split
    · rename_i h; simp [xget, h]
    · rfl

/-- An issue leaves the scalar registers. -/
theorem xget_issued (s : State) (d n : Nat) : xget (dale (issued s d) d) n = xget (dale s d) n := by
  rw [dale_issued]; rfl

/-- A dale the device has passes its guard. -/
theorem guard512 {d : Nat} (h : d < 512) (t : State) : guardUnit (decide (d < 512)) t = .next t := by simp [guardUnit, h]

/-- A jump written at issue, and its frame. -/
theorem control_out (s t : State) (d pc : Nat) (ht : t = updDale (issued s d) d fun x => { x with pc := pc }) : ControlOut s t d pc where
  toIssueFrame := ht ▸ frame_updDale (issued_frame s d) _
  dale := by rw [ht, dale_updDale_same, dale_issued]; rfl

/-- An issue without a further effect goes on at the next instruction. -/
theorem control_next (s : State) (d : Nat) : ControlOut s (issued s d) d ((dale s d).pc + 8) where
  toIssueFrame := issued_frame s d
  dale := by rw [dale_issued]; rfl

/-- A trap before issue, and its frame. -/
theorem trapped_of (s : State) (d cause : Nat) (st : Status) (code : Nat) (det : List (Nat × Nat)) (h : (dale s d).trap = none) :
    Trapped s (unissue s d cause st (dale s d).pc code det) d cause st code := by
  have e : unissue s d cause st (dale s d).pc code det =
      odBump (updDale (emitDale s d code sevError det) d fun x => { x with trap := some ⟨cause, st, (dale s d).pc, false⟩ }) 0x4400 2 1 := by
    unfold unissue trapDale
    simp only [emitDale, dale_emit, h]
  rw [e]
  exact {
    rest := rfl
    other := fun e he => by rw [dale_odBump, dale_updDale_other _ _ _ _ he]; rfl
    dale := by rw [dale_odBump, dale_updDale_same]; rfl
    event := ⟨_, rfl, rfl, rfl⟩
    count := odRaw_odBump_same _ _ _ _
    od := fun k h => odRaw_odBump_other _ _ _ _ _ h }

/-- A dale that may issue has no trap. -/
theorem canIssue_trap {s : State} {d : Nat} (h : canIssue s d = true) : (dale s d).trap = none := by
  unfold canIssue at h
  simp only [Bool.and_eq_true] at h
  simpa using h.1.2

end Sys2Proof.Machine
end

