-- ==== Sys2Proof/Laws/Kept.lean ====
section
/-! SUPPORT. What every effect keeps: the queue of waiting commands, the canonical form of memory and of its check
bits, and what is burned in OTP; and how that passes through conditionals, options, pairs and folds. -/
set_option linter.all false
namespace Sys2Proof.Machine

/-- What an effect starts from: the queue, and the security engine. -/
structure Base where
  queue : List Instr
  sec   : Sec

/-- OTP bits have only risen from themselves. -/
theorem otpUp_refl (a : Sec) : OtpUp a a := ⟨fun _ h => h, fun _ h => h, fun _ => Nat.le_refl _, fun _ _ => rfl⟩

/-- A change of other parts of the security engine leaves OTP as it is. -/
theorem otpUp_of {a b : Sec} (h1 : b.programmed = a.programmed) (h2 : b.revoked = a.revoked) (h3 : b.svn = a.svn)
    (h4 : b.ownerDigest = a.ownerDigest) : OtpUp a b :=
  ⟨fun _ h => by rw [h1]; exact h, fun _ h => by rw [h2]; exact h, fun _ => Nat.le_of_eq (by rw [h3]),
    fun _ _ => by rw [h4]⟩

/-- OTP bits that rise twice have only risen. -/
theorem otpUp_trans {a b c : Sec} (h : OtpUp a b) (k : OtpUp b c) : OtpUp a c :=
  ⟨fun i e => k.programmed i (h.programmed i e), fun i e => k.revoked i (h.revoked i e),
    fun i => Nat.le_trans (h.svn i) (k.svn i), fun i e => (k.digest i (h.programmed i e)).trans (h.digest i e)⟩

/-- The queue is that of `q`, memory and its check bits are canonical, and OTP bits have only risen from those of `q`. -/
structure Kept (q : Base) (s : State) : Prop where
  queue : s.pending = q.queue
  mem   : Memory.wf s.mem = true
  synd  : twf 0 0 s.synd = true
  otp   : OtpUp q.sec s.sec
  svn   : twf 0 0 s.sec.svn = true

/-- Kept by the state an optional effect answers. -/
structure KeptO (q : Base) (o : Option State) : Prop where
  out : ∀ t, o = some t → Kept q t

/-- Kept by the next state of a meaning. -/
structure KeptX (q : Base) (o : Host.Outcome State Fault Refusal) : Prop where
  out : ∀ t, o = .next t → Kept q t

variable {q : Base} {s t : State} {α β : Type}

/-- An update of other fields keeps. -/
theorem kept_mk {a b c d e f g i j k l m n o p r u v w y z a1 b1 c1 d1 e1 f1 g1 h1 i1} (h : Kept q s) :
    Kept q (State.mk s.pending a s.mem s.synd b c d e f g i j k l m n o p r u v w s.sec y z a1 b1 c1 d1 e1 f1 g1 h1 i1) :=
  ⟨h.1, h.2, h.3, h.4, h.5⟩

theorem kept_some (h : Kept q t) : KeptO q (some t) := ⟨fun _ e => by cases e; exact h⟩
theorem kept_none : KeptO q none := ⟨fun _ e => by cases e⟩
theorem kept_map {o : Option α} {f : α → State} (h : ∀ a, Kept q (f a)) : KeptO q (o.map f) := by
  constructor; intro t e; cases o <;> simp at e; subst e; exact h _
theorem kept_mapO {o : Option State} {f : State → State} (h : KeptO q o) (hf : ∀ t, Kept q t → Kept q (f t)) : KeptO q (o.map f) := by
  constructor; intro t e; cases o with
  | none => cases e
  | some a => cases e; exact hf a (h.out a rfl)
theorem kept_getD {o : Option State} (h : KeptO q o) (hs : Kept q s) : Kept q (o.getD s) := by
  cases o with
  | none => exact hs
  | some t => exact h.out t rfl
theorem kept_of_some {o : Option State} (e : o = some t) (h : KeptO q o) : Kept q t := h.out t e
theorem kept_fst {p : State × β} {b : β} (e : p = (t, b)) (h : Kept q p.1) : Kept q t := by subst e; exact h
theorem kept_snd {p : β × State} {b : β} (e : p = (b, t)) (h : Kept q p.2) : Kept q t := by subst e; exact h
theorem kept_next (h : Kept q t) : KeptX q (.next t) := ⟨fun _ e => by cases e; exact h⟩
theorem kept_refused {r : Refusal} : KeptX q (.refused r) := ⟨fun _ e => by cases e⟩
theorem kept_fault {r : Fault} : KeptX q (.fault r) := ⟨fun _ e => by cases e⟩

/-- A fold of effects. -/
theorem kept_foldl {f : State → α → State} {l : List α} (hs : Kept q s) (hf : ∀ t a, Kept q t → Kept q (f t a)) :
    Kept q (l.foldl f s) := by
  induction l generalizing s with
  | nil => exact hs
  | cons a l ih => exact ih (hf s a hs)

/-- A fold of effects beside a result. -/
theorem kept_foldl1 {f : State × β → α → State × β} {l : List α} {p : State × β} (hs : Kept q p.1)
    (hf : ∀ t a, Kept q t.1 → Kept q (f t a).1) : Kept q (l.foldl f p).1 := by
  induction l generalizing p with
  | nil => exact hs
  | cons a l ih => exact ih (hf p a hs)

/-- A fold from the other end. -/
theorem kept_foldr {f : α → State → State} {l : List α} (hs : Kept q s) (hf : ∀ t a, Kept q t → Kept q (f a t)) :
    Kept q (l.foldr f s) := by
  induction l with
  | nil => exact hs
  | cons a l ih => exact hf _ a ih

/-- Memory operations. -/
theorem memPut_kept {a : Nat} {bs : List Byte} (h : Kept q s) : Kept q (memPut s a bs) := by
  obtain ⟨m, e⟩ := memPut_rest s a bs
  refine ⟨?_, memPut_wf s a bs h.2, ?_, ?_, ?_⟩
  · rw [e]; exact h.1
  · rw [e]; exact h.3
  · rw [e]; exact h.4
  · rw [e]; exact h.5

theorem setSyn_kept {a v : Nat} (h : Kept q s) : Kept q (setSyn s a v) :=
  ⟨h.1, h.2, twf_tset _ _ _ _ h.3, h.4, h.5⟩

end Sys2Proof.Machine
end

