-- ==== Sys2Proof/Laws/KeptOps.lean ====
section
/-! SUPPORT. What the effects of Machine/Ops keep: the queue, the canonical form of memory, OTP (Laws/Kept.lean). -/
set_option linter.all false
namespace Sys2Proof.Machine

variable {q : Base}

theorem takeFree_kept {s : State} (hs : Kept q s) :
    Kept q (takeFree s).2 := by
  unfold takeFree
  try dsimp only
  with_reducible repeat' first | assumption | split | refine kept_mk ?_

theorem answer_kept {s : State} {st : Status} {v : Nat} (hs : Kept q s) :
    Kept q (answer s st v) := by
  unfold answer
  try dsimp only
  with_reducible repeat' first | assumption | refine kept_mk ?_

theorem emit_kept {s : State} {e : Event} (hs : Kept q s) :
    Kept q (emit s e) := by
  unfold emit
  try dsimp only
  with_reducible repeat' first | assumption | refine kept_mk ?_

theorem emitPlain_kept {s : State} {code : Nat} {sev : Nat} {source : Nat} {detail : List (Nat × Nat)} (hs : Kept q s) :
    Kept q (emitPlain s code sev source detail) := by
  unfold emitPlain
  try dsimp only
  with_reducible repeat' first | assumption | apply emit_kept

theorem winSet_kept {s : State} {a : Nat} {v : Nat} (hs : Kept q s) :
    Kept q (winSet s a v) := by
  unfold winSet
  try dsimp only
  with_reducible repeat' first | assumption | refine kept_mk ?_

theorem odPut_kept {s : State} {k : Nat} {v : Nat} (hs : Kept q s) :
    Kept q (odPut s k v) := by
  unfold odPut
  try dsimp only
  with_reducible repeat' first | assumption | refine kept_mk ?_

theorem odBump_kept {s : State} {index : Nat} {sub : Nat} {n : Nat} (hs : Kept q s) :
    Kept q (odBump s index sub n) := by
  unfold odBump
  try dsimp only
  with_reducible repeat' first | assumption | apply odPut_kept

theorem odClear_kept {s : State} {index : Nat} {lo : Nat} {hi : Nat} (hs : Kept q s) :
    Kept q (odClear s index lo hi) := by
  unfold odClear
  try dsimp only
  with_reducible repeat' first | assumption | intro _ _ _ | intro _ _ | intro _ | apply odPut_kept | apply kept_foldl | apply kept_foldl1 | refine kept_fst (by assumption) ?_ | dsimp only

theorem setDale_kept {s : State} {d : Nat} {v : Dale} (hs : Kept q s) :
    Kept q (setDale s d v) := by
  unfold setDale
  try dsimp only
  with_reducible repeat' first | assumption | refine kept_mk ?_

theorem updDale_kept {s : State} {d : Nat} {f : Dale → Dale} (hs : Kept q s) :
    Kept q (updDale s d f) := by
  unfold updDale
  try dsimp only
  with_reducible repeat' first | assumption | apply setDale_kept

theorem setPipe_kept {s : State} {p : Nat} {v : Pipe} (hs : Kept q s) :
    Kept q (setPipe s p v) := by
  unfold setPipe
  try dsimp only
  with_reducible repeat' first | assumption | refine kept_mk ?_

theorem updPipe_kept {s : State} {p : Nat} {f : Pipe → Pipe} (hs : Kept q s) :
    Kept q (updPipe s p f) := by
  unfold updPipe
  try dsimp only
  with_reducible repeat' first | assumption | apply setPipe_kept

theorem setNi_kept {s : State} {c : Nat} {v : Ni} (hs : Kept q s) :
    Kept q (setNi s c v) := by
  unfold setNi
  try dsimp only
  with_reducible repeat' first | assumption | refine kept_mk ?_

theorem updNi_kept {s : State} {c : Nat} {f : Ni → Ni} (hs : Kept q s) :
    Kept q (updNi s c f) := by
  unfold updNi
  try dsimp only
  with_reducible repeat' first | assumption | apply setNi_kept

theorem emitDale_kept {s : State} {d : Nat} {code : Nat} {sev : Nat} {detail : List (Nat × Nat)} (hs : Kept q s) :
    Kept q (emitDale s d code sev detail) := by
  unfold emitDale
  try dsimp only
  with_reducible repeat' first | assumption | apply emit_kept

theorem markStruck_kept {s : State} {d : Nat} (hs : Kept q s) :
    Kept q (markStruck s d) := by
  unfold markStruck
  try dsimp only
  with_reducible repeat' first | assumption | apply updDale_kept

theorem emitStrike_kept {s : State} {d : Nat} {code : Nat} {sev : Nat} {detail : List (Nat × Nat)} {kind : Nat} {loc : Nat} (hs : Kept q s) :
    Kept q (emitStrike s d code sev detail kind loc) := by
  unfold emitStrike
  try dsimp only
  with_reducible repeat' first | assumption | apply markStruck_kept | apply emit_kept

theorem countSat_kept {s : State} {d : Nat} {n : Nat} {unit : Nat} {fmt : Nat} (hs : Kept q s) :
    Kept q (countSat s d n unit fmt) := by
  unfold countSat
  try dsimp only
  with_reducible repeat' first | assumption | apply updDale_kept | apply odBump_kept | split

theorem countNan_kept {s : State} {d : Nat} {n : Nat} (hs : Kept q s) :
    Kept q (countNan s d n) := by
  unfold countNan
  try dsimp only
  with_reducible repeat' first | assumption | apply updDale_kept | apply odBump_kept | split

theorem storeCorrect_kept {s : State} {d : Nat} {a : Nat} {w : Nat} (hs : Kept q s) :
    Kept q (storeCorrect s d a w) := by
  unfold storeCorrect
  try dsimp only
  with_reducible repeat' first | assumption | apply setSyn_kept | apply memPut_kept | apply updDale_kept | apply odBump_kept

theorem storeFail_kept {s : State} {d : Nat} {a : Nat} {reader : Reader} {pc : Nat} (hs : Kept q s) :
    Kept q (storeFail s d a reader pc) := by
  unfold storeFail
  try dsimp only
  with_reducible repeat' first | assumption | apply setSyn_kept | apply emitStrike_kept | apply updDale_kept | apply odBump_kept

theorem storeWord_kept {s : State} {d : Nat} {a : Nat} {reader : Reader} {pc : Nat} (hs : Kept q s) :
    Kept q (storeWord s d a reader pc).1 := by
  unfold storeWord
  try dsimp only
  with_reducible repeat' first | assumption | apply storeFail_kept | apply storeCorrect_kept | split

theorem storeReadStep_kept {d : Nat} {reader : Reader} {pc : Nat} {acc : State × Bool} {w : Nat} (hacc : Kept q acc.1) :
    Kept q (storeReadStep d reader pc acc w).1 := by
  unfold storeReadStep
  try dsimp only
  with_reducible repeat' first | assumption | apply storeWord_kept | split | refine kept_fst (by assumption) ?_ | dsimp only

theorem storeReadWords_kept {s : State} {d : Nat} {off : Nat} {n : Nat} {reader : Reader} {pc : Nat} (hs : Kept q s) :
    Kept q (storeReadWords s d off n reader pc).1 := by
  unfold storeReadWords
  try dsimp only
  with_reducible repeat' first | assumption | intro _ _ _ | intro _ _ | intro _ | apply storeReadStep_kept | apply kept_foldl | apply kept_foldl1 | split | refine kept_fst (by assumption) ?_ | dsimp only

theorem storeAfter_kept {s : State} {d : Nat} {off : Nat} {n : Nat} {reader : Reader} {pc : Nat} (hs : Kept q s) :
    Kept q (storeAfter s d off n reader pc) := by
  unfold storeAfter
  try dsimp only
  with_reducible repeat' first | assumption | apply storeReadWords_kept | refine kept_fst (by assumption) ?_ | dsimp only

theorem storeRead_kept {s : State} {d : Nat} {off : Nat} {n : Nat} {reader : Reader} {pc : Nat} (hs : Kept q s) :
    Kept q (storeRead s d off n reader pc).1 := by
  unfold storeRead
  try dsimp only
  with_reducible repeat' first | assumption | apply storeAfter_kept | apply storeReadWords_kept | split | refine kept_fst (by assumption) ?_ | dsimp only

theorem storeMerge_kept {d : Nat} {a : Nat} {n : Nat} {pc : Nat} {acc : State × List Nat} {w : Nat} (hacc : Kept q acc.1) :
    Kept q (storeMerge d a n pc acc w).1 := by
  unfold storeMerge
  try dsimp only
  with_reducible repeat' first | assumption | apply storeWord_kept | split | refine kept_fst (by assumption) ?_ | dsimp only

theorem storeWrite_kept {s : State} {d : Nat} {off : Nat} {bs : List Byte} {poison : Bool} {pc : Nat} (hs : Kept q s) :
    Kept q (storeWrite s d off bs poison pc).1 := by
  unfold storeWrite
  try dsimp only
  with_reducible repeat' first | assumption | intro _ _ _ | intro _ _ | intro _ | apply storeMerge_kept | apply setSyn_kept | apply memPut_kept | apply kept_foldl | apply kept_foldl1 | split | refine kept_fst (by assumption) ?_ | dsimp only

theorem writeRow_kept {s : State} {d : Nat} {k : Nat} {r : Nat} {bs : List Byte} {poison : Bool} {pc : Nat} (hs : Kept q s) :
    Kept q (writeRow s d k r bs poison pc) := by
  unfold writeRow
  try dsimp only
  with_reducible repeat' first | assumption | apply storeWrite_kept | apply updDale_kept | split | refine kept_fst (by assumption) ?_ | dsimp only

theorem markRow_kept {s : State} {d : Nat} {k : Nat} {r : Nat} (hs : Kept q s) :
    Kept q (markRow s d k r) := by
  unfold markRow
  try dsimp only
  with_reducible repeat' first | assumption | intro _ _ _ | intro _ _ | intro _ | apply setSyn_kept | apply updDale_kept | apply kept_foldl | apply kept_foldl1 | split | refine kept_fst (by assumption) ?_ | dsimp only

theorem readRow_kept {s : State} {d : Nat} {t : Slot} {r : Nat} {n : Nat} {reader : Reader} {pc : Nat} (hs : Kept q s) :
    Kept q (readRow s d t r n reader pc).1 := by
  unfold readRow
  try dsimp only
  with_reducible repeat' first | assumption | apply storeRead_kept | split | refine kept_fst (by assumption) ?_ | dsimp only

end Sys2Proof.Machine
end

