-- ==== Sys2Proof/Laws/KeptIssue.lean ====
section
/-! SUPPORT. What the effects of Machine/Issue keep: the queue, the canonical form of memory, OTP (Laws/Kept.lean). -/
set_option linter.all false
namespace Sys2Proof.Machine

variable {q : Base}

theorem issued_kept {s : State} {d : Nat} (hs : Kept q s) :
    Kept q (issued s d) := by
  unfold issued
  try dsimp only
  with_reducible repeat' first | assumption | apply updDale_kept | apply odBump_kept

theorem unitRun_kept {s : State} {d : Nat} {cls : Nat} {op : Nat} {word : W64} {same : W64 → Bool} {check : State → Nat → Option State} {body : Nat → State → Option State} (hs : Kept q s) (hcheck : ∀ y0 y1, Kept q y0 → KeptO q (check y0 y1)) (hbody : ∀ y0 y1, Kept q y1 → KeptO q (body y0 y1)) :
    Kept q (unitRun s d cls op word same check body) := by
  unfold unitRun
  try dsimp only
  with_reducible repeat' first | assumption | apply hbody | apply hcheck | apply issued_kept | apply updDale_kept | apply kept_getD | split | apply kept_some | exact kept_none | refine kept_of_some (by assumption) ?_

theorem runR_kept {s : State} {d : Nat} {cls : Nat} {op : Nat} {f : RInst} {check : State → Nat → Option State} {body : Nat → State → Option State} (hs : Kept q s) (hcheck : ∀ y0 y1, Kept q y0 → KeptO q (check y0 y1)) (hbody : ∀ y0 y1, Kept q y1 → KeptO q (body y0 y1)) :
    Kept q (runR s d cls op f check body) := by
  unfold runR
  try dsimp only
  with_reducible repeat' first | assumption | apply hbody | apply hcheck | intro _ _ | intro _ | apply unitRun_kept | apply kept_some | exact kept_none | refine kept_of_some (by assumption) ?_

theorem seqRun_kept {s : State} {d : Nat} {word : W64} {check : State → Nat → Option State} {body : Nat → State → State} (hs : Kept q s) (hcheck : ∀ y0 y1, Kept q y0 → KeptO q (check y0 y1)) (hbody : ∀ y0 y1, Kept q y1 → Kept q (body y0 y1)) :
    Kept q (seqRun s d word check body) := by
  unfold seqRun
  try dsimp only
  with_reducible repeat' first | assumption | apply hbody | apply hcheck | apply issued_kept | split | apply kept_some | exact kept_none | refine kept_of_some (by assumption) ?_

theorem guardUnit_kept {ok : Bool} {s : State} (hs : Kept q s) :
    KeptX q (guardUnit ok s) := by
  unfold guardUnit
  try dsimp only
  with_reducible repeat' first | assumption | apply kept_next | exact kept_refused | split

end Sys2Proof.Machine
end

