-- ==== Sys2Proof/Laws/KeptFlags.lean ====
section
/-! SUPPORT. What the effects of Machine/Flags keep: the queue, the canonical form of memory, OTP (Laws/Kept.lean). -/
set_option linter.all false
namespace Sys2Proof.Machine

variable {q : Base}

theorem trapDale_kept {s : State} {d : Nat} {cause : Nat} {st : Status} {pc : Nat} (hs : Kept q s) :
    Kept q (trapDale s d cause st pc) := by
  unfold trapDale
  try dsimp only
  with_reducible repeat' first | assumption | apply updDale_kept | apply odBump_kept | split

theorem unissue_kept {s0 : State} {d : Nat} {cause : Nat} {st : Status} {pc : Nat} {code : Nat} {detail : List (Nat × Nat)} (hs0 : Kept q s0) :
    Kept q (unissue s0 d cause st pc code detail) := by
  unfold unissue
  try dsimp only
  with_reducible repeat' first | assumption | apply trapDale_kept | apply emitDale_kept

theorem refuse_kept {s : State} {d : Nat} {reason : Nat} {cls : Nat} {op : Nat} {pc : Nat} (hs : Kept q s) :
    Kept q (refuse s d reason cls op pc) := by
  unfold refuse
  try dsimp only
  with_reducible repeat' first | assumption | apply unissue_kept

theorem invalid_kept {s : State} {d : Nat} {kind : Nat} {cls : Nat} {op : Nat} {pc : Nat} (hs : Kept q s) :
    Kept q (invalid s d kind cls op pc) := by
  unfold invalid
  try dsimp only
  with_reducible repeat' first | assumption | apply unissue_kept

theorem trapPoison_kept {s : State} {d : Nat} {obj : Nat} {row : Nat} {pc : Nat} (hs : Kept q s) :
    Kept q (trapPoison s d obj row pc) := by
  unfold trapPoison
  try dsimp only
  with_reducible repeat' first | assumption | apply trapDale_kept | apply emitDale_kept

theorem zeroDests_kept {s : State} {d : Nat} {ds : List Dest} (hs : Kept q s) :
    Kept q (zeroDests s d ds) := by
  unfold zeroDests
  try dsimp only
  with_reducible repeat' first | assumption | intro _ _ _ | intro _ _ | intro _ | apply updDale_kept | apply kept_foldl | apply kept_foldl1 | refine kept_fst (by assumption) ?_ | dsimp only

theorem parityTrap_kept {s : State} {d : Nat} {pc : Nat} {b : Structure × Nat × Nat} (hs : Kept q s) :
    Kept q (parityTrap s d pc b) := by
  unfold parityTrap
  try dsimp only
  with_reducible repeat' first | assumption | apply trapDale_kept | apply emitStrike_kept | apply updDale_kept | apply odBump_kept | apply kept_getD | split

theorem withParity_kept {s : State} {d : Nat} {pc : Nat} {reads : List (Structure × Nat)} {dests : List Dest} {effect : State → State} (hs : Kept q s) (heffect : ∀ y0, Kept q y0 → Kept q (effect y0)) :
    Kept q (withParity s d pc reads dests effect) := by
  unfold withParity
  try dsimp only
  with_reducible repeat' first | assumption | apply heffect | apply parityTrap_kept | apply zeroDests_kept | split | apply kept_some | exact kept_none | refine kept_of_some (by assumption) ?_

end Sys2Proof.Machine
end

