-- ==== Sys2Proof/Laws/KeptArx.lean ====
section
/-! SUPPORT. What the effects of Machine/Arx keep: the queue, the canonical form of memory, OTP (Laws/Kept.lean). -/
set_option linter.all false
namespace Sys2Proof.Machine

variable {q : Base}

theorem countDraws_kept {s : State} {d : Nat} {n : Nat} {mode : Nat} {tensor : Nat} {pc : Nat} (hs : Kept q s) :
    Kept q (countDraws s d n mode tensor pc) := by
  unfold countDraws
  try dsimp only
  with_reducible repeat' first | assumption | apply emitDale_kept | apply updDale_kept | apply odBump_kept | split

end Sys2Proof.Machine
end

