-- ==== Sys2Proof/Laws/KeptVector.lean ====
section
/-! SUPPORT. What the effects of Machine/Vector keep: the queue, the canonical form of memory, OTP (Laws/Kept.lean). -/
set_option linter.all false
namespace Sys2Proof.Machine

variable {q : Base}

theorem vecCheck_kept {d op : Nat} {f : RInst} {s : State} {pc : Nat} (hs : Kept q s) :
    KeptO q (vecCheck d op f s pc) := kept_map fun _ => refuse_kept hs

theorem runV_kept {s : State} {d : Nat} {op : Nat} {f : RInst} {body : Nat → State → State} (hs : Kept q s) (hbody : ∀ y0 y1, Kept q y1 → Kept q (body y0 y1)) :
    Kept q (runV s d op f body) := by
  unfold runV
  try dsimp only
  with_reducible repeat' first | assumption | apply hbody | intro _ _ | intro _ | apply vecCheck_kept | apply runR_kept | apply kept_some | exact kept_none | refine kept_of_some (by assumption) ?_

theorem applyLanes_kept {s : State} {d : Nat} {f : RInst} {view : Nat} {satCode : Nat} {fn : Dale → Nat → Lane} (hs : Kept q s) :
    Kept q (applyLanes s d f view satCode fn) := by
  unfold applyLanes
  try dsimp only
  with_reducible repeat' first | assumption | apply countNan_kept | apply countSat_kept | apply updDale_kept | split

theorem runLanes_kept {s : State} {d : Nat} {op : Nat} {f : RInst} {srcs : List Nat} {satCode : Nat} {fn : Dale → Nat → Lane} (hs : Kept q s) :
    Kept q (runLanes s d op f srcs satCode fn) := by
  unfold runLanes
  try dsimp only
  with_reducible repeat' first | assumption | intro _ _ | intro _ | apply applyLanes_kept | apply runV_kept | apply withParity_kept | apply kept_some | exact kept_none | refine kept_of_some (by assumption) ?_

theorem vaddState_kept {d : Nat} {f : RInst} {s : State} (hs : Kept q s) :
    Kept q (vaddState d f s) := by
  unfold vaddState
  try dsimp only
  with_reducible repeat' first | assumption | apply runLanes_kept

theorem vsubState_kept {d : Nat} {f : RInst} {s : State} (hs : Kept q s) :
    Kept q (vsubState d f s) := by
  unfold vsubState
  try dsimp only
  with_reducible repeat' first | assumption | apply runLanes_kept

theorem vandState_kept {d : Nat} {f : RInst} {s : State} (hs : Kept q s) :
    Kept q (vandState d f s) := by
  unfold vandState
  try dsimp only
  with_reducible repeat' first | assumption | apply runLanes_kept

theorem vorState_kept {d : Nat} {f : RInst} {s : State} (hs : Kept q s) :
    Kept q (vorState d f s) := by
  unfold vorState
  try dsimp only
  with_reducible repeat' first | assumption | apply runLanes_kept

theorem vxorState_kept {d : Nat} {f : RInst} {s : State} (hs : Kept q s) :
    Kept q (vxorState d f s) := by
  unfold vxorState
  try dsimp only
  with_reducible repeat' first | assumption | apply runLanes_kept

theorem vshlState_kept {d : Nat} {f : RInst} {s : State} (hs : Kept q s) :
    Kept q (vshlState d f s) := by
  unfold vshlState
  try dsimp only
  with_reducible repeat' first | assumption | apply runLanes_kept

theorem vshrState_kept {d : Nat} {f : RInst} {s : State} (hs : Kept q s) :
    Kept q (vshrState d f s) := by
  unfold vshrState
  try dsimp only
  with_reducible repeat' first | assumption | apply runLanes_kept

theorem vsraState_kept {d : Nat} {f : RInst} {s : State} (hs : Kept q s) :
    Kept q (vsraState d f s) := by
  unfold vsraState
  try dsimp only
  with_reducible repeat' first | assumption | apply runLanes_kept

theorem vmulState_kept {d : Nat} {f : RInst} {s : State} (hs : Kept q s) :
    Kept q (vmulState d f s) := by
  unfold vmulState
  try dsimp only
  with_reducible repeat' first | assumption | apply runLanes_kept

theorem vmulhState_kept {d : Nat} {f : RInst} {s : State} (hs : Kept q s) :
    Kept q (vmulhState d f s) := by
  unfold vmulhState
  try dsimp only
  with_reducible repeat' first | assumption | apply runLanes_kept

theorem vmulqState_kept {d : Nat} {f : RInst} {s : State} (hs : Kept q s) :
    Kept q (vmulqState d f s) := by
  unfold vmulqState
  try dsimp only
  with_reducible repeat' first | assumption | apply runLanes_kept

theorem vmacState_kept {d : Nat} {f : RInst} {s : State} (hs : Kept q s) :
    Kept q (vmacState d f s) := by
  unfold vmacState
  try dsimp only
  with_reducible repeat' first | assumption | apply runLanes_kept

theorem vfaddState_kept {d : Nat} {f : RInst} {s : State} (hs : Kept q s) :
    Kept q (vfaddState d f s) := by
  unfold vfaddState
  try dsimp only
  with_reducible repeat' first | assumption | apply runLanes_kept

theorem vfsubState_kept {d : Nat} {f : RInst} {s : State} (hs : Kept q s) :
    Kept q (vfsubState d f s) := by
  unfold vfsubState
  try dsimp only
  with_reducible repeat' first | assumption | apply runLanes_kept

theorem vfmulState_kept {d : Nat} {f : RInst} {s : State} (hs : Kept q s) :
    Kept q (vfmulState d f s) := by
  unfold vfmulState
  try dsimp only
  with_reducible repeat' first | assumption | apply runLanes_kept

theorem vfmacState_kept {d : Nat} {f : RInst} {s : State} (hs : Kept q s) :
    Kept q (vfmacState d f s) := by
  unfold vfmacState
  try dsimp only
  with_reducible repeat' first | assumption | apply runLanes_kept

theorem vmaxState_kept {d : Nat} {f : RInst} {s : State} (hs : Kept q s) :
    Kept q (vmaxState d f s) := by
  unfold vmaxState
  try dsimp only
  with_reducible repeat' first | assumption | apply runLanes_kept

theorem vminState_kept {d : Nat} {f : RInst} {s : State} (hs : Kept q s) :
    Kept q (vminState d f s) := by
  unfold vminState
  try dsimp only
  with_reducible repeat' first | assumption | apply runLanes_kept

theorem vcmpState_kept {d : Nat} {f : RInst} {s : State} (hs : Kept q s) :
    Kept q (vcmpState d f s) := by
  unfold vcmpState
  try dsimp only
  with_reducible repeat' first | assumption | intro _ _ _ | intro _ _ | intro _ | apply runV_kept | apply withParity_kept | apply updDale_kept | apply kept_foldr | split | apply kept_some | exact kept_none | refine kept_of_some (by assumption) ?_ | refine kept_fst (by assumption) ?_ | dsimp only

theorem vselState_kept {d : Nat} {f : RInst} {s : State} (hs : Kept q s) :
    Kept q (vselState d f s) := by
  unfold vselState
  try dsimp only
  with_reducible repeat' first | assumption | intro _ _ | intro _ | apply runV_kept | apply withParity_kept | apply updDale_kept | split | apply kept_some | exact kept_none | refine kept_of_some (by assumption) ?_

theorem vcvtState_kept {d : Nat} {f : RInst} {s : State} (hs : Kept q s) :
    Kept q (vcvtState d f s) := by
  unfold vcvtState
  try dsimp only
  with_reducible repeat' first | assumption | intro _ _ | intro _ | apply applyLanes_kept | apply runV_kept | apply countDraws_kept | apply withParity_kept | split | apply kept_some | exact kept_none | refine kept_of_some (by assumption) ?_

theorem vbcastState_kept {d : Nat} {f : RInst} {s : State} (hs : Kept q s) :
    Kept q (vbcastState d f s) := by
  unfold vbcastState
  try dsimp only
  with_reducible repeat' first | assumption | apply runLanes_kept

theorem dsetState_kept {d : Nat} {f : RInst} {s : State} (hs : Kept q s) :
    Kept q (dsetState d f s) := by
  unfold dsetState
  try dsimp only
  with_reducible repeat' first | assumption | intro _ _ | intro _ | apply runV_kept | apply updDale_kept | apply kept_some | exact kept_none | refine kept_of_some (by assumption) ?_

theorem trapCircular_kept {s : State} {d : Nat} {n : Nat} {cause : Nat} {value : Nat} {pc : Nat} (hs : Kept q s) :
    Kept q (trapCircular s d n cause value pc) := by
  unfold trapCircular
  try dsimp only
  with_reducible repeat' first | assumption | apply trapDale_kept | apply emitDale_kept

theorem csetState_kept {d : Nat} {f : RInst} {s : State} (hs : Kept q s) :
    Kept q (csetState d f s) := by
  unfold csetState
  try dsimp only
  with_reducible repeat' first | assumption | intro _ _ | intro _ | apply trapCircular_kept | apply runV_kept | apply updDale_kept | split | apply kept_some | exact kept_none | refine kept_of_some (by assumption) ?_

theorem cgetState_kept {d : Nat} {f : RInst} {s : State} (hs : Kept q s) :
    Kept q (cgetState d f s) := by
  unfold cgetState
  try dsimp only
  with_reducible repeat' first | assumption | intro _ _ | intro _ | apply runV_kept | apply updDale_kept | apply kept_some | exact kept_none | refine kept_of_some (by assumption) ?_

theorem localStore_kept {s : State} {d : Nat} {runs : List (Nat × List Byte)} {pc : Nat} (hs : Kept q s) :
    Kept q (localStore s d runs pc) := by
  unfold localStore
  try dsimp only
  with_reducible repeat' first | assumption | intro _ _ _ | intro _ _ | intro _ | apply storeWrite_kept | apply updDale_kept | apply kept_foldl | apply kept_foldl1 | refine kept_fst (by assumption) ?_ | dsimp only

theorem vldState_kept {d : Nat} {f : RInst} {s : State} (hs : Kept q s) :
    Kept q (vldState d f s) := by
  unfold vldState
  try dsimp only
  with_reducible repeat' first | assumption | intro _ _ _ | intro _ _ | intro _ | apply trapCircular_kept | apply runV_kept | apply withParity_kept | apply zeroDests_kept | apply trapPoison_kept | apply storeRead_kept | apply updDale_kept | apply kept_foldl | apply kept_foldl1 | split | apply kept_some | exact kept_none | refine kept_of_some (by assumption) ?_ | refine kept_fst (by assumption) ?_ | dsimp only

theorem vstState_kept {d : Nat} {f : RInst} {s : State} (hs : Kept q s) :
    Kept q (vstState d f s) := by
  unfold vstState
  try dsimp only
  with_reducible repeat' first | assumption | intro _ _ _ | intro _ _ | intro _ | apply localStore_kept | apply trapCircular_kept | apply runV_kept | apply parityTrap_kept | apply setSyn_kept | apply updDale_kept | apply kept_foldl | apply kept_foldl1 | split | apply kept_some | exact kept_none | refine kept_of_some (by assumption) ?_ | refine kept_fst (by assumption) ?_ | dsimp only

theorem vsrchState_kept {d : Nat} {f : RInst} {s : State} (hs : Kept q s) :
    Kept q (vsrchState d f s) := by
  unfold vsrchState
  try dsimp only
  with_reducible repeat' first | assumption | intro _ _ | intro _ | apply runV_kept | apply withParity_kept | apply updDale_kept | apply kept_getD | apply kept_some | exact kept_none | refine kept_of_some (by assumption) ?_

theorem ssinitState_kept {d : Nat} {f : RInst} {s : State} (hs : Kept q s) :
    Kept q (ssinitState d f s) := by
  unfold ssinitState
  try dsimp only
  with_reducible repeat' first | assumption | intro _ _ | intro _ | apply runV_kept | apply updDale_kept | apply kept_some | exact kept_none | refine kept_of_some (by assumption) ?_

theorem ssrchState_kept {d : Nat} {f : RInst} {s : State} (hs : Kept q s) :
    Kept q (ssrchState d f s) := by
  unfold ssrchState
  try dsimp only
  with_reducible repeat' first | assumption | intro _ _ _ | intro _ _ | intro _ | apply runV_kept | apply withParity_kept | apply updDale_kept | apply kept_foldl | apply kept_foldl1 | split | apply kept_some | exact kept_none | refine kept_of_some (by assumption) ?_ | refine kept_fst (by assumption) ?_ | dsimp only

theorem ssreadState_kept {d : Nat} {f : RInst} {s : State} (hs : Kept q s) :
    Kept q (ssreadState d f s) := by
  unfold ssreadState
  try dsimp only
  with_reducible repeat' first | assumption | intro _ _ | intro _ | apply runV_kept | apply updDale_kept | apply kept_some | exact kept_none | refine kept_of_some (by assumption) ?_

theorem ssredState_kept {d : Nat} {f : RInst} {s : State} (hs : Kept q s) :
    Kept q (ssredState d f s) := by
  unfold ssredState
  try dsimp only
  with_reducible repeat' first | assumption | intro _ _ _ | intro _ _ | intro _ | apply runV_kept | apply updDale_kept | apply kept_foldl | apply kept_foldl1 | apply kept_getD | split | apply kept_some | exact kept_none | refine kept_of_some (by assumption) ?_ | refine kept_fst (by assumption) ?_ | dsimp only

theorem vcompactState_kept {d : Nat} {f : RInst} {s : State} (hs : Kept q s) :
    Kept q (vcompactState d f s) := by
  unfold vcompactState
  try dsimp only
  with_reducible repeat' first | assumption | intro _ _ | intro _ | apply runV_kept | apply withParity_kept | apply trapDale_kept | apply emitDale_kept | apply updDale_kept | split | apply kept_some | exact kept_none | refine kept_of_some (by assumption) ?_

theorem vcflushState_kept {d : Nat} {f : RInst} {s : State} (hs : Kept q s) :
    Kept q (vcflushState d f s) := by
  unfold vcflushState
  try dsimp only
  with_reducible repeat' first | assumption | intro _ _ | intro _ | apply runV_kept | apply withParity_kept | apply updDale_kept | apply kept_some | exact kept_none | refine kept_of_some (by assumption) ?_

theorem vscanState_kept {d : Nat} {f : RInst} {s : State} (hs : Kept q s) :
    Kept q (vscanState d f s) := by
  unfold vscanState
  try dsimp only
  with_reducible repeat' first | assumption | intro _ _ | intro _ | apply runV_kept | apply withParity_kept | apply countSat_kept | apply updDale_kept | split | apply kept_some | exact kept_none | refine kept_of_some (by assumption) ?_

theorem vhistState_kept {d : Nat} {f : RInst} {s : State} (hs : Kept q s) :
    Kept q (vhistState d f s) := by
  unfold vhistState
  try dsimp only
  with_reducible repeat' first | assumption | intro _ _ _ | intro _ _ | intro _ | apply runV_kept | apply withParity_kept | apply countSat_kept | apply updDale_kept | apply kept_foldl | apply kept_foldl1 | split | apply kept_some | exact kept_none | refine kept_of_some (by assumption) ?_ | refine kept_fst (by assumption) ?_ | dsimp only

theorem vhreadState_kept {d : Nat} {f : RInst} {s : State} (hs : Kept q s) :
    Kept q (vhreadState d f s) := by
  unfold vhreadState
  try dsimp only
  with_reducible repeat' first | assumption | intro _ _ _ | intro _ _ | intro _ | apply runV_kept | apply withParity_kept | apply updDale_kept | apply kept_foldl | apply kept_foldl1 | apply kept_some | exact kept_none | refine kept_of_some (by assumption) ?_ | refine kept_fst (by assumption) ?_ | dsimp only

theorem vhclearState_kept {d : Nat} {f : RInst} {s : State} (hs : Kept q s) :
    Kept q (vhclearState d f s) := by
  unfold vhclearState
  try dsimp only
  with_reducible repeat' first | assumption | intro _ _ | intro _ | apply runV_kept | apply updDale_kept | apply kept_some | exact kept_none | refine kept_of_some (by assumption) ?_

theorem tkinitState_kept {d : Nat} {f : RInst} {s : State} (hs : Kept q s) :
    Kept q (tkinitState d f s) := by
  unfold tkinitState
  try dsimp only
  with_reducible repeat' first | assumption | intro _ _ | intro _ | apply runV_kept | apply updDale_kept | apply kept_some | exact kept_none | refine kept_of_some (by assumption) ?_

theorem vtopkState_kept {d : Nat} {f : RInst} {s : State} (hs : Kept q s) :
    Kept q (vtopkState d f s) := by
  unfold vtopkState
  try dsimp only
  with_reducible repeat' first | assumption | intro _ _ _ | intro _ _ | intro _ | apply runV_kept | apply withParity_kept | apply updDale_kept | apply kept_foldl | apply kept_foldl1 | apply kept_some | exact kept_none | refine kept_of_some (by assumption) ?_ | refine kept_fst (by assumption) ?_ | dsimp only

theorem tkreadState_kept {d : Nat} {f : RInst} {s : State} (hs : Kept q s) :
    Kept q (tkreadState d f s) := by
  unfold tkreadState
  try dsimp only
  with_reducible repeat' first | assumption | intro _ _ | intro _ | apply runV_kept | apply updDale_kept | apply kept_some | exact kept_none | refine kept_of_some (by assumption) ?_

theorem runP_kept {s : State} {d : Nat} {op : Nat} {f : RInst} {fn : PReg → PReg → PReg} (hs : Kept q s) :
    Kept q (runP s d op f fn) := by
  unfold runP
  try dsimp only
  with_reducible repeat' first | assumption | intro _ _ | intro _ | apply runV_kept | apply updDale_kept | apply kept_some | exact kept_none | refine kept_of_some (by assumption) ?_

theorem pandState_kept {d : Nat} {f : RInst} {s : State} (hs : Kept q s) :
    Kept q (pandState d f s) := by
  unfold pandState
  try dsimp only
  with_reducible repeat' first | assumption | apply runP_kept

theorem porState_kept {d : Nat} {f : RInst} {s : State} (hs : Kept q s) :
    Kept q (porState d f s) := by
  unfold porState
  try dsimp only
  with_reducible repeat' first | assumption | apply runP_kept

theorem pxorState_kept {d : Nat} {f : RInst} {s : State} (hs : Kept q s) :
    Kept q (pxorState d f s) := by
  unfold pxorState
  try dsimp only
  with_reducible repeat' first | assumption | apply runP_kept

theorem pnotState_kept {d : Nat} {f : RInst} {s : State} (hs : Kept q s) :
    Kept q (pnotState d f s) := by
  unfold pnotState
  try dsimp only
  with_reducible repeat' first | assumption | apply runP_kept

theorem execVadd_kept {d : Nat} {f : RInst} {s : State} (hs : Kept q s) :
    KeptX q (execVadd d f s) := by
  unfold execVadd
  try dsimp only
  with_reducible repeat' first | assumption | apply vaddState_kept | apply guardUnit_kept | apply kept_next | exact kept_refused

theorem execVsub_kept {d : Nat} {f : RInst} {s : State} (hs : Kept q s) :
    KeptX q (execVsub d f s) := by
  unfold execVsub
  try dsimp only
  with_reducible repeat' first | assumption | apply vsubState_kept | apply guardUnit_kept | apply kept_next | exact kept_refused

theorem execVand_kept {d : Nat} {f : RInst} {s : State} (hs : Kept q s) :
    KeptX q (execVand d f s) := by
  unfold execVand
  try dsimp only
  with_reducible repeat' first | assumption | apply vandState_kept | apply guardUnit_kept | apply kept_next | exact kept_refused

theorem execVor_kept {d : Nat} {f : RInst} {s : State} (hs : Kept q s) :
    KeptX q (execVor d f s) := by
  unfold execVor
  try dsimp only
  with_reducible repeat' first | assumption | apply vorState_kept | apply guardUnit_kept | apply kept_next | exact kept_refused

theorem execVxor_kept {d : Nat} {f : RInst} {s : State} (hs : Kept q s) :
    KeptX q (execVxor d f s) := by
  unfold execVxor
  try dsimp only
  with_reducible repeat' first | assumption | apply vxorState_kept | apply guardUnit_kept | apply kept_next | exact kept_refused

theorem execVshl_kept {d : Nat} {f : RInst} {s : State} (hs : Kept q s) :
    KeptX q (execVshl d f s) := by
  unfold execVshl
  try dsimp only
  with_reducible repeat' first | assumption | apply vshlState_kept | apply guardUnit_kept | apply kept_next | exact kept_refused

theorem execVshr_kept {d : Nat} {f : RInst} {s : State} (hs : Kept q s) :
    KeptX q (execVshr d f s) := by
  unfold execVshr
  try dsimp only
  with_reducible repeat' first | assumption | apply vshrState_kept | apply guardUnit_kept | apply kept_next | exact kept_refused

theorem execVsra_kept {d : Nat} {f : RInst} {s : State} (hs : Kept q s) :
    KeptX q (execVsra d f s) := by
  unfold execVsra
  try dsimp only
  with_reducible repeat' first | assumption | apply vsraState_kept | apply guardUnit_kept | apply kept_next | exact kept_refused

theorem execVmul_kept {d : Nat} {f : RInst} {s : State} (hs : Kept q s) :
    KeptX q (execVmul d f s) := by
  unfold execVmul
  try dsimp only
  with_reducible repeat' first | assumption | apply vmulState_kept | apply guardUnit_kept | apply kept_next | exact kept_refused

theorem execVmulh_kept {d : Nat} {f : RInst} {s : State} (hs : Kept q s) :
    KeptX q (execVmulh d f s) := by
  unfold execVmulh
  try dsimp only
  with_reducible repeat' first | assumption | apply vmulhState_kept | apply guardUnit_kept | apply kept_next | exact kept_refused

theorem execVmulq_kept {d : Nat} {f : RInst} {s : State} (hs : Kept q s) :
    KeptX q (execVmulq d f s) := by
  unfold execVmulq
  try dsimp only
  with_reducible repeat' first | assumption | apply vmulqState_kept | apply guardUnit_kept | apply kept_next | exact kept_refused

theorem execVmac_kept {d : Nat} {f : RInst} {s : State} (hs : Kept q s) :
    KeptX q (execVmac d f s) := by
  unfold execVmac
  try dsimp only
  with_reducible repeat' first | assumption | apply vmacState_kept | apply guardUnit_kept | apply kept_next | exact kept_refused

theorem execVfadd_kept {d : Nat} {f : RInst} {s : State} (hs : Kept q s) :
    KeptX q (execVfadd d f s) := by
  unfold execVfadd
  try dsimp only
  with_reducible repeat' first | assumption | apply vfaddState_kept | apply guardUnit_kept | apply kept_next | exact kept_refused

theorem execVfsub_kept {d : Nat} {f : RInst} {s : State} (hs : Kept q s) :
    KeptX q (execVfsub d f s) := by
  unfold execVfsub
  try dsimp only
  with_reducible repeat' first | assumption | apply vfsubState_kept | apply guardUnit_kept | apply kept_next | exact kept_refused

theorem execVfmul_kept {d : Nat} {f : RInst} {s : State} (hs : Kept q s) :
    KeptX q (execVfmul d f s) := by
  unfold execVfmul
  try dsimp only
  with_reducible repeat' first | assumption | apply vfmulState_kept | apply guardUnit_kept | apply kept_next | exact kept_refused

theorem execVfmac_kept {d : Nat} {f : RInst} {s : State} (hs : Kept q s) :
    KeptX q (execVfmac d f s) := by
  unfold execVfmac
  try dsimp only
  with_reducible repeat' first | assumption | apply vfmacState_kept | apply guardUnit_kept | apply kept_next | exact kept_refused

theorem execVmax_kept {d : Nat} {f : RInst} {s : State} (hs : Kept q s) :
    KeptX q (execVmax d f s) := by
  unfold execVmax
  try dsimp only
  with_reducible repeat' first | assumption | apply vmaxState_kept | apply guardUnit_kept | apply kept_next | exact kept_refused

theorem execVmin_kept {d : Nat} {f : RInst} {s : State} (hs : Kept q s) :
    KeptX q (execVmin d f s) := by
  unfold execVmin
  try dsimp only
  with_reducible repeat' first | assumption | apply vminState_kept | apply guardUnit_kept | apply kept_next | exact kept_refused

theorem execVcmp_kept {d : Nat} {f : RInst} {s : State} (hs : Kept q s) :
    KeptX q (execVcmp d f s) := by
  unfold execVcmp
  try dsimp only
  with_reducible repeat' first | assumption | apply vcmpState_kept | apply guardUnit_kept | apply kept_next | exact kept_refused

theorem execVsel_kept {d : Nat} {f : RInst} {s : State} (hs : Kept q s) :
    KeptX q (execVsel d f s) := by
  unfold execVsel
  try dsimp only
  with_reducible repeat' first | assumption | apply vselState_kept | apply guardUnit_kept | apply kept_next | exact kept_refused

theorem execVcvt_kept {d : Nat} {f : RInst} {s : State} (hs : Kept q s) :
    KeptX q (execVcvt d f s) := by
  unfold execVcvt
  try dsimp only
  with_reducible repeat' first | assumption | apply vcvtState_kept | apply guardUnit_kept | apply kept_next | exact kept_refused

theorem execVbcast_kept {d : Nat} {f : RInst} {s : State} (hs : Kept q s) :
    KeptX q (execVbcast d f s) := by
  unfold execVbcast
  try dsimp only
  with_reducible repeat' first | assumption | apply vbcastState_kept | apply guardUnit_kept | apply kept_next | exact kept_refused

theorem execDset_kept {d : Nat} {f : RInst} {s : State} (hs : Kept q s) :
    KeptX q (execDset d f s) := by
  unfold execDset
  try dsimp only
  with_reducible repeat' first | assumption | apply dsetState_kept | apply guardUnit_kept | apply kept_next | exact kept_refused

theorem execVld_kept {d : Nat} {f : RInst} {s : State} (hs : Kept q s) :
    KeptX q (execVld d f s) := by
  unfold execVld
  try dsimp only
  with_reducible repeat' first | assumption | apply vldState_kept | apply guardUnit_kept | apply kept_next | exact kept_refused

theorem execVst_kept {d : Nat} {f : RInst} {s : State} (hs : Kept q s) :
    KeptX q (execVst d f s) := by
  unfold execVst
  try dsimp only
  with_reducible repeat' first | assumption | apply vstState_kept | apply guardUnit_kept | apply kept_next | exact kept_refused

theorem execCset_kept {d : Nat} {f : RInst} {s : State} (hs : Kept q s) :
    KeptX q (execCset d f s) := by
  unfold execCset
  try dsimp only
  with_reducible repeat' first | assumption | apply csetState_kept | apply guardUnit_kept | apply kept_next | exact kept_refused

theorem execCget_kept {d : Nat} {f : RInst} {s : State} (hs : Kept q s) :
    KeptX q (execCget d f s) := by
  unfold execCget
  try dsimp only
  with_reducible repeat' first | assumption | apply cgetState_kept | apply guardUnit_kept | apply kept_next | exact kept_refused

theorem execVsrch_kept {d : Nat} {f : RInst} {s : State} (hs : Kept q s) :
    KeptX q (execVsrch d f s) := by
  unfold execVsrch
  try dsimp only
  with_reducible repeat' first | assumption | apply vsrchState_kept | apply guardUnit_kept | apply kept_next | exact kept_refused

theorem execSsinit_kept {d : Nat} {f : RInst} {s : State} (hs : Kept q s) :
    KeptX q (execSsinit d f s) := by
  unfold execSsinit
  try dsimp only
  with_reducible repeat' first | assumption | apply ssinitState_kept | apply guardUnit_kept | apply kept_next | exact kept_refused

theorem execSsrch_kept {d : Nat} {f : RInst} {s : State} (hs : Kept q s) :
    KeptX q (execSsrch d f s) := by
  unfold execSsrch
  try dsimp only
  with_reducible repeat' first | assumption | apply ssrchState_kept | apply guardUnit_kept | apply kept_next | exact kept_refused

theorem execSsread_kept {d : Nat} {f : RInst} {s : State} (hs : Kept q s) :
    KeptX q (execSsread d f s) := by
  unfold execSsread
  try dsimp only
  with_reducible repeat' first | assumption | apply ssreadState_kept | apply guardUnit_kept | apply kept_next | exact kept_refused

theorem execSsred_kept {d : Nat} {f : RInst} {s : State} (hs : Kept q s) :
    KeptX q (execSsred d f s) := by
  unfold execSsred
  try dsimp only
  with_reducible repeat' first | assumption | apply ssredState_kept | apply guardUnit_kept | apply kept_next | exact kept_refused

theorem execVcompact_kept {d : Nat} {f : RInst} {s : State} (hs : Kept q s) :
    KeptX q (execVcompact d f s) := by
  unfold execVcompact
  try dsimp only
  with_reducible repeat' first | assumption | apply vcompactState_kept | apply guardUnit_kept | apply kept_next | exact kept_refused

theorem execVcflush_kept {d : Nat} {f : RInst} {s : State} (hs : Kept q s) :
    KeptX q (execVcflush d f s) := by
  unfold execVcflush
  try dsimp only
  with_reducible repeat' first | assumption | apply vcflushState_kept | apply guardUnit_kept | apply kept_next | exact kept_refused

theorem execVscan_kept {d : Nat} {f : RInst} {s : State} (hs : Kept q s) :
    KeptX q (execVscan d f s) := by
  unfold execVscan
  try dsimp only
  with_reducible repeat' first | assumption | apply vscanState_kept | apply guardUnit_kept | apply kept_next | exact kept_refused

theorem execVhist_kept {d : Nat} {f : RInst} {s : State} (hs : Kept q s) :
    KeptX q (execVhist d f s) := by
  unfold execVhist
  try dsimp only
  with_reducible repeat' first | assumption | apply vhistState_kept | apply guardUnit_kept | apply kept_next | exact kept_refused

theorem execVhread_kept {d : Nat} {f : RInst} {s : State} (hs : Kept q s) :
    KeptX q (execVhread d f s) := by
  unfold execVhread
  try dsimp only
  with_reducible repeat' first | assumption | apply vhreadState_kept | apply guardUnit_kept | apply kept_next | exact kept_refused

theorem execVhclear_kept {d : Nat} {f : RInst} {s : State} (hs : Kept q s) :
    KeptX q (execVhclear d f s) := by
  unfold execVhclear
  try dsimp only
  with_reducible repeat' first | assumption | apply vhclearState_kept | apply guardUnit_kept | apply kept_next | exact kept_refused

theorem execTkinit_kept {d : Nat} {f : RInst} {s : State} (hs : Kept q s) :
    KeptX q (execTkinit d f s) := by
  unfold execTkinit
  try dsimp only
  with_reducible repeat' first | assumption | apply tkinitState_kept | apply guardUnit_kept | apply kept_next | exact kept_refused

theorem execVtopk_kept {d : Nat} {f : RInst} {s : State} (hs : Kept q s) :
    KeptX q (execVtopk d f s) := by
  unfold execVtopk
  try dsimp only
  with_reducible repeat' first | assumption | apply vtopkState_kept | apply guardUnit_kept | apply kept_next | exact kept_refused

theorem execTkread_kept {d : Nat} {f : RInst} {s : State} (hs : Kept q s) :
    KeptX q (execTkread d f s) := by
  unfold execTkread
  try dsimp only
  with_reducible repeat' first | assumption | apply tkreadState_kept | apply guardUnit_kept | apply kept_next | exact kept_refused

theorem execPand_kept {d : Nat} {f : RInst} {s : State} (hs : Kept q s) :
    KeptX q (execPand d f s) := by
  unfold execPand
  try dsimp only
  with_reducible repeat' first | assumption | apply pandState_kept | apply guardUnit_kept | apply kept_next | exact kept_refused

theorem execPor_kept {d : Nat} {f : RInst} {s : State} (hs : Kept q s) :
    KeptX q (execPor d f s) := by
  unfold execPor
  try dsimp only
  with_reducible repeat' first | assumption | apply porState_kept | apply guardUnit_kept | apply kept_next | exact kept_refused

theorem execPxor_kept {d : Nat} {f : RInst} {s : State} (hs : Kept q s) :
    KeptX q (execPxor d f s) := by
  unfold execPxor
  try dsimp only
  with_reducible repeat' first | assumption | apply pxorState_kept | apply guardUnit_kept | apply kept_next | exact kept_refused

theorem execPnot_kept {d : Nat} {f : RInst} {s : State} (hs : Kept q s) :
    KeptX q (execPnot d f s) := by
  unfold execPnot
  try dsimp only
  with_reducible repeat' first | assumption | apply pnotState_kept | apply guardUnit_kept | apply kept_next | exact kept_refused

end Sys2Proof.Machine
end

