-- ==== Sys2Proof/Laws/KeptSpecial.lean ====
section
/-! SUPPORT. What the effects of Machine/Special keep: the queue, the canonical form of memory, OTP (Laws/Kept.lean). -/
set_option linter.all false
namespace Sys2Proof.Machine

variable {q : Base}

theorem slotRefusal_kept {s : State} {d : Nat} {slot : Nat} {pc : Nat} (hs : Kept q s) :
    KeptO q (slotRefusal s d slot pc) := by
  unfold slotRefusal
  try dsimp only
  with_reducible repeat' first | assumption | apply unissue_kept | split | apply kept_some | exact kept_none | refine kept_of_some (by assumption) ?_

theorem sfnCheck_kept {d : Nat} {f : RInst} {s : State} {pc : Nat} (hs : Kept q s) :
    KeptO q (sfnCheck d f s pc) := by
  unfold sfnCheck
  try dsimp only
  with_reducible repeat' first | assumption | apply slotRefusal_kept | apply refuse_kept | split | apply kept_some | exact kept_none | refine kept_of_some (by assumption) ?_

theorem sfnState_kept {d : Nat} {f : RInst} {s : State} (hs : Kept q s) :
    Kept q (sfnState d f s) := by
  unfold sfnState
  try dsimp only
  with_reducible repeat' first | assumption | intro _ _ _ | intro _ _ | intro _ | apply sfnCheck_kept | apply withParity_kept | apply runR_kept | apply countNan_kept | apply countSat_kept | apply updDale_kept | apply odBump_kept | apply kept_foldl | apply kept_foldl1 | apply kept_getD | split | apply kept_some | exact kept_none | refine kept_of_some (by assumption) ?_ | refine kept_fst (by assumption) ?_ | dsimp only

theorem noCheck_kept {z0 : State} {z1 : Nat} (hz0 : Kept q z0) :
    KeptO q (noCheck z0 z1) := by
  unfold noCheck
  try dsimp only
  with_reducible repeat' first | assumption | apply kept_some | exact kept_none | refine kept_of_some (by assumption) ?_

theorem runSc_kept {s : State} {d : Nat} {op : Nat} {f : RInst} {reads : Dale → List (Structure × Nat)} {dests : List Dest} {eff : State → State} (hs : Kept q s) (heff : ∀ y0, Kept q y0 → Kept q (eff y0)) :
    Kept q (runSc s d op f reads dests eff) := by
  unfold runSc
  try dsimp only
  with_reducible repeat' first | assumption | apply heff | intro _ _ | intro _ | apply noCheck_kept | apply withParity_kept | apply runR_kept | apply odBump_kept | apply kept_some | exact kept_none | refine kept_of_some (by assumption) ?_

theorem scinitState_kept {d : Nat} {f : RInst} {s : State} (hs : Kept q s) :
    Kept q (scinitState d f s) := by
  unfold scinitState
  try dsimp only
  with_reducible repeat' first | assumption | intro _ _ | intro _ | apply runSc_kept | apply updDale_kept | apply kept_some | exact kept_none | refine kept_of_some (by assumption) ?_

theorem smaxsumState_kept {d : Nat} {f : RInst} {s : State} (hs : Kept q s) :
    Kept q (smaxsumState d f s) := by
  unfold smaxsumState
  try dsimp only
  with_reducible repeat' first | assumption | intro _ _ | intro _ | apply runSc_kept | apply updDale_kept | apply kept_some | exact kept_none | refine kept_of_some (by assumption) ?_

theorem scmergeState_kept {d : Nat} {f : RInst} {s : State} (hs : Kept q s) :
    Kept q (scmergeState d f s) := by
  unfold scmergeState
  try dsimp only
  with_reducible repeat' first | assumption | intro _ _ | intro _ | apply runSc_kept | apply updDale_kept | apply kept_some | exact kept_none | refine kept_of_some (by assumption) ?_

theorem screcvState_kept {d : Nat} {f : RInst} {sender : Nat} {s : State} (hs : Kept q s) :
    Kept q (screcvState d f sender s) := by
  unfold screcvState
  try dsimp only
  with_reducible repeat' first | assumption | intro _ _ | intro _ | apply noCheck_kept | apply runR_kept | apply updDale_kept | apply odBump_kept | apply kept_map | apply kept_some | exact kept_none | refine kept_of_some (by assumption) ?_

theorem scsendState_kept {d : Nat} {f : RInst} {s : State} (hs : Kept q s) :
    Kept q (scsendState d f s) := by
  unfold scsendState
  try dsimp only
  with_reducible repeat' first | assumption | intro _ _ | intro _ | apply runSc_kept | apply updDale_kept | apply kept_some | exact kept_none | refine kept_of_some (by assumption) ?_

theorem snaccState_kept {d : Nat} {f : RInst} {s : State} (hs : Kept q s) :
    Kept q (snaccState d f s) := by
  unfold snaccState
  try dsimp only
  with_reducible repeat' first | assumption | intro _ _ _ | intro _ _ | intro _ | apply runSc_kept | apply updDale_kept | apply kept_foldl | apply kept_foldl1 | apply kept_some | exact kept_none | refine kept_of_some (by assumption) ?_ | refine kept_fst (by assumption) ?_ | dsimp only

theorem countConv_kept {s : State} {d : Nat} {c : Conv} (hs : Kept q s) :
    Kept q (countConv s d c) := by
  unfold countConv
  try dsimp only
  with_reducible repeat' first | assumption | apply countNan_kept | apply countSat_kept | split

theorem emptyStat_kept {s : State} {d : Nat} {f : RInst} (hs : Kept q s) :
    Kept q (emptyStat s d f) := by
  unfold emptyStat
  try dsimp only
  with_reducible repeat' first | assumption | apply countNan_kept | apply updDale_kept | split

theorem snfinState_kept {d : Nat} {f : RInst} {s : State} (hs : Kept q s) :
    Kept q (snfinState d f s) := by
  unfold snfinState
  try dsimp only
  with_reducible repeat' first | assumption | intro _ _ | intro _ | apply emptyStat_kept | apply countConv_kept | apply runSc_kept | apply updDale_kept | split | apply kept_some | exact kept_none | refine kept_of_some (by assumption) ?_

theorem smfinState_kept {d : Nat} {f : RInst} {s : State} (hs : Kept q s) :
    Kept q (smfinState d f s) := by
  unfold smfinState
  try dsimp only
  with_reducible repeat' first | assumption | intro _ _ | intro _ | apply emptyStat_kept | apply countConv_kept | apply runSc_kept | apply updDale_kept | split | apply kept_some | exact kept_none | refine kept_of_some (by assumption) ?_

theorem execSfn_kept {d : Nat} {f : RInst} {s : State} (hs : Kept q s) :
    KeptX q (execSfn d f s) := by
  unfold execSfn
  try dsimp only
  with_reducible repeat' first | assumption | apply sfnState_kept | apply guardUnit_kept | apply kept_next | exact kept_refused

theorem execScinit_kept {d : Nat} {f : RInst} {s : State} (hs : Kept q s) :
    KeptX q (execScinit d f s) := by
  unfold execScinit
  try dsimp only
  with_reducible repeat' first | assumption | apply scinitState_kept | apply guardUnit_kept | apply kept_next | exact kept_refused

theorem execSmaxsum_kept {d : Nat} {f : RInst} {s : State} (hs : Kept q s) :
    KeptX q (execSmaxsum d f s) := by
  unfold execSmaxsum
  try dsimp only
  with_reducible repeat' first | assumption | apply smaxsumState_kept | apply guardUnit_kept | apply kept_next | exact kept_refused

theorem execScmerge_kept {d : Nat} {f : RInst} {s : State} (hs : Kept q s) :
    KeptX q (execScmerge d f s) := by
  unfold execScmerge
  try dsimp only
  with_reducible repeat' first | assumption | apply scmergeState_kept | apply guardUnit_kept | apply kept_next | exact kept_refused

theorem execScrecv_kept {d : Nat} {f : RInst} {sender : Nat} {s : State} (hs : Kept q s) :
    KeptX q (execScrecv d f sender s) := by
  unfold execScrecv
  try dsimp only
  with_reducible repeat' first | assumption | apply screcvState_kept | apply guardUnit_kept | apply kept_next | exact kept_refused

theorem execScsend_kept {d : Nat} {f : RInst} {s : State} (hs : Kept q s) :
    KeptX q (execScsend d f s) := by
  unfold execScsend
  try dsimp only
  with_reducible repeat' first | assumption | apply scsendState_kept | apply guardUnit_kept | apply kept_next | exact kept_refused

theorem execSnacc_kept {d : Nat} {f : RInst} {s : State} (hs : Kept q s) :
    KeptX q (execSnacc d f s) := by
  unfold execSnacc
  try dsimp only
  with_reducible repeat' first | assumption | apply snaccState_kept | apply guardUnit_kept | apply kept_next | exact kept_refused

theorem execSnfin_kept {d : Nat} {f : RInst} {s : State} (hs : Kept q s) :
    KeptX q (execSnfin d f s) := by
  unfold execSnfin
  try dsimp only
  with_reducible repeat' first | assumption | apply snfinState_kept | apply guardUnit_kept | apply kept_next | exact kept_refused

theorem execSmfin_kept {d : Nat} {f : RInst} {s : State} (hs : Kept q s) :
    KeptX q (execSmfin d f s) := by
  unfold execSmfin
  try dsimp only
  with_reducible repeat' first | assumption | apply smfinState_kept | apply guardUnit_kept | apply kept_next | exact kept_refused

end Sys2Proof.Machine
end

