-- ==== Sys2Proof/Laws/KeptRandom.lean ====
section
/-! SUPPORT. What the effects of Machine/Random keep: the queue, the canonical form of memory, OTP (Laws/Kept.lean). -/
set_option linter.all false
namespace Sys2Proof.Machine

variable {q : Base}

theorem spendDraws_kept {s : State} {d : Nat} {a : DrawArgs} {w : Nat} {n : Nat} {pc : Nat} (hs : Kept q s) :
    Kept q (spendDraws s d a w n pc) := by
  unfold spendDraws
  try dsimp only
  with_reducible repeat' first | assumption | apply countDraws_kept | apply updDale_kept | split

theorem drawCheck_kept {d : Nat} {op : Nat} {f : RInst} {s : State} {pc : Nat} (hs : Kept q s) :
    KeptO q (drawCheck d op f s pc) := by
  unfold drawCheck
  try dsimp only
  with_reducible repeat' first | assumption | apply refuse_kept | apply unissue_kept | split | apply kept_some | exact kept_none | refine kept_of_some (by assumption) ?_

theorem runDraw_kept {s : State} {d : Nat} {op : Nat} {f : RInst} {fn : Dale → DrawArgs → Nat → Nat} (hs : Kept q s) :
    Kept q (runDraw s d op f fn) := by
  unfold runDraw
  try dsimp only
  with_reducible repeat' first | assumption | intro _ _ | intro _ | apply drawCheck_kept | apply spendDraws_kept | apply applyLanes_kept | apply withParity_kept | apply runR_kept | apply kept_some | exact kept_none | refine kept_of_some (by assumption) ?_

theorem runiState_kept {d : Nat} {f : RInst} {s : State} (hs : Kept q s) :
    Kept q (runiState d f s) := by
  unfold runiState
  try dsimp only
  with_reducible repeat' first | assumption | apply runDraw_kept

theorem runifState_kept {d : Nat} {f : RInst} {s : State} (hs : Kept q s) :
    Kept q (runifState d f s) := by
  unfold runifState
  try dsimp only
  with_reducible repeat' first | assumption | apply runDraw_kept

theorem rbernState_kept {d : Nat} {f : RInst} {s : State} (hs : Kept q s) :
    Kept q (rbernState d f s) := by
  unfold rbernState
  try dsimp only
  with_reducible repeat' first | assumption | intro _ _ _ | intro _ _ | intro _ | apply drawCheck_kept | apply spendDraws_kept | apply withParity_kept | apply runR_kept | apply updDale_kept | apply kept_foldr | split | apply kept_some | exact kept_none | refine kept_of_some (by assumption) ?_ | refine kept_fst (by assumption) ?_ | dsimp only

theorem rnormTabState_kept {d : Nat} {f : RInst} {s : State} (hs : Kept q s) :
    Kept q (rnormTabState d f s) := by
  unfold rnormTabState
  try dsimp only
  with_reducible repeat' first | assumption | apply runDraw_kept

theorem rnormBmState_kept {d : Nat} {f : RInst} {s : State} (hs : Kept q s) :
    Kept q (rnormBmState d f s) := by
  unfold rnormBmState
  try dsimp only
  with_reducible repeat' first | assumption | apply runDraw_kept

theorem rkeyState_kept {d : Nat} {f : RInst} {s : State} (hs : Kept q s) :
    Kept q (rkeyState d f s) := by
  unfold rkeyState
  try dsimp only
  with_reducible repeat' first | assumption | intro _ _ | intro _ | apply noCheck_kept | apply runR_kept | apply updDale_kept | apply kept_some | exact kept_none | refine kept_of_some (by assumption) ?_

theorem rctrState_kept {d : Nat} {f : RInst} {s : State} (hs : Kept q s) :
    Kept q (rctrState d f s) := by
  unfold rctrState
  try dsimp only
  with_reducible repeat' first | assumption | intro _ _ | intro _ | apply noCheck_kept | apply runR_kept | apply updDale_kept | apply kept_some | exact kept_none | refine kept_of_some (by assumption) ?_

theorem rcgetState_kept {d : Nat} {f : RInst} {s : State} (hs : Kept q s) :
    Kept q (rcgetState d f s) := by
  unfold rcgetState
  try dsimp only
  with_reducible repeat' first | assumption | intro _ _ | intro _ | apply noCheck_kept | apply withParity_kept | apply runR_kept | apply updDale_kept | apply kept_some | exact kept_none | refine kept_of_some (by assumption) ?_

theorem execRuni_kept {d : Nat} {f : RInst} {s : State} (hs : Kept q s) :
    KeptX q (execRuni d f s) := by
  unfold execRuni
  try dsimp only
  with_reducible repeat' first | assumption | apply runiState_kept | apply guardUnit_kept | apply kept_next | exact kept_refused

theorem execRunif_kept {d : Nat} {f : RInst} {s : State} (hs : Kept q s) :
    KeptX q (execRunif d f s) := by
  unfold execRunif
  try dsimp only
  with_reducible repeat' first | assumption | apply runifState_kept | apply guardUnit_kept | apply kept_next | exact kept_refused

theorem execRbern_kept {d : Nat} {f : RInst} {s : State} (hs : Kept q s) :
    KeptX q (execRbern d f s) := by
  unfold execRbern
  try dsimp only
  with_reducible repeat' first | assumption | apply rbernState_kept | apply guardUnit_kept | apply kept_next | exact kept_refused

theorem execRnormTab_kept {d : Nat} {f : RInst} {s : State} (hs : Kept q s) :
    KeptX q (execRnormTab d f s) := by
  unfold execRnormTab
  try dsimp only
  with_reducible repeat' first | assumption | apply rnormTabState_kept | apply guardUnit_kept | apply kept_next | exact kept_refused | split

theorem execRnormBm_kept {d : Nat} {f : RInst} {s : State} (hs : Kept q s) :
    KeptX q (execRnormBm d f s) := by
  unfold execRnormBm
  try dsimp only
  with_reducible repeat' first | assumption | apply rnormBmState_kept | apply guardUnit_kept | apply kept_next | exact kept_refused | split

theorem execRkey_kept {d : Nat} {f : RInst} {s : State} (hs : Kept q s) :
    KeptX q (execRkey d f s) := by
  unfold execRkey
  try dsimp only
  with_reducible repeat' first | assumption | apply rkeyState_kept | apply guardUnit_kept | apply kept_next | exact kept_refused

theorem execRctr_kept {d : Nat} {f : RInst} {s : State} (hs : Kept q s) :
    KeptX q (execRctr d f s) := by
  unfold execRctr
  try dsimp only
  with_reducible repeat' first | assumption | apply rctrState_kept | apply guardUnit_kept | apply kept_next | exact kept_refused

theorem execRcget_kept {d : Nat} {f : RInst} {s : State} (hs : Kept q s) :
    KeptX q (execRcget d f s) := by
  unfold execRcget
  try dsimp only
  with_reducible repeat' first | assumption | apply rcgetState_kept | apply guardUnit_kept | apply kept_next | exact kept_refused

end Sys2Proof.Machine
end

