-- ==== Sys2Proof/Laws/KeptMatrix.lean ====
section
/-! SUPPORT. What the effects of Machine/Matrix keep: the queue, the canonical form of memory, OTP (Laws/Kept.lean). -/
set_option linter.all false
namespace Sys2Proof.Machine

variable {q : Base}

theorem mmulCheck_kept {d : Nat} {f : MInst} {s : State} {pc : Nat} (hs : Kept q s) :
    KeptO q (mmulCheck d f s pc) := by
  unfold mmulCheck
  try dsimp only
  with_reducible repeat' first | assumption | apply slotRefusal_kept | apply refuse_kept | split | apply kept_some | exact kept_none | refine kept_of_some (by assumption) ?_

theorem mfuseState_kept {d : Nat} {f : RInst} {s : State} (hs : Kept q s) :
    Kept q (mfuseState d f s) := by
  unfold mfuseState
  try dsimp only
  with_reducible repeat' first | assumption | intro _ _ | intro _ | apply noCheck_kept | apply runR_kept | apply updDale_kept | apply kept_some | exact kept_none | refine kept_of_some (by assumption) ?_

theorem operandRows_kept {s : State} {d : Nat} {pc : Nat} {t : Slot} {split : Bool} {rows : Nat} {n : Nat} (hs : Kept q s) :
    Kept q (operandRows s d pc t split rows n).1 := by
  unfold operandRows
  try dsimp only
  with_reducible repeat' first | assumption | intro _ _ _ | intro _ _ | intro _ | apply readRow_kept | apply kept_foldl | apply kept_foldl1 | split | refine kept_fst (by assumption) ?_ | dsimp only

theorem fillAll_kept {s : State} {d : Nat} {k : Nat} (hs : Kept q s) :
    Kept q (fillAll s d k) := by
  unfold fillAll
  try dsimp only
  with_reducible repeat' first | assumption | apply updDale_kept | split

theorem heldMmul_kept {s : State} {d : Nat} {f : MInst} (hs : Kept q s) :
    Kept q (heldMmul s d f) := by
  unfold heldMmul
  try dsimp only
  with_reducible repeat' first | assumption | intro _ _ _ | intro _ _ | intro _ | apply fillAll_kept | apply markRow_kept | apply kept_foldl | apply kept_foldl1 | refine kept_fst (by assumption) ?_ | dsimp only

theorem mxEvents_kept {s : State} {d : Nat} {pc : Nat} {f : MInst} {passes : List PassOut} {st : Status} (hs : Kept q s) :
    Kept q (mxEvents s d pc f passes st) := by
  unfold mxEvents
  try dsimp only
  with_reducible repeat' first | assumption | apply emitStrike_kept | apply emitDale_kept | split

theorem writeOuts_kept {s : State} {d : Nat} {pc : Nat} {f : MInst} {o : Slot} {entered : Nat} {mark : Nat → Bool} {elem : Nat → Nat → Acc → OutElem} {outs : List (List Acc)} (hs : Kept q s) :
    Kept q (writeOuts s d pc f o entered mark elem outs) := by
  unfold writeOuts
  try dsimp only
  with_reducible repeat' first | assumption | intro _ _ _ | intro _ _ | intro _ | apply markRow_kept | apply writeRow_kept | apply countNan_kept | apply countSat_kept | apply odBump_kept | apply kept_foldl | apply kept_foldl1 | split | refine kept_fst (by assumption) ?_ | dsimp only

theorem mmulPartRow_kept {d : Nat} {pc : Nat} {n : Nat} {td : Slot} {acc : State × List (List Nat) × List Nat} {r : Nat} (hacc : Kept q acc.1) :
    Kept q (mmulPartRow d pc n td acc r).1 := by
  unfold mmulPartRow
  try dsimp only
  with_reducible repeat' first | assumption | apply readRow_kept | split | refine kept_fst (by assumption) ?_ | dsimp only

theorem mmulParts_kept {s : State} {d : Nat} {pc : Nat} {f : MInst} {td : Slot} (hs : Kept q s) :
    Kept q (mmulParts s d pc f td).1 := by
  unfold mmulParts
  try dsimp only
  with_reducible repeat' first | assumption | intro _ _ _ | intro _ _ | intro _ | apply mmulPartRow_kept | apply kept_foldl | apply kept_foldl1 | split | refine kept_fst (by assumption) ?_ | dsimp only

theorem mmulTile_kept {s : State} {d : Nat} {pc : Nat} {f : MInst} {tb : Slot} (hs : Kept q s) :
    Kept q (mmulTile s d pc f tb).1 := by
  unfold mmulTile
  try dsimp only
  with_reducible repeat' first | assumption | apply operandRows_kept | split | refine kept_fst (by assumption) ?_ | dsimp only

theorem mmulBias_kept {s : State} {d : Nat} {pc : Nat} {n : Nat} {b : Option Slot} (hs : Kept q s) :
    Kept q (mmulBias s d pc n b).1 := by
  unfold mmulBias
  try dsimp only
  with_reducible repeat' first | assumption | apply readRow_kept | split | refine kept_fst (by assumption) ?_ | dsimp only

theorem mmulRead_kept {s : State} {d : Nat} {pc : Nat} {f : MInst} {ta : Slot} {tb : Slot} {td : Slot} (hs : Kept q s) :
    Kept q (mmulRead s d pc f ta tb td).1 := by
  unfold mmulRead
  try dsimp only
  with_reducible repeat' first | assumption | apply mmulBias_kept | apply mmulTile_kept | apply mmulParts_kept | apply operandRows_kept | split | refine kept_fst (by assumption) ?_ | dsimp only

theorem mmulWrite_kept {x : Dale} {d : Nat} {pc : Nat} {f : MInst} {ta : Slot} {tb : Slot} {td : Slot} {i : MmulIn} {outs : List (List Acc)} {passes : List PassOut} {s : State} (hs : Kept q s) :
    Kept q (mmulWrite x d pc f ta tb td i outs passes s) := by
  unfold mmulWrite
  try dsimp only
  with_reducible repeat' first | assumption | intro _ _ _ | intro _ _ | intro _ | apply writeOuts_kept | apply fillAll_kept | apply countDraws_kept | apply countNan_kept | apply countSat_kept | apply odBump_kept | apply kept_foldl | apply kept_foldl1 | split | refine kept_fst (by assumption) ?_ | dsimp only

theorem mmulLatch_kept {d : Nat} {pc : Nat} {f : MInst} {passes : List PassOut} {s : State} (hs : Kept q s) :
    Kept q (mmulLatch d pc f passes s) := by
  unfold mmulLatch
  try dsimp only
  with_reducible repeat' first | assumption | apply mxEvents_kept | apply updDale_kept | split

theorem mmulEnd_kept {x : Dale} {d : Nat} {pc : Nat} {f : MInst} {td : Slot} {args : List W32} {i : MmulIn} {passes : List PassOut} {s0 : State} (hs0 : Kept q s0) :
    Kept q (mmulEnd x d pc f td args i passes s0) := by
  unfold mmulEnd
  try dsimp only
  with_reducible repeat' first | assumption | apply mmulLatch_kept | apply parityTrap_kept | apply trapPoison_kept | split

theorem mmulRun_kept {d : Nat} {f : MInst} {flt : ArrayFault} {pc : Nat} {ta : Slot} {tb : Slot} {td : Slot} {s : State} (hs : Kept q s) :
    Kept q (mmulRun d f flt pc ta tb td s) := by
  unfold mmulRun
  try dsimp only
  with_reducible repeat' first | assumption | apply mmulEnd_kept | apply mmulWrite_kept | apply mmulRead_kept | apply updDale_kept | refine kept_fst (by assumption) ?_ | dsimp only

theorem mmulBody_kept {d : Nat} {f : MInst} {flt : ArrayFault} {pc : Nat} {s : State} (hs : Kept q s) :
    KeptO q (mmulBody d f flt pc s) := by
  unfold mmulBody
  try dsimp only
  with_reducible repeat' first | assumption | apply mmulRun_kept | apply heldMmul_kept | split | apply kept_some | exact kept_none | refine kept_of_some (by assumption) ?_

theorem mmulState_kept {d : Nat} {f : MInst} {flt : ArrayFault} {s : State} (hs : Kept q s) :
    Kept q (mmulState d f flt s) := by
  unfold mmulState
  try dsimp only
  with_reducible repeat' first | assumption | intro _ _ | intro _ | apply mmulBody_kept | apply mmulCheck_kept | apply unitRun_kept | apply updDale_kept | apply kept_getD | split | apply kept_some | exact kept_none | refine kept_of_some (by assumption) ?_

theorem execMmul_kept {d : Nat} {f : MInst} {flt : ArrayFault} {s : State} (hs : Kept q s) :
    KeptX q (execMmul d f flt s) := by
  unfold execMmul
  try dsimp only
  with_reducible repeat' first | assumption | apply mmulState_kept | apply guardUnit_kept | apply kept_next | exact kept_refused

theorem execMfuse_kept {d : Nat} {f : RInst} {s : State} (hs : Kept q s) :
    KeptX q (execMfuse d f s) := by
  unfold execMfuse
  try dsimp only
  with_reducible repeat' first | assumption | apply mfuseState_kept | apply guardUnit_kept | apply kept_next | exact kept_refused

end Sys2Proof.Machine
end

