-- ==== Sys2Proof/Laws/KeptNetOps.lean ====
section
/-! SUPPORT. What the effects of Machine/NetOps keep: the queue, the canonical form of memory, OTP (Laws/Kept.lean). -/
set_option linter.all false
namespace Sys2Proof.Machine

variable {q : Base}

theorem queuePacket_kept {s : State} {c : Nat} {p : Packet} (hs : Kept q s) :
    Kept q (queuePacket s c p) := by
  unfold queuePacket
  try dsimp only
  with_reducible repeat' first | assumption | apply updNi_kept

theorem handPacket_kept {s : State} {c : Nat} {p : Packet} (hs : Kept q s) :
    Kept q (handPacket s c p) := by
  unfold handPacket
  try dsimp only
  with_reducible repeat' first | assumption | apply queuePacket_kept | split

theorem sendAnswer_kept {s : State} {p : Packet} {c : Nat} {typ : Nat} {st : Status} {poison : Bool} {payload : List Byte} (hs : Kept q s) :
    Kept q (sendAnswer s p c typ st poison payload) := by
  unfold sendAnswer
  try dsimp only
  with_reducible repeat' first | assumption | apply queuePacket_kept

theorem takeTag_kept {s : State} {c : Nat} (hs : Kept q s) :
    Kept q (takeTag s c).2 := by
  unfold takeTag
  try dsimp only
  with_reducible repeat' first | assumption | apply takeFree_kept | split | refine kept_fst (by assumption) ?_ | refine kept_snd (by assumption) ?_ | dsimp only

theorem handRequest_kept {s : State} {c : Nat} {ix : Nat} {typ : Nat} {addr : Nat} {len : Nat} {aux : Nat} {poison : Bool} {payload : List Byte} {epoch : Nat} {o : Origin} {keepLen : Nat} (hs : Kept q s) :
    KeptO q (handRequest s c ix typ addr len aux poison payload epoch o keepLen) := by
  unfold handRequest
  try dsimp only
  with_reducible repeat' first | assumption | apply takeTag_kept | apply setNi_kept | split | apply kept_some | exact kept_none | refine kept_of_some (by assumption) ?_ | refine kept_fst (by assumption) ?_ | refine kept_snd (by assumption) ?_ | dsimp only

theorem handNotice_kept {s : State} {d : Nat} {c : Nat} {typ : Nat} {status : Nat} {epoch : Nat} {aux : Nat} {payload : List Byte} (hs : Kept q s) :
    Kept q (handNotice s d c typ status epoch aux payload) := by
  unfold handNotice
  try dsimp only
  with_reducible repeat' first | assumption | apply takeTag_kept | apply queuePacket_kept | apply updNi_kept | split | refine kept_fst (by assumption) ?_ | refine kept_snd (by assumption) ?_ | dsimp only

end Sys2Proof.Machine
end

