-- ==== Sys2Proof/Laws/KeptStreamOps.lean ====
section
/-! SUPPORT. What the effects of Machine/StreamOps keep: the queue, the canonical form of memory, OTP (Laws/Kept.lean). -/
set_option linter.all false
namespace Sys2Proof.Machine

variable {q : Base}

theorem updChan_kept {s : State} {d : Nat} {c : Nat} {f : Channel → Channel} (hs : Kept q s) :
    Kept q (updChan s d c f) := by
  unfold updChan
  try dsimp only
  with_reducible repeat' first | assumption | apply updDale_kept

theorem setFront_kept {s : State} {d : Nat} {c : Nat} {b : Block} (hs : Kept q s) :
    Kept q (setFront s d c b) := by
  unfold setFront
  try dsimp only
  with_reducible repeat' first | assumption | apply updChan_kept

theorem poisonSlot_kept {s : State} {d : Nat} {k : Nat} (hs : Kept q s) :
    Kept q (poisonSlot s d k) := by
  unfold poisonSlot
  try dsimp only
  with_reducible repeat' first | assumption | intro _ _ _ | intro _ _ | intro _ | apply markRow_kept | apply kept_foldl | apply kept_foldl1 | split | refine kept_fst (by assumption) ?_ | dsimp only

theorem poisonBlock_kept {s : State} {d : Nat} {b : Block} (hs : Kept q s) :
    Kept q (poisonBlock s d b) := by
  unfold poisonBlock
  try dsimp only
  with_reducible repeat' first | assumption | apply poisonSlot_kept | split

theorem markUndone_kept {s : State} {d : Nat} {b : Block} (hs : Kept q s) :
    Kept q (markUndone s d b) := by
  unfold markUndone
  try dsimp only
  with_reducible repeat' first | assumption | intro _ _ _ | intro _ _ | intro _ | apply poisonSlot_kept | apply markRow_kept | apply kept_foldl | apply kept_foldl1 | split | refine kept_fst (by assumption) ?_ | dsimp only

theorem unbindPort_kept {s : State} {d : Nat} {b : Block} (hs : Kept q s) :
    Kept q (unbindPort s d b) := by
  unfold unbindPort
  try dsimp only
  with_reducible repeat' first | assumption | apply updDale_kept | split

theorem haltOne_kept {s : State} {d : Nat} {c : Nat} {cause : Nat} {st : Status} {row : Nat} {addr : Nat} (hs : Kept q s) :
    Kept q (haltOne s d c cause st row addr) := by
  unfold haltOne
  try dsimp only
  with_reducible repeat' first | assumption | intro _ _ _ | intro _ _ | intro _ | apply unbindPort_kept | apply markUndone_kept | apply poisonBlock_kept | apply updChan_kept | apply emitDale_kept | apply updDale_kept | apply odBump_kept | apply kept_foldl | apply kept_foldl1 | split | refine kept_fst (by assumption) ?_ | dsimp only

theorem cancelLeaf_kept {s : State} {d : Nat} {sender : Nat} {group : Nat} {st : Status} (hs : Kept q s) :
    Kept q (cancelLeaf s d sender group st) := by
  unfold cancelLeaf
  try dsimp only
  with_reducible repeat' first | assumption | apply haltOne_kept | apply updDale_kept | split

theorem cancelGroup_kept {s : State} {d : Nat} {b : Block} {st : Status} (hs : Kept q s) :
    Kept q (cancelGroup s d b st) := by
  unfold cancelGroup
  try dsimp only
  with_reducible repeat' first | assumption | intro _ _ _ | intro _ _ | intro _ | apply cancelLeaf_kept | apply handNotice_kept | apply updDale_kept | apply kept_foldl | apply kept_foldl1 | split | refine kept_fst (by assumption) ?_ | dsimp only

theorem haltChannel_kept {s : State} {d : Nat} {c : Nat} {cause : Nat} {st : Status} {row : Nat} {addr : Nat} (hs : Kept q s) :
    Kept q (haltChannel s d c cause st row addr) := by
  unfold haltChannel
  try dsimp only
  with_reducible repeat' first | assumption | apply cancelGroup_kept | apply haltOne_kept | split

theorem mcastReady_kept {s : State} {d : Nat} {leaf : Nat} {rows : Nat} {elems : Nat} {group : Nat} (hs : Kept q s) :
    Kept q (mcastReady s d leaf rows elems group) := by
  unfold mcastReady
  try dsimp only
  with_reducible repeat' first | assumption | apply haltChannel_kept | apply setFront_kept | apply updDale_kept | split

theorem noteAck_kept {s : State} {d : Nat} {leaf : Nat} {group : Nat} {status : Nat} (hs : Kept q s) :
    Kept q (noteAck s d leaf group status) := by
  unfold noteAck
  try dsimp only
  with_reducible repeat' first | assumption | apply setFront_kept | apply updChan_kept | apply emitDale_kept | split

theorem sendMcastAck_kept {s : State} {d : Nat} {b : Block} (hs : Kept q s) :
    Kept q (sendMcastAck s d b) := by
  unfold sendMcastAck
  try dsimp only
  with_reducible repeat' first | assumption | apply noteAck_kept | apply handPacket_kept | split

theorem formSig_kept {s : State} {d : Nat} {sig : Nat} (hs : Kept q s) :
    Kept q (formSig s d sig) := by
  unfold formSig
  try dsimp only
  with_reducible repeat' first | assumption | apply handRequest_kept | apply updDale_kept | split | apply kept_some | exact kept_none | refine kept_of_some (by assumption) ?_

theorem clearFill_kept {s : State} {d : Nat} {k : Nat} {n : Nat} (hs : Kept q s) :
    Kept q (clearFill s d k n) := by
  unfold clearFill
  try dsimp only
  with_reducible repeat' first | assumption | apply updDale_kept | split

theorem bindPort_kept {s : State} {d : Nat} {c : Nat} {b : Block} (hs : Kept q s) :
    KeptO q (bindPort s d c b) := by
  unfold bindPort
  try dsimp only
  with_reducible repeat' first | assumption | apply setDale_kept | split | apply kept_some | exact kept_none | refine kept_of_some (by assumption) ?_

theorem beginRecv_kept {s : State} {d : Nat} {c : Nat} {b : Block} (hs : Kept q s) :
    Kept q (beginRecv s d c b) := by
  unfold beginRecv
  try dsimp only
  with_reducible repeat' first | assumption | apply mcastReady_kept | apply haltOne_kept | apply handNotice_kept | apply updDale_kept | split

theorem beginSend_kept {s : State} {d : Nat} {c : Nat} {b : Block} (hs : Kept q s) :
    Kept q (beginSend s d c b) := by
  unfold beginSend
  try dsimp only
  with_reducible repeat' first | assumption | apply haltChannel_kept | apply setFront_kept | apply updDale_kept | split

theorem beginMcast_kept {s : State} {d : Nat} {c : Nat} {b : Block} (hs : Kept q s) :
    Kept q (beginMcast s d c b) := by
  unfold beginMcast
  try dsimp only
  with_reducible repeat' first | assumption | apply beginSend_kept | apply beginRecv_kept | split

theorem startFront_kept {s : State} {d : Nat} {c : Nat} (hs : Kept q s) :
    Kept q (startFront s d c) := by
  unfold startFront
  try dsimp only
  with_reducible repeat' first | assumption | apply beginMcast_kept | apply bindPort_kept | apply clearFill_kept | apply haltChannel_kept | apply setFront_kept | split | apply kept_some | exact kept_none | refine kept_of_some (by assumption) ?_

theorem startAll_kept {s : State} {d : Nat} (hs : Kept q s) :
    Kept q (startAll s d) := by
  unfold startAll
  try dsimp only
  with_reducible repeat' first | assumption | intro _ _ _ | intro _ _ | intro _ | apply startFront_kept | apply kept_foldl | apply kept_foldl1 | refine kept_fst (by assumption) ?_ | dsimp only

theorem completeBlock_kept {s : State} {d : Nat} {c : Nat} (hs : Kept q s) :
    Kept q (completeBlock s d c) := by
  unfold completeBlock
  try dsimp only
  with_reducible repeat' first | assumption | apply startAll_kept | apply startFront_kept | apply formSig_kept | apply sendMcastAck_kept | apply unbindPort_kept | apply updChan_kept | apply updDale_kept | split

theorem fillRow_kept {s : State} {d : Nat} {c : Nat} {b : Block} {t : Slot} {r : Nat} (hs : Kept q s) :
    Kept q (fillRow s d c b t r) := by
  unfold fillRow
  try dsimp only
  with_reducible repeat' first | assumption | apply setFront_kept | apply writeRow_kept | apply countNan_kept | apply countSat_kept | apply odBump_kept | split

theorem fillArrived_kept {s : State} {d : Nat} {c : Nat} (hs : Kept q s) :
    Kept q (fillArrived s d c) := by
  unfold fillArrived
  try dsimp only
  with_reducible repeat' first | assumption | intro _ _ _ | intro _ _ | intro _ | apply fillRow_kept | apply completeBlock_kept | apply kept_foldl | apply kept_foldl1 | split | refine kept_fst (by assumption) ?_ | dsimp only

theorem relayRow_kept {s : State} {d : Nat} {b : Block} {row : Nat} (hs : Kept q s) :
    Kept q (relayRow s d b row) := by
  unfold relayRow
  try dsimp only
  with_reducible repeat' first | assumption | intro _ _ _ | intro _ _ | intro _ | apply handPacket_kept | apply kept_foldl | apply kept_foldl1 | refine kept_fst (by assumption) ?_ | dsimp only

theorem relayArrived_kept {s : State} {d : Nat} {c : Nat} (hs : Kept q s) :
    Kept q (relayArrived s d c) := by
  unfold relayArrived
  try dsimp only
  with_reducible repeat' first | assumption | intro _ _ _ | intro _ _ | intro _ | apply relayRow_kept | apply setFront_kept | apply kept_foldl | apply kept_foldl1 | split | refine kept_fst (by assumption) ?_ | dsimp only

theorem checkMcast_kept {s : State} {d : Nat} {ch : Nat} (hs : Kept q s) :
    Kept q (checkMcast s d ch) := by
  unfold checkMcast
  try dsimp only
  with_reducible repeat' first | assumption | apply completeBlock_kept | split

theorem checkMcasts_kept {s : State} {d : Nat} (hs : Kept q s) :
    Kept q (checkMcasts s d) := by
  unfold checkMcasts
  try dsimp only
  with_reducible repeat' first | assumption | intro _ _ _ | intro _ _ | intro _ | apply checkMcast_kept | apply kept_foldl | apply kept_foldl1 | refine kept_fst (by assumption) ?_ | dsimp only

theorem deliverPiece_kept {s : State} {d : Nat} {c : Nat} {row : Nat} {off : Nat} {bs : List Byte} {poison : Bool} (hs : Kept q s) :
    Kept q (deliverPiece s d c row off bs poison) := by
  unfold deliverPiece
  try dsimp only
  with_reducible repeat' first | assumption | apply relayArrived_kept | apply fillArrived_kept | apply setFront_kept | split

theorem checkOutbound_kept {s : State} {d : Nat} {c : Nat} (hs : Kept q s) :
    Kept q (checkOutbound s d c) := by
  unfold checkOutbound
  try dsimp only
  with_reducible repeat' first | assumption | apply completeBlock_kept | split

theorem ackPiece_kept {s : State} {d : Nat} {c : Nat} {len : Nat} (hs : Kept q s) :
    Kept q (ackPiece s d c len) := by
  unfold ackPiece
  try dsimp only
  with_reducible repeat' first | assumption | apply checkOutbound_kept | apply setFront_kept | apply odBump_kept | split

theorem slotElems_kept {s : State} {d : Nat} {b : Block} {t : Slot} {r : Nat} (hs : Kept q s) :
    Kept q (slotElems s d b t r).1 := by
  unfold slotElems
  try dsimp only
  with_reducible repeat' first | assumption | apply readRow_kept | split | refine kept_fst (by assumption) ?_ | dsimp only

theorem outRow_kept {s : State} {d : Nat} {b : Block} {t : Slot} {row : Nat} {count : Bool} (hs : Kept q s) :
    Kept q (outRow s d b t row count).1 := by
  unfold outRow
  try dsimp only
  with_reducible repeat' first | assumption | intro _ _ _ | intro _ _ | intro _ | apply slotElems_kept | apply countNan_kept | apply countSat_kept | apply kept_foldl | apply kept_foldl1 | split | refine kept_fst (by assumption) ?_ | dsimp only

theorem countPoisonSent_kept {s : State} {d : Nat} {c : Nat} (hs : Kept q s) :
    Kept q (countPoisonSent s d c) := by
  unfold countPoisonSent
  try dsimp only
  with_reducible repeat' first | assumption | apply updDale_kept | apply odBump_kept | split

theorem portBeat_kept {s : State} {d : Nat} {b : Block} {t : Slot} {k : Nat} (hs : Kept q s) :
    Kept q (portBeat s d b t k).1 := by
  unfold portBeat
  try dsimp only
  with_reducible repeat' first | assumption | intro _ _ _ | intro _ _ | intro _ | apply slotElems_kept | apply countNan_kept | apply countSat_kept | apply kept_foldl | apply kept_foldl1 | split | refine kept_fst (by assumption) ?_ | dsimp only

theorem pumpBeat_kept {s : State} {d : Nat} {c : Nat} (hs : Kept q s) :
    Kept q (pumpBeat s d c) := by
  unfold pumpBeat
  try dsimp only
  with_reducible repeat' first | assumption | apply portBeat_kept | apply countPoisonSent_kept | apply setFront_kept | apply updDale_kept | split | refine kept_fst (by assumption) ?_ | dsimp only

theorem shadowBeat_kept {s : State} {d : Nat} {c : Nat} (hs : Kept q s) :
    Kept q (shadowBeat s d c) := by
  unfold shadowBeat
  try dsimp only
  with_reducible repeat' first | assumption | apply completeBlock_kept | apply setFront_kept | apply updDale_kept | split

theorem pumpPorts_kept {s : State} {d : Nat} (hs : Kept q s) :
    Kept q (pumpPorts s d) := by
  unfold pumpPorts
  try dsimp only
  with_reducible repeat' first | assumption | intro _ _ _ | intro _ _ | intro _ | apply shadowBeat_kept | apply pumpBeat_kept | apply kept_foldl | apply kept_foldl1 | refine kept_fst (by assumption) ?_ | dsimp only

theorem drainBeat_kept {s : State} {d : Nat} {z2 : Nat} (hs : Kept q s) :
    Kept q (drainBeat s d z2) := by
  unfold drainBeat
  try dsimp only
  with_reducible repeat' first | assumption | apply fillArrived_kept | apply setFront_kept | apply emitDale_kept | apply updDale_kept | apply odBump_kept | apply winSet_kept | split

theorem drainPort_kept {d r fuel : Nat} {s : State} (hs : Kept q s) : Kept q (drainPort d r fuel s) := by
  induction fuel generalizing s with
  | zero => exact hs
  | succ n ih => exact ih (drainBeat_kept hs)

theorem portMoves_kept {s : State} {d : Nat} (hs : Kept q s) :
    Kept q (portMoves s d) := by
  unfold portMoves
  try dsimp only
  with_reducible repeat' first | assumption | intro _ _ _ | intro _ _ | intro _ | apply drainPort_kept | apply pumpPorts_kept | apply startAll_kept | apply kept_foldl | apply kept_foldl1 | refine kept_fst (by assumption) ?_ | dsimp only

end Sys2Proof.Machine
end

