-- ==== Sys2Proof/Laws/KeptStream.lean ====
section
/-! SUPPORT. What the effects of Machine/Stream keep: the queue, the canonical form of memory, OTP (Laws/Kept.lean). -/
set_option linter.all false
namespace Sys2Proof.Machine

variable {q : Base}

theorem openList_kept {s : State} {d : Nat} {c : Nat} {off : Nat} (hs : Kept q s) :
    Kept q (openList s d c off) := by
  unfold openList
  try dsimp only
  with_reducible repeat' first | assumption | apply updChan_kept

theorem takeBlock_kept {s : State} {d : Nat} {c : Nat} (hs : Kept q s) :
    Kept q (takeBlock s d c) := by
  unfold takeBlock
  try dsimp only
  with_reducible repeat' first | assumption | apply updChan_kept | split

theorem sstartBind_kept {s : State} {d : Nat} {f : RInst} {desc : List W64} {no : Nat} {pc : Nat} (hs : Kept q s) :
    Kept q (sstartBind s d f desc no pc) := by
  unfold sstartBind
  try dsimp only
  with_reducible repeat' first | assumption | apply portMoves_kept | apply startFront_kept | apply poisonSlot_kept | apply updChan_kept | apply updDale_kept | split

theorem sstartState_kept {d : Nat} {f : RInst} {s : State} (hs : Kept q s) :
    Kept q (sstartState d f s) := by
  unfold sstartState
  try dsimp only
  with_reducible repeat' first | assumption | apply sstartBind_kept | apply takeBlock_kept | apply openList_kept | apply issued_kept | apply updDale_kept | split

theorem tcopyCheck_kept {d : Nat} {f : RInst} {s : State} {pc : Nat} (hs : Kept q s) :
    KeptO q (tcopyCheck d f s pc) := by
  unfold tcopyCheck
  try dsimp only
  with_reducible repeat' first | assumption | apply refuse_kept | split | apply kept_some | exact kept_none | refine kept_of_some (by assumption) ?_

theorem tcopyRows_kept {s : State} {d : Nat} {pc : Nat} {a : Slot} {t : Slot} {trans : Bool} (hs : Kept q s) :
    Kept q (tcopyRows s d pc a t trans).1 := by
  unfold tcopyRows
  try dsimp only
  with_reducible repeat' first | assumption | intro _ _ _ | intro _ _ | intro _ | apply readRow_kept | apply kept_foldl | apply kept_foldl1 | split | refine kept_fst (by assumption) ?_ | dsimp only

theorem tcopyBody_kept {d : Nat} {f : RInst} {pc : Nat} {s : State} (hs : Kept q s) :
    KeptO q (tcopyBody d f pc s) := by
  unfold tcopyBody
  try dsimp only
  with_reducible repeat' first | assumption | intro _ _ _ | intro _ _ | intro _ | apply tcopyRows_kept | apply clearFill_kept | apply fillAll_kept | apply writeRow_kept | apply countNan_kept | apply countSat_kept | apply kept_foldl | apply kept_foldl1 | split | apply kept_some | exact kept_none | refine kept_of_some (by assumption) ?_ | refine kept_fst (by assumption) ?_ | dsimp only

theorem tcopyRun_kept {d : Nat} {f : RInst} {pc : Nat} {s : State} (hs : Kept q s) : KeptO q (tcopyRun d f pc s) :=
  kept_mapO (tcopyBody_kept hs) fun _ h => updDale_kept h

theorem tcopyState_kept {d : Nat} {f : RInst} {s : State} (hs : Kept q s) :
    Kept q (tcopyState d f s) := by
  unfold tcopyState
  try dsimp only
  with_reducible repeat' first | assumption | apply tcopyRun_kept | apply tcopyCheck_kept | apply issued_kept | apply updDale_kept | apply kept_getD | split | apply kept_some | exact kept_none | refine kept_of_some (by assumption) ?_

theorem fetchBurst_kept {d fuel : Nat} {s : State} {off : Nat} {acc : List (List W64)} (hs : Kept q s) :
    Kept q (fetchBurst d fuel s off acc).1 := by
  induction fuel generalizing s off acc with
  | zero => exact hs
  | succ n ih =>
    unfold fetchBurst
    dsimp only
    repeat' split
    all_goals first | exact hs | exact storeRead_kept hs | exact ih (storeRead_kept hs)

theorem streamListFetchState_kept {d : Nat} {ch : Nat} {s : State} (hs : Kept q s) :
    Kept q (streamListFetchState d ch s) := by
  unfold streamListFetchState
  try dsimp only
  with_reducible repeat' first | assumption | apply fetchBurst_kept | apply haltChannel_kept | apply updChan_kept | split | refine kept_fst (by assumption) ?_ | dsimp only

theorem pieceRead_kept {s : State} {o : Origin} {st : Status} {bs : List Byte} {poison : Bool} (hs : Kept q s) :
    Kept q (pieceRead s o st bs poison) := by
  unfold pieceRead
  try dsimp only
  with_reducible repeat' first | assumption | apply deliverPiece_kept | apply haltChannel_kept | split

theorem pieceWritten_kept {s : State} {o : Origin} {st : Status} (hs : Kept q s) :
    Kept q (pieceWritten s o st) := by
  unfold pieceWritten
  try dsimp only
  with_reducible repeat' first | assumption | apply ackPiece_kept | apply haltChannel_kept | split

theorem queuePeer_kept {s : State} {port : Nat} {m : PeerMsg} (hs : Kept q s) :
    Kept q (queuePeer s port m) := by
  unfold queuePeer
  try dsimp only
  with_reducible repeat' first | assumption | refine kept_mk ?_

theorem sendPeer_kept {s : State} {port : Nat} {m : PeerMsg} {o : Option Origin} (hs : Kept q s) :
    Kept q (sendPeer s port m o) := by
  unfold sendPeer
  try dsimp only
  with_reducible repeat' first | assumption | apply queuePeer_kept | refine kept_mk ?_

theorem peerSend_kept {s : State} {m : PeerMsg} {o : Option Origin} (hs : Kept q s) :
    KeptO q (peerSend s m o) := by
  unfold peerSend
  try dsimp only
  with_reducible repeat' first | assumption | apply sendPeer_kept | apply updPipe_kept | split | apply kept_some | exact kept_none | refine kept_of_some (by assumption) ?_

theorem peerTag_kept {s : State} (hs : Kept q s) :
    Kept q (peerTag s).2 := by
  unfold peerTag
  try dsimp only
  with_reducible repeat' first | assumption | apply takeFree_kept | split | refine kept_fst (by assumption) ?_ | refine kept_snd (by assumption) ?_ | dsimp only

theorem issuePiece_kept {s : State} {d : Nat} {c : Nat} {b : Block} (hs : Kept q s) :
    Kept q (issuePiece s d c b) := by
  unfold issuePiece
  try dsimp only
  with_reducible repeat' first | assumption | apply peerTag_kept | apply peerSend_kept | apply pieceRead_kept | apply countPoisonSent_kept | apply outRow_kept | apply ackPiece_kept | apply checkOutbound_kept | apply haltChannel_kept | apply setFront_kept | apply handRequest_kept | apply storeWrite_kept | apply storeRead_kept | apply kept_getD | split | apply kept_some | exact kept_none | refine kept_of_some (by assumption) ?_ | refine kept_fst (by assumption) ?_ | refine kept_snd (by assumption) ?_ | dsimp only | refine kept_mk ?_

theorem issueKey_kept {s : State} {d : Nat} {c : Nat} {b : Block} (hs : Kept q s) :
    Kept q (issueKey s d c b) := by
  unfold issueKey
  try dsimp only
  with_reducible repeat' first | assumption | apply haltChannel_kept | apply setFront_kept | apply storeRead_kept | split | refine kept_fst (by assumption) ?_ | dsimp only | refine kept_mk ?_

theorem streamRequestIssueState_kept {d : Nat} {s0 : State} (hs0 : Kept q s0) :
    Kept q (streamRequestIssueState d s0) := by
  unfold streamRequestIssueState
  try dsimp only
  with_reducible repeat' first | assumption | intro _ _ _ | intro _ _ | intro _ | apply issueKey_kept | apply issuePiece_kept | apply portMoves_kept | apply updChan_kept | apply kept_foldl | apply kept_foldl1 | split | refine kept_fst (by assumption) ?_ | dsimp only

theorem mcastDeliver_kept {s : State} {d : Nat} {p : Packet} (hs : Kept q s) :
    Kept q (mcastDeliver s d p) := by
  unfold mcastDeliver
  try dsimp only
  with_reducible repeat' first | assumption | apply checkMcasts_kept | apply fillArrived_kept | apply setFront_kept | split

theorem execSstart_kept {d : Nat} {f : RInst} {s : State} (hs : Kept q s) :
    KeptX q (execSstart d f s) := by
  unfold execSstart
  try dsimp only
  with_reducible repeat' first | assumption | apply sstartState_kept | apply guardUnit_kept | apply kept_next | exact kept_refused

theorem execTcopy_kept {d : Nat} {f : RInst} {s : State} (hs : Kept q s) :
    KeptX q (execTcopy d f s) := by
  unfold execTcopy
  try dsimp only
  with_reducible repeat' first | assumption | apply tcopyState_kept | apply guardUnit_kept | apply kept_next | exact kept_refused

theorem execStreamListFetch_kept {d : Nat} {ch : Nat} {s : State} (hs : Kept q s) :
    KeptX q (execStreamListFetch d ch s) := by
  unfold execStreamListFetch
  try dsimp only
  with_reducible repeat' first | assumption | apply streamListFetchState_kept | apply guardUnit_kept | apply kept_next | exact kept_refused

theorem execStreamRequestIssue_kept {d : Nat} {s : State} (hs : Kept q s) :
    KeptX q (execStreamRequestIssue d s) := by
  unfold execStreamRequestIssue
  try dsimp only
  with_reducible repeat' first | assumption | apply streamRequestIssueState_kept | apply guardUnit_kept | apply kept_next | exact kept_refused

end Sys2Proof.Machine
end

