-- ==== Sys2Proof/Laws/KeptSetUnit.lean ====
section
/-! SUPPORT. What the effects of Machine/SetUnit keep: the queue, the canonical form of memory, OTP (Laws/Kept.lean). -/
set_option linter.all false
namespace Sys2Proof.Machine

variable {q : Base}

theorem setCheck_kept {d : Nat} {op : Nat} {f : RInst} {s : State} {pc : Nat} (hs : Kept q s) :
    KeptO q (setCheck d op f s pc) := by
  unfold setCheck
  try dsimp only
  with_reducible repeat' first | assumption | apply refuse_kept | split | apply kept_some | exact kept_none | refine kept_of_some (by assumption) ?_

theorem setTake_kept {s : State} {d : Nat} {l : List (Nat × Nat)} (hs : Kept q s) :
    ∀ p, setTake s d l = some p → Kept q p.1 := by
  induction l generalizing s with
  | nil => intro p e; simp only [setTake, Option.some.injEq] at e; subst e; exact hs
  | cons a l ih =>
    intro p e
    unfold setTake at e
    dsimp only at e
    split at e
    · exact ih hs p e
    · split at e
      · cases e
      · split at e
        · cases e
        · rename_i t l' h
          cases e
          exact ih (takeBlock_kept hs) (t, l') h

theorem setBindOne_kept {d : Nat} {no : Nat} {pc : Nat} {s : State} {e : Nat × Nat × List W64} (hs : Kept q s) :
    Kept q (setBindOne d no pc s e) := by
  unfold setBindOne
  try dsimp only
  with_reducible repeat' first | assumption | apply startFront_kept | apply updChan_kept | split

theorem setSlotIn_kept {s : State} {d : Nat} {pc : Nat} {code : Nat} (hs : Kept q s) :
    Kept q (setSlotIn s d pc code).1 := by
  unfold setSlotIn
  try dsimp only
  with_reducible repeat' first | assumption | intro _ _ _ | intro _ _ | intro _ | apply readRow_kept | apply kept_foldl | apply kept_foldl1 | split | refine kept_fst (by assumption) ?_ | dsimp only

theorem setIn_kept {s : State} {d : Nat} {no : Nat} {pc : Nat} {role : Nat} {code : Nat} (hs : Kept q s) :
    Kept q (setIn s d no pc role code).1 := by
  unfold setIn
  try dsimp only
  with_reducible repeat' first | assumption | apply setSlotIn_kept | split | refine kept_fst (by assumption) ?_ | dsimp only

theorem setSlotOut_kept {s : State} {d : Nat} {pc : Nat} {code : Nat} {bs : List Byte} {marked : Bool} (hs : Kept q s) :
    Kept q (setSlotOut s d pc code bs marked) := by
  unfold setSlotOut
  try dsimp only
  with_reducible repeat' first | assumption | intro _ _ _ | intro _ _ | intro _ | apply clearFill_kept | apply fillAll_kept | apply markRow_kept | apply writeRow_kept | apply kept_foldl | apply kept_foldl1 | split | refine kept_fst (by assumption) ?_ | dsimp only

theorem setChanOut_kept {s : State} {d : Nat} {no : Nat} {pc : Nat} {role : Nat} {c : Nat} {w : List W64} {bs : List Byte} {marked : Bool} (hs : Kept q s) :
    Kept q (setChanOut s d no pc role c w bs marked) := by
  unfold setChanOut
  try dsimp only
  with_reducible repeat' first | assumption | apply checkOutbound_kept | apply startFront_kept | apply updChan_kept | split

theorem setOut_kept {s : State} {d : Nat} {no : Nat} {pc : Nat} {role : Nat} {code : Nat} {takes : List (Nat × Nat × List W64)} {bs : List Byte} {marked : Bool} (hs : Kept q s) :
    Kept q (setOut s d no pc role code takes bs marked) := by
  unfold setOut
  try dsimp only
  with_reducible repeat' first | assumption | apply setChanOut_kept | apply setSlotOut_kept | apply kept_getD | split

theorem setRelease_kept {s : State} {d : Nat} {no : Nat} {f : RInst} (hs : Kept q s) :
    Kept q (setRelease s d no f) := by
  unfold setRelease
  try dsimp only
  with_reducible repeat' first | assumption | intro _ _ _ | intro _ _ | intro _ | apply completeBlock_kept | apply kept_foldl | apply kept_foldl1 | split | refine kept_fst (by assumption) ?_ | dsimp only

theorem setOuts_kept {s : State} {d : Nat} {f : RInst} {e : QEnt} {takes : List (Nat × Nat × List W64)} {r : SetRun} {marked : Bool} (hs : Kept q s) :
    Kept q (setOuts s d f e takes r marked) := by
  unfold setOuts
  try dsimp only
  with_reducible repeat' first | assumption | apply setOut_kept | split

theorem setUnsortedEnd_kept {s : State} {d : Nat} {pc : Nat} {r : SetRun} (hs : Kept q s) :
    Kept q (setUnsortedEnd s d pc r) := by
  unfold setUnsortedEnd
  try dsimp only
  with_reducible repeat' first | assumption | apply trapDale_kept | apply emitDale_kept | apply odBump_kept | split

theorem setEffect_kept {s : State} {d : Nat} {op : SetOp} {f : RInst} {e : QEnt} {takes : List (Nat × Nat × List W64)} {a : List Byte} {b : List Byte} {mark : Option (Nat × Nat)} (hs : Kept q s) :
    Kept q (setEffect s d op f e takes a b mark) := by
  unfold setEffect
  try dsimp only
  with_reducible repeat' first | assumption | apply setUnsortedEnd_kept | apply setOuts_kept | apply parityTrap_kept | apply trapPoison_kept | apply updDale_kept | apply odBump_kept | split

theorem setAdvance_kept {s : State} {d : Nat} {op : SetOp} (hs : Kept q s) :
    Kept q (setAdvance s d op) := by
  unfold setAdvance
  try dsimp only
  with_reducible repeat' first | assumption | intro _ _ _ | intro _ _ | intro _ | apply setEffect_kept | apply setRelease_kept | apply setIn_kept | apply setBindOne_kept | apply updDale_kept | apply kept_foldl | apply kept_foldl1 | split | refine kept_fst (by assumption) ?_ | dsimp only

theorem setIssue_kept {s : State} {d opc : Nat} {f : RInst} (hs : Kept q s) : KeptO q (setIssue s d opc f) := by
  unfold setIssue
  dsimp only
  split
  · exact kept_none
  · rename_i t l' h
    exact kept_some (updDale_kept (issued_kept (setTake_kept hs (t, l') h)))

theorem runSet_kept {s : State} {d : Nat} {opc : Nat} {op : SetOp} {f : RInst} (hs : Kept q s) :
    Kept q (runSet s d opc op f) := by
  unfold runSet
  try dsimp only
  with_reducible repeat' first | assumption | apply setIssue_kept | apply setAdvance_kept | apply setCheck_kept | split | apply kept_some | exact kept_none | refine kept_of_some (by assumption) ?_

theorem sinterState_kept {d : Nat} {f : RInst} {s : State} (hs : Kept q s) :
    Kept q (sinterState d f s) := by
  unfold sinterState
  try dsimp only
  with_reducible repeat' first | assumption | apply runSet_kept

theorem smergeState_kept {d : Nat} {f : RInst} {s : State} (hs : Kept q s) :
    Kept q (smergeState d f s) := by
  unfold smergeState
  try dsimp only
  with_reducible repeat' first | assumption | apply runSet_kept

theorem sdiffState_kept {d : Nat} {f : RInst} {s : State} (hs : Kept q s) :
    Kept q (sdiffState d f s) := by
  unfold sdiffState
  try dsimp only
  with_reducible repeat' first | assumption | apply runSet_kept

theorem execSinter_kept {d : Nat} {f : RInst} {s : State} (hs : Kept q s) :
    KeptX q (execSinter d f s) := by
  unfold execSinter
  try dsimp only
  with_reducible repeat' first | assumption | apply sinterState_kept | apply guardUnit_kept | apply kept_next | exact kept_refused

theorem execSmerge_kept {d : Nat} {f : RInst} {s : State} (hs : Kept q s) :
    KeptX q (execSmerge d f s) := by
  unfold execSmerge
  try dsimp only
  with_reducible repeat' first | assumption | apply smergeState_kept | apply guardUnit_kept | apply kept_next | exact kept_refused

theorem execSdiff_kept {d : Nat} {f : RInst} {s : State} (hs : Kept q s) :
    KeptX q (execSdiff d f s) := by
  unfold execSdiff
  try dsimp only
  with_reducible repeat' first | assumption | apply sdiffState_kept | apply guardUnit_kept | apply kept_next | exact kept_refused

end Sys2Proof.Machine
end

