-- ==== Sys2Proof/Laws/KeptSteppeOps.lean ====
section
/-! SUPPORT. What the effects of Machine/SteppeOps keep: the queue, the canonical form of memory, OTP (Laws/Kept.lean). -/
set_option linter.all false
namespace Sys2Proof.Machine

variable {q : Base}

theorem setSector_kept {s : State} {k : Nat} {v : Sector} (hs : Kept q s) :
    Kept q (setSector s k v) := by
  unfold setSector
  try dsimp only
  with_reducible repeat' first | assumption | refine kept_mk ?_

theorem updSector_kept {s : State} {k : Nat} {f : Sector → Sector} (hs : Kept q s) :
    Kept q (updSector s k f) := by
  unfold updSector
  try dsimp only
  with_reducible repeat' first | assumption | apply setSector_kept

theorem setClock_kept {s : State} {g : Nat} {c : ClockGen} (hs : Kept q s) :
    Kept q (setClock s g c) := by
  unfold setClock
  try dsimp only
  with_reducible repeat' first | assumption | refine kept_mk ?_

theorem discardPorts_kept {s : State} {d : Nat} {cause : Nat} {st : Status} (hs : Kept q s) :
    Kept q (discardPorts s d cause st) := by
  unfold discardPorts
  try dsimp only
  with_reducible repeat' first | assumption | intro _ _ _ | intro _ _ | intro _ | apply startAll_kept | apply haltChannel_kept | apply updDale_kept | apply kept_foldl | apply kept_foldl1 | refine kept_fst (by assumption) ?_ | dsimp only

theorem emptyQueues_kept {s : State} {k : Nat} (hs : Kept q s) :
    Kept q (emptyQueues s k) := by
  unfold emptyQueues
  try dsimp only
  with_reducible repeat' first | assumption | apply updSector_kept

theorem cutRegion_kept {s : State} {r : Nat} (hs : Kept q s) :
    Kept q (cutRegion s r) := by
  unfold cutRegion
  try dsimp only
  with_reducible repeat' first | assumption | intro _ _ _ | intro _ _ | intro _ | apply emptyQueues_kept | apply discardPorts_kept | apply updDale_kept | apply kept_foldl | apply kept_foldl1 | refine kept_fst (by assumption) ?_ | dsimp only

theorem releaseRegion_kept {s : State} {r : Nat} (hs : Kept q s) :
    Kept q (releaseRegion s r) := by
  unfold releaseRegion
  try dsimp only
  with_reducible repeat' first | assumption | intro _ _ _ | intro _ _ | intro _ | apply updDale_kept | apply kept_foldl | apply kept_foldl1 | split | refine kept_fst (by assumption) ?_ | dsimp only

end Sys2Proof.Machine
end

