-- ==== Sys2Proof/Laws/KeptPipeline.lean ====
section
/-! SUPPORT. What the effects of Machine/Pipeline keep: the queue, the canonical form of memory, OTP (Laws/Kept.lean). -/
set_option linter.all false
namespace Sys2Proof.Machine

variable {q : Base}

theorem stopIssue_kept {s : State} {d : Nat} (hs : Kept q s) :
    Kept q (stopIssue s d) := by
  unfold stopIssue
  try dsimp only
  with_reducible repeat' first | assumption | apply updDale_kept

theorem haltPipe_kept {s : State} {p : Nat} {cause : Option Status} (hs : Kept q s) :
    Kept q (haltPipe s p cause) := by
  unfold haltPipe
  try dsimp only
  with_reducible repeat' first | assumption | intro _ _ _ | intro _ _ | intro _ | apply stopIssue_kept | apply cutRegion_kept | apply setPipe_kept | apply kept_foldl | apply kept_foldl1 | split | refine kept_fst (by assumption) ?_ | dsimp only

theorem reportDale_kept {s : State} {d : Nat} {st : Status} (hs : Kept q s) :
    Kept q (reportDale s d st) := by
  unfold reportDale
  try dsimp only
  with_reducible repeat' first | assumption | apply haltPipe_kept | apply setPipe_kept | split

end Sys2Proof.Machine
end

