-- ==== Sys2Proof/Laws/KeptSync.lean ====
section
/-! SUPPORT. What the effects of Machine/Sync keep: the queue, the canonical form of memory, OTP (Laws/Kept.lean). -/
set_option linter.all false
namespace Sys2Proof.Machine

variable {q : Base}

theorem finishWait_kept {s : State} {d : Nat} {deg : Bool} (hs : Kept q s) :
    Kept q (finishWait s d deg) := by
  unfold finishWait
  try dsimp only
  with_reducible repeat' first | assumption | apply updDale_kept | split

theorem partnerFollows_kept {s : State} {d : Nat} (hs : Kept q s) :
    Kept q (partnerFollows s d) := by
  unfold partnerFollows
  try dsimp only
  with_reducible repeat' first | assumption | apply finishWait_kept | split

theorem completeWait_kept {s : State} {d : Nat} {deg : Bool} (hs : Kept q s) :
    Kept q (completeWait s d deg) := by
  unfold completeWait
  try dsimp only
  with_reducible repeat' first | assumption | apply partnerFollows_kept | apply finishWait_kept | split

theorem retryBlocked_kept {s : State} {d : Nat} (hs : Kept q s) :
    Kept q (retryBlocked s d) := by
  unfold retryBlocked
  try dsimp only
  with_reducible repeat' first | assumption | apply completeWait_kept | apply partnerFollows_kept | apply setDale_kept | split

theorem semAdd_kept {s : State} {d : Nat} {k : Nat} {amount : Nat} {initiator : Nat} (hs : Kept q s) :
    Kept q (semAdd s d k amount initiator) := by
  unfold semAdd
  try dsimp only
  with_reducible repeat' first | assumption | apply retryBlocked_kept | apply emitDale_kept | apply updDale_kept | split

theorem setBarrier_kept {s : State} {key : Nat} {b : Barrier} (hs : Kept q s) :
    Kept q (setBarrier s key b) := by
  unfold setBarrier
  try dsimp only
  with_reducible repeat' first | assumption | refine kept_mk ?_

theorem barrierRelease_kept {s : State} {key : Nat} (hs : Kept q s) :
    Kept q (barrierRelease s key) := by
  unfold barrierRelease
  try dsimp only
  with_reducible repeat' first | assumption | intro _ _ _ | intro _ _ | intro _ | apply setBarrier_kept | apply completeWait_kept | apply kept_foldl | apply kept_foldl1 | split | refine kept_fst (by assumption) ?_ | dsimp only

theorem barrierArrive_kept {s : State} {key : Nat} {d : Nat} (hs : Kept q s) :
    Kept q (barrierArrive s key d) := by
  unfold barrierArrive
  try dsimp only
  with_reducible repeat' first | assumption | apply barrierRelease_kept | apply setBarrier_kept | split

theorem barrierRemove_kept {s : State} {d : Nat} (hs : Kept q s) :
    Kept q (barrierRemove s d) := by
  unfold barrierRemove
  try dsimp only
  with_reducible repeat' first | assumption | intro _ _ _ | intro _ _ | intro _ | apply barrierRelease_kept | apply setBarrier_kept | apply emitPlain_kept | apply kept_foldl | apply kept_foldl1 | split | refine kept_fst (by assumption) ?_ | dsimp only

theorem trapGone_kept {s : State} {d : Nat} {dir : Nat} {line : Nat} {st : Status} {n : Nat} {pc : Nat} (hs : Kept q s) :
    Kept q (trapGone s d dir line st n pc) := by
  unfold trapGone
  try dsimp only
  with_reducible repeat' first | assumption | apply trapDale_kept | apply emitDale_kept

theorem syncGone_kept {s : State} {d : Nat} {dir : Nat} {st : Status} {n : Nat} (hs : Kept q s) :
    Kept q (syncGone s d dir st n) := by
  unfold syncGone
  try dsimp only
  with_reducible repeat' first | assumption | intro _ _ _ | intro _ _ | intro _ | apply trapGone_kept | apply updDale_kept | apply kept_foldl | apply kept_foldl1 | split | refine kept_fst (by assumption) ?_ | dsimp only

theorem neighboursGone_kept {s : State} {n : Nat} {st : Status} (hs : Kept q s) :
    Kept q (neighboursGone s n st) := by
  unfold neighboursGone
  try dsimp only
  with_reducible repeat' first | assumption | intro _ _ _ | intro _ _ | intro _ | apply syncGone_kept | apply kept_foldl | apply kept_foldl1 | split | refine kept_fst (by assumption) ?_ | dsimp only

theorem lineCheck_kept {d : Nat} {inboundLine : Bool} {opc : Nat} {f : IInst} {s : State} {pc : Nat} (hs : Kept q s) :
    KeptO q (lineCheck d inboundLine opc f s pc) := by
  unfold lineCheck
  try dsimp only
  with_reducible repeat' first | assumption | apply trapGone_kept | apply refuse_kept | apply unissue_kept | split | apply kept_some | exact kept_none | refine kept_of_some (by assumption) ?_

theorem syRun_kept {s : State} {d : Nat} {opc : Nat} {f : IInst} {check : State → Nat → Option State} {body : Nat → Nat → State → Option State} (hs : Kept q s) (hcheck : ∀ y0 y1, Kept q y0 → KeptO q (check y0 y1)) (hbody : ∀ y0 y1 y2, Kept q y2 → KeptO q (body y0 y1 y2)) :
    Kept q (syRun s d opc f check body) := by
  unfold syRun
  try dsimp only
  with_reducible repeat' first | assumption | apply hbody | apply hcheck | apply issued_kept | apply updDale_kept | apply kept_getD | split | apply kept_some | exact kept_none | refine kept_of_some (by assumption) ?_

theorem signalBody_kept {d : Nat} {f : IInst} {z2 : Nat} {pc : Nat} {s : State} (hs : Kept q s) :
    KeptO q (signalBody d f z2 pc s) := by
  unfold signalBody
  try dsimp only
  with_reducible repeat' first | assumption | apply trapGone_kept | apply retryBlocked_kept | apply updDale_kept | split | apply kept_some | exact kept_none | refine kept_of_some (by assumption) ?_

theorem signalState_kept {d : Nat} {f : IInst} {s : State} (hs : Kept q s) :
    Kept q (signalState d f s) := by
  unfold signalState
  try dsimp only
  with_reducible repeat' first | assumption | intro _ _ | intro _ | apply signalBody_kept | apply syRun_kept | apply lineCheck_kept | apply kept_some | exact kept_none | refine kept_of_some (by assumption) ?_

theorem semincCheck_kept {d : Nat} {f : IInst} {s : State} {pc : Nat} (hs : Kept q s) :
    KeptO q (semincCheck d f s pc) := by
  unfold semincCheck
  try dsimp only
  with_reducible repeat' first | assumption | apply refuse_kept | split | apply kept_some | exact kept_none | refine kept_of_some (by assumption) ?_

theorem semincBody_kept {d : Nat} {f : IInst} {z2 : Nat} {pc : Nat} {s : State} (hs : Kept q s) :
    KeptO q (semincBody d f z2 pc s) := by
  unfold semincBody
  try dsimp only
  with_reducible repeat' first | assumption | apply semAdd_kept | apply handRequest_kept | apply kept_getD | split | apply kept_some | exact kept_none | refine kept_of_some (by assumption) ?_

theorem semincState_kept {d : Nat} {f : IInst} {s : State} (hs : Kept q s) :
    Kept q (semincState d f s) := by
  unfold semincState
  try dsimp only
  with_reducible repeat' first | assumption | intro _ _ | intro _ | apply semincBody_kept | apply semincCheck_kept | apply syRun_kept | apply kept_some | exact kept_none | refine kept_of_some (by assumption) ?_

theorem blockRun_kept {s : State} {d : Nat} {opc : Nat} {f : IInst} {check : State → Nat → Option State} {enter : State → State} (hs : Kept q s) (hcheck : ∀ y0 y1, Kept q y0 → KeptO q (check y0 y1)) (henter : ∀ y0, Kept q y0 → Kept q (enter y0)) :
    Kept q (blockRun s d opc f check enter) := by
  unfold blockRun
  try dsimp only
  with_reducible repeat' first | assumption | apply henter | apply hcheck | apply issued_kept | apply updDale_kept | split | apply kept_some | exact kept_none | refine kept_of_some (by assumption) ?_

theorem waitState_kept {d : Nat} {f : IInst} {s : State} (hs : Kept q s) :
    Kept q (waitState d f s) := by
  unfold waitState
  try dsimp only
  with_reducible repeat' first | assumption | intro _ _ | intro _ | apply blockRun_kept | apply lineCheck_kept | apply retryBlocked_kept | apply kept_some | exact kept_none | refine kept_of_some (by assumption) ?_

theorem semwaitState_kept {d : Nat} {f : IInst} {s : State} (hs : Kept q s) :
    Kept q (semwaitState d f s) := by
  unfold semwaitState
  try dsimp only
  with_reducible repeat' first | assumption | intro _ _ | intro _ | apply blockRun_kept | apply retryBlocked_kept | apply kept_some | exact kept_none | refine kept_of_some (by assumption) ?_

theorem arriveState_kept {d : Nat} {f : IInst} {s : State} (hs : Kept q s) :
    Kept q (arriveState d f s) := by
  unfold arriveState
  try dsimp only
  with_reducible repeat' first | assumption | intro _ _ | intro _ | apply blockRun_kept | apply barrierArrive_kept | apply partnerFollows_kept | apply refuse_kept | split | apply kept_some | exact kept_none | refine kept_of_some (by assumption) ?_

theorem execSignal_kept {d : Nat} {f : IInst} {s : State} (hs : Kept q s) :
    KeptX q (execSignal d f s) := by
  unfold execSignal
  try dsimp only
  with_reducible repeat' first | assumption | apply signalState_kept | apply guardUnit_kept | apply kept_next | exact kept_refused

theorem execWait_kept {d : Nat} {f : IInst} {s : State} (hs : Kept q s) :
    KeptX q (execWait d f s) := by
  unfold execWait
  try dsimp only
  with_reducible repeat' first | assumption | apply waitState_kept | apply guardUnit_kept | apply kept_next | exact kept_refused

theorem execArrive_kept {d : Nat} {f : IInst} {s : State} (hs : Kept q s) :
    KeptX q (execArrive d f s) := by
  unfold execArrive
  try dsimp only
  with_reducible repeat' first | assumption | apply arriveState_kept | apply guardUnit_kept | apply kept_next | exact kept_refused

theorem execSemwait_kept {d : Nat} {f : IInst} {s : State} (hs : Kept q s) :
    KeptX q (execSemwait d f s) := by
  unfold execSemwait
  try dsimp only
  with_reducible repeat' first | assumption | apply semwaitState_kept | apply guardUnit_kept | apply kept_next | exact kept_refused

theorem execSeminc_kept {d : Nat} {f : IInst} {s : State} (hs : Kept q s) :
    KeptX q (execSeminc d f s) := by
  unfold execSeminc
  try dsimp only
  with_reducible repeat' first | assumption | apply semincState_kept | apply guardUnit_kept | apply kept_next | exact kept_refused

end Sys2Proof.Machine
end

