-- ==== Sys2Proof/Laws/KeptSequencer.lean ====
section
/-! SUPPORT. What the effects of Machine/Sequencer keep: the queue, the canonical form of memory, OTP (Laws/Kept.lean). -/
set_option linter.all false
namespace Sys2Proof.Machine

variable {q : Base}

theorem noTrap_kept {z0 : State} {z1 : Nat} (hz0 : Kept q z0) :
    KeptO q (noTrap z0 z1) := by
  unfold noTrap
  try dsimp only
  with_reducible repeat' first | assumption | apply kept_some | exact kept_none | refine kept_of_some (by assumption) ?_

theorem aluRR_kept {s : State} {d : Nat} {o : Nat} {f : RInst} {fn : W64 → W64 → W64} (hs : Kept q s) :
    Kept q (aluRR s d o f fn) := by
  unfold aluRR
  try dsimp only
  with_reducible repeat' first | assumption | intro _ _ | intro _ | apply noTrap_kept | apply seqRun_kept | apply updDale_kept | apply kept_some | exact kept_none | refine kept_of_some (by assumption) ?_

theorem aluRI_kept {s : State} {d : Nat} {o : Nat} {f : IInst} {fn : W64 → W64 → W64} (hs : Kept q s) :
    Kept q (aluRI s d o f fn) := by
  unfold aluRI
  try dsimp only
  with_reducible repeat' first | assumption | intro _ _ | intro _ | apply noTrap_kept | apply seqRun_kept | apply updDale_kept | apply kept_some | exact kept_none | refine kept_of_some (by assumption) ?_

theorem addState_kept {d : Nat} {f : RInst} {s : State} (hs : Kept q s) :
    Kept q (addState d f s) := by
  unfold addState
  try dsimp only
  with_reducible repeat' first | assumption | apply aluRR_kept

theorem subState_kept {d : Nat} {f : RInst} {s : State} (hs : Kept q s) :
    Kept q (subState d f s) := by
  unfold subState
  try dsimp only
  with_reducible repeat' first | assumption | apply aluRR_kept

theorem andState_kept {d : Nat} {f : RInst} {s : State} (hs : Kept q s) :
    Kept q (andState d f s) := by
  unfold andState
  try dsimp only
  with_reducible repeat' first | assumption | apply aluRR_kept

theorem orState_kept {d : Nat} {f : RInst} {s : State} (hs : Kept q s) :
    Kept q (orState d f s) := by
  unfold orState
  try dsimp only
  with_reducible repeat' first | assumption | apply aluRR_kept

theorem xorState_kept {d : Nat} {f : RInst} {s : State} (hs : Kept q s) :
    Kept q (xorState d f s) := by
  unfold xorState
  try dsimp only
  with_reducible repeat' first | assumption | apply aluRR_kept

theorem shlState_kept {d : Nat} {f : RInst} {s : State} (hs : Kept q s) :
    Kept q (shlState d f s) := by
  unfold shlState
  try dsimp only
  with_reducible repeat' first | assumption | apply aluRR_kept

theorem shrState_kept {d : Nat} {f : RInst} {s : State} (hs : Kept q s) :
    Kept q (shrState d f s) := by
  unfold shrState
  try dsimp only
  with_reducible repeat' first | assumption | apply aluRR_kept

theorem sraState_kept {d : Nat} {f : RInst} {s : State} (hs : Kept q s) :
    Kept q (sraState d f s) := by
  unfold sraState
  try dsimp only
  with_reducible repeat' first | assumption | apply aluRR_kept

theorem addiState_kept {d : Nat} {f : IInst} {s : State} (hs : Kept q s) :
    Kept q (addiState d f s) := by
  unfold addiState
  try dsimp only
  with_reducible repeat' first | assumption | apply aluRI_kept

theorem subiState_kept {d : Nat} {f : IInst} {s : State} (hs : Kept q s) :
    Kept q (subiState d f s) := by
  unfold subiState
  try dsimp only
  with_reducible repeat' first | assumption | apply aluRI_kept

theorem andiState_kept {d : Nat} {f : IInst} {s : State} (hs : Kept q s) :
    Kept q (andiState d f s) := by
  unfold andiState
  try dsimp only
  with_reducible repeat' first | assumption | apply aluRI_kept

theorem oriState_kept {d : Nat} {f : IInst} {s : State} (hs : Kept q s) :
    Kept q (oriState d f s) := by
  unfold oriState
  try dsimp only
  with_reducible repeat' first | assumption | apply aluRI_kept

theorem xoriState_kept {d : Nat} {f : IInst} {s : State} (hs : Kept q s) :
    Kept q (xoriState d f s) := by
  unfold xoriState
  try dsimp only
  with_reducible repeat' first | assumption | apply aluRI_kept

theorem shliState_kept {d : Nat} {f : IInst} {s : State} (hs : Kept q s) :
    Kept q (shliState d f s) := by
  unfold shliState
  try dsimp only
  with_reducible repeat' first | assumption | apply aluRI_kept

theorem shriState_kept {d : Nat} {f : IInst} {s : State} (hs : Kept q s) :
    Kept q (shriState d f s) := by
  unfold shriState
  try dsimp only
  with_reducible repeat' first | assumption | apply aluRI_kept

theorem sraiState_kept {d : Nat} {f : IInst} {s : State} (hs : Kept q s) :
    Kept q (sraiState d f s) := by
  unfold sraiState
  try dsimp only
  with_reducible repeat' first | assumption | apply aluRI_kept

theorem mulState_kept {d : Nat} {f : RInst} {s : State} (hs : Kept q s) :
    Kept q (mulState d f s) := by
  unfold mulState
  try dsimp only
  with_reducible repeat' first | assumption | apply aluRR_kept

theorem liState_kept {d : Nat} {f : IInst} {s : State} (hs : Kept q s) :
    Kept q (liState d f s) := by
  unfold liState
  try dsimp only
  with_reducible repeat' first | assumption | intro _ _ | intro _ | apply noTrap_kept | apply seqRun_kept | apply updDale_kept | apply kept_some | exact kept_none | refine kept_of_some (by assumption) ?_

theorem lihState_kept {d : Nat} {f : IInst} {s : State} (hs : Kept q s) :
    Kept q (lihState d f s) := by
  unfold lihState
  try dsimp only
  with_reducible repeat' first | assumption | intro _ _ | intro _ | apply noTrap_kept | apply seqRun_kept | apply updDale_kept | apply kept_some | exact kept_none | refine kept_of_some (by assumption) ?_

theorem nopState_kept {d : Nat} {f : IInst} {s : State} (hs : Kept q s) :
    Kept q (nopState d f s) := by
  unfold nopState
  try dsimp only
  with_reducible repeat' first | assumption | intro _ _ | intro _ | apply noTrap_kept | apply seqRun_kept | apply kept_some | exact kept_none | refine kept_of_some (by assumption) ?_

theorem illegalState_kept {d : Nat} {z1 : IInst} {s : State} (hs : Kept q s) :
    Kept q (illegalState d z1 s) := by
  unfold illegalState
  try dsimp only
  with_reducible repeat' first | assumption | apply invalid_kept | split

theorem csrrState_kept {d : Nat} {f : IInst} {s : State} (hs : Kept q s) :
    Kept q (csrrState d f s) := by
  unfold csrrState
  try dsimp only
  with_reducible repeat' first | assumption | intro _ _ | intro _ | apply refuse_kept | apply seqRun_kept | apply updDale_kept | apply kept_getD | split | apply kept_some | exact kept_none | refine kept_of_some (by assumption) ?_

theorem accessCheck_kept {d : Nat} {o : Nat} {f : IInst} {s : State} {pc : Nat} (hs : Kept q s) :
    KeptO q (accessCheck d o f s pc) := by
  unfold accessCheck
  try dsimp only
  with_reducible repeat' first | assumption | apply refuse_kept | split | apply kept_some | exact kept_none | refine kept_of_some (by assumption) ?_

theorem ldRead_kept {d : Nat} {n : Nat} {off : Nat} {pc : Nat} {t : State} (ht : Kept q t) :
    Kept q (ldRead d n off pc t) := by
  unfold ldRead
  try dsimp only
  with_reducible repeat' first | assumption | apply zeroDests_kept | apply trapPoison_kept | apply storeRead_kept | apply updDale_kept | split | refine kept_fst (by assumption) ?_ | dsimp only

theorem ldBody_kept {d : Nat} {f : IInst} {pc : Nat} {t : State} (ht : Kept q t) :
    Kept q (ldBody d f pc t) := by
  unfold ldBody
  try dsimp only
  with_reducible repeat' first | assumption | apply ldRead_kept | apply updDale_kept | split

theorem ldState_kept {d : Nat} {f : IInst} {s : State} (hs : Kept q s) :
    Kept q (ldState d f s) := by
  unfold ldState
  try dsimp only
  with_reducible repeat' first | assumption | intro _ _ | intro _ | apply ldBody_kept | apply accessCheck_kept | apply seqRun_kept | apply kept_some | exact kept_none | refine kept_of_some (by assumption) ?_

theorem stState_kept {d : Nat} {f : IInst} {s : State} (hs : Kept q s) :
    Kept q (stState d f s) := by
  unfold stState
  try dsimp only
  with_reducible repeat' first | assumption | intro _ _ | intro _ | apply accessCheck_kept | apply localStore_kept | apply seqRun_kept | split | apply kept_some | exact kept_none | refine kept_of_some (by assumption) ?_

theorem branchCheck_kept {d : Nat} {o : Nat} {f : IInst} {taken : Dale → Bool} {s : State} {pc : Nat} (hs : Kept q s) :
    KeptO q (branchCheck d o f taken s pc) := by
  unfold branchCheck
  try dsimp only
  with_reducible repeat' first | assumption | apply invalid_kept | split | apply kept_some | exact kept_none | refine kept_of_some (by assumption) ?_

theorem branch_kept {s : State} {d : Nat} {o : Nat} {f : IInst} {taken : Dale → Bool} (hs : Kept q s) :
    Kept q (branch s d o f taken) := by
  unfold branch
  try dsimp only
  with_reducible repeat' first | assumption | intro _ _ | intro _ | apply branchCheck_kept | apply seqRun_kept | apply updDale_kept | split | apply kept_some | exact kept_none | refine kept_of_some (by assumption) ?_

theorem beqState_kept {d : Nat} {f : IInst} {s : State} (hs : Kept q s) :
    Kept q (beqState d f s) := by
  unfold beqState
  try dsimp only
  with_reducible repeat' first | assumption | apply branch_kept

theorem bneState_kept {d : Nat} {f : IInst} {s : State} (hs : Kept q s) :
    Kept q (bneState d f s) := by
  unfold bneState
  try dsimp only
  with_reducible repeat' first | assumption | apply branch_kept

theorem bltState_kept {d : Nat} {f : IInst} {s : State} (hs : Kept q s) :
    Kept q (bltState d f s) := by
  unfold bltState
  try dsimp only
  with_reducible repeat' first | assumption | apply branch_kept

theorem bgeState_kept {d : Nat} {f : IInst} {s : State} (hs : Kept q s) :
    Kept q (bgeState d f s) := by
  unfold bgeState
  try dsimp only
  with_reducible repeat' first | assumption | apply branch_kept

theorem bltuState_kept {d : Nat} {f : IInst} {s : State} (hs : Kept q s) :
    Kept q (bltuState d f s) := by
  unfold bltuState
  try dsimp only
  with_reducible repeat' first | assumption | apply branch_kept

theorem bgeuState_kept {d : Nat} {f : IInst} {s : State} (hs : Kept q s) :
    Kept q (bgeuState d f s) := by
  unfold bgeuState
  try dsimp only
  with_reducible repeat' first | assumption | apply branch_kept

theorem bpanyState_kept {d : Nat} {f : IInst} {s : State} (hs : Kept q s) :
    Kept q (bpanyState d f s) := by
  unfold bpanyState
  try dsimp only
  with_reducible repeat' first | assumption | apply branch_kept

theorem bpnoneState_kept {d : Nat} {f : IInst} {s : State} (hs : Kept q s) :
    Kept q (bpnoneState d f s) := by
  unfold bpnoneState
  try dsimp only
  with_reducible repeat' first | assumption | apply branch_kept

theorem jalState_kept {d : Nat} {f : IInst} {s : State} (hs : Kept q s) :
    Kept q (jalState d f s) := by
  unfold jalState
  try dsimp only
  with_reducible repeat' first | assumption | intro _ _ | intro _ | apply branchCheck_kept | apply seqRun_kept | apply updDale_kept | apply kept_some | exact kept_none | refine kept_of_some (by assumption) ?_

theorem jrState_kept {d : Nat} {f : IInst} {s : State} (hs : Kept q s) :
    Kept q (jrState d f s) := by
  unfold jrState
  try dsimp only
  with_reducible repeat' first | assumption | intro _ _ | intro _ | apply invalid_kept | apply seqRun_kept | apply updDale_kept | split | apply kept_some | exact kept_none | refine kept_of_some (by assumption) ?_

theorem tdescBad_kept {d : Nat} {k : Nat} {cause : Nat} {t : State} {pc : Nat} (ht : Kept q t) :
    Kept q (tdescBad d k cause t pc) := by
  unfold tdescBad
  try dsimp only
  with_reducible repeat' first | assumption | apply unissue_kept

theorem tdescCheck_kept {d : Nat} {k : Nat} {off : Nat} {t : State} {pc : Nat} (ht : Kept q t) :
    KeptO q (tdescCheck d k off t pc) := by
  unfold tdescCheck
  try dsimp only
  with_reducible repeat' first | assumption | apply tdescBad_kept | apply trapPoison_kept | apply storeRead_kept | split | apply kept_some | exact kept_none | refine kept_of_some (by assumption) ?_ | refine kept_fst (by assumption) ?_ | dsimp only

theorem tdescBody_kept {d : Nat} {k : Nat} {off : Nat} {pc : Nat} {t : State} (ht : Kept q t) :
    Kept q (tdescBody d k off pc t) := by
  unfold tdescBody
  try dsimp only
  with_reducible repeat' first | assumption | apply storeRead_kept | apply updDale_kept | split | refine kept_fst (by assumption) ?_ | dsimp only

theorem tdescState_kept {d : Nat} {f : IInst} {s : State} (hs : Kept q s) :
    Kept q (tdescState d f s) := by
  unfold tdescState
  try dsimp only
  with_reducible repeat' first | assumption | intro _ _ | intro _ | apply tdescBody_kept | apply tdescCheck_kept | apply tdescBad_kept | apply seqRun_kept | split | apply kept_some | exact kept_none | refine kept_of_some (by assumption) ?_

theorem qsyncState_kept {d : Nat} {f : IInst} {s : State} (hs : Kept q s) :
    Kept q (qsyncState d f s) := by
  unfold qsyncState
  try dsimp only
  with_reducible repeat' first | assumption | intro _ _ | intro _ | apply noTrap_kept | apply seqRun_kept | split | apply kept_some | exact kept_none | refine kept_of_some (by assumption) ?_

theorem sendReport_kept {s : State} {d : Nat} {st : Status} (hs : Kept q s) :
    Kept q (sendReport s d st) := by
  unfold sendReport
  try dsimp only
  with_reducible repeat' first | assumption | apply sendAnswer_kept | apply updDale_kept | split

theorem endPart_kept {s : State} {d : Nat} {st : Status} (hs : Kept q s) :
    Kept q (endPart s d st) := by
  unfold endPart
  try dsimp only
  with_reducible repeat' first | assumption | apply updDale_kept

theorem shadowMismatch_kept {s : State} {p : Nat} {k : Nat} {kind : Nat} (hs : Kept q s) :
    Kept q (shadowMismatch s p k kind) := by
  unfold shadowMismatch
  try dsimp only
  with_reducible repeat' first | assumption | apply endPart_kept | apply sendReport_kept | apply markStruck_kept | apply odBump_kept | apply emit_kept | apply kept_getD | split

theorem comparePair_kept {s : State} {p : Nat} {kind : Nat} (hs : Kept q s) :
    Kept q (comparePair s p kind) := by
  unfold comparePair
  try dsimp only
  with_reducible repeat' first | assumption | apply shadowMismatch_kept | apply sendReport_kept | apply kept_getD | split

theorem endStepState_kept {d : Nat} {f : IInst} {s : State} (hs : Kept q s) :
    Kept q (endStepState d f s) := by
  unfold endStepState
  try dsimp only
  with_reducible repeat' first | assumption | intro _ _ | intro _ | apply comparePair_kept | apply endPart_kept | apply sendReport_kept | apply noTrap_kept | apply formSig_kept | apply seqRun_kept | split | apply kept_some | exact kept_none | refine kept_of_some (by assumption) ?_

theorem seqExec_kept {s : State} {d : Nat} {w : W64} (hs : Kept q s) :
    Kept q (seqExec s d w) := by
  unfold seqExec
  try dsimp only
  with_reducible repeat' first | assumption | apply endStepState_kept | apply qsyncState_kept | apply tdescState_kept | apply jrState_kept | apply jalState_kept | apply bpnoneState_kept | apply bpanyState_kept | apply bgeuState_kept | apply bltuState_kept | apply bgeState_kept | apply bltState_kept | apply bneState_kept | apply beqState_kept | apply stState_kept | apply ldState_kept | apply csrrState_kept | apply nopState_kept | apply lihState_kept | apply liState_kept | apply mulState_kept | apply sraiState_kept | apply shriState_kept | apply shliState_kept | apply xoriState_kept | apply oriState_kept | apply andiState_kept | apply subiState_kept | apply addiState_kept | apply sraState_kept | apply shrState_kept | apply shlState_kept | apply xorState_kept | apply orState_kept | apply andState_kept | apply subState_kept | apply addState_kept | split

theorem queueCheck_kept {d : Nat} {w : W64} {s : State} {pc : Nat} (hs : Kept q s) :
    KeptO q (queueCheck d w s pc) := by
  unfold queueCheck
  try dsimp only
  with_reducible repeat' first | assumption | apply semincCheck_kept | apply lineCheck_kept | apply tcopyCheck_kept | apply mmulCheck_kept | apply drawCheck_kept | apply sfnCheck_kept | apply vecCheck_kept | split | apply kept_some | exact kept_none | refine kept_of_some (by assumption) ?_

theorem enqueue_kept {s : State} {d : Nat} {w : W64} {desc : List W64} (hs : Kept q s) :
    Kept q (enqueue s d w desc) := by
  unfold enqueue
  try dsimp only
  with_reducible repeat' first | assumption | apply issued_kept | apply updDale_kept

theorem queueIssue_kept {s : State} {d : Nat} {w : W64} (hs : Kept q s) :
    Kept q (queueIssue s d w) := by
  unfold queueIssue
  try dsimp only
  with_reducible repeat' first | assumption | apply enqueue_kept | apply queueCheck_kept | apply setIssue_kept | apply setCheck_kept | apply takeBlock_kept | apply openList_kept | apply kept_getD | split | apply kept_some | exact kept_none | refine kept_of_some (by assumption) ?_

theorem blockIssue_kept {s : State} {d : Nat} {w : W64} (hs : Kept q s) :
    Kept q (blockIssue s d w) := by
  unfold blockIssue
  try dsimp only
  with_reducible repeat' first | assumption | apply arriveState_kept | apply semwaitState_kept | apply waitState_kept | split

theorem stalled_kept {s : State} {d : Nat} (hs : Kept q s) :
    Kept q (stalled s d) := by
  unfold stalled
  try dsimp only
  with_reducible repeat' first | assumption | apply updDale_kept

theorem issueWord_kept {s : State} {d : Nat} {w : W64} (hs : Kept q s) :
    Kept q (issueWord s d w) := by
  unfold issueWord
  try dsimp only
  with_reducible repeat' first | assumption | apply blockIssue_kept | apply queueIssue_kept | apply seqExec_kept | apply invalid_kept | split

theorem imemCorrect_kept {s : State} {d : Nat} {k : Nat} {w : ImemWord} {v : Nat} (hs : Kept q s) :
    Kept q (imemCorrect s d k w v) := by
  unfold imemCorrect
  try dsimp only
  with_reducible repeat' first | assumption | apply emitDale_kept | apply updDale_kept | apply odBump_kept | split

theorem fetchFail_kept {s : State} {d : Nat} {pc : Nat} {synd : Nat} (hs : Kept q s) :
    Kept q (fetchFail s d pc synd) := by
  unfold fetchFail
  try dsimp only
  with_reducible repeat' first | assumption | apply trapDale_kept | apply emitStrike_kept | apply odBump_kept

theorem fetchIssue_kept {s : State} {d : Nat} (hs : Kept q s) :
    Kept q (fetchIssue s d) := by
  unfold fetchIssue
  try dsimp only
  with_reducible repeat' first | assumption | apply fetchFail_kept | apply imemCorrect_kept | apply issueWord_kept | apply invalid_kept | split

theorem heldStep_kept {s : State} {d : Nat} (hs : Kept q s) :
    Kept q (heldStep s d) := by
  unfold heldStep
  try dsimp only
  with_reducible repeat' first | assumption | apply stalled_kept | apply odBump_kept | split

theorem sequencerFetchState_kept {d : Nat} {s : State} (hs : Kept q s) :
    Kept q (sequencerFetchState d s) := by
  unfold sequencerFetchState
  try dsimp only
  with_reducible repeat' first | assumption | apply heldStep_kept | apply fetchIssue_kept | apply stalled_kept | split

theorem trapDrainedState_kept {d : Nat} {s : State} (hs : Kept q s) :
    Kept q (trapDrainedState d s) := by
  unfold trapDrainedState
  try dsimp only
  with_reducible repeat' first | assumption | apply sendReport_kept | apply updDale_kept | split

theorem execSequencerFetch_kept {d : Nat} {s : State} (hs : Kept q s) :
    KeptX q (execSequencerFetch d s) := by
  unfold execSequencerFetch
  try dsimp only
  with_reducible repeat' first | assumption | apply sequencerFetchState_kept | apply guardUnit_kept | apply kept_next | exact kept_refused

theorem execTrapDrained_kept {d : Nat} {s : State} (hs : Kept q s) :
    KeptX q (execTrapDrained d s) := by
  unfold execTrapDrained
  try dsimp only
  with_reducible repeat' first | assumption | apply trapDrainedState_kept | apply guardUnit_kept | apply kept_next | exact kept_refused

theorem execIllegal_kept {d : Nat} {f : IInst} {s : State} (hs : Kept q s) :
    KeptX q (execIllegal d f s) := by
  unfold execIllegal
  try dsimp only
  with_reducible repeat' first | assumption | apply illegalState_kept | apply guardUnit_kept | apply kept_next | exact kept_refused

theorem execNop_kept {d : Nat} {f : IInst} {s : State} (hs : Kept q s) :
    KeptX q (execNop d f s) := by
  unfold execNop
  try dsimp only
  with_reducible repeat' first | assumption | apply nopState_kept | apply guardUnit_kept | apply kept_next | exact kept_refused

theorem execEndStep_kept {d : Nat} {f : IInst} {s : State} (hs : Kept q s) :
    KeptX q (execEndStep d f s) := by
  unfold execEndStep
  try dsimp only
  with_reducible repeat' first | assumption | apply endStepState_kept | apply guardUnit_kept | apply kept_next | exact kept_refused

theorem execQsync_kept {d : Nat} {f : IInst} {s : State} (hs : Kept q s) :
    KeptX q (execQsync d f s) := by
  unfold execQsync
  try dsimp only
  with_reducible repeat' first | assumption | apply qsyncState_kept | apply guardUnit_kept | apply kept_next | exact kept_refused

theorem execCsrr_kept {d : Nat} {f : IInst} {s : State} (hs : Kept q s) :
    KeptX q (execCsrr d f s) := by
  unfold execCsrr
  try dsimp only
  with_reducible repeat' first | assumption | apply csrrState_kept | apply guardUnit_kept | apply kept_next | exact kept_refused

theorem execTdesc_kept {d : Nat} {f : IInst} {s : State} (hs : Kept q s) :
    KeptX q (execTdesc d f s) := by
  unfold execTdesc
  try dsimp only
  with_reducible repeat' first | assumption | apply tdescState_kept | apply guardUnit_kept | apply kept_next | exact kept_refused

theorem execAdd_kept {d : Nat} {f : RInst} {s : State} (hs : Kept q s) :
    KeptX q (execAdd d f s) := by
  unfold execAdd
  try dsimp only
  with_reducible repeat' first | assumption | apply addState_kept | apply guardUnit_kept | apply kept_next | exact kept_refused

theorem execSub_kept {d : Nat} {f : RInst} {s : State} (hs : Kept q s) :
    KeptX q (execSub d f s) := by
  unfold execSub
  try dsimp only
  with_reducible repeat' first | assumption | apply subState_kept | apply guardUnit_kept | apply kept_next | exact kept_refused

theorem execAnd_kept {d : Nat} {f : RInst} {s : State} (hs : Kept q s) :
    KeptX q (execAnd d f s) := by
  unfold execAnd
  try dsimp only
  with_reducible repeat' first | assumption | apply andState_kept | apply guardUnit_kept | apply kept_next | exact kept_refused

theorem execOr_kept {d : Nat} {f : RInst} {s : State} (hs : Kept q s) :
    KeptX q (execOr d f s) := by
  unfold execOr
  try dsimp only
  with_reducible repeat' first | assumption | apply orState_kept | apply guardUnit_kept | apply kept_next | exact kept_refused

theorem execXor_kept {d : Nat} {f : RInst} {s : State} (hs : Kept q s) :
    KeptX q (execXor d f s) := by
  unfold execXor
  try dsimp only
  with_reducible repeat' first | assumption | apply xorState_kept | apply guardUnit_kept | apply kept_next | exact kept_refused

theorem execShl_kept {d : Nat} {f : RInst} {s : State} (hs : Kept q s) :
    KeptX q (execShl d f s) := by
  unfold execShl
  try dsimp only
  with_reducible repeat' first | assumption | apply shlState_kept | apply guardUnit_kept | apply kept_next | exact kept_refused

theorem execShr_kept {d : Nat} {f : RInst} {s : State} (hs : Kept q s) :
    KeptX q (execShr d f s) := by
  unfold execShr
  try dsimp only
  with_reducible repeat' first | assumption | apply shrState_kept | apply guardUnit_kept | apply kept_next | exact kept_refused

theorem execSra_kept {d : Nat} {f : RInst} {s : State} (hs : Kept q s) :
    KeptX q (execSra d f s) := by
  unfold execSra
  try dsimp only
  with_reducible repeat' first | assumption | apply sraState_kept | apply guardUnit_kept | apply kept_next | exact kept_refused

theorem execAddi_kept {d : Nat} {f : IInst} {s : State} (hs : Kept q s) :
    KeptX q (execAddi d f s) := by
  unfold execAddi
  try dsimp only
  with_reducible repeat' first | assumption | apply addiState_kept | apply guardUnit_kept | apply kept_next | exact kept_refused

theorem execSubi_kept {d : Nat} {f : IInst} {s : State} (hs : Kept q s) :
    KeptX q (execSubi d f s) := by
  unfold execSubi
  try dsimp only
  with_reducible repeat' first | assumption | apply subiState_kept | apply guardUnit_kept | apply kept_next | exact kept_refused

theorem execAndi_kept {d : Nat} {f : IInst} {s : State} (hs : Kept q s) :
    KeptX q (execAndi d f s) := by
  unfold execAndi
  try dsimp only
  with_reducible repeat' first | assumption | apply andiState_kept | apply guardUnit_kept | apply kept_next | exact kept_refused

theorem execOri_kept {d : Nat} {f : IInst} {s : State} (hs : Kept q s) :
    KeptX q (execOri d f s) := by
  unfold execOri
  try dsimp only
  with_reducible repeat' first | assumption | apply oriState_kept | apply guardUnit_kept | apply kept_next | exact kept_refused

theorem execXori_kept {d : Nat} {f : IInst} {s : State} (hs : Kept q s) :
    KeptX q (execXori d f s) := by
  unfold execXori
  try dsimp only
  with_reducible repeat' first | assumption | apply xoriState_kept | apply guardUnit_kept | apply kept_next | exact kept_refused

theorem execShli_kept {d : Nat} {f : IInst} {s : State} (hs : Kept q s) :
    KeptX q (execShli d f s) := by
  unfold execShli
  try dsimp only
  with_reducible repeat' first | assumption | apply shliState_kept | apply guardUnit_kept | apply kept_next | exact kept_refused

theorem execShri_kept {d : Nat} {f : IInst} {s : State} (hs : Kept q s) :
    KeptX q (execShri d f s) := by
  unfold execShri
  try dsimp only
  with_reducible repeat' first | assumption | apply shriState_kept | apply guardUnit_kept | apply kept_next | exact kept_refused

theorem execSrai_kept {d : Nat} {f : IInst} {s : State} (hs : Kept q s) :
    KeptX q (execSrai d f s) := by
  unfold execSrai
  try dsimp only
  with_reducible repeat' first | assumption | apply sraiState_kept | apply guardUnit_kept | apply kept_next | exact kept_refused

theorem execMul_kept {d : Nat} {f : RInst} {s : State} (hs : Kept q s) :
    KeptX q (execMul d f s) := by
  unfold execMul
  try dsimp only
  with_reducible repeat' first | assumption | apply mulState_kept | apply guardUnit_kept | apply kept_next | exact kept_refused

theorem execLi_kept {d : Nat} {f : IInst} {s : State} (hs : Kept q s) :
    KeptX q (execLi d f s) := by
  unfold execLi
  try dsimp only
  with_reducible repeat' first | assumption | apply liState_kept | apply guardUnit_kept | apply kept_next | exact kept_refused

theorem execLih_kept {d : Nat} {f : IInst} {s : State} (hs : Kept q s) :
    KeptX q (execLih d f s) := by
  unfold execLih
  try dsimp only
  with_reducible repeat' first | assumption | apply lihState_kept | apply guardUnit_kept | apply kept_next | exact kept_refused

theorem execLd_kept {d : Nat} {f : IInst} {s : State} (hs : Kept q s) :
    KeptX q (execLd d f s) := by
  unfold execLd
  try dsimp only
  with_reducible repeat' first | assumption | apply ldState_kept | apply guardUnit_kept | apply kept_next | exact kept_refused

theorem execSt_kept {d : Nat} {f : IInst} {s : State} (hs : Kept q s) :
    KeptX q (execSt d f s) := by
  unfold execSt
  try dsimp only
  with_reducible repeat' first | assumption | apply stState_kept | apply guardUnit_kept | apply kept_next | exact kept_refused

theorem execBeq_kept {d : Nat} {f : IInst} {s : State} (hs : Kept q s) :
    KeptX q (execBeq d f s) := by
  unfold execBeq
  try dsimp only
  with_reducible repeat' first | assumption | apply beqState_kept | apply guardUnit_kept | apply kept_next | exact kept_refused

theorem execBne_kept {d : Nat} {f : IInst} {s : State} (hs : Kept q s) :
    KeptX q (execBne d f s) := by
  unfold execBne
  try dsimp only
  with_reducible repeat' first | assumption | apply bneState_kept | apply guardUnit_kept | apply kept_next | exact kept_refused

theorem execBlt_kept {d : Nat} {f : IInst} {s : State} (hs : Kept q s) :
    KeptX q (execBlt d f s) := by
  unfold execBlt
  try dsimp only
  with_reducible repeat' first | assumption | apply bltState_kept | apply guardUnit_kept | apply kept_next | exact kept_refused

theorem execBge_kept {d : Nat} {f : IInst} {s : State} (hs : Kept q s) :
    KeptX q (execBge d f s) := by
  unfold execBge
  try dsimp only
  with_reducible repeat' first | assumption | apply bgeState_kept | apply guardUnit_kept | apply kept_next | exact kept_refused

theorem execBltu_kept {d : Nat} {f : IInst} {s : State} (hs : Kept q s) :
    KeptX q (execBltu d f s) := by
  unfold execBltu
  try dsimp only
  with_reducible repeat' first | assumption | apply bltuState_kept | apply guardUnit_kept | apply kept_next | exact kept_refused

theorem execBgeu_kept {d : Nat} {f : IInst} {s : State} (hs : Kept q s) :
    KeptX q (execBgeu d f s) := by
  unfold execBgeu
  try dsimp only
  with_reducible repeat' first | assumption | apply bgeuState_kept | apply guardUnit_kept | apply kept_next | exact kept_refused

theorem execJal_kept {d : Nat} {f : IInst} {s : State} (hs : Kept q s) :
    KeptX q (execJal d f s) := by
  unfold execJal
  try dsimp only
  with_reducible repeat' first | assumption | apply jalState_kept | apply guardUnit_kept | apply kept_next | exact kept_refused

theorem execJr_kept {d : Nat} {f : IInst} {s : State} (hs : Kept q s) :
    KeptX q (execJr d f s) := by
  unfold execJr
  try dsimp only
  with_reducible repeat' first | assumption | apply jrState_kept | apply guardUnit_kept | apply kept_next | exact kept_refused

theorem execBpany_kept {d : Nat} {f : IInst} {s : State} (hs : Kept q s) :
    KeptX q (execBpany d f s) := by
  unfold execBpany
  try dsimp only
  with_reducible repeat' first | assumption | apply bpanyState_kept | apply guardUnit_kept | apply kept_next | exact kept_refused

theorem execBpnone_kept {d : Nat} {f : IInst} {s : State} (hs : Kept q s) :
    KeptX q (execBpnone d f s) := by
  unfold execBpnone
  try dsimp only
  with_reducible repeat' first | assumption | apply bpnoneState_kept | apply guardUnit_kept | apply kept_next | exact kept_refused

end Sys2Proof.Machine
end

