-- ==== Sys2Proof/Laws/KeptHbmOps.lean ====
section
/-! SUPPORT. What the effects of Machine/HbmOps keep: the queue, the canonical form of memory, OTP (Laws/Kept.lean). -/
set_option linter.all false
namespace Sys2Proof.Machine

variable {q : Base}

theorem setAgent_kept {s : State} {j : Nat} {a : Agent} (hs : Kept q s) :
    Kept q (setAgent s j a) := by
  unfold setAgent
  try dsimp only
  with_reducible repeat' first | assumption | refine kept_mk ?_

theorem updAgent_kept {s : State} {j : Nat} {f : Agent → Agent} (hs : Kept q s) :
    Kept q (updAgent s j f) := by
  unfold updAgent
  try dsimp only
  with_reducible repeat' first | assumption | apply setAgent_kept

theorem sendHost_kept {s : State} {j : Nat} {m : HeonMsg} (hs : Kept q s) :
    Kept q (sendHost s j m) := by
  unfold sendHost
  try dsimp only
  with_reducible repeat' first | assumption | apply updAgent_kept

theorem setStk_kept {s : State} {k : Nat} {v : Stack} (hs : Kept q s) :
    Kept q (setStk s k v) := by
  unfold setStk
  try dsimp only
  with_reducible repeat' first | assumption | refine kept_mk ?_

theorem updStk_kept {s : State} {k : Nat} {f : Stack → Stack} (hs : Kept q s) :
    Kept q (updStk s k f) := by
  unfold updStk
  try dsimp only
  with_reducible repeat' first | assumption | apply setStk_kept

theorem hbmCorrected_kept {s : State} {a : Nat} (hs : Kept q s) :
    Kept q (hbmCorrected s a) := by
  unfold hbmCorrected
  try dsimp only
  with_reducible repeat' first | assumption | apply odBump_kept | apply winSet_kept | apply emitPlain_kept | split

theorem hbmUe_kept {s : State} {a : Nat} (hs : Kept q s) :
    Kept q (hbmUe s a) := by
  unfold hbmUe
  try dsimp only
  with_reducible repeat' first | assumption | apply odBump_kept | apply winSet_kept

theorem hbmPoison_kept {s : State} {a : Nat} (hs : Kept q s) :
    Kept q (hbmPoison s a) := by
  unfold hbmPoison
  try dsimp only
  with_reducible repeat' first | assumption | apply setSyn_kept | apply odBump_kept | apply winSet_kept

theorem hbmWord_kept {s : State} {a : Nat} (hs : Kept q s) :
    Kept q (hbmWord s a).1 := by
  unfold hbmWord
  try dsimp only
  with_reducible repeat' first | assumption | apply hbmUe_kept | apply hbmCorrected_kept | apply setSyn_kept | apply memPut_kept | split

theorem hbmUeEvent_kept {s0 : State} {s : State} {finder : Nat} {ws : List Nat} {src : Nat} (hs0 : Kept q s0) (hs : Kept q s) :
    Kept q (hbmUeEvent s0 s finder ws src) := by
  unfold hbmUeEvent
  try dsimp only
  with_reducible repeat' first | assumption | apply emitPlain_kept | split

theorem hbmReadStep_kept {acc : State × Status} {w : Nat} (hacc : Kept q acc.1) :
    Kept q (hbmReadStep acc w).1 := by
  unfold hbmReadStep
  try dsimp only
  with_reducible repeat' first | assumption | apply hbmWord_kept | split | refine kept_fst (by assumption) ?_ | dsimp only

theorem hbmReadWords_kept {s : State} {a : Nat} {n : Nat} (hs : Kept q s) :
    Kept q (hbmReadWords s a n).1 := by
  unfold hbmReadWords
  try dsimp only
  with_reducible repeat' first | assumption | intro _ _ _ | intro _ _ | intro _ | apply hbmReadStep_kept | apply kept_foldl | apply kept_foldl1 | split | refine kept_fst (by assumption) ?_ | dsimp only

theorem keepQueued_kept {s0 : State} {s : State} {ws : List Nat} (hs0 : Kept q s0) (hs : Kept q s) :
    Kept q (keepQueued s0 s ws) := by
  unfold keepQueued
  try dsimp only
  with_reducible repeat' first | assumption | intro _ _ _ | intro _ _ | intro _ | apply setSyn_kept | apply memPut_kept | apply kept_foldl | apply kept_foldl1 | refine kept_fst (by assumption) ?_ | dsimp only

theorem hbmAfter_kept {s : State} {a : Nat} {n : Nat} {src : Nat} (hs : Kept q s) :
    Kept q (hbmAfter s a n src) := by
  unfold hbmAfter
  try dsimp only
  with_reducible repeat' first | assumption | intro _ _ _ | intro _ _ | intro _ | apply keepQueued_kept | apply hbmReadWords_kept | apply hbmUeEvent_kept | apply kept_foldl | apply kept_foldl1 | refine kept_fst (by assumption) ?_ | dsimp only

theorem hbmRead_kept {s : State} {a : Nat} {n : Nat} {src : Nat} (hs : Kept q s) :
    Kept q (hbmRead s a n src).1 := by
  unfold hbmRead
  try dsimp only
  with_reducible repeat' first | assumption | apply hbmAfter_kept | apply hbmReadWords_kept | split | refine kept_fst (by assumption) ?_ | dsimp only

theorem poisonEvent_kept {s : State} {cause : Nat} {a : Nat} {src : Nat} (hs : Kept q s) :
    Kept q (poisonEvent s cause a src) := by
  unfold poisonEvent
  try dsimp only
  with_reducible repeat' first | assumption | apply emitPlain_kept

theorem hbmMergeStep_kept {acc : State × List Nat} {w : Nat} (hacc : Kept q acc.1) :
    Kept q (hbmMergeStep acc w).1 := by
  unfold hbmMergeStep
  try dsimp only
  with_reducible repeat' first | assumption | apply hbmWord_kept | split | refine kept_fst (by assumption) ?_ | dsimp only

theorem hbmPut_kept {s : State} {a : Nat} {ws : List Nat} {part : List Nat} {put : State → State} {poison : Bool} {hit : Nat → Bool} {src : Nat} (hs : Kept q s) (hput : ∀ y0, Kept q y0 → Kept q (put y0)) :
    Kept q (hbmPut s a ws part put poison hit src).1 := by
  unfold hbmPut
  try dsimp only
  with_reducible repeat' first | assumption | apply hput | intro _ _ _ | intro _ _ | intro _ | apply hbmMergeStep_kept | apply poisonEvent_kept | apply hbmUeEvent_kept | apply hbmPoison_kept | apply setSyn_kept | apply kept_foldl | apply kept_foldl1 | split | apply kept_some | exact kept_none | refine kept_of_some (by assumption) ?_ | refine kept_fst (by assumption) ?_ | dsimp only

theorem hbmWrite_kept {s : State} {a : Nat} {bs : List Byte} {poison : Bool} {bad : List Nat} {src : Nat} (hs : Kept q s) :
    Kept q (hbmWrite s a bs poison bad src).1 := by
  unfold hbmWrite
  try dsimp only
  with_reducible repeat' first | assumption | intro _ _ | intro _ | apply hbmPut_kept | apply memPut_kept | split | apply kept_some | exact kept_none | refine kept_of_some (by assumption) ?_ | refine kept_fst (by assumption) ?_ | dsimp only

theorem hbmWriteMask_kept {s : State} {a : Nat} {bs : List Byte} {mask : Nat} {poison : Bool} {bad : List Nat} {src : Nat} (hs : Kept q s) :
    Kept q (hbmWriteMask s a bs mask poison bad src).1 := by
  unfold hbmWriteMask
  try dsimp only
  with_reducible repeat' first | assumption | intro _ _ _ | intro _ _ | intro _ | apply hbmPut_kept | apply memPut_kept | apply kept_foldl | apply kept_foldl1 | split | apply kept_some | exact kept_none | refine kept_of_some (by assumption) ?_ | refine kept_fst (by assumption) ?_ | dsimp only

theorem hbmEnqueue_kept {s : State} {r : HbmReq} (hs : Kept q s) :
    Kept q (hbmEnqueue s r) := by
  unfold hbmEnqueue
  try dsimp only
  with_reducible repeat' first | assumption | apply updStk_kept

theorem remarkRows_kept {s : State} {d : Nat} {off : Nat} {n : Nat} {poison : Bool} (hs : Kept q s) :
    Kept q (remarkRows s d off n poison) := by
  unfold remarkRows
  try dsimp only
  with_reducible repeat' first | assumption | intro _ _ _ | intro _ _ | intro _ | apply updDale_kept | apply kept_foldl | apply kept_foldl1 | split | refine kept_fst (by assumption) ?_ | dsimp only

theorem daleWrite_kept {s : State} {d : Nat} {off : Nat} {bs : List Byte} {poison : Bool} (hs : Kept q s) :
    Kept q (daleWrite s d off bs poison).1 := by
  unfold daleWrite
  try dsimp only
  with_reducible repeat' first | assumption | apply remarkRows_kept | apply storeWrite_kept | split | refine kept_fst (by assumption) ?_ | dsimp only

theorem daleRead_kept {s : State} {d : Nat} {off : Nat} {n : Nat} (hs : Kept q s) :
    Kept q (daleRead s d off n).1 := by
  unfold daleRead
  try dsimp only
  with_reducible repeat' first | assumption | apply storeRead_kept | split | refine kept_fst (by assumption) ?_ | dsimp only

theorem readPhys_kept {s : State} {a : Nat} {n : Nat} (hs : Kept q s) :
    Kept q (readPhys s a n).1 := by
  unfold readPhys
  try dsimp only
  with_reducible repeat' first | assumption | apply daleRead_kept | apply hbmRead_kept | split | refine kept_fst (by assumption) ?_ | dsimp only

theorem writePhys_kept {s : State} {a : Nat} {bs : List Byte} {poison : Bool} (hs : Kept q s) :
    Kept q (writePhys s a bs poison).1 := by
  unfold writePhys
  try dsimp only
  with_reducible repeat' first | assumption | intro _ _ _ | intro _ _ | intro _ | apply daleWrite_kept | apply hbmWrite_kept | apply kept_foldl | apply kept_foldl1 | split | refine kept_fst (by assumption) ?_ | dsimp only

end Sys2Proof.Machine
end

