-- ==== Sys2Proof/Laws/KeptGather.lean ====
section
/-! SUPPORT. What the effects of Machine/Gather keep: the queue, the canonical form of memory, OTP (Laws/Kept.lean). -/
set_option linter.all false
namespace Sys2Proof.Machine

variable {q : Base}

theorem setGather_kept {s : State} {k : Nat} {g : Gather} (hs : Kept q s) :
    Kept q (setGather s k g) := by
  unfold setGather
  try dsimp only
  with_reducible repeat' first | assumption | refine kept_mk ?_

theorem updGather_kept {s : State} {k : Nat} {f : Gather → Gather} (hs : Kept q s) :
    Kept q (updGather s k f) := by
  unfold updGather
  try dsimp only
  with_reducible repeat' first | assumption | apply setGather_kept

theorem gatherMissIssue_kept {s : State} {k : Nat} {l : Lookup} {addr : Nat} (hs : Kept q s) :
    Kept q (gatherMissIssue s k l addr) := by
  unfold gatherMissIssue
  try dsimp only
  with_reducible repeat' first | assumption | intro _ _ _ | intro _ _ | intro _ | apply updGather_kept | apply hbmEnqueue_kept | apply haltChannel_kept | apply handRequest_kept | apply kept_foldl | apply kept_foldl1 | split | apply kept_some | exact kept_none | refine kept_of_some (by assumption) ?_ | refine kept_fst (by assumption) ?_ | dsimp only

theorem gatherMissReturn_kept {s : State} {o : Origin} {addr : Nat} {st : Status} {bs : List Byte} {poison : Bool} (hs : Kept q s) :
    Kept q (gatherMissReturn s o addr st bs poison) := by
  unfold gatherMissReturn
  try dsimp only
  with_reducible repeat' first | assumption | apply updGather_kept | apply pieceRead_kept | apply haltChannel_kept | split

theorem gatherMiss_kept {s : State} {k : Nat} {l : Lookup} {b : Block} {bad : Bool} (hs : Kept q s) :
    Kept q (gatherMiss s k l b bad) := by
  unfold gatherMiss
  try dsimp only
  with_reducible repeat' first | assumption | apply gatherMissIssue_kept | apply pieceRead_kept | apply haltChannel_kept | apply storeWrite_kept | apply odBump_kept | split | refine kept_fst (by assumption) ?_ | dsimp only

theorem clearMiss_kept {s : State} {l : Lookup} {b : Block} (hs : Kept q s) :
    Kept q (clearMiss s l b) := by
  unfold clearMiss
  try dsimp only
  with_reducible repeat' first | assumption | apply storeWrite_kept | split | refine kept_fst (by assumption) ?_ | dsimp only

theorem gatherServe_kept {s : State} {k : Nat} {l : Lookup} {b : Block} (hs : Kept q s) :
    Kept q (gatherServe s k l b) := by
  unfold gatherServe
  try dsimp only
  with_reducible repeat' first | assumption | apply clearMiss_kept | apply gatherMiss_kept | apply updGather_kept | apply setGather_kept | apply pieceRead_kept | apply odBump_kept | apply emitPlain_kept | split

theorem gatherLookupState_kept {stack : Nat} {d : Nat} {ch : Nat} {row : Nat} {s : State} (hs : Kept q s) :
    Kept q (gatherLookupState stack d ch row s) := by
  unfold gatherLookupState
  try dsimp only
  with_reducible repeat' first | assumption | apply gatherServe_kept | apply setGather_kept | split

theorem reloadCtrlState_kept {stack : Nat} {value : Nat} {s : State} (hs : Kept q s) :
    Kept q (reloadCtrlState stack value s) := by
  unfold reloadCtrlState
  try dsimp only
  with_reducible repeat' first | assumption | apply setGather_kept | apply winSet_kept | apply answer_kept | split

theorem refuseReload_kept {s : State} {k : Nat} {cause : Nat} {st : Status} {ix : Nat} (hs : Kept q s) :
    Kept q (refuseReload s k cause st ix) := by
  unfold refuseReload
  try dsimp only
  with_reducible repeat' first | assumption | apply updGather_kept | apply emitPlain_kept

theorem loadLine_kept {s : State} {k : Nat} {src : Nat} {line : Nat} (hs : Kept q s) :
    Kept q (loadLine s k src line).1 := by
  unfold loadLine
  try dsimp only
  with_reducible repeat' first | assumption | intro _ _ _ | intro _ _ | intro _ | apply updGather_kept | apply hbmRead_kept | apply kept_foldl | apply kept_foldl1 | split | refine kept_fst (by assumption) ?_ | dsimp only

theorem loadRunLine_kept {k : Nat} {w0 : Nat} {w1 : Nat} {acc : State × Bool} {j : Nat} (hacc : Kept q acc.1) :
    Kept q (loadRunLine k w0 w1 acc j).1 := by
  unfold loadRunLine
  try dsimp only
  with_reducible repeat' first | assumption | apply loadLine_kept | split | refine kept_fst (by assumption) ?_ | dsimp only

theorem loadRun_kept {s : State} {k : Nat} {w0 : Nat} {w1 : Nat} (hs : Kept q s) :
    Kept q (loadRun s k w0 w1).1 := by
  unfold loadRun
  try dsimp only
  with_reducible repeat' first | assumption | intro _ _ _ | intro _ _ | intro _ | apply loadRunLine_kept | apply kept_foldl | apply kept_foldl1 | split | refine kept_fst (by assumption) ?_ | dsimp only

theorem loadRuns_kept {k : Nat} {l : List (Nat × Nat × Nat)} {s : State} (hs : Kept q s) : Kept q (loadRuns k l s).1 := by
  induction l generalizing s with
  | nil => exact hs
  | cons a l ih =>
    obtain ⟨i, w0, w1⟩ := a
    unfold loadRuns
    split
    · exact ih (loadRun_kept hs)
    · exact loadRun_kept hs

theorem reloadLoaded_kept {stack : Nat} {r : State × Option (Nat × Nat)} (hr : Kept q r.1) :
    Kept q (reloadLoaded stack r) := by
  unfold reloadLoaded
  try dsimp only
  with_reducible repeat' first | assumption | apply refuseReload_kept | apply updGather_kept | split

theorem reloadBank_kept {s : State} {stack : Nat} {n : Nat} {seeds : Tab Nat} {es : List (Nat × Nat)} (hs : Kept q s) :
    Kept q (reloadBank s stack n seeds es) := by
  unfold reloadBank
  try dsimp only
  with_reducible repeat' first | assumption | apply updGather_kept | split

theorem reloadRuns_kept {stack : Nat} {list : Nat} {n : Nat} {seeds : Tab Nat} {es : List (Nat × Nat)} {s : State} (hs : Kept q s) :
    Kept q (reloadRuns stack list n seeds es s) := by
  unfold reloadRuns
  try dsimp only
  with_reducible repeat' first | assumption | apply reloadBank_kept | apply reloadLoaded_kept | apply loadRuns_kept | apply refuseReload_kept | apply hbmRead_kept | split | refine kept_fst (by assumption) ?_ | dsimp only

theorem reloadImage_kept {stack : Nat} {dir : Nat} {list : Nat} {n : Nat} {seeds : Tab Nat} {s : State} (hs : Kept q s) :
    Kept q (reloadImage stack dir list n seeds s) := by
  unfold reloadImage
  try dsimp only
  with_reducible repeat' first | assumption | apply reloadRuns_kept | apply refuseReload_kept | apply hbmRead_kept | split | refine kept_fst (by assumption) ?_ | dsimp only

theorem reloadDrainedState_kept {stack : Nat} {s : State} (hs : Kept q s) :
    Kept q (reloadDrainedState stack s) := by
  unfold reloadDrainedState
  try dsimp only
  with_reducible repeat' first | assumption | intro _ _ _ | intro _ _ | intro _ | apply reloadImage_kept | apply refuseReload_kept | apply kept_foldl | apply kept_foldl1 | split | refine kept_fst (by assumption) ?_ | dsimp only

theorem reloadFilledState_kept {stack : Nat} {s : State} (hs : Kept q s) :
    Kept q (reloadFilledState stack s) := by
  unfold reloadFilledState
  try dsimp only
  with_reducible repeat' first | assumption | apply setGather_kept | apply odBump_kept | apply emitPlain_kept | split

theorem gatherWake_kept {s : State} {k : Nat} (hs : Kept q s) :
    Kept q (gatherWake s k) := by
  unfold gatherWake
  try dsimp only
  with_reducible repeat' first | assumption | apply updGather_kept

theorem execGatherLookup_kept {stack : Nat} {d : Nat} {ch : Nat} {row : Nat} {s : State} (hs : Kept q s) :
    KeptX q (execGatherLookup stack d ch row s) := by
  unfold execGatherLookup
  try dsimp only
  with_reducible repeat' first | assumption | apply gatherLookupState_kept | apply guardUnit_kept | apply kept_next | exact kept_refused

theorem execReloadCtrl_kept {stack : Nat} {value : Nat} {s : State} (hs : Kept q s) :
    KeptX q (execReloadCtrl stack value s) := by
  unfold execReloadCtrl
  try dsimp only
  with_reducible repeat' first | assumption | apply reloadCtrlState_kept | apply guardUnit_kept | apply kept_next | exact kept_refused

theorem execReloadDrained_kept {stack : Nat} {s : State} (hs : Kept q s) :
    KeptX q (execReloadDrained stack s) := by
  unfold execReloadDrained
  try dsimp only
  with_reducible repeat' first | assumption | apply reloadDrainedState_kept | apply guardUnit_kept | apply kept_next | exact kept_refused

theorem execReloadFilled_kept {stack : Nat} {s : State} (hs : Kept q s) :
    KeptX q (execReloadFilled stack s) := by
  unfold execReloadFilled
  try dsimp only
  with_reducible repeat' first | assumption | apply reloadFilledState_kept | apply guardUnit_kept | apply kept_next | exact kept_refused

end Sys2Proof.Machine
end

