-- ==== Sys2Proof/Laws/KeptHbm.lean ====
section
/-! SUPPORT. What the effects of Machine/Hbm keep: the queue, the canonical form of memory, OTP (Laws/Kept.lean). -/
set_option linter.all false
namespace Sys2Proof.Machine

variable {q : Base}

theorem snoopLine_kept {s : State} {k : Nat} {line : Nat} {inv : Bool} (hs : Kept q s) :
    Kept q (snoopLine s k line inv) := by
  unfold snoopLine
  try dsimp only
  with_reducible repeat' first | assumption | apply updStk_kept | apply sendHost_kept | split

theorem activateRow_kept {s : State} {k : Nat} {a : Nat} (hs : Kept q s) :
    Kept q (activateRow s k a) := by
  unfold activateRow
  try dsimp only
  with_reducible repeat' first | assumption | apply setStk_kept | apply odBump_kept | split

theorem rfmBank_kept {s : State} {k : Nat} {b : Nat} (hs : Kept q s) :
    Kept q (rfmBank s k b) := by
  unfold rfmBank
  try dsimp only
  with_reducible repeat' first | assumption | apply updStk_kept | apply odBump_kept

theorem hbmStore_kept {s : State} {r : HbmReq} {bad : List Nat} (hs : Kept q s) :
    Kept q (hbmStore s r bad).1 := by
  unfold hbmStore
  try dsimp only
  with_reducible repeat' first | assumption | apply hbmWriteMask_kept | apply hbmWrite_kept | split | refine kept_fst (by assumption) ?_ | dsimp only

theorem forwardRead_kept {s : State} {earlier : List HbmReq} {r : HbmReq} (hs : Kept q s) :
    Kept q (forwardRead s earlier r).1 := by
  unfold forwardRead
  try dsimp only
  with_reducible repeat' first | assumption | intro _ _ _ | intro _ _ | intro _ | apply hbmStore_kept | apply keepQueued_kept | apply hbmReadStep_kept | apply hbmUeEvent_kept | apply hbmWord_kept | apply kept_foldl | apply kept_foldl1 | split | refine kept_fst (by assumption) ?_ | dsimp only

theorem hbmDemand_kept {s : State} {z1 : List HbmReq} {r : HbmReq} (hs : Kept q s) :
    Kept q (hbmDemand s z1 r).1 := by
  unfold hbmDemand
  try dsimp only
  with_reducible repeat' first | assumption | apply forwardRead_kept | apply hbmRead_kept | split | refine kept_fst (by assumption) ?_ | dsimp only

theorem hbmReply_kept {s : State} {k : Nat} {r : HbmReq} {st : Status} {bs : List Byte} {poison : Bool} (hs : Kept q s) :
    Kept q (hbmReply s k r st bs poison) := by
  unfold hbmReply
  try dsimp only
  with_reducible repeat' first | assumption | apply gatherMissReturn_kept | apply updStk_kept | apply sendHost_kept | apply sendAnswer_kept | split

theorem scrubWord_kept {s : State} {k : Nat} {w : Nat} {again : Bool} (hs : Kept q s) :
    Kept q (scrubWord s k w again) := by
  unfold scrubWord
  try dsimp only
  with_reducible repeat' first | assumption | apply hbmPoison_kept | apply hbmUe_kept | apply hbmCorrected_kept | apply updStk_kept | apply setSyn_kept | apply memPut_kept | split

theorem scrubPassEnd_kept {s : State} {k : Nat} (hs : Kept q s) :
    Kept q (scrubPassEnd s k) := by
  unfold scrubPassEnd
  try dsimp only
  with_reducible repeat' first | assumption | apply updStk_kept | apply winSet_kept | apply emitPlain_kept

theorem scrubServe_kept {s : State} {k : Nat} {r : HbmReq} (hs : Kept q s) :
    Kept q (scrubServe s k r) := by
  unfold scrubServe
  try dsimp only
  with_reducible repeat' first | assumption | intro _ _ _ | intro _ _ | intro _ | apply scrubPassEnd_kept | apply scrubWord_kept | apply poisonEvent_kept | apply hbmUeEvent_kept | apply updStk_kept | apply winSet_kept | apply kept_foldl | apply kept_foldl1 | split | refine kept_fst (by assumption) ?_ | dsimp only

theorem hbmServe_kept {s : State} {k : Nat} {r : HbmReq} {severity : Bool} {bad : List Nat} (hs : Kept q s) :
    Kept q (hbmServe s k r severity bad) := by
  unfold hbmServe
  try dsimp only
  with_reducible repeat' first | assumption | apply scrubServe_kept | apply hbmReply_kept | apply hbmDemand_kept | apply hbmStore_kept | apply setStk_kept | apply odBump_kept | split | refine kept_fst (by assumption) ?_ | dsimp only

theorem hbmCommandIssueState_kept {stack : Nat} {pc : Nat} {now : Nat} {severity : Bool} {bad : List Nat} {s0 : State} (hs0 : Kept q s0) :
    Kept q (hbmCommandIssueState stack pc now severity bad s0) := by
  unfold hbmCommandIssueState
  try dsimp only
  with_reducible repeat' first | assumption | intro _ _ _ | intro _ _ | intro _ | apply hbmServe_kept | apply rfmBank_kept | apply activateRow_kept | apply snoopLine_kept | apply updStk_kept | apply kept_foldl | apply kept_foldl1 | split | refine kept_fst (by assumption) ?_ | dsimp only

theorem hbmRefreshState_kept {stack : Nat} {pc : Nat} {bank : Nat} {window : Bool} {s : State} (hs : Kept q s) :
    Kept q (hbmRefreshState stack pc bank window s) := by
  unfold hbmRefreshState
  try dsimp only
  with_reducible repeat' first | assumption | apply updStk_kept | split

theorem hbmTempReadState_kept {stack : Nat} {celsius : Int} {s : State} (hs : Kept q s) :
    Kept q (hbmTempReadState stack celsius s) := by
  unfold hbmTempReadState
  try dsimp only
  with_reducible repeat' first | assumption | apply winSet_kept | apply emitPlain_kept | split

theorem hbmScrubAccessState_kept {stack : Nat} {pc : Nat} {secondClean : Bool} {s : State} (hs : Kept q s) :
    Kept q (hbmScrubAccessState stack pc secondClean s) := by
  unfold hbmScrubAccessState
  try dsimp only
  with_reducible repeat' first | assumption | apply hbmEnqueue_kept | split

theorem hbmFillDoneState_kept {stack : Nat} {micros : Nat} {s : State} (hs : Kept q s) :
    Kept q (hbmFillDoneState stack micros s) := by
  unfold hbmFillDoneState
  try dsimp only
  with_reducible repeat' first | assumption | apply winSet_kept | apply emitPlain_kept | split

theorem hostSnoopTimeoutState_kept {stack : Nat} {line : Nat} {s : State} (hs : Kept q s) :
    Kept q (hostSnoopTimeoutState stack line s) := by
  unfold hostSnoopTimeoutState
  try dsimp only
  with_reducible repeat' first | assumption | intro _ _ _ | intro _ _ | intro _ | apply hbmPoison_kept | apply updStk_kept | apply emitPlain_kept | apply kept_foldl | apply kept_foldl1 | split | refine kept_fst (by assumption) ?_ | dsimp only

theorem execHbmCommandIssue_kept {stack : Nat} {pc : Nat} {now : Nat} {severity : Bool} {bad : List Nat} {s : State} (hs : Kept q s) :
    KeptX q (execHbmCommandIssue stack pc now severity bad s) := by
  unfold execHbmCommandIssue
  try dsimp only
  with_reducible repeat' first | assumption | apply hbmCommandIssueState_kept | apply guardUnit_kept | apply kept_next | exact kept_refused

theorem execHbmRefresh_kept {stack : Nat} {pc : Nat} {bank : Nat} {window : Bool} {s : State} (hs : Kept q s) :
    KeptX q (execHbmRefresh stack pc bank window s) := by
  unfold execHbmRefresh
  try dsimp only
  with_reducible repeat' first | assumption | apply hbmRefreshState_kept | apply guardUnit_kept | apply kept_next | exact kept_refused

theorem execHbmTempRead_kept {stack : Nat} {celsius : Int} {s : State} (hs : Kept q s) :
    KeptX q (execHbmTempRead stack celsius s) := by
  unfold execHbmTempRead
  try dsimp only
  with_reducible repeat' first | assumption | apply hbmTempReadState_kept | apply guardUnit_kept | apply kept_next | exact kept_refused

theorem execHbmScrubAccess_kept {stack : Nat} {pc : Nat} {secondClean : Bool} {s : State} (hs : Kept q s) :
    KeptX q (execHbmScrubAccess stack pc secondClean s) := by
  unfold execHbmScrubAccess
  try dsimp only
  with_reducible repeat' first | assumption | apply hbmScrubAccessState_kept | apply guardUnit_kept | apply kept_next | exact kept_refused

theorem execHostSnoopTimeout_kept {stack : Nat} {line : Nat} {s : State} (hs : Kept q s) :
    KeptX q (execHostSnoopTimeout stack line s) := by
  unfold execHostSnoopTimeout
  try dsimp only
  with_reducible repeat' first | assumption | apply hostSnoopTimeoutState_kept | apply guardUnit_kept | apply kept_next | exact kept_refused

end Sys2Proof.Machine
end

