-- ==== Sys2Proof/Laws/KeptStepOps.lean ====
section
/-! SUPPORT. What the effects of Machine/StepOps keep: the queue, the canonical form of memory, OTP (Laws/Kept.lean). -/
set_option linter.all false
namespace Sys2Proof.Machine

variable {q : Base}

theorem updCmd_kept {s : State} {seq : Nat} {f : Cmd → Cmd} (hs : Kept q s) :
    Kept q (updCmd s seq f) := by
  unfold updCmd
  try dsimp only
  with_reducible repeat' first | assumption | split | refine kept_mk ?_

theorem decideCmd_kept {s : State} {seq : Nat} {o : Outcome} (hs : Kept q s) :
    Kept q (decideCmd s seq o) := by
  unfold decideCmd
  try dsimp only
  with_reducible repeat' first | assumption | apply updCmd_kept | split | refine kept_mk ?_

theorem emitCmd_kept {s : State} {seq : Nat} {code : Nat} {sev : Nat} {detail : List (Nat × Nat)} (hs : Kept q s) :
    Kept q (emitCmd s seq code sev detail) := by
  unfold emitCmd
  try dsimp only
  with_reducible repeat' first | assumption | apply emit_kept

theorem cpRead_kept {s : State} {reader : Nat} {arg : Nat} {n : Nat} (hs : Kept q s) :
    Kept q (cpRead s reader arg n).1 := by
  unfold cpRead
  try dsimp only
  with_reducible repeat' first | assumption | apply readPhys_kept | apply kept_getD | split | refine kept_fst (by assumption) ?_ | dsimp only | refine kept_mk ?_

theorem dropLines_kept {s : State} {reader : Nat} (hs : Kept q s) :
    Kept q (dropLines s reader) := by
  unfold dropLines
  try dsimp only
  with_reducible repeat' first | assumption | refine kept_mk ?_

theorem cpWrite_kept {s : State} {seq : Nat} {arg : Nat} {bs : List Byte} {poison : Bool} (hs : Kept q s) :
    Kept q (cpWrite s seq arg bs poison).1 := by
  unfold cpWrite
  try dsimp only
  with_reducible repeat' first | assumption | apply writePhys_kept | split | refine kept_fst (by assumption) ?_ | dsimp only | refine kept_mk ?_

theorem sendMarker_kept {s : State} {commit : Bool} {pipeline : Nat} {epoch : Nat} {portDst : Nat} (hs : Kept q s) :
    Kept q (sendMarker s commit pipeline epoch portDst) := by
  unfold sendMarker
  try dsimp only
  with_reducible repeat' first | assumption | apply peerTag_kept | apply sendPeer_kept | split | refine kept_fst (by assumption) ?_ | refine kept_snd (by assumption) ?_ | dsimp only

theorem sendMarkers_kept {s : State} {commit : Bool} {pipeline : Nat} {epoch : Nat} {ports : List Nat} (hs : Kept q s) :
    Kept q (sendMarkers s commit pipeline epoch ports) := by
  unfold sendMarkers
  try dsimp only
  with_reducible repeat' first | assumption | intro _ _ _ | intro _ _ | intro _ | apply sendMarker_kept | apply kept_foldl | apply kept_foldl1 | refine kept_fst (by assumption) ?_ | dsimp only

theorem commitStep_kept {s : State} {p : Nat} {epoch : Nat} {ports : List Nat} (hs : Kept q s) :
    Kept q (commitStep s p epoch ports) := by
  unfold commitStep
  try dsimp only
  with_reducible repeat' first | assumption | intro _ _ _ | intro _ _ | intro _ | apply sendMarkers_kept | apply updCmd_kept | apply setPipe_kept | apply updDale_kept | apply kept_foldl | apply kept_foldl1 | split | refine kept_fst (by assumption) ?_ | dsimp only

theorem settleCuts_kept {s : State} {p : Nat} (hs : Kept q s) :
    Kept q (settleCuts s p) := by
  unfold settleCuts
  try dsimp only
  with_reducible repeat' first | assumption | intro _ _ _ | intro _ _ | intro _ | apply decideCmd_kept | apply kept_foldl | apply kept_foldl1 | refine kept_fst (by assumption) ?_ | dsimp only

theorem enterHalted_kept {s : State} {p : Nat} {st : Status} {basin : Nat} {epoch : Nat} (hs : Kept q s) :
    Kept q (enterHalted s p st basin epoch) := by
  unfold enterHalted
  try dsimp only
  with_reducible repeat' first | assumption | intro _ _ _ | intro _ _ | intro _ | apply settleCuts_kept | apply decideCmd_kept | apply cutRegion_kept | apply setPipe_kept | apply odBump_kept | apply emit_kept | apply kept_foldl | apply kept_foldl1 | apply kept_getD | split | refine kept_fst (by assumption) ?_ | dsimp only

theorem haltNow_kept {s : State} {p : Nat} {st : Status} (hs : Kept q s) :
    Kept q (haltNow s p st) := by
  unfold haltNow
  try dsimp only
  with_reducible repeat' first | assumption | apply enterHalted_kept | apply haltPipe_kept | split

theorem poisonReport_kept {s : State} {p : Nat} {epoch : Nat} {d : Nat} (hs : Kept q s) :
    Kept q (poisonReport s p epoch d) := by
  unfold poisonReport
  try dsimp only
  with_reducible repeat' first | assumption | apply emitDale_kept | apply updDale_kept | split

theorem finishRun_kept {s : State} {p : Nat} (hs : Kept q s) :
    Kept q (finishRun s p) := by
  unfold finishRun
  try dsimp only
  with_reducible repeat' first | assumption | apply decideCmd_kept | apply setPipe_kept | split

theorem settleDeferred_kept {p fuel : Nat} {s : State} (hs : Kept q s) : Kept q (settleDeferred p fuel s) := by
  induction fuel generalizing s with
  | zero => exact hs
  | succ n ih =>
    unfold settleDeferred
    split
    · split
      · exact ih (commitStep_kept (updPipe_kept hs))
      · exact hs
    · exact hs

theorem optimisticCommit_kept {s : State} {e : Nat × Nat × Nat × Nat} (hs : Kept q s) :
    Kept q (optimisticCommit s e) := by
  unfold optimisticCommit
  try dsimp only
  with_reducible repeat' first | assumption | intro _ _ _ | intro _ _ | intro _ | apply settleDeferred_kept | apply finishRun_kept | apply updPipe_kept | apply kept_foldl | apply kept_foldl1 | refine kept_fst (by assumption) ?_ | dsimp only

theorem retractRecord_kept {s : State} {p : Nat} {seq : Nat} {epoch : Nat} (hs : Kept q s) :
    Kept q (retractRecord s p seq epoch) := by
  unfold retractRecord
  try dsimp only
  with_reducible repeat' first | assumption | apply updCmd_kept | split

theorem optimisticRetract_kept {s : State} {e : Nat × Nat × Nat × Nat} (hs : Kept q s) :
    Kept q (optimisticRetract s e) := by
  unfold optimisticRetract
  try dsimp only
  with_reducible repeat' first | assumption | intro _ _ _ | intro _ _ | intro _ | apply retractRecord_kept | apply enterHalted_kept | apply sendMarkers_kept | apply haltPipe_kept | apply setPipe_kept | apply emit_kept | apply kept_foldl | apply kept_foldl1 | split | refine kept_fst (by assumption) ?_ | dsimp only

theorem enterAbsorb_kept {s : State} {c : Nat} {mode : Nat} (hs : Kept q s) :
    Kept q (enterAbsorb s c mode) := by
  unfold enterAbsorb
  try dsimp only
  with_reducible repeat' first | assumption | apply updNi_kept | apply emitPlain_kept | split

theorem degradePipe_kept {s : State} {p : Nat} {d : Nat} (hs : Kept q s) :
    Kept q (degradePipe s p d) := by
  unfold degradePipe
  try dsimp only
  with_reducible repeat' first | assumption | intro _ _ _ | intro _ _ | intro _ | apply enterHalted_kept | apply haltPipe_kept | apply cutRegion_kept | apply updPipe_kept | apply setPipe_kept | apply kept_foldl | apply kept_foldl1 | split | refine kept_fst (by assumption) ?_ | dsimp only

theorem isolate_kept {s : State} {d : Nat} {trigger : Nat} {first : Nat} (hs : Kept q s) :
    Kept q (isolate s d trigger first) := by
  unfold isolate
  try dsimp only
  with_reducible repeat' first | assumption | intro _ _ _ | intro _ _ | intro _ | apply degradePipe_kept | apply enterAbsorb_kept | apply neighboursGone_kept | apply barrierRemove_kept | apply stopIssue_kept | apply updDale_kept | apply emit_kept | apply kept_foldl | apply kept_foldl1 | split | refine kept_fst (by assumption) ?_ | dsimp only

theorem giveStrike_kept {s : State} {d : Nat} {sig : Nat} {code : Nat} (hs : Kept q s) :
    Kept q (giveStrike s d sig code) := by
  unfold giveStrike
  try dsimp only
  with_reducible repeat' first | assumption | apply isolate_kept | apply emitDale_kept | apply updDale_kept | apply odBump_kept | apply kept_getD | split

theorem haltLimitExpiredState_kept {d : Nat} {s : State} (hs : Kept q s) :
    Kept q (haltLimitExpiredState d s) := by
  unfold haltLimitExpiredState
  try dsimp only
  with_reducible repeat' first | assumption | apply isolate_kept | split

theorem isolateDaleState_kept {value : Nat} {s : State} (hs : Kept q s) :
    Kept q (isolateDaleState value s) := by
  unfold isolateDaleState
  try dsimp only
  with_reducible repeat' first | assumption | apply isolate_kept | apply answer_kept | split

theorem execHaltLimitExpired_kept {d : Nat} {s : State} (hs : Kept q s) :
    KeptX q (execHaltLimitExpired d s) := by
  unfold execHaltLimitExpired
  try dsimp only
  with_reducible repeat' first | assumption | apply haltLimitExpiredState_kept | apply guardUnit_kept | apply kept_next | exact kept_refused

theorem execIsolateDale_kept {value : Nat} {s : State} (hs : Kept q s) :
    KeptX q (execIsolateDale value s) := by
  unfold execIsolateDale
  try dsimp only
  with_reducible repeat' first | assumption | apply isolateDaleState_kept | apply kept_next | exact kept_refused

end Sys2Proof.Machine
end

