-- ==== Sys2Proof/Laws/KeptEnvelope.lean ====
section
/-! SUPPORT. What the effects of Machine/Envelope keep: the queue, the canonical form of memory, OTP (Laws/Kept.lean). -/
set_option linter.all false
namespace Sys2Proof.Machine

variable {q : Base}

/-- The security engine changes with OTP bits only rising. -/
theorem updSec_kept {s : State} {f : Sec → Sec} (hs : Kept q s) (hf : OtpUp s.sec (f s.sec))
    (hw : twf 0 0 (f s.sec).svn = true) : Kept q (updSec s f) :=
  ⟨hs.1, hs.2, hs.3, otpUp_trans hs.4 hf, hw⟩

theorem extendMr_kept {s : State} {i : Nat} {d : List Byte} (hs : Kept q s) :
    Kept q (extendMr s i d) := by
  unfold extendMr
  try dsimp only
  with_reducible repeat' first | assumption | refine updSec_kept ?_ (otpUp_of rfl rfl rfl rfl) (by apply Kept.svn; assumption)

theorem keyAbsent_kept {s : State} {k : Nat} (hs : Kept q s) :
    Kept q (keyAbsent s k) := by
  unfold keyAbsent
  try dsimp only
  with_reducible repeat' first | assumption | apply emitPlain_kept | split

theorem imageRefused_kept {s0 : State} {bs : List Byte} {f : Nat × Status} (hs0 : Kept q s0) :
    Kept q (imageRefused s0 bs f) := by
  unfold imageRefused
  try dsimp only
  with_reducible repeat' first | assumption | apply keyAbsent_kept | apply odBump_kept | apply emitPlain_kept | split

theorem loadBody_kept {s : State} {d : Nat} {b : List Byte} (hs : Kept q s) :
    Kept q (loadBody s d b) := by
  unfold loadBody
  try dsimp only
  with_reducible repeat' first | assumption | intro _ _ _ | intro _ _ | intro _ | apply updDale_kept | apply kept_foldl | apply kept_foldl1 | refine kept_fst (by assumption) ?_ | dsimp only

end Sys2Proof.Machine
end

