-- ==== Sys2Proof/Laws/KeptLaneOps.lean ====
section
/-! SUPPORT. What the effects of Machine/LaneOps keep: the queue, the canonical form of memory, OTP (Laws/Kept.lean). -/
set_option linter.all false
namespace Sys2Proof.Machine

variable {q : Base}

theorem setLane_kept {s : State} {n : Nat} {v : SerialLane} (hs : Kept q s) :
    Kept q (setLane s n v) := by
  unfold setLane
  try dsimp only
  with_reducible repeat' first | assumption | refine kept_mk ?_

theorem updLane_kept {s : State} {n : Nat} {f : SerialLane → SerialLane} (hs : Kept q s) :
    Kept q (updLane s n f) := by
  unfold updLane
  try dsimp only
  with_reducible repeat' first | assumption | apply setLane_kept

theorem setGroup_kept {s : State} {g : Nat} {v : LaneGroup} (hs : Kept q s) :
    Kept q (setGroup s g v) := by
  unfold setGroup
  try dsimp only
  with_reducible repeat' first | assumption | refine kept_mk ?_

theorem updGroup_kept {s : State} {g : Nat} {f : LaneGroup → LaneGroup} (hs : Kept q s) :
    Kept q (updGroup s g f) := by
  unfold updGroup
  try dsimp only
  with_reducible repeat' first | assumption | apply setGroup_kept

theorem setStages_kept {s : State} {g : Nat} {st : Nat} (hs : Kept q s) :
    Kept q (setStages s g st) := by
  unfold setStages
  try dsimp only
  with_reducible repeat' first | assumption | intro _ _ _ | intro _ _ | intro _ | apply updLane_kept | apply kept_foldl | apply kept_foldl1 | refine kept_fst (by assumption) ?_ | dsimp only

theorem linkUp_kept {s : State} {g : Nat} {up : Bool} (hs : Kept q s) :
    Kept q (linkUp s g up) := by
  unfold linkUp
  try dsimp only
  with_reducible repeat' first | assumption | apply updAgent_kept | split

theorem groupToOff_kept {s : State} {g : Nat} (hs : Kept q s) :
    Kept q (groupToOff s g) := by
  unfold groupToOff
  try dsimp only
  with_reducible repeat' first | assumption | apply linkUp_kept | apply setStages_kept | apply updGroup_kept

theorem groupToDetect_kept {s : State} {g : Nat} (hs : Kept q s) :
    Kept q (groupToDetect s g) := by
  unfold groupToDetect
  try dsimp only
  with_reducible repeat' first | assumption | intro _ _ _ | intro _ _ | intro _ | apply updGroup_kept | apply updLane_kept | apply kept_foldl | apply kept_foldl1 | refine kept_fst (by assumption) ?_ | dsimp only

theorem groupWakes_kept {s : State} {g : Nat} (hs : Kept q s) :
    Kept q (groupWakes s g) := by
  unfold groupWakes
  try dsimp only
  with_reducible repeat' first | assumption | apply groupToDetect_kept | split

theorem groupToTrain_kept {s : State} {g : Nat} {fast : Bool} (hs : Kept q s) : Kept q (groupToTrain s g fast) := by
  unfold groupToTrain
  refine linkUp_kept (updGroup_kept (kept_foldl hs fun t n h => ?_))
  refine updLane_kept ?_
  split
  · exact ⟨h.1, h.2, h.3, otpUp_trans h.4 (otpUp_of rfl rfl rfl rfl), h.5⟩
  · exact takeFree_kept h

theorem groupRetrains_kept {s : State} {g : Nat} {cause : Nat} {k : Nat} (hs : Kept q s) :
    Kept q (groupRetrains s g cause k) := by
  unfold groupRetrains
  try dsimp only
  with_reducible repeat' first | assumption | apply groupToTrain_kept | apply updGroup_kept | apply odBump_kept | apply emitPlain_kept | split

theorem groupFails_kept {s : State} {g : Nat} {exchange : Bool} (hs : Kept q s) :
    Kept q (groupFails s g exchange) := by
  unfold groupFails
  try dsimp only
  with_reducible repeat' first | assumption | intro _ _ _ | intro _ _ | intro _ | apply groupToOff_kept | apply updGroup_kept | apply emitPlain_kept | apply kept_foldl | apply kept_foldl1 | split | refine kept_fst (by assumption) ?_ | dsimp only

theorem groupBecomesActive_kept {s : State} {g : Nat} {micros : Nat} (hs : Kept q s) :
    Kept q (groupBecomesActive s g micros) := by
  unfold groupBecomesActive
  try dsimp only
  with_reducible repeat' first | assumption | intro _ _ _ | intro _ _ | intro _ | apply linkUp_kept | apply updGroup_kept | apply updLane_kept | apply odBump_kept | apply emitPlain_kept | apply kept_foldl | apply kept_foldl1 | split | refine kept_fst (by assumption) ?_ | dsimp only | refine kept_mk ?_

end Sys2Proof.Machine
end

