-- ==== Sys2Proof/Laws/KeptPowerOps.lean ====
section
/-! SUPPORT. What the effects of Machine/PowerOps keep: the queue, the canonical form of memory, OTP (Laws/Kept.lean). -/
set_option linter.all false
namespace Sys2Proof.Machine

variable {q : Base}

theorem updPower_kept {s : State} {f : Power → Power} (hs : Kept q s) :
    Kept q (updPower s f) := by
  unfold updPower
  try dsimp only
  with_reducible repeat' first | assumption | refine kept_mk ?_

theorem setSwitch_kept {s : State} {n : Nat} {w : Option Switch} (hs : Kept q s) :
    Kept q (setSwitch s n w) := by
  unfold setSwitch
  try dsimp only
  with_reducible repeat' first | assumption | apply updPower_kept

theorem setDomainOn_kept {s : State} {n : Nat} {on : Bool} (hs : Kept q s) :
    Kept q (setDomainOn s n on) := by
  unfold setDomainOn
  try dsimp only
  with_reducible repeat' first | assumption | apply winSet_kept

theorem forgetRange_kept {s : State} {a n : Nat} (hs : Kept q s) : Kept q (forgetRange s a n) :=
  ⟨hs.1, twf_filter _ _ _ _ hs.2, twf_filter _ _ _ _ hs.3, hs.4, hs.5⟩

theorem sectorLoss_kept {s : State} {k : Nat} (hs : Kept q s) :
    Kept q (sectorLoss s k) := by
  unfold sectorLoss
  try dsimp only
  with_reducible repeat' first | assumption | intro _ _ _ | intro _ _ | intro _ | apply setSector_kept | apply updDale_kept | apply odPut_kept | apply winSet_kept | apply kept_foldl | apply kept_foldl1 | refine kept_fst (by assumption) ?_ | dsimp only

theorem stackLoss_kept {s : State} {k : Nat} (hs : Kept q s) :
    Kept q (stackLoss s k) := by
  unfold stackLoss
  try dsimp only
  with_reducible repeat' first | assumption | apply updGather_kept | apply updStk_kept

theorem domainLoss_kept {s : State} {n : Nat} (hs : Kept q s) :
    Kept q (domainLoss s n) := by
  unfold domainLoss
  try dsimp only
  with_reducible repeat' first | assumption | intro _ _ _ | intro _ _ | intro _ | apply stackLoss_kept | apply sectorLoss_kept | apply forgetRange_kept | apply groupToOff_kept | apply updNi_kept | apply updDale_kept | apply kept_foldl | apply kept_foldl1 | split | refine kept_fst (by assumption) ?_ | dsimp only

theorem sendDrain_kept {s : State} {c : Nat} (hs : Kept q s) :
    Kept q (sendDrain s c) := by
  unfold sendDrain
  try dsimp only
  with_reducible repeat' first | assumption | apply handRequest_kept | apply kept_getD | apply kept_some | exact kept_none | refine kept_of_some (by assumption) ?_

theorem startOff_kept {s : State} {n : Nat} {by_ : Nat} {rule : Nat} (hs : Kept q s) :
    Kept q (startOff s n by_ rule) := by
  unfold startOff
  try dsimp only
  with_reducible repeat' first | assumption | intro _ _ _ | intro _ _ | intro _ | apply sendDrain_kept | apply setSwitch_kept | apply kept_foldl | apply kept_foldl1 | refine kept_fst (by assumption) ?_ | dsimp only

theorem startOn_kept {s : State} {n : Nat} {by_ : Nat} {rule : Nat} (hs : Kept q s) :
    Kept q (startOn s n by_ rule) := by
  unfold startOn
  try dsimp only
  with_reducible repeat' first | assumption | apply setSwitch_kept

theorem gateDomain_kept {s : State} {n : Nat} {by_ : Nat} {rule : Nat} (hs : Kept q s) :
    Kept q (gateDomain s n by_ rule) := by
  unfold gateDomain
  try dsimp only
  with_reducible repeat' first | assumption | apply startOff_kept | apply setSwitch_kept | apply emitPlain_kept | split

theorem wakeDomain_kept {s : State} {n : Nat} {by_ : Nat} {rule : Nat} (hs : Kept q s) :
    Kept q (wakeDomain s n by_ rule) := by
  unfold wakeDomain
  try dsimp only
  with_reducible repeat' first | assumption | apply startOn_kept | apply setSwitch_kept | split

theorem retryGates_kept {s : State} (hs : Kept q s) :
    Kept q (retryGates s) := by
  unfold retryGates
  try dsimp only
  with_reducible repeat' first | assumption | intro _ _ _ | intro _ _ | intro _ | apply startOff_kept | apply kept_foldl | apply kept_foldl1 | split | refine kept_fst (by assumption) ?_ | dsimp only

theorem switchOff_kept {s : State} {n : Nat} (hs : Kept q s) :
    Kept q (switchOff s n) := by
  unfold switchOff
  try dsimp only
  with_reducible repeat' first | assumption | intro _ _ _ | intro _ _ | intro _ | apply startOn_kept | apply domainLoss_kept | apply setDomainOn_kept | apply setSwitch_kept | apply neighboursGone_kept | apply odBump_kept | apply emitPlain_kept | apply kept_foldl | apply kept_foldl1 | split | refine kept_fst (by assumption) ?_ | dsimp only

theorem sleepNext_kept {fuel : Nat} {s : State} (hs : Kept q s) : Kept q (sleepNext fuel s) := by
  induction fuel generalizing s with
  | zero => exact hs
  | succ n ih =>
    unfold sleepNext
    dsimp only
    have h1 : ∀ ns : List Nat, Kept q (ns.foldl (fun t n => if domainOn t n then gateDomain t n 2 0 else t) s) := by
      intro ns
      refine kept_foldl hs fun t n h => ?_
      split
      · exact gateDomain_kept h
      · exact h
    have h2 : ∀ (ns : List Nat) (t : State), Kept q t → Kept q (ns.foldl (fun t n =>
          match switchOf t n with
          | some w => if w.off && !w.deferred && w.waits.isEmpty then switchOff t n else t
          | none => t) t) := by
      intro ns t h
      refine kept_foldl h fun t n h => ?_
      split
      · split
        · exact switchOff_kept h
        · exact h
      · exact h
    split
    · exact hs
    · split
      · exact updPower_kept hs
      · split
        · exact h2 _ _ (h1 _)
        · exact ih (h2 _ _ (h1 _))

theorem unitDrained_kept {s : State} {n : Nat} {u : Nat} {forced : Bool} (hs : Kept q s) :
    Kept q (unitDrained s n u forced) := by
  unfold unitDrained
  try dsimp only
  with_reducible repeat' first | assumption | apply sleepNext_kept | apply switchOff_kept | apply setSwitch_kept | split

end Sys2Proof.Machine
end

