-- ==== Sys2Proof/Laws/KeptLogic.lean ====
section
/-! SUPPORT. What the effects of Machine/Logic keep: the queue, the canonical form of memory, OTP (Laws/Kept.lean). -/
set_option linter.all false
namespace Sys2Proof.Machine

variable {q : Base}

theorem sectorTick_kept {edge : Nat → Bool} {s : State} {k : Nat} (hs : Kept q s) :
    Kept q (sectorTick edge s k) := by
  unfold sectorTick
  try dsimp only
  with_reducible repeat' first | assumption | intro _ _ _ | intro _ _ | intro _ | apply setSector_kept | apply kept_foldl | apply kept_foldl1 | split | refine kept_fst (by assumption) ?_ | dsimp only

theorem steppeTick_kept {s : State} (hs : Kept q s) :
    Kept q (steppeTick s) := by
  unfold steppeTick
  try dsimp only
  with_reducible repeat' first | assumption | intro _ _ _ | intro _ _ | intro _ | apply sectorTick_kept | apply setClock_kept | apply kept_foldl | apply kept_foldl1 | split | refine kept_fst (by assumption) ?_ | dsimp only

end Sys2Proof.Machine
end

