-- ==== Sys2Proof/Laws/KeptFabric.lean ====
section
/-! SUPPORT. What the effects of Machine/Fabric keep: the queue, the canonical form of memory, OTP (Laws/Kept.lean). -/
set_option linter.all false
namespace Sys2Proof.Machine

variable {q : Base}

theorem winBump_kept {s : State} {a : Nat} (hs : Kept q s) :
    Kept q (winBump s a) := by
  unfold winBump
  try dsimp only
  with_reducible repeat' first | assumption | apply winSet_kept

theorem clockUnlockedState_kept {g : Nat} {s : State} (hs : Kept q s) :
    Kept q (clockUnlockedState g s) := by
  unfold clockUnlockedState
  try dsimp only
  with_reducible repeat' first | assumption | apply setClock_kept | apply odBump_kept | apply emitPlain_kept | split

theorem resetQueues_kept {s : State} {k : Nat} {mask : Nat} (hs : Kept q s) :
    Kept q (resetQueues s k mask) := by
  unfold resetQueues
  try dsimp only
  with_reducible repeat' first | assumption | apply updSector_kept | split

theorem sectorResetState_kept {k : Nat} {value : Nat} {s : State} (hs : Kept q s) :
    Kept q (sectorResetState k value s) := by
  unfold sectorResetState
  try dsimp only
  with_reducible repeat' first | assumption | apply resetQueues_kept | apply updSector_kept | apply answer_kept | split

theorem sectorClearState_kept {k : Nat} {value : Nat} {s : State} (hs : Kept q s) :
    Kept q (sectorClearState k value s) := by
  unfold sectorClearState
  try dsimp only
  with_reducible repeat' first | assumption | apply winSet_kept | apply answer_kept | split

theorem bramAccessState_kept {k : Nat} {mem : Nat} {port : Nat} {wr : Bool} {word : Nat} {value : BitVec 72} {s : State} (hs : Kept q s) :
    Kept q (bramAccessState k mem port wr word value s) := by
  unfold bramAccessState
  try dsimp only
  with_reducible repeat' first | assumption | apply winBump_kept | apply updSector_kept | apply setSector_kept | apply odBump_kept | apply emitPlain_kept | apply answer_kept | split

theorem queueFault_kept {s : State} {k : Nat} {mem : Nat} {under : Bool} (hs : Kept q s) :
    Kept q (queueFault s k mem under) := by
  unfold queueFault
  try dsimp only
  with_reducible repeat' first | assumption | apply winBump_kept | apply updSector_kept | apply odBump_kept | apply emitPlain_kept | split

theorem queueAccessState_kept {k : Nat} {mem : Nat} {wr : Bool} {value : BitVec 72} {s : State} (hs : Kept q s) :
    Kept q (queueAccessState k mem wr value s) := by
  unfold queueAccessState
  try dsimp only
  with_reducible repeat' first | assumption | apply queueFault_kept | apply updSector_kept | apply answer_kept | split

theorem beatTaken_kept {s : State} {d : Nat} {c : Nat} (hs : Kept q s) :
    Kept q (beatTaken s d c) := by
  unfold beatTaken
  try dsimp only
  with_reducible repeat' first | assumption | apply completeBlock_kept | apply setFront_kept | split

theorem portBeatOutState_kept {d : Nat} {z1 : Nat} {s : State} (hs : Kept q s) :
    Kept q (portBeatOutState d z1 s) := by
  unfold portBeatOutState
  try dsimp only
  with_reducible repeat' first | assumption | apply beatTaken_kept | apply winBump_kept | apply portMoves_kept | apply emitDale_kept | apply updDale_kept | apply odBump_kept | apply answer_kept | apply kept_getD | split

theorem portBeatInState_kept {d : Nat} {z1 : Nat} {data : List Byte} {poison : Bool} {last : Bool} {s : State} (hs : Kept q s) :
    Kept q (portBeatInState d z1 data poison last s) := by
  unfold portBeatInState
  try dsimp only
  with_reducible repeat' first | assumption | apply portMoves_kept | apply updDale_kept | split

theorem portDrainRequestState_kept {k : Nat} {s : State} (hs : Kept q s) :
    Kept q (portDrainRequestState k s) := by
  unfold portDrainRequestState
  try dsimp only
  with_reducible repeat' first | assumption | intro _ _ _ | intro _ _ | intro _ | apply updDale_kept | apply kept_foldl | apply kept_foldl1 | split | refine kept_fst (by assumption) ?_ | dsimp only

theorem portDrainedState_kept {d : Nat} {s : State} (hs : Kept q s) :
    Kept q (portDrainedState d s) := by
  unfold portDrainedState
  try dsimp only
  with_reducible repeat' first | assumption | apply unitDrained_kept | apply updDale_kept | split

theorem portDrainForcedState_kept {d : Nat} {s : State} (hs : Kept q s) :
    Kept q (portDrainForcedState d s) := by
  unfold portDrainForcedState
  try dsimp only
  with_reducible repeat' first | assumption | apply unitDrained_kept | apply discardPorts_kept | apply updDale_kept | apply emitPlain_kept | split

theorem execClockUnlocked_kept {g : Nat} {s : State} (hs : Kept q s) :
    KeptX q (execClockUnlocked g s) := by
  unfold execClockUnlocked
  try dsimp only
  with_reducible repeat' first | assumption | apply clockUnlockedState_kept | apply guardUnit_kept | apply kept_next | exact kept_refused

theorem execSectorReset_kept {k : Nat} {value : Nat} {s : State} (hs : Kept q s) :
    KeptX q (execSectorReset k value s) := by
  unfold execSectorReset
  try dsimp only
  with_reducible repeat' first | assumption | apply sectorResetState_kept | apply guardUnit_kept | apply kept_next | exact kept_refused

theorem execSectorClear_kept {k : Nat} {value : Nat} {s : State} (hs : Kept q s) :
    KeptX q (execSectorClear k value s) := by
  unfold execSectorClear
  try dsimp only
  with_reducible repeat' first | assumption | apply sectorClearState_kept | apply guardUnit_kept | apply kept_next | exact kept_refused

theorem execBramAccess_kept {sector : Nat} {mem : Nat} {port : Nat} {wr : Bool} {word : Nat} {value : BitVec 72} {s : State} (hs : Kept q s) :
    KeptX q (execBramAccess sector mem port wr word value s) := by
  unfold execBramAccess
  try dsimp only
  with_reducible repeat' first | assumption | apply bramAccessState_kept | apply guardUnit_kept | apply kept_next | exact kept_refused

theorem execQueueAccess_kept {sector : Nat} {mem : Nat} {wr : Bool} {value : BitVec 72} {s : State} (hs : Kept q s) :
    KeptX q (execQueueAccess sector mem wr value s) := by
  unfold execQueueAccess
  try dsimp only
  with_reducible repeat' first | assumption | apply queueAccessState_kept | apply guardUnit_kept | apply kept_next | exact kept_refused

theorem execPortBeatOut_kept {d : Nat} {queue : Nat} {s : State} (hs : Kept q s) :
    KeptX q (execPortBeatOut d queue s) := by
  unfold execPortBeatOut
  try dsimp only
  with_reducible repeat' first | assumption | apply portBeatOutState_kept | apply guardUnit_kept | apply kept_next | exact kept_refused

theorem execPortBeatIn_kept {d : Nat} {queue : Nat} {data : List Byte} {poison : Bool} {last : Bool} {s : State} (hs : Kept q s) :
    KeptX q (execPortBeatIn d queue data poison last s) := by
  unfold execPortBeatIn
  try dsimp only
  with_reducible repeat' first | assumption | apply portBeatInState_kept | apply guardUnit_kept | apply kept_next | exact kept_refused

theorem execPortDrainRequest_kept {k : Nat} {s : State} (hs : Kept q s) :
    KeptX q (execPortDrainRequest k s) := by
  unfold execPortDrainRequest
  try dsimp only
  with_reducible repeat' first | assumption | apply portDrainRequestState_kept | apply guardUnit_kept | apply kept_next | exact kept_refused

theorem execPortDrained_kept {d : Nat} {s : State} (hs : Kept q s) :
    KeptX q (execPortDrained d s) := by
  unfold execPortDrained
  try dsimp only
  with_reducible repeat' first | assumption | apply portDrainedState_kept | apply guardUnit_kept | apply kept_next | exact kept_refused

theorem execPortDrainForced_kept {d : Nat} {s : State} (hs : Kept q s) :
    KeptX q (execPortDrainForced d s) := by
  unfold execPortDrainForced
  try dsimp only
  with_reducible repeat' first | assumption | apply portDrainForcedState_kept | apply guardUnit_kept | apply kept_next | exact kept_refused

end Sys2Proof.Machine
end

