-- ==== Sys2Proof/Laws/KeptLine.lean ====
section
/-! SUPPORT. What the effects of Machine/Line keep: the queue, the canonical form of memory, OTP (Laws/Kept.lean). -/
set_option linter.all false
namespace Sys2Proof.Machine

variable {q : Base}

theorem laneReceives_kept {s : State} {n : Nat} {syms : List Nat} (hs : Kept q s) :
    Kept q (laneReceives s n syms).1 := by
  unfold laneReceives
  try dsimp only
  with_reducible repeat' first | assumption | apply setLane_kept | split

end Sys2Proof.Machine
end

