-- ==== Sys2Proof/Laws/KeptLanes.lean ====
section
/-! SUPPORT. What the effects of Machine/Lanes keep: the queue, the canonical form of memory, OTP (Laws/Kept.lean). -/
set_option linter.all false
namespace Sys2Proof.Machine

variable {q : Base}

theorem laneDetectProbeState_kept {n : Nat} {found : Bool} {s : State} (hs : Kept q s) :
    Kept q (laneDetectProbeState n found s) := by
  unfold laneDetectProbeState
  try dsimp only
  with_reducible repeat' first | assumption | apply groupToTrain_kept | apply updLane_kept | split

theorem trainStep_kept {n : Nat} {frame : TrainFrame} {adapted : Bool} {inverted : Bool} {s : State} (hs : Kept q s) :
    Kept q (trainStep n frame adapted inverted s) := by
  unfold trainStep
  try dsimp only
  with_reducible repeat' first | assumption | apply groupToTrain_kept | apply updGroup_kept | apply setLane_kept | split

theorem trainingFrameState_kept {n : Nat} {symbols : List Nat} {adapted : Bool} {inverted : Bool} {s : State} (hs : Kept q s) :
    Kept q (trainingFrameState n symbols adapted inverted s) := by
  unfold trainingFrameState
  try dsimp only
  with_reducible repeat' first | assumption | apply trainStep_kept | split

theorem takeRecord_kept {g : Nat} {k : Nat} {r : ExchRecord} {micros : Nat} {s : State} (hs : Kept q s) :
    Kept q (takeRecord g k r micros s) := by
  unfold takeRecord
  try dsimp only
  with_reducible repeat' first | assumption | apply groupBecomesActive_kept | apply groupFails_kept | apply updGroup_kept | apply setLane_kept | apply kept_getD | split

theorem exchangeFrameState_kept {g : Nat} {k : Nat} {symbols : List Nat} {spaced : Bool} {micros : Nat} {s : State} (hs : Kept q s) :
    Kept q (exchangeFrameState g k symbols spaced micros s) := by
  unfold exchangeFrameState
  try dsimp only
  with_reducible repeat' first | assumption | apply takeRecord_kept | apply setLane_kept | split

theorem laneLockLostState_kept {n : Nat} {s : State} (hs : Kept q s) :
    Kept q (laneLockLostState n s) := by
  unfold laneLockLostState
  try dsimp only
  with_reducible repeat' first | assumption | apply groupRetrains_kept

theorem markerTimeoutState_kept {g : Nat} {s : State} (hs : Kept q s) :
    Kept q (markerTimeoutState g s) := by
  unfold markerTimeoutState
  try dsimp only
  with_reducible repeat' first | assumption | apply groupRetrains_kept

theorem trainLimitExpiredState_kept {g : Nat} {s : State} (hs : Kept q s) :
    Kept q (trainLimitExpiredState g s) := by
  unfold trainLimitExpiredState
  try dsimp only
  with_reducible repeat' first | assumption | apply groupFails_kept | split

theorem trainRetryState_kept {g : Nat} {s : State} (hs : Kept q s) :
    Kept q (trainRetryState g s) := by
  unfold trainRetryState
  try dsimp only
  with_reducible repeat' first | assumption | apply groupWakes_kept | split

theorem enterDeep_kept {s : State} {g : Nat} {own : Bool} (hs : Kept q s) :
    Kept q (enterDeep s g own) := by
  unfold enterDeep
  try dsimp only
  with_reducible repeat' first | assumption | apply linkUp_kept | apply updGroup_kept | apply emitPlain_kept | split

theorem deepRefused_kept {s : State} {g : Nat} (hs : Kept q s) :
    Kept q (deepRefused s g) := by
  unfold deepRefused
  try dsimp only
  with_reducible repeat' first | assumption | apply updGroup_kept | apply emitPlain_kept

theorem markerNext_kept {s : State} {g : Nat} {state : Nat} (hs : Kept q s) :
    Kept q (markerNext s g state) := by
  unfold markerNext
  try dsimp only
  with_reducible repeat' first | assumption | apply deepRefused_kept | apply enterDeep_kept | apply setGroup_kept | split

theorem takeMarker_kept {g : Nat} {k : Nat} {lane : Nat} {state : Nat} {early : Bool} {skewOk : Bool} {s : State} (hs : Kept q s) :
    Kept q (takeMarker g k lane state early skewOk s) := by
  unfold takeMarker
  try dsimp only
  with_reducible repeat' first | assumption | apply markerNext_kept | apply groupRetrains_kept | apply setLane_kept | split

theorem alignmentMarkerState_kept {g : Nat} {k : Nat} {symbols : List Nat} {early : Bool} {skewOk : Bool} {s : State} (hs : Kept q s) :
    Kept q (alignmentMarkerState g k symbols early skewOk s) := by
  unfold alignmentMarkerState
  try dsimp only
  with_reducible repeat' first | assumption | apply takeMarker_kept | apply laneReceives_kept | split | refine kept_fst (by assumption) ?_ | dsimp only

theorem sendLaneMarker_kept {s : State} {g : Nat} {k : Nat} {state : Nat} {run : Nat × Nat} (hs : Kept q s) :
    Kept q (sendLaneMarker s g k state run) := by
  unfold sendLaneMarker
  try dsimp only
  with_reducible repeat' first | assumption | apply updLane_kept

theorem markerSendState_kept {g : Nat} {words : List Nat} {s : State} (hs : Kept q s) :
    Kept q (markerSendState g words s) := by
  unfold markerSendState
  try dsimp only
  with_reducible repeat' first | assumption | intro _ _ _ | intro _ _ | intro _ | apply sendLaneMarker_kept | apply enterDeep_kept | apply setGroup_kept | apply kept_foldl | apply kept_foldl1 | split | refine kept_fst (by assumption) ?_ | dsimp only

theorem codewordReceivedState_kept {g : Nat} {lines : List (List Nat)} {errors : List Nat} {s : State} (hs : Kept q s) :
    Kept q (codewordReceivedState g lines errors s) := by
  unfold codewordReceivedState
  try dsimp only
  with_reducible repeat' first | assumption | intro _ _ _ | intro _ _ | intro _ | apply laneReceives_kept | apply updGroup_kept | apply updLane_kept | apply odBump_kept | apply emitPlain_kept | apply kept_foldl | apply kept_foldl1 | split | refine kept_fst (by assumption) ?_ | dsimp only

theorem idleEntryState_kept {g : Nat} {s : State} (hs : Kept q s) :
    Kept q (idleEntryState g s) := by
  unfold idleEntryState
  try dsimp only
  with_reducible repeat' first | assumption | apply setGroup_kept | split

theorem idleExitState_kept {g : Nat} {s : State} (hs : Kept q s) :
    Kept q (idleExitState g s) := by
  unfold idleExitState
  try dsimp only
  with_reducible repeat' first | assumption | apply setGroup_kept | split

theorem groupRetrainState_kept {g : Nat} {s : State} (hs : Kept q s) :
    Kept q (groupRetrainState g s) := by
  unfold groupRetrainState
  try dsimp only
  with_reducible repeat' first | assumption | apply groupRetrains_kept | apply answer_kept

theorem deepRequestState_kept {g : Nat} {s : State} (hs : Kept q s) :
    Kept q (deepRequestState g s) := by
  unfold deepRequestState
  try dsimp only
  with_reducible repeat' first | assumption | apply setGroup_kept | apply answer_kept | split

theorem deepRequestTimeoutState_kept {g : Nat} {s : State} (hs : Kept q s) :
    Kept q (deepRequestTimeoutState g s) := by
  unfold deepRequestTimeoutState
  try dsimp only
  with_reducible repeat' first | assumption | apply deepRefused_kept | split

theorem leaveDeep_kept {s : State} {g : Nat} {own : Bool} (hs : Kept q s) :
    Kept q (leaveDeep s g own) := by
  unfold leaveDeep
  try dsimp only
  with_reducible repeat' first | assumption | apply updGroup_kept | apply emitPlain_kept | split

theorem deepWakeState_kept {g : Nat} {s : State} (hs : Kept q s) :
    Kept q (deepWakeState g s) := by
  unfold deepWakeState
  try dsimp only
  with_reducible repeat' first | assumption | apply leaveDeep_kept | apply answer_kept

theorem wakeBurstState_kept {g : Nat} {s : State} (hs : Kept q s) :
    Kept q (wakeBurstState g s) := by
  unfold wakeBurstState
  try dsimp only
  with_reducible repeat' first | assumption | apply leaveDeep_kept

theorem laneCtrlState_kept {n : Nat} {written : Nat} {s : State} (hs : Kept q s) :
    Kept q (laneCtrlState n written s) := by
  unfold laneCtrlState
  try dsimp only
  with_reducible repeat' first | assumption | apply setLane_kept | apply answer_kept | split

theorem laneBitslipState_kept {n : Nat} {value : Nat} {s : State} (hs : Kept q s) :
    Kept q (laneBitslipState n value s) := by
  unfold laneBitslipState
  try dsimp only
  with_reducible repeat' first | assumption | apply setLane_kept | apply answer_kept | split

theorem groupClearState_kept {g : Nat} {value : Nat} {s : State} (hs : Kept q s) :
    Kept q (groupClearState g value s) := by
  unfold groupClearState
  try dsimp only
  with_reducible repeat' first | assumption | intro _ _ _ | intro _ _ | intro _ | apply updGroup_kept | apply updLane_kept | apply answer_kept | apply kept_foldl | apply kept_foldl1 | split | refine kept_fst (by assumption) ?_ | dsimp only

theorem leaveTest_kept {s : State} {g : Nat} (hs : Kept q s) :
    Kept q (leaveTest s g) := by
  unfold leaveTest
  try dsimp only
  with_reducible repeat' first | assumption | intro _ _ _ | intro _ _ | intro _ | apply updLane_kept | apply kept_foldl | apply kept_foldl1 | split | refine kept_fst (by assumption) ?_ | dsimp only

theorem portEnableState_kept {value : Nat} {s : State} (hs : Kept q s) :
    Kept q (portEnableState value s) := by
  unfold portEnableState
  try dsimp only
  with_reducible repeat' first | assumption | intro _ _ _ | intro _ _ | intro _ | apply leaveTest_kept | apply groupWakes_kept | apply groupToOff_kept | apply odPut_kept | apply answer_kept | apply kept_foldl | apply kept_foldl1 | split | refine kept_fst (by assumption) ?_ | dsimp only

theorem execLaneDetectProbe_kept {lane : Nat} {found : Bool} {s : State} (hs : Kept q s) :
    KeptX q (execLaneDetectProbe lane found s) := by
  unfold execLaneDetectProbe
  try dsimp only
  with_reducible repeat' first | assumption | apply laneDetectProbeState_kept | apply guardUnit_kept | apply kept_next | exact kept_refused

theorem execTrainingFrame_kept {lane : Nat} {symbols : List Nat} {adapted : Bool} {inverted : Bool} {s : State} (hs : Kept q s) :
    KeptX q (execTrainingFrame lane symbols adapted inverted s) := by
  unfold execTrainingFrame
  try dsimp only
  with_reducible repeat' first | assumption | apply trainingFrameState_kept | apply guardUnit_kept | apply kept_next | exact kept_refused

theorem execExchangeFrame_kept {group : Nat} {lane : Nat} {symbols : List Nat} {spaced : Bool} {micros : Nat} {s : State} (hs : Kept q s) :
    KeptX q (execExchangeFrame group lane symbols spaced micros s) := by
  unfold execExchangeFrame
  try dsimp only
  with_reducible repeat' first | assumption | apply exchangeFrameState_kept | apply guardUnit_kept | apply kept_next | exact kept_refused

theorem execAlignmentMarker_kept {group : Nat} {lane : Nat} {symbols : List Nat} {early : Bool} {skewOk : Bool} {s : State} (hs : Kept q s) :
    KeptX q (execAlignmentMarker group lane symbols early skewOk s) := by
  unfold execAlignmentMarker
  try dsimp only
  with_reducible repeat' first | assumption | apply alignmentMarkerState_kept | apply guardUnit_kept | apply kept_next | exact kept_refused

theorem execMarkerSend_kept {group : Nat} {words : List Nat} {s : State} (hs : Kept q s) :
    KeptX q (execMarkerSend group words s) := by
  unfold execMarkerSend
  try dsimp only
  with_reducible repeat' first | assumption | apply markerSendState_kept | apply guardUnit_kept | apply kept_next | exact kept_refused

theorem execMarkerTimeout_kept {group : Nat} {s : State} (hs : Kept q s) :
    KeptX q (execMarkerTimeout group s) := by
  unfold execMarkerTimeout
  try dsimp only
  with_reducible repeat' first | assumption | apply markerTimeoutState_kept | apply guardUnit_kept | apply kept_next | exact kept_refused

theorem execCodewordReceived_kept {group : Nat} {lines : List (List Nat)} {errors : List Nat} {s : State} (hs : Kept q s) :
    KeptX q (execCodewordReceived group lines errors s) := by
  unfold execCodewordReceived
  try dsimp only
  with_reducible repeat' first | assumption | apply codewordReceivedState_kept | apply guardUnit_kept | apply kept_next | exact kept_refused

theorem execLaneLockLost_kept {lane : Nat} {s : State} (hs : Kept q s) :
    KeptX q (execLaneLockLost lane s) := by
  unfold execLaneLockLost
  try dsimp only
  with_reducible repeat' first | assumption | apply laneLockLostState_kept | apply guardUnit_kept | apply kept_next | exact kept_refused

theorem execTrainLimitExpired_kept {group : Nat} {s : State} (hs : Kept q s) :
    KeptX q (execTrainLimitExpired group s) := by
  unfold execTrainLimitExpired
  try dsimp only
  with_reducible repeat' first | assumption | apply trainLimitExpiredState_kept | apply guardUnit_kept | apply kept_next | exact kept_refused

theorem execTrainRetry_kept {group : Nat} {s : State} (hs : Kept q s) :
    KeptX q (execTrainRetry group s) := by
  unfold execTrainRetry
  try dsimp only
  with_reducible repeat' first | assumption | apply trainRetryState_kept | apply guardUnit_kept | apply kept_next | exact kept_refused

theorem execIdleEntry_kept {group : Nat} {s : State} (hs : Kept q s) :
    KeptX q (execIdleEntry group s) := by
  unfold execIdleEntry
  try dsimp only
  with_reducible repeat' first | assumption | apply idleEntryState_kept | apply guardUnit_kept | apply kept_next | exact kept_refused

theorem execIdleExit_kept {group : Nat} {s : State} (hs : Kept q s) :
    KeptX q (execIdleExit group s) := by
  unfold execIdleExit
  try dsimp only
  with_reducible repeat' first | assumption | apply idleExitState_kept | apply guardUnit_kept | apply kept_next | exact kept_refused

theorem execGroupRetrain_kept {group : Nat} {s : State} (hs : Kept q s) :
    KeptX q (execGroupRetrain group s) := by
  unfold execGroupRetrain
  try dsimp only
  with_reducible repeat' first | assumption | apply groupRetrainState_kept | apply guardUnit_kept | apply kept_next | exact kept_refused

theorem execDeepRequest_kept {group : Nat} {s : State} (hs : Kept q s) :
    KeptX q (execDeepRequest group s) := by
  unfold execDeepRequest
  try dsimp only
  with_reducible repeat' first | assumption | apply deepRequestState_kept | apply guardUnit_kept | apply kept_next | exact kept_refused

theorem execDeepRequestTimeout_kept {group : Nat} {s : State} (hs : Kept q s) :
    KeptX q (execDeepRequestTimeout group s) := by
  unfold execDeepRequestTimeout
  try dsimp only
  with_reducible repeat' first | assumption | apply deepRequestTimeoutState_kept | apply guardUnit_kept | apply kept_next | exact kept_refused

theorem execDeepWake_kept {group : Nat} {s : State} (hs : Kept q s) :
    KeptX q (execDeepWake group s) := by
  unfold execDeepWake
  try dsimp only
  with_reducible repeat' first | assumption | apply deepWakeState_kept | apply guardUnit_kept | apply kept_next | exact kept_refused

theorem execWakeBurst_kept {group : Nat} {s : State} (hs : Kept q s) :
    KeptX q (execWakeBurst group s) := by
  unfold execWakeBurst
  try dsimp only
  with_reducible repeat' first | assumption | apply wakeBurstState_kept | apply guardUnit_kept | apply kept_next | exact kept_refused

theorem execLaneCtrl_kept {lane : Nat} {value : Nat} {s : State} (hs : Kept q s) :
    KeptX q (execLaneCtrl lane value s) := by
  unfold execLaneCtrl
  try dsimp only
  with_reducible repeat' first | assumption | apply laneCtrlState_kept | apply guardUnit_kept | apply kept_next | exact kept_refused

theorem execLaneBitslip_kept {lane : Nat} {value : Nat} {s : State} (hs : Kept q s) :
    KeptX q (execLaneBitslip lane value s) := by
  unfold execLaneBitslip
  try dsimp only
  with_reducible repeat' first | assumption | apply laneBitslipState_kept | apply guardUnit_kept | apply kept_next | exact kept_refused

theorem execGroupClear_kept {group : Nat} {value : Nat} {s : State} (hs : Kept q s) :
    KeptX q (execGroupClear group value s) := by
  unfold execGroupClear
  try dsimp only
  with_reducible repeat' first | assumption | apply groupClearState_kept | apply guardUnit_kept | apply kept_next | exact kept_refused

theorem execPortEnable_kept {value : Nat} {s : State} (hs : Kept q s) :
    KeptX q (execPortEnable value s) := by
  unfold execPortEnable
  try dsimp only
  with_reducible repeat' first | assumption | apply portEnableState_kept | apply kept_next | exact kept_refused

end Sys2Proof.Machine
end

