-- ==== Sys2Proof/Laws/KeptCommand.lean ====
section
/-! SUPPORT. What the effects of Machine/Command keep: the queue, the canonical form of memory, OTP (Laws/Kept.lean). -/
set_option linter.all false
namespace Sys2Proof.Machine

variable {q : Base}

theorem ringRefused_kept {s : State} {a : Nat} {v : Nat} (hs : Kept q s) :
    Kept q (ringRefused s a v) := by
  unfold ringRefused
  try dsimp only
  with_reducible repeat' first | assumption | apply emitPlain_kept | apply answer_kept

theorem cqTailState_kept {z0 : Nat} {value : Nat} {s : State} (hs : Kept q s) :
    Kept q (cqTailState z0 value s) := by
  unfold cqTailState
  try dsimp only
  with_reducible repeat' first | assumption | apply ringRefused_kept | apply winSet_kept | apply answer_kept | split

theorem cplHeadState_kept {c : Nat} {value : Nat} {s : State} (hs : Kept q s) :
    Kept q (cplHeadState c value s) := by
  unfold cplHeadState
  try dsimp only
  with_reducible repeat' first | assumption | apply ringRefused_kept | apply winSet_kept | apply answer_kept | split | refine kept_mk ?_

theorem cqCtrlState_kept {z0 : Nat} {value : Nat} {s : State} (hs : Kept q s) :
    Kept q (cqCtrlState z0 value s) := by
  unfold cqCtrlState
  try dsimp only
  with_reducible repeat' first | assumption | apply ringRefused_kept | apply winSet_kept | apply answer_kept | split

theorem cplCtrlState_kept {c : Nat} {value : Nat} {s : State} (hs : Kept q s) :
    Kept q (cplCtrlState c value s) := by
  unfold cplCtrlState
  try dsimp only
  with_reducible repeat' first | assumption | apply ringRefused_kept | apply winSet_kept | apply answer_kept | split | refine kept_mk ?_

theorem ringBaseWrite_kept {s : State} {a : Nat} {ctrl : Nat} {value : Nat} (hs : Kept q s) :
    Kept q (ringBaseWrite s a ctrl value) := by
  unfold ringBaseWrite
  try dsimp only
  with_reducible repeat' first | assumption | apply ringRefused_kept | apply winSet_kept | apply answer_kept | split

theorem enterFlight_kept {s : State} {c : Cmd} {refused : Option Status} (hs : Kept q s) :
    Kept q (enterFlight s c refused) := by
  unfold enterFlight
  try dsimp only
  with_reducible repeat' first | assumption | split | refine kept_mk ?_

theorem descRefused_kept {s : State} {c : Cmd} {path : Bool} (hs : Kept q s) :
    Kept q (descRefused s c path) := by
  unfold descRefused
  try dsimp only
  with_reducible repeat' first | assumption | apply emitCmd_kept | split

theorem acceptDesc_kept {s : State} {z1 : Nat} {ix : Nat} {b : List Byte} {poison : Bool} (hs : Kept q s) :
    Kept q (acceptDesc s z1 ix b poison) := by
  unfold acceptDesc
  try dsimp only
  with_reducible repeat' first | assumption | apply descRefused_kept | apply enterFlight_kept | apply emitCmd_kept | split

theorem fetchDescs_kept {r fuel : Nat} {s : State} (hs : Kept q s) : Kept q (fetchDescs r fuel s) := by
  induction fuel generalizing s with
  | zero => exact hs
  | succ n ih =>
    unfold fetchDescs
    dsimp only
    split
    · exact kept_fst (by assumption) (cpRead_kept hs)
    · exact ih (winSet_kept (acceptDesc_kept (kept_fst (by assumption) (cpRead_kept hs))))

theorem commandFetchState_kept {s : State} (hs : Kept q s) :
    Kept q (commandFetchState s) := by
  unfold commandFetchState
  try dsimp only
  with_reducible repeat' first | assumption | apply fetchDescs_kept | apply dropLines_kept | split | refine kept_mk ?_

theorem fenceState_kept {tag : Nat} {s : State} (hs : Kept q s) :
    Kept q (fenceState tag s) := by
  unfold fenceState
  try dsimp only
  with_reducible repeat' first | assumption | apply updCmd_kept | split

theorem fenceCompleteState_kept {tag : Nat} {s : State} (hs : Kept q s) :
    Kept q (fenceCompleteState tag s) := by
  unfold fenceCompleteState
  try dsimp only
  with_reducible repeat' first | assumption | apply decideCmd_kept | split

theorem countRecord_kept {s : State} {st : Status} (hs : Kept q s) :
    Kept q (countRecord s st) := by
  unfold countRecord
  try dsimp only
  with_reducible repeat' first | assumption | apply odBump_kept | split

theorem writeRecord_kept {s : State} {c : Cmd} {o : Outcome} (hs : Kept q s) :
    Kept q (writeRecord s c o) := by
  unfold writeRecord
  try dsimp only
  with_reducible repeat' first | assumption | apply countRecord_kept | apply winSet_kept | apply emitPlain_kept | split | refine kept_mk ?_

theorem completionWriteState_kept {tag : Nat} {s : State} (hs : Kept q s) :
    Kept q (completionWriteState tag s) := by
  unfold completionWriteState
  try dsimp only
  with_reducible repeat' first | assumption | apply writeRecord_kept | split

theorem execCqTail_kept {z0 : Nat} {value : Nat} {s : State} (hs : Kept q s) :
    KeptX q (execCqTail z0 value s) := by
  unfold execCqTail
  try dsimp only
  with_reducible repeat' first | assumption | apply cqTailState_kept | apply guardUnit_kept | apply kept_next | exact kept_refused

theorem execCplHead_kept {c : Nat} {value : Nat} {s : State} (hs : Kept q s) :
    KeptX q (execCplHead c value s) := by
  unfold execCplHead
  try dsimp only
  with_reducible repeat' first | assumption | apply cplHeadState_kept | apply guardUnit_kept | apply kept_next | exact kept_refused

theorem execCqCtrl_kept {z0 : Nat} {value : Nat} {s : State} (hs : Kept q s) :
    KeptX q (execCqCtrl z0 value s) := by
  unfold execCqCtrl
  try dsimp only
  with_reducible repeat' first | assumption | apply cqCtrlState_kept | apply guardUnit_kept | apply kept_next | exact kept_refused

theorem execCplCtrl_kept {c : Nat} {value : Nat} {s : State} (hs : Kept q s) :
    KeptX q (execCplCtrl c value s) := by
  unfold execCplCtrl
  try dsimp only
  with_reducible repeat' first | assumption | apply cplCtrlState_kept | apply guardUnit_kept | apply kept_next | exact kept_refused

theorem execCommandFetch_kept {s : State} (hs : Kept q s) :
    KeptX q (execCommandFetch s) := by
  unfold execCommandFetch
  try dsimp only
  with_reducible repeat' first | assumption | apply commandFetchState_kept | apply kept_next | exact kept_refused

theorem execFence_kept {tag : Nat} {s : State} (hs : Kept q s) :
    KeptX q (execFence tag s) := by
  unfold execFence
  try dsimp only
  with_reducible repeat' first | assumption | apply fenceState_kept | apply kept_next | exact kept_refused

theorem execFenceComplete_kept {tag : Nat} {s : State} (hs : Kept q s) :
    KeptX q (execFenceComplete tag s) := by
  unfold execFenceComplete
  try dsimp only
  with_reducible repeat' first | assumption | apply fenceCompleteState_kept | apply kept_next | exact kept_refused

theorem execCompletionWrite_kept {tag : Nat} {s : State} (hs : Kept q s) :
    KeptX q (execCompletionWrite tag s) := by
  unfold execCompletionWrite
  try dsimp only
  with_reducible repeat' first | assumption | apply completionWriteState_kept | apply kept_next | exact kept_refused

end Sys2Proof.Machine
end

