-- ==== Sys2Proof/Laws/KeptPlacement.lean ====
section
/-! SUPPORT. What the effects of Machine/Placement keep: the queue, the canonical form of memory, OTP (Laws/Kept.lean). -/
set_option linter.all false
namespace Sys2Proof.Machine

variable {q : Base}

theorem refuseCmd_kept {s : State} {c : Cmd} {st : Status} {basin : Nat} (hs : Kept q s) :
    Kept q (refuseCmd s c st basin) := by
  unfold refuseCmd
  try dsimp only
  with_reducible repeat' first | assumption | apply decideCmd_kept | apply updCmd_kept | split

theorem syncBarriers_kept {s : State} {g : Stage} {set : Bool} (hs : Kept q s) :
    Kept q (syncBarriers s g set) := by
  unfold syncBarriers
  try dsimp only
  with_reducible repeat' first | assumption | intro _ _ _ | intro _ _ | intro _ | apply setBarrier_kept | apply kept_foldl | apply kept_foldl1 | split | refine kept_fst (by assumption) ?_ | dsimp only

theorem releaseStages_kept {s : State} {p : Nat} (hs : Kept q s) :
    Kept q (releaseStages s p) := by
  unfold releaseStages
  try dsimp only
  with_reducible repeat' first | assumption | intro _ _ _ | intro _ _ | intro _ | apply syncBarriers_kept | apply releaseRegion_kept | apply setPipe_kept | apply updDale_kept | apply kept_foldl | apply kept_foldl1 | refine kept_fst (by assumption) ?_ | dsimp only

theorem placeDale_kept {s : State} {p : Nat} {g : Stage} {d : Nat} (hs : Kept q s) :
    Kept q (placeDale s p g d) := by
  unfold placeDale
  try dsimp only
  with_reducible repeat' first | assumption | apply updNi_kept | apply updDale_kept | split

theorem writeSection_kept {s : State} {x : Section} {d : Nat} (hs : Kept q s) :
    Kept q (writeSection s x d) := by
  unfold writeSection
  try dsimp only
  with_reducible repeat' first | assumption | intro _ _ _ | intro _ _ | intro _ | apply loadBody_kept | apply storeWrite_kept | apply updNi_kept | apply updDale_kept | apply kept_foldl | apply kept_foldl1 | split | refine kept_fst (by assumption) ?_ | dsimp only

theorem microLoaded_kept {s : State} {seq : Nat} {basin : Nat} {x : Section} (hs : Kept q s) :
    Kept q (microLoaded s seq basin x) := by
  unfold microLoaded
  try dsimp only
  with_reducible repeat' first | assumption | intro _ _ _ | intro _ _ | intro _ | apply extendMr_kept | apply emit_kept | apply kept_foldl | apply kept_foldl1 | refine kept_fst (by assumption) ?_ | dsimp only

theorem applyPlacement_kept {s : State} {seq : Nat} {p : Nat} {img : List Byte} (hs : Kept q s) :
    Kept q (applyPlacement s seq p img) := by
  unfold applyPlacement
  try dsimp only
  with_reducible repeat' first | assumption | intro _ _ _ | intro _ _ | intro _ | apply microLoaded_kept | apply writeSection_kept | apply placeDale_kept | apply releaseStages_kept | apply syncBarriers_kept | apply retryGates_kept | apply releaseRegion_kept | apply updPipe_kept | apply kept_foldl | apply kept_foldl1 | refine kept_fst (by assumption) ?_ | dsimp only

theorem refuseImage_kept {s : State} {c : Cmd} {img : List Byte} {f : Status × Nat × Nat} (hs : Kept q s) :
    Kept q (refuseImage s c img f) := by
  unfold refuseImage
  try dsimp only
  with_reducible repeat' first | assumption | apply keyAbsent_kept | apply emitCmd_kept | apply decideCmd_kept | apply emit_kept | apply kept_getD | split

theorem loadPlacementState_kept {tag : Nat} {s0 : State} (hs0 : Kept q s0) :
    Kept q (loadPlacementState tag s0) := by
  unfold loadPlacementState
  try dsimp only
  with_reducible repeat' first | assumption | apply refuseImage_kept | apply applyPlacement_kept | apply refuseCmd_kept | apply cpRead_kept | apply decideCmd_kept | apply updCmd_kept | split | refine kept_fst (by assumption) ?_ | dsimp only

theorem placementReleaseState_kept {tag : Nat} {s : State} (hs : Kept q s) :
    Kept q (placementReleaseState tag s) := by
  unfold placementReleaseState
  try dsimp only
  with_reducible repeat' first | assumption | apply releaseStages_kept | apply refuseCmd_kept | apply retryGates_kept | apply updPipe_kept | split

theorem startPipelineState_kept {tag : Nat} {s : State} (hs : Kept q s) :
    Kept q (startPipelineState tag s) := by
  unfold startPipelineState
  try dsimp only
  with_reducible repeat' first | assumption | intro _ _ _ | intro _ _ | intro _ | apply refuseCmd_kept | apply decideCmd_kept | apply updCmd_kept | apply releaseRegion_kept | apply updPipe_kept | apply updDale_kept | apply kept_foldl | apply kept_foldl1 | split | refine kept_fst (by assumption) ?_ | dsimp only

theorem execLoadPlacement_kept {tag : Nat} {s : State} (hs : Kept q s) :
    KeptX q (execLoadPlacement tag s) := by
  unfold execLoadPlacement
  try dsimp only
  with_reducible repeat' first | assumption | apply loadPlacementState_kept | apply kept_next | exact kept_refused

theorem execPlacementRelease_kept {tag : Nat} {s : State} (hs : Kept q s) :
    KeptX q (execPlacementRelease tag s) := by
  unfold execPlacementRelease
  try dsimp only
  with_reducible repeat' first | assumption | apply placementReleaseState_kept | apply kept_next | exact kept_refused

theorem execStartPipeline_kept {tag : Nat} {s : State} (hs : Kept q s) :
    KeptX q (execStartPipeline tag s) := by
  unfold execStartPipeline
  try dsimp only
  with_reducible repeat' first | assumption | apply startPipelineState_kept | apply kept_next | exact kept_refused

end Sys2Proof.Machine
end

