-- ==== Sys2Proof/Laws/KeptSteps.lean ====
section
/-! SUPPORT. What the effects of Machine/Steps keep: the queue, the canonical form of memory, OTP (Laws/Kept.lean). -/
set_option linter.all false
namespace Sys2Proof.Machine

variable {q : Base}

theorem sendRun_kept {s : State} {p : Nat} {d : Nat} (hs : Kept q s) :
    Kept q (sendRun s p d) := by
  unfold sendRun
  try dsimp only
  with_reducible repeat' first | assumption | apply handRequest_kept | apply kept_getD | apply kept_some | exact kept_none | refine kept_of_some (by assumption) ?_

theorem forgetRuns_kept {s : State} {p : Nat} (hs : Kept q s) :
    Kept q (forgetRuns s p) := by
  unfold forgetRuns
  try dsimp only
  with_reducible repeat' first | assumption | apply updNi_kept

theorem beginStep_kept {s : State} {p : Nat} (hs : Kept q s) :
    Kept q (beginStep s p) := by
  unfold beginStep
  try dsimp only
  with_reducible repeat' first | assumption | intro _ _ _ | intro _ _ | intro _ | apply sendRun_kept | apply updPipe_kept | apply updDale_kept | apply kept_foldl | apply kept_foldl1 | refine kept_fst (by assumption) ?_ | dsimp only

theorem runStepState_kept {tag : Nat} {s : State} (hs : Kept q s) :
    Kept q (runStepState tag s) := by
  unfold runStepState
  try dsimp only
  with_reducible repeat' first | assumption | apply beginStep_kept | apply refuseCmd_kept | apply updCmd_kept | apply updPipe_kept | split

theorem runDale_kept {d : Nat} {p : Packet} {s : State} (hs : Kept q s) :
    Kept q (runDale d p s) := by
  unfold runDale
  try dsimp only
  with_reducible repeat' first | assumption | apply updDale_kept | split

theorem reportTaken_kept {r : Request} {p : Packet} {s : State} (hs : Kept q s) :
    Kept q (reportTaken r p s) := by
  unfold reportTaken
  try dsimp only
  with_reducible repeat' first | assumption | apply reportDale_kept | split

theorem stepDone_kept {s : State} {p : Nat} (hs : Kept q s) :
    Kept q (stepDone s p) := by
  unfold stepDone
  try dsimp only
  with_reducible repeat' first | assumption | intro _ _ _ | intro _ _ | intro _ | apply forgetRuns_kept | apply settleDeferred_kept | apply finishRun_kept | apply poisonReport_kept | apply commitStep_kept | apply updPipe_kept | apply kept_foldl | apply kept_foldl1 | split | refine kept_fst (by assumption) ?_ | dsimp only

theorem stepHalted_kept {s : State} {p : Nat} (hs : Kept q s) :
    Kept q (stepHalted s p) := by
  unfold stepHalted
  try dsimp only
  with_reducible repeat' first | assumption | intro _ _ _ | intro _ _ | intro _ | apply forgetRuns_kept | apply poisonReport_kept | apply enterHalted_kept | apply sendMarkers_kept | apply updPipe_kept | apply kept_foldl | apply kept_foldl1 | refine kept_fst (by assumption) ?_ | dsimp only

theorem stepEndState_kept {p : Nat} {s : State} (hs : Kept q s) :
    Kept q (stepEndState p s) := by
  unfold stepEndState
  try dsimp only
  with_reducible repeat' first | assumption | apply stepHalted_kept | apply stepDone_kept | split

theorem stepWatchdogState_kept {p : Nat} {s : State} (hs : Kept q s) :
    Kept q (stepWatchdogState p s) := by
  unfold stepWatchdogState
  try dsimp only
  with_reducible repeat' first | assumption | apply haltPipe_kept | apply emit_kept | apply kept_getD | split

theorem execRunStep_kept {tag : Nat} {s : State} (hs : Kept q s) :
    KeptX q (execRunStep tag s) := by
  unfold execRunStep
  try dsimp only
  with_reducible repeat' first | assumption | apply runStepState_kept | apply kept_next | exact kept_refused

theorem execStepEnd_kept {p : Nat} {s : State} (hs : Kept q s) :
    KeptX q (execStepEnd p s) := by
  unfold execStepEnd
  try dsimp only
  with_reducible repeat' first | assumption | apply stepEndState_kept | apply guardUnit_kept | apply kept_next | exact kept_refused

theorem execStepWatchdog_kept {p : Nat} {s : State} (hs : Kept q s) :
    KeptX q (execStepWatchdog p s) := by
  unfold execStepWatchdog
  try dsimp only
  with_reducible repeat' first | assumption | apply stepWatchdogState_kept | apply guardUnit_kept | apply kept_next | exact kept_refused

end Sys2Proof.Machine
end

