-- ==== Sys2Proof/Laws/KeptContext.lean ====
section
/-! SUPPORT. What the effects of Machine/Context keep: the queue, the canonical form of memory, OTP (Laws/Kept.lean). -/
set_option linter.all false
namespace Sys2Proof.Machine

variable {q : Base}

theorem ctxSlots_kept {s : State} {d : Nat} (hs : Kept q s) :
    Kept q (ctxSlots s d).1 := by
  unfold ctxSlots
  try dsimp only
  with_reducible repeat' first | assumption | intro _ _ _ | intro _ _ | intro _ | apply storeRead_kept | apply kept_foldl | apply kept_foldl1 | split | refine kept_fst (by assumption) ?_ | dsimp only

theorem ctxRecord_kept {s : State} {g : Stage} (hs : Kept q s) :
    Kept q (ctxRecord s g).1 := by
  unfold ctxRecord
  try dsimp only
  with_reducible repeat' first | assumption | apply ctxSlots_kept | split | refine kept_fst (by assumption) ?_ | dsimp only

theorem ctxImage_kept {s : State} {p : Nat} {target : Nat} (hs : Kept q s) :
    Kept q (ctxImage s p target).1 := by
  unfold ctxImage
  try dsimp only
  with_reducible repeat' first | assumption | intro _ _ _ | intro _ _ | intro _ | apply ctxRecord_kept | apply kept_foldl | apply kept_foldl1 | split | refine kept_fst (by assumption) ?_ | dsimp only

theorem ctxFails_kept {s : State} {c : Cmd} {st : Status} {path : Nat} {a : Nat} {b : Nat} (hs : Kept q s) :
    Kept q (ctxFails s c st path a b) := by
  unfold ctxFails
  try dsimp only
  with_reducible repeat' first | assumption | apply emitCmd_kept | apply decideCmd_kept | split

theorem saveContextState_kept {tag : Nat} {s : State} (hs : Kept q s) :
    Kept q (saveContextState tag s) := by
  unfold saveContextState
  try dsimp only
  with_reducible repeat' first | assumption | apply ctxFails_kept | apply ctxImage_kept | apply refuseCmd_kept | apply cpWrite_kept | apply decideCmd_kept | apply updCmd_kept | split | refine kept_fst (by assumption) ?_ | dsimp only

theorem ctxContents_kept {s : State} {d : Nat} {r : CtxRecord} (hs : Kept q s) :
    Kept q (ctxContents s d r) := by
  unfold ctxContents
  try dsimp only
  with_reducible repeat' first | assumption | intro _ _ _ | intro _ _ | intro _ | apply storeWrite_kept | apply kept_foldl | apply kept_foldl1 | refine kept_fst (by assumption) ?_ | dsimp only

theorem restoreDale_kept {s : State} {g : Stage} {r : CtxRecord} {d : Nat} (hs : Kept q s) :
    Kept q (restoreDale s g r d) := by
  unfold restoreDale
  try dsimp only
  with_reducible repeat' first | assumption | apply ctxContents_kept | apply storeWrite_kept | apply updDale_kept | split | refine kept_fst (by assumption) ?_ | dsimp only

theorem restoreContextState_kept {tag : Nat} {s0 : State} (hs0 : Kept q s0) :
    Kept q (restoreContextState tag s0) := by
  unfold restoreContextState
  try dsimp only
  with_reducible repeat' first | assumption | intro _ _ _ | intro _ _ | intro _ | apply restoreDale_kept | apply ctxFails_kept | apply refuseCmd_kept | apply cpRead_kept | apply decideCmd_kept | apply updCmd_kept | apply releaseRegion_kept | apply updPipe_kept | apply kept_foldl | apply kept_foldl1 | apply kept_getD | split | refine kept_fst (by assumption) ?_ | dsimp only

theorem execSaveContext_kept {tag : Nat} {s : State} (hs : Kept q s) :
    KeptX q (execSaveContext tag s) := by
  unfold execSaveContext
  try dsimp only
  with_reducible repeat' first | assumption | apply saveContextState_kept | apply kept_next | exact kept_refused

theorem execRestoreContext_kept {tag : Nat} {s : State} (hs : Kept q s) :
    KeptX q (execRestoreContext tag s) := by
  unfold execRestoreContext
  try dsimp only
  with_reducible repeat' first | assumption | apply restoreContextState_kept | apply kept_next | exact kept_refused

end Sys2Proof.Machine
end

