-- ==== Sys2Proof/Laws/KeptKat.lean ====
section
/-! SUPPORT. What the effects of Machine/Kat keep: the queue, the canonical form of memory, OTP (Laws/Kept.lean). -/
set_option linter.all false
namespace Sys2Proof.Machine

variable {q : Base}

theorem startKernel_kept {s : State} {d : Nat} {k : Nat} (hs : Kept q s) :
    Kept q (startKernel s d k) := by
  unfold startKernel
  try dsimp only
  with_reducible repeat' first | assumption | apply storeWrite_kept | apply updDale_kept | refine kept_fst (by assumption) ?_ | dsimp only

theorem clearKernel_kept {s : State} {d : Nat} (hs : Kept q s) :
    Kept q (clearKernel s d) := by
  unfold clearKernel
  try dsimp only
  with_reducible repeat' first | assumption | apply forgetRange_kept | apply updDale_kept

theorem endKat_kept {s : State} {k : KatRun} {aborted : Bool} (hs : Kept q s) :
    Kept q (endKat s k aborted) := by
  unfold endKat
  try dsimp only
  with_reducible repeat' first | assumption | intro _ _ _ | intro _ _ | intro _ | apply clearKernel_kept | apply decideCmd_kept | apply emit_kept | apply kept_foldl | apply kept_foldl1 | split | refine kept_fst (by assumption) ?_ | dsimp only | refine kept_mk ?_

theorem beginKat_kept {s : State} {k : KatRun} (hs : Kept q s) :
    Kept q (beginKat s k) := by
  unfold beginKat
  try dsimp only
  with_reducible repeat' first | assumption | intro _ _ _ | intro _ _ | intro _ | apply endKat_kept | apply startKernel_kept | apply kept_foldl | apply kept_foldl1 | split | refine kept_fst (by assumption) ?_ | dsimp only | refine kept_mk ?_

theorem katRunState_kept {tag : Nat} {s : State} (hs : Kept q s) :
    Kept q (katRunState tag s) := by
  unfold katRunState
  try dsimp only
  with_reducible repeat' first | assumption | apply beginKat_kept | apply refuseCmd_kept | apply updCmd_kept | split

theorem katScheduleState_kept {entry : Nat} {s : State} (hs : Kept q s) :
    Kept q (katScheduleState entry s) := by
  unfold katScheduleState
  try dsimp only
  with_reducible repeat' first | assumption | apply beginKat_kept | split

theorem katDaleDone_kept {s : State} {k : KatRun} {d : Nat} (hs : Kept q s) :
    Kept q (katDaleDone s k d) := by
  unfold katDaleDone
  try dsimp only
  with_reducible repeat' first | assumption | apply endKat_kept | apply clearKernel_kept | split | refine kept_mk ?_

theorem setKat_kept {s : State} {k : KatRun} {k1 : KatRun} (hs : Kept q s) :
    Kept q (setKat s k k1) := by
  unfold setKat
  try dsimp only
  with_reducible repeat' first | assumption | split | refine kept_mk ?_

theorem katNext_kept {s : State} {k : KatRun} {d : Nat} {rest : List Nat} (hs : Kept q s) :
    Kept q (katNext s k d rest) := by
  unfold katNext
  try dsimp only
  with_reducible repeat' first | assumption | apply setKat_kept | apply katDaleDone_kept | apply startKernel_kept | split

theorem katKernelDoneState_kept {d : Nat} {kernel : Nat} {digest : List Byte} {s : State} (hs : Kept q s) :
    Kept q (katKernelDoneState d kernel digest s) := by
  unfold katKernelDoneState
  try dsimp only
  with_reducible repeat' first | assumption | apply katNext_kept | apply setKat_kept | apply katDaleDone_kept | apply startKernel_kept | apply giveStrike_kept | apply isolate_kept | apply emitDale_kept | apply odBump_kept | split

theorem execKatRun_kept {tag : Nat} {s : State} (hs : Kept q s) :
    KeptX q (execKatRun tag s) := by
  unfold execKatRun
  try dsimp only
  with_reducible repeat' first | assumption | apply katRunState_kept | apply kept_next | exact kept_refused

theorem execKatKernelDone_kept {d : Nat} {kernel : Nat} {digest : List Byte} {s : State} (hs : Kept q s) :
    KeptX q (execKatKernelDone d kernel digest s) := by
  unfold execKatKernelDone
  try dsimp only
  with_reducible repeat' first | assumption | apply katKernelDoneState_kept | apply guardUnit_kept | apply kept_next | exact kept_refused

theorem execKatSchedule_kept {entry : Nat} {s : State} (hs : Kept q s) :
    KeptX q (execKatSchedule entry s) := by
  unfold execKatSchedule
  try dsimp only
  with_reducible repeat' first | assumption | apply katScheduleState_kept | apply guardUnit_kept | apply kept_next | exact kept_refused

end Sys2Proof.Machine
end

