-- ==== Sys2Proof/Laws/KeptPeer.lean ====
section
/-! SUPPORT. What the effects of Machine/Peer keep: the queue, the canonical form of memory, OTP (Laws/Kept.lean). -/
set_option linter.all false
namespace Sys2Proof.Machine

variable {q : Base}

theorem setPort_kept {s : State} {g : Nat} {p : PeerPort} (hs : Kept q s) :
    Kept q (setPort s g p) := by
  unfold setPort
  try dsimp only
  with_reducible repeat' first | assumption | refine kept_mk ?_

theorem updPort_kept {s : State} {g : Nat} {f : PeerPort → PeerPort} (hs : Kept q s) :
    Kept q (updPort s g f) := by
  unfold updPort
  try dsimp only
  with_reducible repeat' first | assumption | apply setPort_kept

theorem ackPeer_kept {s : State} {port : Nat} {m : PeerMsg} {st : Status} (hs : Kept q s) :
    Kept q (ackPeer s port m st) := by
  unfold ackPeer
  try dsimp only
  with_reducible repeat' first | assumption | apply queuePeer_kept | split

theorem relayDrop_kept {s : State} {port : Nat} {m : PeerMsg} {cause : Nat} (hs : Kept q s) :
    Kept q (relayDrop s port m cause) := by
  unfold relayDrop
  try dsimp only
  with_reducible repeat' first | assumption | apply ackPeer_kept | apply emitPlain_kept

theorem peerArrive_kept {s0 : State} {port : Nat} {m : PeerMsg} {op : Nat} {core : State → State} (hs0 : Kept q s0) (hcore : ∀ y0, Kept q y0 → Kept q (core y0)) :
    Kept q (peerArrive s0 port m op core) := by
  unfold peerArrive
  try dsimp only
  with_reducible repeat' first | assumption | apply hcore | apply relayDrop_kept | apply ackPeer_kept | apply updAgent_kept | apply queuePeer_kept | apply odBump_kept | apply emitPlain_kept | split | apply kept_some | exact kept_none | refine kept_of_some (by assumption) ?_

theorem portRequest_kept {s : State} {port : Nat} {ix : Nat} {typ : Nat} {addr : Nat} {len : Nat} {aux : Nat} {poison : Bool} {payload : List Byte} (hs : Kept q s) :
    Kept q (portRequest s port ix typ addr len aux poison payload).1 := by
  unfold portRequest
  try dsimp only
  with_reducible repeat' first | assumption | apply handRequest_kept | apply updNi_kept | apply kept_map | split | apply kept_some | exact kept_none | refine kept_of_some (by assumption) ?_

theorem issueSems_kept {port : Nat} {l : List (Nat × Nat × Nat)} {s : State} (hs : Kept q s) : Kept q (issueSems port l s).1 := by
  induction l generalizing s with
  | nil => exact hs
  | cons e rest ih =>
    unfold issueSems
    split
    · exact ih (portRequest_kept hs)
    · exact hs

theorem issueWrites_kept {port : Nat} {l : List (Nat × List Byte × Bool)} {s : State} {n : Nat} (hs : Kept q s) :
    Kept q (issueWrites port l s n).1 := by
  induction l generalizing s n with
  | nil => exact hs
  | cons e rest ih =>
    unfold issueWrites
    split
    · exact ih (portRequest_kept hs)
    · exact hs

theorem stepJob_kept {s : State} {port : Nat} {j : PeerJob} (hs : Kept q s) :
    Kept q (stepJob s port j).1 := by
  unfold stepJob
  try dsimp only
  with_reducible repeat' first | assumption | apply issueWrites_kept | apply issueSems_kept | split | refine kept_fst (by assumption) ?_ | dsimp only

theorem runJobs_kept {port fuel : Nat} {s : State} (hs : Kept q s) : Kept q (runJobs port fuel s) := by
  induction fuel generalizing s with
  | zero => exact hs
  | succ n ih =>
    unfold runJobs
    dsimp only
    repeat' split
    all_goals first
      | exact hs
      | exact ih (updPort_kept (stepJob_kept hs))
      | exact updPort_kept (stepJob_kept hs)

theorem addJob_kept {s : State} {port : Nat} {todo : List (Nat × List Byte × Bool)} {sems : List (Nat × Nat × Nat)} (hs : Kept q s) :
    Kept q (addJob s port todo sems) := by
  unfold addJob
  try dsimp only
  with_reducible repeat' first | assumption | apply runJobs_kept | apply updPort_kept

theorem jobAck_kept {s : State} {port : Nat} {write : Bool} (hs : Kept q s) :
    Kept q (jobAck s port write) := by
  unfold jobAck
  try dsimp only
  with_reducible repeat' first | assumption | apply runJobs_kept | apply updPort_kept | split

theorem poisonTodo_kept {s : State} {ms : List PeerMsg} (hs : Kept q s) :
    Kept q (poisonTodo s ms).1 := by
  unfold poisonTodo
  try dsimp only
  with_reducible repeat' first | assumption | intro _ _ _ | intro _ _ | intro _ | apply takeFree_kept | apply kept_foldl | apply kept_foldl1 | split | refine kept_fst (by assumption) ?_ | refine kept_snd (by assumption) ?_ | dsimp only

theorem setRed_kept {s : State} {g : Nat} {v : Group} (hs : Kept q s) :
    Kept q (setRed s g v) := by
  unfold setRed
  try dsimp only
  with_reducible repeat' first | assumption | refine kept_mk ?_

theorem groupResult_kept {s : State} {g : Nat} {n : Nat} {size : Nat} {bad : Bool} {ps : List Contrib} (hs : Kept q s) :
    Kept q (groupResult s g n size bad ps).1 := by
  unfold groupResult
  try dsimp only
  with_reducible repeat' first | assumption | apply takeFree_kept | split | refine kept_fst (by assumption) ?_ | refine kept_snd (by assumption) ?_ | dsimp only

theorem settleGroup_kept {g fuel : Nat} {s : State} (hs : Kept q s) : Kept q (settleGroup g fuel s) := by
  induction fuel generalizing s with
  | zero => exact hs
  | succ n ih =>
    unfold settleGroup
    dsimp only
    split
    · exact hs
    · exact ih (addJob_kept (setRed_kept (winSet_kept (odBump_kept (groupResult_kept hs)))))

theorem decideContribs_kept {s : State} {from_ : Nat × Nat × Nat × Nat} {ok : Bool} (hs : Kept q s) :
    Kept q (decideContribs s from_ ok) := by
  unfold decideContribs
  try dsimp only
  with_reducible repeat' first | assumption | intro _ _ _ | intro _ _ | intro _ | apply settleGroup_kept | apply setRed_kept | apply kept_foldl | apply kept_foldl1 | split | refine kept_fst (by assumption) ?_ | dsimp only

theorem holdMsg_kept {s : State} {port : Nat} {m : PeerMsg} (hs : Kept q s) :
    Kept q (holdMsg s port m) := by
  unfold holdMsg
  try dsimp only
  with_reducible repeat' first | assumption | apply updPort_kept | split

theorem takeProvisional_kept {s : State} {port : Nat} {m : PeerMsg} {s0 : State} (hs : Kept q s) (hs0 : Kept q s0) :
    Kept q (takeProvisional s port m s0) := by
  unfold takeProvisional
  try dsimp only
  with_reducible repeat' first | assumption | apply holdMsg_kept | apply addJob_kept | apply ackPeer_kept | split

theorem peerWriteState_kept {port : Nat} {m : PeerMsg} {s : State} (hs : Kept q s) :
    Kept q (peerWriteState port m s) := by
  unfold peerWriteState
  try dsimp only
  with_reducible repeat' first | assumption | intro _ _ | intro _ | apply takeProvisional_kept | apply peerArrive_kept | apply kept_some | exact kept_none | refine kept_of_some (by assumption) ?_

theorem peerSignalState_kept {port : Nat} {m : PeerMsg} {s : State} (hs : Kept q s) :
    Kept q (peerSignalState port m s) := by
  unfold peerSignalState
  try dsimp only
  with_reducible repeat' first | assumption | intro _ _ | intro _ | apply takeProvisional_kept | apply peerArrive_kept | apply kept_some | exact kept_none | refine kept_of_some (by assumption) ?_

theorem peerReduceState_kept {port : Nat} {m : PeerMsg} {s : State} (hs : Kept q s) :
    Kept q (peerReduceState port m s) := by
  unfold peerReduceState
  try dsimp only
  with_reducible repeat' first | assumption | intro _ _ | intro _ | apply holdMsg_kept | apply setRed_kept | apply peerArrive_kept | apply ackPeer_kept | split | apply kept_some | exact kept_none | refine kept_of_some (by assumption) ?_

theorem dropEpoch_kept {s : State} {port : Nat} {e : PeerEpoch} (hs : Kept q s) :
    Kept q (dropEpoch s port e) := by
  unfold dropEpoch
  try dsimp only
  with_reducible repeat' first | assumption | apply updPort_kept

theorem retractEpoch_kept {s : State} {port : Nat} {e : PeerEpoch} {expired : Bool} (hs : Kept q s) :
    Kept q (retractEpoch s port e expired) := by
  unfold retractEpoch
  try dsimp only
  with_reducible repeat' first | assumption | apply dropEpoch_kept | apply decideContribs_kept | apply poisonTodo_kept | apply addJob_kept | apply optimisticRetract_kept | apply odBump_kept | apply emitPlain_kept | split | refine kept_fst (by assumption) ?_ | dsimp only

theorem commitEpoch_kept {s : State} {port : Nat} {e : PeerEpoch} (hs : Kept q s) :
    Kept q (commitEpoch s port e) := by
  unfold commitEpoch
  try dsimp only
  with_reducible repeat' first | assumption | apply dropEpoch_kept | apply decideContribs_kept | apply addJob_kept | apply optimisticCommit_kept | apply odBump_kept | split

theorem peerCommitState_kept {port : Nat} {m : PeerMsg} {s : State} (hs : Kept q s) :
    Kept q (peerCommitState port m s) := by
  unfold peerCommitState
  try dsimp only
  with_reducible repeat' first | assumption | intro _ _ | intro _ | apply commitEpoch_kept | apply peerArrive_kept | apply ackPeer_kept | split | apply kept_some | exact kept_none | refine kept_of_some (by assumption) ?_

theorem peerRetractState_kept {port : Nat} {m : PeerMsg} {s : State} (hs : Kept q s) :
    Kept q (peerRetractState port m s) := by
  unfold peerRetractState
  try dsimp only
  with_reducible repeat' first | assumption | intro _ _ | intro _ | apply retractEpoch_kept | apply peerArrive_kept | apply ackPeer_kept | split | apply kept_some | exact kept_none | refine kept_of_some (by assumption) ?_

theorem epochExpiredState_kept {port : Nat} {src : Nat} {pipeline : Nat} {epoch : Nat} {s : State} (hs : Kept q s) :
    Kept q (epochExpiredState port src pipeline epoch s) := by
  unfold epochExpiredState
  try dsimp only
  with_reducible repeat' first | assumption | apply retractEpoch_kept | split

theorem settleHost_kept {s : State} (hs : Kept q s) :
    Kept q (settleHost s) := by
  unfold settleHost
  try dsimp only
  with_reducible repeat' first | assumption | apply sendMarkers_kept | apply winSet_kept | split | refine kept_mk ?_

theorem sentAnswer_kept {s : State} {o : Origin} {st : Status} (hs : Kept q s) :
    Kept q (sentAnswer s o st) := by
  unfold sentAnswer
  try dsimp only
  with_reducible repeat' first | assumption | apply sendHost_kept | apply pieceWritten_kept | split

theorem peerAckState_kept {port : Nat} {m : PeerMsg} {s : State} (hs : Kept q s) :
    Kept q (peerAckState port m s) := by
  unfold peerAckState
  try dsimp only
  with_reducible repeat' first | assumption | intro _ _ | intro _ | apply sentAnswer_kept | apply settleHost_kept | apply peerArrive_kept | split | apply kept_some | exact kept_none | refine kept_of_some (by assumption) ?_ | refine kept_mk ?_

theorem answerSent_kept {s : State} {port : Nat} {st : Status} (hs : Kept q s) :
    Kept q (answerSent s port st) := by
  unfold answerSent
  try dsimp only
  with_reducible repeat' first | assumption | intro _ _ _ | intro _ _ | intro _ | apply sentAnswer_kept | apply settleHost_kept | apply updPort_kept | apply emitPlain_kept | apply kept_foldl | apply kept_foldl1 | split | refine kept_fst (by assumption) ?_ | dsimp only | refine kept_mk ?_

theorem portDownState_kept {port : Nat} {s : State} (hs : Kept q s) :
    Kept q (portDownState port s) := by
  unfold portDownState
  try dsimp only
  with_reducible repeat' first | assumption | intro _ _ _ | intro _ _ | intro _ | apply answerSent_kept | apply retractEpoch_kept | apply updPort_kept | apply emitPlain_kept | apply kept_foldl | apply kept_foldl1 | split | refine kept_fst (by assumption) ?_ | dsimp only

theorem closeHost_kept {s : State} {commit : Bool} (hs : Kept q s) :
    Kept q (closeHost s commit) := by
  unfold closeHost
  try dsimp only
  with_reducible repeat' first | assumption | apply settleHost_kept | apply answer_kept | split | refine kept_mk ?_

theorem hostEpochCommitState_kept {s : State} (hs : Kept q s) :
    Kept q (hostEpochCommitState s) := by
  unfold hostEpochCommitState
  try dsimp only
  with_reducible repeat' first | assumption | apply closeHost_kept

theorem hostEpochRetractState_kept {s : State} (hs : Kept q s) :
    Kept q (hostEpochRetractState s) := by
  unfold hostEpochRetractState
  try dsimp only
  with_reducible repeat' first | assumption | apply closeHost_kept

theorem execPeerWrite_kept {port : Nat} {m : PeerMsg} {s : State} (hs : Kept q s) :
    KeptX q (execPeerWrite port m s) := by
  unfold execPeerWrite
  try dsimp only
  with_reducible repeat' first | assumption | apply peerWriteState_kept | apply guardUnit_kept | apply kept_next | exact kept_refused

theorem execPeerReduce_kept {port : Nat} {m : PeerMsg} {s : State} (hs : Kept q s) :
    KeptX q (execPeerReduce port m s) := by
  unfold execPeerReduce
  try dsimp only
  with_reducible repeat' first | assumption | apply peerReduceState_kept | apply guardUnit_kept | apply kept_next | exact kept_refused

theorem execPeerAck_kept {port : Nat} {m : PeerMsg} {s : State} (hs : Kept q s) :
    KeptX q (execPeerAck port m s) := by
  unfold execPeerAck
  try dsimp only
  with_reducible repeat' first | assumption | apply peerAckState_kept | apply guardUnit_kept | apply kept_next | exact kept_refused

theorem execPeerCommit_kept {port : Nat} {m : PeerMsg} {s : State} (hs : Kept q s) :
    KeptX q (execPeerCommit port m s) := by
  unfold execPeerCommit
  try dsimp only
  with_reducible repeat' first | assumption | apply peerCommitState_kept | apply guardUnit_kept | apply kept_next | exact kept_refused

theorem execPeerRetract_kept {port : Nat} {m : PeerMsg} {s : State} (hs : Kept q s) :
    KeptX q (execPeerRetract port m s) := by
  unfold execPeerRetract
  try dsimp only
  with_reducible repeat' first | assumption | apply peerRetractState_kept | apply guardUnit_kept | apply kept_next | exact kept_refused

theorem execPeerSignal_kept {port : Nat} {m : PeerMsg} {s : State} (hs : Kept q s) :
    KeptX q (execPeerSignal port m s) := by
  unfold execPeerSignal
  try dsimp only
  with_reducible repeat' first | assumption | apply peerSignalState_kept | apply guardUnit_kept | apply kept_next | exact kept_refused

theorem execEpochExpired_kept {port : Nat} {src : Nat} {pipeline : Nat} {epoch : Nat} {s : State} (hs : Kept q s) :
    KeptX q (execEpochExpired port src pipeline epoch s) := by
  unfold execEpochExpired
  try dsimp only
  with_reducible repeat' first | assumption | apply epochExpiredState_kept | apply guardUnit_kept | apply kept_next | exact kept_refused

theorem execPortDown_kept {port : Nat} {s : State} (hs : Kept q s) :
    KeptX q (execPortDown port s) := by
  unfold execPortDown
  try dsimp only
  with_reducible repeat' first | assumption | apply portDownState_kept | apply guardUnit_kept | apply kept_next | exact kept_refused

theorem execHostEpochCommit_kept {s : State} (hs : Kept q s) :
    KeptX q (execHostEpochCommit s) := by
  unfold execHostEpochCommit
  try dsimp only
  with_reducible repeat' first | assumption | apply hostEpochCommitState_kept | apply kept_next | exact kept_refused

theorem execHostEpochRetract_kept {s : State} (hs : Kept q s) :
    KeptX q (execHostEpochRetract s) := by
  unfold execHostEpochRetract
  try dsimp only
  with_reducible repeat' first | assumption | apply hostEpochRetractState_kept | apply kept_next | exact kept_refused

end Sys2Proof.Machine
end

