-- ==== Sys2Proof/Laws/KeptFunctions.lean ====
section
/-! SUPPORT. What the effects of Machine/Functions keep: the queue, the canonical form of memory, OTP (Laws/Kept.lean). -/
set_option linter.all false
namespace Sys2Proof.Machine

variable {q : Base}

theorem abortCmd_kept {s : State} {e : Cmd} (hs : Kept q s) :
    Kept q (abortCmd s e) := by
  unfold abortCmd
  try dsimp only
  with_reducible repeat' first | assumption | apply endKat_kept | apply haltNow_kept | apply decideCmd_kept | split

theorem abortState_kept {tag : Nat} {s : State} (hs : Kept q s) :
    Kept q (abortState tag s) := by
  unfold abortState
  try dsimp only
  with_reducible repeat' first | assumption | apply abortCmd_kept | apply decideCmd_kept | apply updCmd_kept | split

theorem fnEvent_kept {s : State} {c : Cmd} {n : Nat} (hs : Kept q s) :
    Kept q (fnEvent s c n) := by
  unfold fnEvent
  try dsimp only
  with_reducible repeat' first | assumption | apply emitCmd_kept

theorem setFnOff_kept {s : State} {key : Nat} {st : Option Status} (hs : Kept q s) :
    Kept q (setFnOff s key st) := by
  unfold setFnOff
  try dsimp only
  with_reducible repeat' first | assumption | refine kept_mk ?_

theorem disablePipe_kept {s : State} {p : Nat} {seq : Nat} {st : Status} {drain : Bool} (hs : Kept q s) :
    Kept q (disablePipe s p seq st drain) := by
  unfold disablePipe
  try dsimp only
  with_reducible repeat' first | assumption | apply updPipe_kept | split

theorem regionPorts_kept {s : State} {r : Nat} (hs : Kept q s) :
    Kept q (regionPorts s r) := by
  unfold regionPorts
  try dsimp only
  with_reducible repeat' first | assumption | intro _ _ _ | intro _ _ | intro _ | apply updDale_kept | apply kept_foldl | apply kept_foldl1 | split | refine kept_fst (by assumption) ?_ | dsimp only

theorem functionDrainState_kept {tag : Nat} {s : State} (hs : Kept q s) :
    Kept q (functionDrainState tag s) := by
  unfold functionDrainState
  try dsimp only
  with_reducible repeat' first | assumption | apply regionPorts_kept | apply disablePipe_kept | apply setFnOff_kept | apply updCmd_kept | split

theorem functionDrainedState_kept {tag : Nat} {s : State} (hs : Kept q s) :
    Kept q (functionDrainedState tag s) := by
  unfold functionDrainedState
  try dsimp only
  with_reducible repeat' first | assumption | apply fnEvent_kept | apply decideCmd_kept | apply updPipe_kept | split

theorem cutGather_kept {s : State} {k : Nat} (hs : Kept q s) :
    Kept q (cutGather s k) := by
  unfold cutGather
  try dsimp only
  with_reducible repeat' first | assumption | intro _ _ _ | intro _ _ | intro _ | apply updGather_kept | apply haltChannel_kept | apply kept_foldl | apply kept_foldl1 | split | refine kept_fst (by assumption) ?_ | dsimp only

theorem cutPeer_kept {s : State} {g : Nat} (hs : Kept q s) :
    Kept q (cutPeer s g) := by
  unfold cutPeer
  try dsimp only
  with_reducible repeat' first | assumption | intro _ _ _ | intro _ _ | intro _ | apply answerSent_kept | apply retractEpoch_kept | apply kept_foldl | apply kept_foldl1 | refine kept_fst (by assumption) ?_ | dsimp only

theorem cutPipe_kept {s : State} {p : Nat} {seq : Nat} (hs : Kept q s) :
    Kept q (cutPipe s p seq) := by
  unfold cutPipe
  try dsimp only
  with_reducible repeat' first | assumption | intro _ _ _ | intro _ _ | intro _ | apply disablePipe_kept | apply haltNow_kept | apply decideCmd_kept | apply cutRegion_kept | apply updPipe_kept | apply kept_foldl | apply kept_foldl1 | split | refine kept_fst (by assumption) ?_ | dsimp only

theorem functionCutState_kept {tag : Nat} {s : State} (hs : Kept q s) :
    Kept q (functionCutState tag s) := by
  unfold functionCutState
  try dsimp only
  with_reducible repeat' first | assumption | apply cutPipe_kept | apply cutPeer_kept | apply cutGather_kept | apply setFnOff_kept | apply fnEvent_kept | apply decideCmd_kept | apply updCmd_kept | apply cutRegion_kept | split

theorem functionEnableState_kept {tag : Nat} {s : State} (hs : Kept q s) :
    Kept q (functionEnableState tag s) := by
  unfold functionEnableState
  try dsimp only
  with_reducible repeat' first | assumption | intro _ _ _ | intro _ _ | intro _ | apply setFnOff_kept | apply fnEvent_kept | apply decideCmd_kept | apply updCmd_kept | apply releaseRegion_kept | apply updPipe_kept | apply kept_foldl | apply kept_foldl1 | split | refine kept_fst (by assumption) ?_ | dsimp only

theorem execAbort_kept {tag : Nat} {s : State} (hs : Kept q s) :
    KeptX q (execAbort tag s) := by
  unfold execAbort
  try dsimp only
  with_reducible repeat' first | assumption | apply abortState_kept | apply kept_next | exact kept_refused

theorem execFunctionDrain_kept {tag : Nat} {s : State} (hs : Kept q s) :
    KeptX q (execFunctionDrain tag s) := by
  unfold execFunctionDrain
  try dsimp only
  with_reducible repeat' first | assumption | apply functionDrainState_kept | apply kept_next | exact kept_refused

theorem execFunctionDrained_kept {tag : Nat} {s : State} (hs : Kept q s) :
    KeptX q (execFunctionDrained tag s) := by
  unfold execFunctionDrained
  try dsimp only
  with_reducible repeat' first | assumption | apply functionDrainedState_kept | apply kept_next | exact kept_refused

theorem execFunctionCut_kept {tag : Nat} {s : State} (hs : Kept q s) :
    KeptX q (execFunctionCut tag s) := by
  unfold execFunctionCut
  try dsimp only
  with_reducible repeat' first | assumption | apply functionCutState_kept | apply kept_next | exact kept_refused

theorem execFunctionEnable_kept {tag : Nat} {s : State} (hs : Kept q s) :
    KeptX q (execFunctionEnable tag s) := by
  unfold execFunctionEnable
  try dsimp only
  with_reducible repeat' first | assumption | apply functionEnableState_kept | apply kept_next | exact kept_refused

end Sys2Proof.Machine
end

