-- ==== Sys2Proof/Laws/KeptConfigload.lean ====
section
/-! SUPPORT. What the effects of Machine/Configload keep: the queue, the canonical form of memory, OTP (Laws/Kept.lean). -/
set_option linter.all false
namespace Sys2Proof.Machine

variable {q : Base}

theorem updCfg_kept {s : State} {f : Cfg → Cfg} (hs : Kept q s) :
    Kept q (updCfg s f) := by
  unfold updCfg
  try dsimp only
  with_reducible repeat' first | assumption | refine kept_mk ?_

theorem startGolden_kept {s : State} {cause : Nat} (hs : Kept q s) :
    Kept q (startGolden s cause) := by
  unfold startGolden
  try dsimp only
  with_reducible repeat' first | assumption | apply updCfg_kept | apply odBump_kept | apply winSet_kept | apply emitPlain_kept

theorem unstage_kept {s : State} (hs : Kept q s) :
    Kept q (unstage s) := by
  unfold unstage
  try dsimp only
  with_reducible repeat' first | assumption | intro _ _ _ | intro _ _ | intro _ | apply updSector_kept | apply kept_foldl | apply kept_foldl1 | refine kept_fst (by assumption) ?_ | dsimp only

theorem rejectLoad_kept {s : State} {check : Nat} {st : Status} {frame : Option (Nat × Nat)} (hs : Kept q s) :
    Kept q (rejectLoad s check st frame) := by
  unfold rejectLoad
  try dsimp only
  with_reducible repeat' first | assumption | apply unstage_kept | apply startGolden_kept | apply updCfg_kept | apply odBump_kept | apply winSet_kept | apply emitPlain_kept | split

theorem beginLoad_kept {s : State} {src : Nat} (hs : Kept q s) :
    Kept q (beginLoad s src) := by
  unfold beginLoad
  try dsimp only
  with_reducible repeat' first | assumption | apply updCfg_kept | apply winSet_kept

theorem forwardBytes_kept {s : State} {n : Nat} (hs : Kept q s) :
    Kept q (forwardBytes s n) := by
  unfold forwardBytes
  try dsimp only
  with_reducible repeat' first | assumption | apply updCfg_kept | split

theorem stopForward_kept {s : State} (hs : Kept q s) :
    Kept q (stopForward s) := by
  unfold stopForward
  try dsimp only
  with_reducible repeat' first | assumption | apply updCfg_kept

theorem cfgGoState_kept {s : State} (hs : Kept q s) :
    Kept q (cfgGoState s) := by
  unfold cfgGoState
  try dsimp only
  with_reducible repeat' first | assumption | apply beginLoad_kept | apply answer_kept | split

theorem cfgAbandonState_kept {s : State} (hs : Kept q s) :
    Kept q (cfgAbandonState s) := by
  unfold cfgAbandonState
  try dsimp only
  with_reducible repeat' first | assumption | apply stopForward_kept | apply rejectLoad_kept | apply answer_kept | split

theorem receive_kept {s : State} {n : Nat} (hs : Kept q s) :
    Kept q (receive s n) := by
  unfold receive
  try dsimp only
  with_reducible repeat' first | assumption | apply updCfg_kept | apply winSet_kept

theorem cfgHeaderReceivedState_kept {h : List Byte} {s : State} (hs : Kept q s) :
    Kept q (cfgHeaderReceivedState h s) := by
  unfold cfgHeaderReceivedState
  try dsimp only
  with_reducible repeat' first | assumption | apply receive_kept | apply forwardBytes_kept | apply rejectLoad_kept | apply updCfg_kept | apply keyAbsent_kept | split

theorem cfgRegionTableReceivedState_kept {t : List Byte} {s : State} (hs : Kept q s) :
    Kept q (cfgRegionTableReceivedState t s) := by
  unfold cfgRegionTableReceivedState
  try dsimp only
  with_reducible repeat' first | assumption | apply receive_kept | apply forwardBytes_kept | apply rejectLoad_kept | apply updCfg_kept | split

theorem stageFrame_kept {s : State} {f : List Byte} (hs : Kept q s) :
    Kept q (stageFrame s f) := by
  unfold stageFrame
  try dsimp only
  with_reducible repeat' first | assumption | apply updCfg_kept | apply updSector_kept | split

theorem cfgFrameReceivedState_kept {f : List Byte} {s : State} (hs : Kept q s) :
    Kept q (cfgFrameReceivedState f s) := by
  unfold cfgFrameReceivedState
  try dsimp only
  with_reducible repeat' first | assumption | apply stageFrame_kept | apply receive_kept | apply forwardBytes_kept | apply rejectLoad_kept | apply updCfg_kept | split

theorem finishLoad_kept {s : State} (hs : Kept q s) :
    Kept q (finishLoad s) := by
  unfold finishLoad
  try dsimp only
  with_reducible repeat' first | assumption | apply rejectLoad_kept | apply updCfg_kept | split

theorem cfgLastByteState_kept {s0 : State} (hs0 : Kept q s0) :
    Kept q (cfgLastByteState s0) := by
  unfold cfgLastByteState
  try dsimp only
  with_reducible repeat' first | assumption | apply finishLoad_kept | apply stopForward_kept | apply rejectLoad_kept | apply updCfg_kept | split

theorem cfgSignatureVerifiedState_kept {sig : List Byte} {s : State} (hs : Kept q s) :
    Kept q (cfgSignatureVerifiedState sig s) := by
  unfold cfgSignatureVerifiedState
  try dsimp only
  with_reducible repeat' first | assumption | apply finishLoad_kept | apply receive_kept | apply forwardBytes_kept | apply rejectLoad_kept | apply updCfg_kept | split

theorem commitSector_kept {s : State} {k : Nat} {design : Nat} {floor : Nat} (hs : Kept q s) :
    Kept q (commitSector s k design floor) := by
  unfold commitSector
  try dsimp only
  with_reducible repeat' first | assumption | intro _ _ _ | intro _ _ | intro _ | apply setSector_kept | apply updDale_kept | apply kept_foldl | apply kept_foldl1 | refine kept_fst (by assumption) ?_ | dsimp only

theorem finishCommit_kept {s : State} (hs : Kept q s) :
    Kept q (finishCommit s) := by
  unfold finishCommit
  try dsimp only
  with_reducible repeat' first | assumption | intro _ _ _ | intro _ _ | intro _ | apply updCfg_kept | apply regionPorts_kept | apply extendMr_kept | apply updSector_kept | apply updDale_kept | apply odBump_kept | apply odPut_kept | apply winSet_kept | apply emitPlain_kept | apply kept_foldl | apply kept_foldl1 | refine kept_fst (by assumption) ?_ | dsimp only | refine kept_mk ?_

theorem cfgCommitState_kept {s : State} (hs : Kept q s) :
    Kept q (cfgCommitState s) := by
  unfold cfgCommitState
  try dsimp only
  with_reducible repeat' first | assumption | intro _ _ _ | intro _ _ | intro _ | apply finishCommit_kept | apply commitSector_kept | apply updCfg_kept | apply setClock_kept | apply kept_foldl | apply kept_foldl1 | split | refine kept_fst (by assumption) ?_ | dsimp only

theorem clockLockedState_kept {g : Nat} {s : State} (hs : Kept q s) :
    Kept q (clockLockedState g s) := by
  unfold clockLockedState
  try dsimp only
  with_reducible repeat' first | assumption | apply finishCommit_kept | apply updCfg_kept | apply setClock_kept | apply emitPlain_kept | split

theorem cfgDeadlineState_kept {s0 : State} (hs0 : Kept q s0) :
    Kept q (cfgDeadlineState s0) := by
  unfold cfgDeadlineState
  try dsimp only
  with_reducible repeat' first | assumption | apply stopForward_kept | apply rejectLoad_kept | apply startGolden_kept | apply updCfg_kept | split

theorem cfgEnumWaitExpiredState_kept {s : State} (hs : Kept q s) :
    Kept q (cfgEnumWaitExpiredState s) := by
  unfold cfgEnumWaitExpiredState
  try dsimp only
  with_reducible repeat' first | assumption | apply rejectLoad_kept | apply startGolden_kept | apply updCfg_kept | split

theorem strandStartMarkState_kept {s : State} (hs : Kept q s) :
    Kept q (strandStartMarkState s) := by
  unfold strandStartMarkState
  try dsimp only
  with_reducible repeat' first | assumption | apply beginLoad_kept | apply rejectLoad_kept | split

theorem strandGapState_kept {s : State} (hs : Kept q s) :
    Kept q (strandGapState s) := by
  unfold strandGapState
  try dsimp only
  with_reducible repeat' first | assumption | apply rejectLoad_kept | split

theorem benignUpset_kept {s : State} {k : Nat} {n : Nat} (hs : Kept q s) :
    Kept q (benignUpset s k n) := by
  unfold benignUpset
  try dsimp only
  with_reducible repeat' first | assumption | apply updCfg_kept | apply odBump_kept | apply emitPlain_kept | split

theorem essentialUpset_kept {s : State} {k : Nat} {n : Nat} {w : Nat} (hs : Kept q s) :
    Kept q (essentialUpset s k n w) := by
  unfold essentialUpset
  try dsimp only
  with_reducible repeat' first | assumption | apply haltPipe_kept | apply odBump_kept | apply emitPlain_kept | apply kept_getD | split

theorem regionFails_kept {s : State} {k : Nat} {n : Nat} {w : Nat} (hs : Kept q s) :
    Kept q (regionFails s k n w) := by
  unfold regionFails
  try dsimp only
  with_reducible repeat' first | assumption | intro _ _ _ | intro _ _ | intro _ | apply haltNow_kept | apply cutRegion_kept | apply updPipe_kept | apply winSet_kept | apply emitPlain_kept | apply kept_foldl | apply kept_foldl1 | apply kept_getD | split | refine kept_fst (by assumption) ?_ | dsimp only

theorem scrubPass_kept {s : State} (hs : Kept q s) :
    Kept q (scrubPass s) := by
  unfold scrubPass
  try dsimp only
  with_reducible repeat' first | assumption | apply updCfg_kept | apply odBump_kept | apply winSet_kept | split

theorem cfgScrubFrameState_kept {k : Nat} {n : Nat} {word : Nat} {active : Nat} {staged : Nat} {s : State} (hs : Kept q s) :
    Kept q (cfgScrubFrameState k n word active staged s) := by
  unfold cfgScrubFrameState
  try dsimp only
  with_reducible repeat' first | assumption | apply scrubPass_kept | apply regionFails_kept | apply essentialUpset_kept | apply benignUpset_kept | apply updCfg_kept | apply updSector_kept | apply kept_getD | split

theorem execCfgGo_kept {s : State} (hs : Kept q s) :
    KeptX q (execCfgGo s) := by
  unfold execCfgGo
  try dsimp only
  with_reducible repeat' first | assumption | apply cfgGoState_kept | apply kept_next | exact kept_refused

theorem execCfgDeadline_kept {s : State} (hs : Kept q s) :
    KeptX q (execCfgDeadline s) := by
  unfold execCfgDeadline
  try dsimp only
  with_reducible repeat' first | assumption | apply cfgDeadlineState_kept | apply kept_next | exact kept_refused

theorem execCfgEnumWaitExpired_kept {s : State} (hs : Kept q s) :
    KeptX q (execCfgEnumWaitExpired s) := by
  unfold execCfgEnumWaitExpired
  try dsimp only
  with_reducible repeat' first | assumption | apply cfgEnumWaitExpiredState_kept | apply kept_next | exact kept_refused

theorem execStrandStartMark_kept {s : State} (hs : Kept q s) :
    KeptX q (execStrandStartMark s) := by
  unfold execStrandStartMark
  try dsimp only
  with_reducible repeat' first | assumption | apply strandStartMarkState_kept | apply kept_next | exact kept_refused

theorem execCfgScrubFrame_kept {sector : Nat} {frame : Nat} {word : Nat} {active : Nat} {staged : Nat} {s : State} (hs : Kept q s) :
    KeptX q (execCfgScrubFrame sector frame word active staged s) := by
  unfold execCfgScrubFrame
  try dsimp only
  with_reducible repeat' first | assumption | apply cfgScrubFrameState_kept | apply guardUnit_kept | apply kept_next | exact kept_refused

end Sys2Proof.Machine
end

