-- ==== Sys2Proof/Laws/KeptRecorder.lean ====
section
/-! SUPPORT. What the effects of Machine/Recorder keep: the queue, the canonical form of memory, OTP (Laws/Kept.lean). -/
set_option linter.all false
namespace Sys2Proof.Machine

variable {q : Base}

theorem updMgmt_kept {s : State} {f : Mgmt → Mgmt} (hs : Kept q s) :
    Kept q (updMgmt s f) := by
  unfold updMgmt
  try dsimp only
  with_reducible repeat' first | assumption | refine kept_mk ?_

theorem noticeOf_kept {s : State} {e : Event} {bs : List Byte} (hs : Kept q s) :
    Kept q (noticeOf s e bs) := by
  unfold noticeOf
  try dsimp only
  with_reducible repeat' first | assumption | apply updMgmt_kept | apply odBump_kept | split

theorem recordEvent_kept {s : State} {e : Event} (hs : Kept q s) :
    Kept q (recordEvent s e) := by
  unfold recordEvent
  try dsimp only
  with_reducible repeat' first | assumption | apply noticeOf_kept | apply updCmd_kept | apply emitPlain_kept | apply takeFree_kept | split | refine kept_fst (by assumption) ?_ | refine kept_snd (by assumption) ?_ | dsimp only | refine kept_mk ?_

theorem eventRecordState_kept {k : Nat} {s : State} (hs : Kept q s) :
    Kept q (eventRecordState k s) := by
  unfold eventRecordState
  try dsimp only
  with_reducible repeat' first | assumption | intro _ _ _ | intro _ _ | intro _ | apply recordEvent_kept | apply giveStrike_kept | apply kept_foldl | apply kept_foldl1 | split | refine kept_fst (by assumption) ?_ | dsimp only | refine kept_mk ?_

theorem dropsReported_kept {s : State} (hs : Kept q s) :
    Kept q (dropsReported s) := by
  unfold dropsReported
  try dsimp only
  with_reducible repeat' first | assumption | apply recordEvent_kept | split | refine kept_mk ?_

theorem recordFlashWriteState_kept {ok : Bool} {s : State} (hs : Kept q s) :
    Kept q (recordFlashWriteState ok s) := by
  unfold recordFlashWriteState
  try dsimp only
  with_reducible repeat' first | assumption | apply dropsReported_kept | split | refine kept_mk ?_

theorem readLog_kept {s : State} (hs : Kept q s) :
    Kept q (readLog s) := by
  unfold readLog
  try dsimp only
  with_reducible repeat' first | assumption | apply recordEvent_kept | split | refine kept_mk ?_

theorem shadowSigState_kept {d : Nat} {value : Nat} {src : Src} {s : State} (hs : Kept q s) :
    Kept q (shadowSigState d value src s) := by
  unfold shadowSigState
  try dsimp only
  with_reducible repeat' first | assumption | apply comparePair_kept | apply updDale_kept | apply answer_kept | split

theorem execShadowSig_kept {d : Nat} {value : Nat} {src : Src} {s : State} (hs : Kept q s) :
    KeptX q (execShadowSig d value src s) := by
  unfold execShadowSig
  try dsimp only
  with_reducible repeat' first | assumption | apply shadowSigState_kept | apply guardUnit_kept | apply kept_next | exact kept_refused

theorem execEventRecord_kept {k : Nat} {s : State} (hs : Kept q s) :
    KeptX q (execEventRecord k s) := by
  unfold execEventRecord
  try dsimp only
  with_reducible repeat' first | assumption | apply eventRecordState_kept | apply kept_next | exact kept_refused

theorem execRecordFlashWrite_kept {ok : Bool} {s : State} (hs : Kept q s) :
    KeptX q (execRecordFlashWrite ok s) := by
  unfold execRecordFlashWrite
  try dsimp only
  with_reducible repeat' first | assumption | apply recordFlashWriteState_kept | apply kept_next | exact kept_refused

end Sys2Proof.Machine
end

