-- ==== Sys2Proof/Laws/KeptPower.lean ====
section
/-! SUPPORT. What the effects of Machine/Power keep: the queue, the canonical form of memory, OTP (Laws/Kept.lean). -/
set_option linter.all false
namespace Sys2Proof.Machine

variable {q : Base}

theorem persistFor_kept {s : State} {ok : Bool} {path : Nat} (hs : Kept q s) :
    Kept q (persistFor s ok path) := by
  unfold persistFor
  try dsimp only
  with_reducible repeat' first | assumption | apply updMgmt_kept | apply updPower_kept | apply emitPlain_kept | split

theorem persistCounters_kept {s : State} {ok : Bool} (hs : Kept q s) :
    Kept q (persistCounters s ok) := by
  unfold persistCounters
  try dsimp only
  with_reducible repeat' first | assumption | apply persistFor_kept

theorem counterPersistState_kept {ok : Bool} {s : State} (hs : Kept q s) :
    Kept q (counterPersistState ok s) := by
  unfold counterPersistState
  try dsimp only
  with_reducible repeat' first | assumption | apply persistCounters_kept

theorem orderlyShutdownState_kept {value : Nat} {s : State} (hs : Kept q s) :
    Kept q (orderlyShutdownState value s) := by
  unfold orderlyShutdownState
  try dsimp only
  with_reducible repeat' first | assumption | apply persistCounters_kept | apply persistFor_kept | apply answer_kept | split

theorem postRate_kept {s : State} {a : Nat} {f : Int} (hs : Kept q s) :
    Kept q (postRate s a f) := by
  unfold postRate
  try dsimp only
  with_reducible repeat' first | assumption | apply winSet_kept

theorem postRates_kept {s : State} {raw : List (Nat × Int)} {xs : List Int} (hs : Kept q s) :
    Kept q (postRates s raw xs) := by
  unfold postRates
  try dsimp only
  with_reducible repeat' first | assumption | intro _ _ _ | intro _ _ | intro _ | apply postRate_kept | apply updPower_kept | apply kept_foldl | apply kept_foldl1 | split | refine kept_fst (by assumption) ?_ | dsimp only

theorem rateSampleStaleState_kept {g : Nat} {s : State} (hs : Kept q s) :
    Kept q (rateSampleStaleState g s) := by
  unfold rateSampleStaleState
  try dsimp only
  with_reducible repeat' first | assumption | apply updPower_kept | apply emitPlain_kept | split

theorem evalRules_kept {s : State} (hs : Kept q s) :
    Kept q (evalRules s).1 := by
  unfold evalRules
  try dsimp only
  with_reducible repeat' first | assumption | intro _ _ _ | intro _ _ | intro _ | apply updPower_kept | apply odBump_kept | apply winSet_kept | apply kept_foldl | apply kept_foldl1 | split | refine kept_fst (by assumption) ?_ | dsimp only

theorem coreLost_kept {s : State} (hs : Kept q s) : Kept q (coreLost s) := ⟨hs.1, rfl, rfl, hs.4, hs.5⟩

theorem onlySaddle_kept {s : State} (hs : Kept q s) :
    Kept q (onlySaddle s) := by
  unfold onlySaddle
  try dsimp only
  with_reducible repeat' first | assumption | intro _ _ _ | intro _ _ | intro _ | apply winSet_kept | apply kept_foldl | apply kept_foldl1 | split | refine kept_fst (by assumption) ?_ | dsimp only

theorem coreUnpowered_kept {s : State} (hs : Kept q s) :
    Kept q (coreUnpowered s) := by
  unfold coreUnpowered
  try dsimp only
  with_reducible repeat' first | assumption | intro _ _ _ | intro _ _ | intro _ | apply coreLost_kept | apply kept_foldl | apply kept_foldl1 | refine kept_fst (by assumption) ?_ | dsimp only | refine kept_mk ?_

theorem coreStopped_kept {s : State} (hs : Kept q s) :
    Kept q (coreStopped s) := by
  unfold coreStopped
  try dsimp only
  with_reducible repeat' first | assumption | apply onlySaddle_kept | apply winSet_kept | apply State.reset_kept | refine kept_mk ?_

theorem emergencyStop_kept {s : State} {trip : Bool} {index : Nat} {input : Nat} {value : Int} (hs : Kept q s) :
    Kept q (emergencyStop s trip index input value) := by
  unfold emergencyStop
  try dsimp only
  with_reducible repeat' first | assumption | apply coreStopped_kept | apply coreUnpowered_kept | apply persistCounters_kept | apply recordEvent_kept | apply updPower_kept | split

theorem evalTrips_kept {s : State} (hs : Kept q s) :
    Kept q (evalTrips s) := by
  unfold evalTrips
  try dsimp only
  with_reducible repeat' first | assumption | intro _ _ _ | intro _ _ | intro _ | apply emergencyStop_kept | apply updPower_kept | apply kept_foldl | apply kept_foldl1 | split | refine kept_fst (by assumption) ?_ | dsimp only

theorem deviceSleepEnterState_kept {_requester : Nat} {s : State} (hs : Kept q s) :
    Kept q (deviceSleepEnterState _requester s) := by
  unfold deviceSleepEnterState
  try dsimp only
  with_reducible repeat' first | assumption | apply sleepNext_kept | apply updPower_kept | split

theorem domainGateState_kept {n : Nat} {requester : Nat} {rule : Nat} {s : State} (hs : Kept q s) :
    Kept q (domainGateState n requester rule s) := by
  unfold domainGateState
  try dsimp only
  with_reducible repeat' first | assumption | apply gateDomain_kept | apply answer_kept | split

theorem domainWakeState_kept {n : Nat} {requester : Nat} {rule : Nat} {s : State} (hs : Kept q s) :
    Kept q (domainWakeState n requester rule s) := by
  unfold domainWakeState
  try dsimp only
  with_reducible repeat' first | assumption | apply wakeDomain_kept | apply answer_kept | split

theorem ruleActs_kept {on : List Nat} {s : State} {i : Nat} (hs : Kept q s) :
    Kept q (ruleActs on s i) := by
  unfold ruleActs
  try dsimp only
  with_reducible repeat' first | assumption | apply deviceSleepEnterState_kept | apply emergencyStop_kept | apply wakeDomain_kept | apply gateDomain_kept | apply emitPlain_kept | split

theorem setTarget_kept {s : State} {measured : Nat} (hs : Kept q s) :
    Kept q (setTarget s measured) := by
  unfold setTarget
  try dsimp only
  with_reducible repeat' first | assumption | apply updPower_kept | apply winSet_kept | split

theorem supplyDeviationState_kept {s : State} (hs : Kept q s) :
    Kept q (supplyDeviationState s) := by
  unfold supplyDeviationState
  try dsimp only
  with_reducible repeat' first | assumption | intro _ _ _ | intro _ _ | intro _ | apply updPower_kept | apply emitPlain_kept | apply kept_foldl | apply kept_foldl1 | split | refine kept_fst (by assumption) ?_ | dsimp only

theorem limiterTickState_kept {s : State} (hs : Kept q s) :
    Kept q (limiterTickState s) := by
  unfold limiterTickState
  try dsimp only
  with_reducible repeat' first | assumption | apply odBump_kept | apply emitPlain_kept | split | refine kept_mk ?_

theorem countTicks_kept {s : State} (hs : Kept q s) :
    Kept q (countTicks s) := by
  unfold countTicks
  try dsimp only
  with_reducible repeat' first | assumption | apply updPower_kept | apply winSet_kept | split

theorem samplePart_kept {raw : List (Nat × Int)} {avsOk : Bool} {s : State} (hs : Kept q s) :
    Kept q (samplePart raw avsOk s).1 := by
  unfold samplePart
  try dsimp only
  with_reducible repeat' first | assumption | intro _ _ _ | intro _ _ | intro _ | apply countTicks_kept | apply setTarget_kept | apply ruleActs_kept | apply evalTrips_kept | apply evalRules_kept | apply postRates_kept | apply updPower_kept | apply kept_foldl | apply kept_foldl1 | split | refine kept_fst (by assumption) ?_ | dsimp only

theorem markLate_kept {s : State} {c : Nat} (hs : Kept q s) :
    Kept q (markLate s c) := by
  unfold markLate
  try dsimp only
  with_reducible repeat' first | assumption | split | refine kept_mk ?_

theorem leaveAbsorb_kept {s : State} {c : Nat} {quiet : Bool} (hs : Kept q s) :
    Kept q (leaveAbsorb s c quiet) := by
  unfold leaveAbsorb
  try dsimp only
  with_reducible repeat' first | assumption | apply markLate_kept | apply updNi_kept | apply emitPlain_kept | split

theorem fillSlots_kept {s : State} {d : Nat} (hs : Kept q s) :
    Kept q (fillSlots s d) := by
  unfold fillSlots
  try dsimp only
  with_reducible repeat' first | assumption | intro _ _ _ | intro _ _ | intro _ | apply updDale_kept | apply kept_foldl | apply kept_foldl1 | split | refine kept_fst (by assumption) ?_ | dsimp only

theorem domainReady_kept {s : State} {n : Nat} {quiet : Bool} (hs : Kept q s) :
    Kept q (domainReady s n quiet) := by
  unfold domainReady
  try dsimp only
  with_reducible repeat' first | assumption | intro _ _ _ | intro _ _ | intro _ | apply fillSlots_kept | apply leaveAbsorb_kept | apply groupWakes_kept | apply updNi_kept | apply kept_foldl | apply kept_foldl1 | split | refine kept_fst (by assumption) ?_ | dsimp only

theorem domainWokenState_kept {n : Nat} {micros : Nat} {s : State} (hs : Kept q s) :
    Kept q (domainWokenState n micros s) := by
  unfold domainWokenState
  try dsimp only
  with_reducible repeat' first | assumption | apply domainReady_kept | apply gateDomain_kept | apply setDomainOn_kept | apply setSwitch_kept | apply odBump_kept | apply emitPlain_kept | split

theorem runRuleset_kept {s : State} {bs : List Byte} {gen : Nat} (hs : Kept q s) :
    Kept q (runRuleset s bs gen) := by
  unfold runRuleset
  try dsimp only
  with_reducible repeat' first | assumption | apply updPower_kept | apply extendMr_kept | apply winSet_kept

theorem rulesetRefused_kept {s0 : State} {source : Nat} {key : Nat} {f : Nat × Status} (hs0 : Kept q s0) :
    Kept q (rulesetRefused s0 source key f) := by
  unfold rulesetRefused
  try dsimp only
  with_reducible repeat' first | assumption | apply keyAbsent_kept | apply odBump_kept | apply emitPlain_kept | split

theorem rulesetCtrlState_kept {value : Nat} {s : State} (hs : Kept q s) :
    Kept q (rulesetCtrlState value s) := by
  unfold rulesetCtrlState
  try dsimp only
  with_reducible repeat' first | assumption | apply updPower_kept | apply readPhys_kept | apply winSet_kept | apply answer_kept | split | refine kept_fst (by assumption) ?_ | dsimp only

theorem rulesetVerifiedState_kept {s : State} (hs : Kept q s) :
    Kept q (rulesetVerifiedState s) := by
  unfold rulesetVerifiedState
  try dsimp only
  with_reducible repeat' first | assumption | apply rulesetRefused_kept | apply runRuleset_kept | apply updPower_kept | apply winSet_kept | apply emitPlain_kept | split

theorem execCounterPersist_kept {ok : Bool} {s : State} (hs : Kept q s) :
    KeptX q (execCounterPersist ok s) := by
  unfold execCounterPersist
  try dsimp only
  with_reducible repeat' first | assumption | apply counterPersistState_kept | apply kept_next | exact kept_refused

theorem execOrderlyShutdown_kept {value : Nat} {s : State} (hs : Kept q s) :
    KeptX q (execOrderlyShutdown value s) := by
  unfold execOrderlyShutdown
  try dsimp only
  with_reducible repeat' first | assumption | apply orderlyShutdownState_kept | apply kept_next | exact kept_refused

theorem execRateSampleStale_kept {g : Nat} {s : State} (hs : Kept q s) :
    KeptX q (execRateSampleStale g s) := by
  unfold execRateSampleStale
  try dsimp only
  with_reducible repeat' first | assumption | apply rateSampleStaleState_kept | apply guardUnit_kept | apply kept_next | exact kept_refused

theorem execDeviceSleepEnter_kept {requester : Nat} {s : State} (hs : Kept q s) :
    KeptX q (execDeviceSleepEnter requester s) := by
  unfold execDeviceSleepEnter
  try dsimp only
  with_reducible repeat' first | assumption | apply deviceSleepEnterState_kept | apply kept_next | exact kept_refused

theorem execDomainGate_kept {n : Nat} {requester : Nat} {rule : Nat} {s : State} (hs : Kept q s) :
    KeptX q (execDomainGate n requester rule s) := by
  unfold execDomainGate
  try dsimp only
  with_reducible repeat' first | assumption | apply domainGateState_kept | apply guardUnit_kept | apply kept_next | exact kept_refused

theorem execDomainWake_kept {n : Nat} {requester : Nat} {rule : Nat} {s : State} (hs : Kept q s) :
    KeptX q (execDomainWake n requester rule s) := by
  unfold execDomainWake
  try dsimp only
  with_reducible repeat' first | assumption | apply domainWakeState_kept | apply guardUnit_kept | apply kept_next | exact kept_refused

theorem execDomainWoken_kept {n : Nat} {micros : Nat} {s : State} (hs : Kept q s) :
    KeptX q (execDomainWoken n micros s) := by
  unfold execDomainWoken
  try dsimp only
  with_reducible repeat' first | assumption | apply domainWokenState_kept | apply guardUnit_kept | apply kept_next | exact kept_refused

theorem execSupplyDeviation_kept {s : State} (hs : Kept q s) :
    KeptX q (execSupplyDeviation s) := by
  unfold execSupplyDeviation
  try dsimp only
  with_reducible repeat' first | assumption | apply supplyDeviationState_kept | apply kept_next | exact kept_refused

theorem execLimiterTick_kept {s : State} (hs : Kept q s) :
    KeptX q (execLimiterTick s) := by
  unfold execLimiterTick
  try dsimp only
  with_reducible repeat' first | assumption | apply limiterTickState_kept | apply kept_next | exact kept_refused

theorem execRulesetCtrl_kept {value : Nat} {s : State} (hs : Kept q s) :
    KeptX q (execRulesetCtrl value s) := by
  unfold execRulesetCtrl
  try dsimp only
  with_reducible repeat' first | assumption | apply rulesetCtrlState_kept | apply kept_next | exact kept_refused

theorem execRulesetVerified_kept {s : State} (hs : Kept q s) :
    KeptX q (execRulesetVerified s) := by
  unfold execRulesetVerified
  try dsimp only
  with_reducible repeat' first | assumption | apply rulesetVerifiedState_kept | apply kept_next | exact kept_refused

end Sys2Proof.Machine
end

