-- ==== Sys2Proof/Laws/KeptSecurity.lean ====
section
/-! SUPPORT. What the effects of Machine/Security keep: the queue, the canonical form of memory, OTP (Laws/Kept.lean). -/
set_option linter.all false
namespace Sys2Proof.Machine

variable {q : Base}

theorem odReply_kept {s : State} {code : Nat} (hs : Kept q s) :
    Kept q (odReply s code) := by
  unfold odReply
  try dsimp only
  with_reducible repeat' first | assumption | apply answer_kept | split

theorem drawNonce_kept {s : State} (hs : Kept q s) : Kept q (drawNonce s) := by
  unfold drawNonce
  split
  · exact updSec_kept hs (otpUp_of rfl rfl rfl rfl) hs.5
  · have h := takeFree_kept hs
    exact updSec_kept h (otpUp_of rfl rfl rfl rfl) h.5

theorem stageToken_kept {s : State} {path : Nat} {part : Nat} {bs : List Byte} (hs : Kept q s) :
    Kept q (stageToken s path part bs) := by
  unfold stageToken
  try dsimp only
  with_reducible repeat' first | assumption | apply updMgmt_kept | split

theorem authTokenState_kept {path : Nat} {part : Nat} {bytes : List Byte} {s : State} (hs : Kept q s) :
    Kept q (authTokenState path part bytes s) := by
  unfold authTokenState
  try dsimp only
  with_reducible repeat' first | assumption | apply stageToken_kept | apply odReply_kept | split

theorem authorised_kept {s : State} {path : Nat} {index : Nat} {sub : Nat} {value : List Byte} {act : Nat → State → State × Nat} (hs : Kept q s) (hact : ∀ y0 y1, Kept q y1 → Kept q (act y0 y1).1) :
    Kept q (authorised s path index sub value act).1 := by
  unfold authorised
  try dsimp only
  with_reducible repeat' first | assumption | apply hact | apply drawNonce_kept | apply updMgmt_kept | apply keyAbsent_kept | apply odBump_kept | apply emitPlain_kept | split | apply kept_some | exact kept_none | refine kept_of_some (by assumption) ?_

theorem replyOf_kept {r : State × Nat} (hr : Kept q r.1) :
    Kept q (replyOf r) := by
  unfold replyOf
  try dsimp only
  with_reducible repeat' first | assumption | apply odReply_kept

theorem otpFailed_kept {s : State} {field : Nat} {k : Nat} (hs : Kept q s) :
    Kept q (otpFailed s field k).1 := by
  unfold otpFailed
  try dsimp only
  with_reducible repeat' first | assumption | apply emitPlain_kept | split

theorem storeKey_kept {s : State} {k : Nat} {key : List Byte} (hs : Kept q s) :
    Kept q (storeKey s k key) := by
  unfold storeKey
  try dsimp only
  with_reducible repeat' first | assumption | refine updSec_kept ?_ (otpUp_of rfl rfl rfl rfl) (by apply Kept.svn; assumption)

theorem extendMr5_kept {s : State} {op : Nat} {k : Nat} {four : List Byte} (hs : Kept q s) :
    Kept q (extendMr5 s op k four) := by
  unfold extendMr5
  try dsimp only
  with_reducible repeat' first | assumption | apply extendMr_kept

theorem provision_kept {bytes : List Byte} {otpOk : Bool} {signer : Nat} {s : State} (hs : Kept q s) :
    Kept q (provision bytes otpOk signer s).1 := by
  unfold provision
  dsimp only
  split
  · exact hs
  · rename_i hg
    split
    · exact otpFailed_kept hs
    · refine emitPlain_kept (extendMr5_kept (storeKey_kept (updSec_kept hs ?_ hs.5)))
      have hn : s.sec.programmed.testBit (fieldAt bytes 0 1) ≠ true := by
        intro h
        apply hg
        right; right
        simp only [ownerState, h]
        split <;> simp
      refine ⟨fun k h => ?_, fun _ h => h, fun _ => Nat.le_refl _, fun k h => ?_⟩
      · simp only [bitPut, if_true]
        show Nat.testBit (_ ||| _) k = true
        rw [Nat.testBit_or, h, Bool.true_or]
      · rw [tget_tset_other]
        intro e
        subst e
        exact hn h

theorem ownerProvisionState_kept {path : Nat} {bytes : List Byte} {otpOk : Bool} {s : State} (hs : Kept q s) :
    Kept q (ownerProvisionState path bytes otpOk s) := by
  unfold ownerProvisionState
  try dsimp only
  with_reducible repeat' first | assumption | intro _ _ | intro _ | apply provision_kept | apply replyOf_kept | apply authorised_kept | apply odReply_kept | split | apply kept_some | exact kept_none | refine kept_of_some (by assumption) ?_ | refine kept_fst (by assumption) ?_ | dsimp only

theorem revoke_kept {k : Nat} {otpOk : Bool} {signer : Nat} {s : State} (hs : Kept q s) :
    Kept q (revoke k otpOk signer s).1 := by
  unfold revoke
  dsimp only
  split
  · exact hs
  · split
    · exact otpFailed_kept hs
    · refine emitPlain_kept (extendMr5_kept (updSec_kept hs ?_ hs.5))
      refine ⟨fun _ h => h, fun k h => ?_, fun _ => Nat.le_refl _, fun _ _ => rfl⟩
      simp only [bitPut, if_true]
      show Nat.testBit (_ ||| _) k = true
      rw [Nat.testBit_or, h, Bool.true_or]

theorem ownerRevokeState_kept {path : Nat} {k : Nat} {otpOk : Bool} {s : State} (hs : Kept q s) :
    Kept q (ownerRevokeState path k otpOk s) := by
  unfold ownerRevokeState
  try dsimp only
  with_reducible repeat' first | assumption | intro _ _ | intro _ | apply revoke_kept | apply replyOf_kept | apply authorised_kept | apply kept_some | exact kept_none | refine kept_of_some (by assumption) ?_ | refine kept_fst (by assumption) ?_ | dsimp only

theorem advanceSvn_kept {value : Nat} {otpOk : Bool} {signer : Nat} {s : State} (hs : Kept q s) :
    Kept q (advanceSvn value otpOk signer s).1 := by
  unfold advanceSvn
  dsimp only
  split
  · exact hs
  · rename_i hg
    split
    · exact hs
    · split
      · exact otpFailed_kept hs
      · refine emitPlain_kept (extendMr5_kept (updSec_kept hs ?_ (twf_tset _ _ _ _ hs.5)))
        refine ⟨fun _ h => h, fun _ h => h, fun c => ?_, fun _ _ => rfl⟩
        by_cases e : c = value / 2 ^ 24 % 256
        · subst e
          rw [tget_tset_same]
          unfold svnOf at hg
          omega
        · exact Nat.le_of_eq (tget_tset_other _ _ _ _ _ e).symm

theorem svnAdvanceState_kept {path : Nat} {value : Nat} {otpOk : Bool} {s : State} (hs : Kept q s) :
    Kept q (svnAdvanceState path value otpOk s) := by
  unfold svnAdvanceState
  try dsimp only
  with_reducible repeat' first | assumption | intro _ _ | intro _ | apply advanceSvn_kept | apply replyOf_kept | apply authorised_kept | apply kept_some | exact kept_none | refine kept_of_some (by assumption) ?_ | refine kept_fst (by assumption) ?_ | dsimp only

theorem vendorRootKeyState_kept {bytes : List Byte} {s : State} (hs : Kept q s) :
    Kept q (vendorRootKeyState bytes s) := by
  unfold vendorRootKeyState
  try dsimp only
  with_reducible repeat' first | assumption | apply storeKey_kept | apply odReply_kept | split

theorem ownerKeyState_kept {k : Nat} {bytes : List Byte} {s : State} (hs : Kept q s) :
    Kept q (ownerKeyState k bytes s) := by
  unfold ownerKeyState
  try dsimp only
  with_reducible repeat' first | assumption | apply storeKey_kept | apply odReply_kept | split

theorem readKeys_kept {s : State} (hs : Kept q s) :
    Kept q (readKeys s) := by
  unfold readKeys
  try dsimp only
  with_reducible repeat' first | assumption | intro _ _ _ | intro _ _ | intro _ | refine updSec_kept ?_ (otpUp_of rfl rfl rfl rfl) (by apply Kept.svn; assumption) | apply kept_foldl | apply kept_foldl1 | apply kept_getD | split | refine kept_fst (by assumption) ?_ | dsimp only

theorem setAttest_kept {s : State} {path : Nat} {a : Attest} (hs : Kept q s) :
    Kept q (setAttest s path a) := by
  unfold setAttest
  try dsimp only
  with_reducible repeat' first | assumption | refine updSec_kept ?_ (otpUp_of rfl rfl rfl rfl) (by apply Kept.svn; assumption)

theorem attestNonceState_kept {path : Nat} {bytes : List Byte} {s : State} (hs : Kept q s) :
    Kept q (attestNonceState path bytes s) := by
  unfold attestNonceState
  try dsimp only
  with_reducible repeat' first | assumption | apply setAttest_kept | apply odReply_kept | refine updSec_kept ?_ (otpUp_of rfl rfl rfl rfl) (by apply Kept.svn; assumption) | split

theorem attestationSignedState_kept {path : Nat} {ok : Bool} {s : State} (hs : Kept q s) :
    Kept q (attestationSignedState path ok s) := by
  unfold attestationSignedState
  try dsimp only
  with_reducible repeat' first | assumption | apply setAttest_kept | apply odBump_kept | apply emitPlain_kept | split

theorem entropyFaultState_kept {proportion : Bool} {s : State} (hs : Kept q s) :
    Kept q (entropyFaultState proportion s) := by
  unfold entropyFaultState
  try dsimp only
  with_reducible repeat' first | assumption | refine updSec_kept ?_ (otpUp_of rfl rfl rfl rfl) (by apply Kept.svn; assumption) | apply odBump_kept | apply emitPlain_kept | split

theorem seedLanes_kept {s : State} {draw : State → Nat × State} (hs : Kept q s) (hdraw : ∀ y0, Kept q y0 → Kept q (draw y0).2) :
    Kept q (seedLanes s draw) := by
  unfold seedLanes
  try dsimp only
  with_reducible repeat' first | assumption | apply hdraw | intro _ _ _ | intro _ _ | intro _ | apply updLane_kept | apply kept_foldl | apply kept_foldl1 | split | apply kept_some | exact kept_none | refine kept_of_some (by assumption) ?_ | refine kept_fst (by assumption) ?_ | dsimp only

theorem drawTimeoutState_kept {s : State} (hs : Kept q s) : Kept q (drawTimeoutState s) := by
  unfold drawTimeoutState
  split
  · have h : Kept q (seedLanes s fun t => (0x5A5A5A5A, t)) := seedLanes_kept hs fun _ h => h
    generalize seedLanes s (fun t => (0x5A5A5A5A, t)) = t at h
    exact updSec_kept h (otpUp_of rfl rfl rfl rfl) h.5
  · exact hs

theorem healthTestsPassState_kept {s : State} (hs : Kept q s) :
    Kept q (healthTestsPassState s) := by
  unfold healthTestsPassState
  try dsimp only
  with_reducible repeat' first | assumption | intro _ _ | intro _ | apply seedLanes_kept | apply drawNonce_kept | refine updSec_kept ?_ (otpUp_of rfl rfl rfl rfl) (by apply Kept.svn; assumption) | apply takeFree_kept | split | apply kept_some | exact kept_none | refine kept_of_some (by assumption) ?_ | refine kept_fst (by assumption) ?_ | refine kept_snd (by assumption) ?_ | dsimp only

theorem execAuthToken_kept {path : Nat} {part : Nat} {bytes : List Byte} {s : State} (hs : Kept q s) :
    KeptX q (execAuthToken path part bytes s) := by
  unfold execAuthToken
  try dsimp only
  with_reducible repeat' first | assumption | apply authTokenState_kept | apply guardUnit_kept | apply kept_next | exact kept_refused

theorem execOwnerProvision_kept {path : Nat} {bytes : List Byte} {otpOk : Bool} {s : State} (hs : Kept q s) :
    KeptX q (execOwnerProvision path bytes otpOk s) := by
  unfold execOwnerProvision
  try dsimp only
  with_reducible repeat' first | assumption | apply ownerProvisionState_kept | apply guardUnit_kept | apply kept_next | exact kept_refused

theorem execOwnerRevoke_kept {path : Nat} {k : Nat} {otpOk : Bool} {s : State} (hs : Kept q s) :
    KeptX q (execOwnerRevoke path k otpOk s) := by
  unfold execOwnerRevoke
  try dsimp only
  with_reducible repeat' first | assumption | apply ownerRevokeState_kept | apply guardUnit_kept | apply kept_next | exact kept_refused

theorem execSvnAdvance_kept {path : Nat} {value : Nat} {otpOk : Bool} {s : State} (hs : Kept q s) :
    KeptX q (execSvnAdvance path value otpOk s) := by
  unfold execSvnAdvance
  try dsimp only
  with_reducible repeat' first | assumption | apply svnAdvanceState_kept | apply guardUnit_kept | apply kept_next | exact kept_refused

theorem execVendorRootKey_kept {bytes : List Byte} {s : State} (hs : Kept q s) :
    KeptX q (execVendorRootKey bytes s) := by
  unfold execVendorRootKey
  try dsimp only
  with_reducible repeat' first | assumption | apply vendorRootKeyState_kept | apply kept_next | exact kept_refused

theorem execOwnerKey_kept {k : Nat} {bytes : List Byte} {s : State} (hs : Kept q s) :
    KeptX q (execOwnerKey k bytes s) := by
  unfold execOwnerKey
  try dsimp only
  with_reducible repeat' first | assumption | apply ownerKeyState_kept | apply guardUnit_kept | apply kept_next | exact kept_refused

theorem execAttestNonce_kept {path : Nat} {bytes : List Byte} {s : State} (hs : Kept q s) :
    KeptX q (execAttestNonce path bytes s) := by
  unfold execAttestNonce
  try dsimp only
  with_reducible repeat' first | assumption | apply attestNonceState_kept | apply guardUnit_kept | apply kept_next | exact kept_refused

theorem execAttestationSigned_kept {path : Nat} {ok : Bool} {s : State} (hs : Kept q s) :
    KeptX q (execAttestationSigned path ok s) := by
  unfold execAttestationSigned
  try dsimp only
  with_reducible repeat' first | assumption | apply attestationSignedState_kept | apply guardUnit_kept | apply kept_next | exact kept_refused

theorem execEntropyFault_kept {proportion : Bool} {s : State} (hs : Kept q s) :
    KeptX q (execEntropyFault proportion s) := by
  unfold execEntropyFault
  try dsimp only
  with_reducible repeat' first | assumption | apply entropyFaultState_kept | apply kept_next | exact kept_refused

theorem execDrawTimeout_kept {s : State} (hs : Kept q s) :
    KeptX q (execDrawTimeout s) := by
  unfold execDrawTimeout
  try dsimp only
  with_reducible repeat' first | assumption | apply drawTimeoutState_kept | apply kept_next | exact kept_refused

theorem execHealthTestsPass_kept {s : State} (hs : Kept q s) :
    KeptX q (execHealthTestsPass s) := by
  unfold execHealthTestsPass
  try dsimp only
  with_reducible repeat' first | assumption | apply healthTestsPassState_kept | apply kept_next | exact kept_refused

end Sys2Proof.Machine
end

