-- ==== Sys2Proof/Laws/KeptBringup.lean ====
section
/-! SUPPORT. What the effects of Machine/Bringup keep: the queue, the canonical form of memory, OTP (Laws/Kept.lean). -/
set_option linter.all false
namespace Sys2Proof.Machine

variable {q : Base}

theorem updBoot_kept {s : State} {f : Boot → Boot} (hs : Kept q s) :
    Kept q (updBoot s f) := by
  unfold updBoot
  try dsimp only
  with_reducible repeat' first | assumption | refine kept_mk ?_

theorem readCounters_kept {s : State} (hs : Kept q s) :
    Kept q (readCounters s) := by
  unfold readCounters
  try dsimp only
  with_reducible repeat' first | assumption | intro _ _ _ | intro _ _ | intro _ | apply winSet_kept | apply kept_foldl | apply kept_foldl1 | split | refine kept_fst (by assumption) ?_ | dsimp only

theorem readStore_kept {s : State} (hs : Kept q s) :
    Kept q (readStore s) := by
  unfold readStore
  try dsimp only
  with_reducible repeat' first | assumption | intro _ _ _ | intro _ _ | intro _ | apply odPut_kept | apply emitPlain_kept | apply kept_foldl | apply kept_foldl1 | split | refine kept_fst (by assumption) ?_ | dsimp only | refine kept_mk ?_

theorem readRulesets_kept {s : State} (hs : Kept q s) :
    Kept q (readRulesets s) := by
  unfold readRulesets
  try dsimp only
  with_reducible repeat' first | assumption | intro _ _ _ | intro _ _ | intro _ | apply rulesetRefused_kept | apply runRuleset_kept | apply kept_foldl | apply kept_foldl1 | apply kept_getD | split | refine kept_fst (by assumption) ?_ | dsimp only

theorem startAbsorb_kept {s : State} (hs : Kept q s) :
    Kept q (startAbsorb s) := by
  unfold startAbsorb
  try dsimp only
  with_reducible repeat' first | assumption | intro _ _ _ | intro _ _ | intro _ | apply updNi_kept | apply kept_foldl | apply kept_foldl1 | split | refine kept_fst (by assumption) ?_ | dsimp only

theorem startKept_kept {s : State} {kind : Nat} (hs : Kept q s) : Kept q (startKept s kind) := by
  unfold startKept
  exact onlySaddle_kept ⟨hs.1, twf_filter _ _ _ _ hs.2, twf_filter _ _ _ _ hs.3, otpUp_trans hs.4 (otpUp_of rfl rfl rfl rfl), hs.5⟩

theorem startUp_kept {s : State} {kind : Nat} (hs : Kept q s) :
    Kept q (startUp s kind) := by
  unfold startUp
  try dsimp only
  with_reducible repeat' first | assumption | intro _ _ _ | intro _ _ | intro _ | apply startKept_kept | apply startAbsorb_kept | apply readRulesets_kept | apply readStore_kept | apply readCounters_kept | apply readKeys_kept | apply drawNonce_kept | apply setTarget_kept | apply persistCounters_kept | apply readLog_kept | apply recordEvent_kept | apply startOn_kept | apply odPut_kept | apply winSet_kept | apply kept_foldl | apply kept_foldl1 | split | refine kept_fst (by assumption) ?_ | dsimp only | refine kept_mk ?_

theorem tryStart_kept {s : State} (hs : Kept q s) :
    Kept q (tryStart s) := by
  unfold tryStart
  try dsimp only
  with_reducible repeat' first | assumption | apply startUp_kept | split

theorem fallReset_kept {s : State} {kind : Nat} (hs : Kept q s) :
    Kept q (fallReset s kind) := by
  unfold fallReset
  try dsimp only
  with_reducible repeat' first | assumption | apply persistCounters_kept | refine kept_mk ?_

theorem powerGoodState_kept {s : State} (hs : Kept q s) :
    Kept q (powerGoodState s) := by
  unfold powerGoodState
  try dsimp only
  with_reducible repeat' first | assumption | apply tryStart_kept | apply updBoot_kept | split

theorem pwrGoodFallState_kept {s : State} (hs : Kept q s) :
    Kept q (pwrGoodFallState s) := by
  unfold pwrGoodFallState
  try dsimp only
  with_reducible repeat' first | assumption | apply fallReset_kept | apply updBoot_kept | split

theorem rstNFallState_kept {s : State} (hs : Kept q s) :
    Kept q (rstNFallState s) := by
  unfold rstNFallState
  try dsimp only
  with_reducible repeat' first | assumption | apply fallReset_kept | apply updBoot_kept | split

theorem rstNRiseState_kept {s : State} (hs : Kept q s) :
    Kept q (rstNRiseState s) := by
  unfold rstNRiseState
  try dsimp only
  with_reducible repeat' first | assumption | apply tryStart_kept | apply updBoot_kept | split

theorem coreResetState_kept {value : Nat} {s : State} (hs : Kept q s) :
    Kept q (coreResetState value s) := by
  unfold coreResetState
  try dsimp only
  with_reducible repeat' first | assumption | apply startUp_kept | apply answer_kept | split

theorem deviceSleepWakeState_kept {s : State} (hs : Kept q s) :
    Kept q (deviceSleepWakeState s) := by
  unfold deviceSleepWakeState
  try dsimp only
  with_reducible repeat' first | assumption | apply startUp_kept | split

theorem wakePinState_kept {s : State} (hs : Kept q s) :
    Kept q (wakePinState s) := by
  unfold wakePinState
  try dsimp only
  with_reducible repeat' first | assumption | apply startUp_kept | split

theorem sensorSampleState_kept {raw : List (Nat × Int)} {avsOk : Bool} {s : State} (hs : Kept q s) :
    Kept q (sensorSampleState raw avsOk s) := by
  unfold sensorSampleState
  try dsimp only
  with_reducible repeat' first | assumption | apply deviceSleepWakeState_kept | apply samplePart_kept | split | refine kept_fst (by assumption) ?_ | dsimp only

theorem flashHoldState_kept {s : State} (hs : Kept q s) :
    Kept q (flashHoldState s) := by
  unfold flashHoldState
  try dsimp only
  with_reducible repeat' first | assumption | apply updBoot_kept

theorem checkCopies_kept {s : State} {typ : Nat} {copy : Nat → List Byte} (hs : Kept q s) :
    Kept q (checkCopies s typ copy).1 := by
  unfold checkCopies
  try dsimp only
  with_reducible repeat' first | assumption | intro _ _ _ | intro _ _ | intro _ | apply imageRefused_kept | apply emitPlain_kept | apply kept_foldl | apply kept_foldl1 | split | refine kept_fst (by assumption) ?_ | dsimp only

theorem firmwareCheckState_kept {s : State} (hs : Kept q s) :
    Kept q (firmwareCheckState s) := by
  unfold firmwareCheckState
  try dsimp only
  with_reducible repeat' first | assumption | apply checkCopies_kept | apply updBoot_kept | apply startOn_kept | apply extendMr_kept | apply odPut_kept | apply emitPlain_kept | split | refine kept_fst (by assumption) ?_ | dsimp only

theorem wakeBasins_kept {s : State} {lo : Nat} {n : Nat} (hs : Kept q s) :
    Kept q (wakeBasins s lo n) := by
  unfold wakeBasins
  try dsimp only
  with_reducible repeat' first | assumption | intro _ _ _ | intro _ _ | intro _ | apply startOn_kept | apply kept_foldl | apply kept_foldl1 | split | refine kept_fst (by assumption) ?_ | dsimp only

theorem baseImageCheckState_kept {s : State} (hs : Kept q s) :
    Kept q (baseImageCheckState s) := by
  unfold baseImageCheckState
  try dsimp only
  with_reducible repeat' first | assumption | intro _ _ _ | intro _ _ | intro _ | apply wakeBasins_kept | apply checkCopies_kept | apply updBoot_kept | apply extendMr_kept | apply updNi_kept | apply odPut_kept | apply emitPlain_kept | apply kept_foldl | apply kept_foldl1 | split | refine kept_fst (by assumption) ?_ | dsimp only

theorem advanceStartup_kept {s : State} (hs : Kept q s) :
    Kept q (advanceStartup s) := by
  unfold advanceStartup
  try dsimp only
  with_reducible repeat' first | assumption | apply wakeBasins_kept | apply updBoot_kept | apply setTarget_kept | split

theorem reducedReadyState_kept {ms : Nat} {s : State} (hs : Kept q s) :
    Kept q (reducedReadyState ms s) := by
  unfold reducedReadyState
  try dsimp only
  with_reducible repeat' first | assumption | apply advanceStartup_kept | apply updBoot_kept | apply odPut_kept | apply emitPlain_kept | split | refine kept_mk ?_

theorem fullReadyState_kept {ms : Nat} {s : State} (hs : Kept q s) :
    Kept q (fullReadyState ms s) := by
  unfold fullReadyState
  try dsimp only
  with_reducible repeat' first | assumption | apply updBoot_kept | apply odPut_kept | apply emitPlain_kept | split | refine kept_mk ?_

theorem fullReadyLateState_kept {s : State} (hs : Kept q s) :
    Kept q (fullReadyLateState s) := by
  unfold fullReadyLateState
  try dsimp only
  with_reducible repeat' first | assumption | apply updBoot_kept | apply emitPlain_kept | split

theorem hbmTrainingDoneState_kept {stack : Nat} {ok : Bool} {s : State} (hs : Kept q s) :
    Kept q (hbmTrainingDoneState stack ok s) := by
  unfold hbmTrainingDoneState
  try dsimp only
  with_reducible repeat' first | assumption | intro _ _ _ | intro _ _ | intro _ | apply advanceStartup_kept | apply leaveAbsorb_kept | apply domainLoss_kept | apply setDomainOn_kept | apply setStk_kept | apply odPut_kept | apply emitPlain_kept | apply kept_foldl | apply kept_foldl1 | split | refine kept_fst (by assumption) ?_ | dsimp only

theorem testAccessPortState_kept {tms : Bool} {tdi : Bool} {s : State} (hs : Kept q s) :
    Kept q (testAccessPortState tms tdi s) := by
  unfold testAccessPortState
  try dsimp only
  with_reducible repeat' first | assumption | apply takeFree_kept | split | refine kept_fst (by assumption) ?_ | refine kept_snd (by assumption) ?_ | dsimp only | refine kept_mk ?_

theorem execPowerGood_kept {s : State} (hs : Kept q s) :
    KeptX q (execPowerGood s) := by
  unfold execPowerGood
  try dsimp only
  with_reducible repeat' first | assumption | apply powerGoodState_kept | apply kept_next | exact kept_refused

theorem execPwrGoodFall_kept {s : State} (hs : Kept q s) :
    KeptX q (execPwrGoodFall s) := by
  unfold execPwrGoodFall
  try dsimp only
  with_reducible repeat' first | assumption | apply pwrGoodFallState_kept | apply kept_next | exact kept_refused

theorem execRstNFall_kept {s : State} (hs : Kept q s) :
    KeptX q (execRstNFall s) := by
  unfold execRstNFall
  try dsimp only
  with_reducible repeat' first | assumption | apply rstNFallState_kept | apply kept_next | exact kept_refused

theorem execRstNRise_kept {s : State} (hs : Kept q s) :
    KeptX q (execRstNRise s) := by
  unfold execRstNRise
  try dsimp only
  with_reducible repeat' first | assumption | apply rstNRiseState_kept | apply kept_next | exact kept_refused

theorem execCoreReset_kept {value : Nat} {s : State} (hs : Kept q s) :
    KeptX q (execCoreReset value s) := by
  unfold execCoreReset
  try dsimp only
  with_reducible repeat' first | assumption | apply coreResetState_kept | apply kept_next | exact kept_refused

theorem execFlashHold_kept {s : State} (hs : Kept q s) :
    KeptX q (execFlashHold s) := by
  unfold execFlashHold
  try dsimp only
  with_reducible repeat' first | assumption | apply flashHoldState_kept | apply kept_next | exact kept_refused

theorem execFirmwareCheck_kept {s : State} (hs : Kept q s) :
    KeptX q (execFirmwareCheck s) := by
  unfold execFirmwareCheck
  try dsimp only
  with_reducible repeat' first | assumption | apply firmwareCheckState_kept | apply kept_next | exact kept_refused

theorem execBaseImageCheck_kept {s : State} (hs : Kept q s) :
    KeptX q (execBaseImageCheck s) := by
  unfold execBaseImageCheck
  try dsimp only
  with_reducible repeat' first | assumption | apply baseImageCheckState_kept | apply kept_next | exact kept_refused

theorem execReducedReady_kept {ms : Nat} {s : State} (hs : Kept q s) :
    KeptX q (execReducedReady ms s) := by
  unfold execReducedReady
  try dsimp only
  with_reducible repeat' first | assumption | apply reducedReadyState_kept | apply kept_next | exact kept_refused

theorem execFullReady_kept {ms : Nat} {s : State} (hs : Kept q s) :
    KeptX q (execFullReady ms s) := by
  unfold execFullReady
  try dsimp only
  with_reducible repeat' first | assumption | apply fullReadyState_kept | apply kept_next | exact kept_refused

theorem execFullReadyLate_kept {s : State} (hs : Kept q s) :
    KeptX q (execFullReadyLate s) := by
  unfold execFullReadyLate
  try dsimp only
  with_reducible repeat' first | assumption | apply fullReadyLateState_kept | apply kept_next | exact kept_refused

theorem execTestAccessPort_kept {tms : Bool} {tdi : Bool} {s : State} (hs : Kept q s) :
    KeptX q (execTestAccessPort tms tdi s) := by
  unfold execTestAccessPort
  try dsimp only
  with_reducible repeat' first | assumption | apply testAccessPortState_kept | apply kept_next | exact kept_refused

theorem execHbmTrainingDone_kept {stack : Nat} {ok : Bool} {s : State} (hs : Kept q s) :
    KeptX q (execHbmTrainingDone stack ok s) := by
  unfold execHbmTrainingDone
  try dsimp only
  with_reducible repeat' first | assumption | apply hbmTrainingDoneState_kept | apply guardUnit_kept | apply kept_next | exact kept_refused

theorem execDeviceSleepWake_kept {s : State} (hs : Kept q s) :
    KeptX q (execDeviceSleepWake s) := by
  unfold execDeviceSleepWake
  try dsimp only
  with_reducible repeat' first | assumption | apply deviceSleepWakeState_kept | apply kept_next | exact kept_refused

theorem execWakePin_kept {s : State} (hs : Kept q s) :
    KeptX q (execWakePin s) := by
  unfold execWakePin
  try dsimp only
  with_reducible repeat' first | assumption | apply wakePinState_kept | apply kept_next | exact kept_refused

theorem execSensorSample_kept {raw : List (Nat × Int)} {avsOk : Bool} {s : State} (hs : Kept q s) :
    KeptX q (execSensorSample raw avsOk s) := by
  unfold execSensorSample
  try dsimp only
  with_reducible repeat' first | assumption | apply sensorSampleState_kept | apply kept_next | exact kept_refused

theorem execCfgAbandon_kept {s : State} (hs : Kept q s) :
    KeptX q (execCfgAbandon s) := by
  unfold execCfgAbandon
  try dsimp only
  with_reducible repeat' first | assumption | apply advanceStartup_kept | apply cfgAbandonState_kept | apply kept_next | exact kept_refused

theorem execCfgHeaderReceived_kept {header : List Byte} {s : State} (hs : Kept q s) :
    KeptX q (execCfgHeaderReceived header s) := by
  unfold execCfgHeaderReceived
  try dsimp only
  with_reducible repeat' first | assumption | apply advanceStartup_kept | apply cfgHeaderReceivedState_kept | apply kept_next | exact kept_refused

theorem execCfgSignatureVerified_kept {signature : List Byte} {s : State} (hs : Kept q s) :
    KeptX q (execCfgSignatureVerified signature s) := by
  unfold execCfgSignatureVerified
  try dsimp only
  with_reducible repeat' first | assumption | apply advanceStartup_kept | apply cfgSignatureVerifiedState_kept | apply kept_next | exact kept_refused

theorem execCfgRegionTableReceived_kept {table : List Byte} {s : State} (hs : Kept q s) :
    KeptX q (execCfgRegionTableReceived table s) := by
  unfold execCfgRegionTableReceived
  try dsimp only
  with_reducible repeat' first | assumption | apply advanceStartup_kept | apply cfgRegionTableReceivedState_kept | apply kept_next | exact kept_refused

theorem execCfgFrameReceived_kept {frame : List Byte} {s : State} (hs : Kept q s) :
    KeptX q (execCfgFrameReceived frame s) := by
  unfold execCfgFrameReceived
  try dsimp only
  with_reducible repeat' first | assumption | apply advanceStartup_kept | apply cfgFrameReceivedState_kept | apply kept_next | exact kept_refused

theorem execCfgLastByte_kept {s : State} (hs : Kept q s) :
    KeptX q (execCfgLastByte s) := by
  unfold execCfgLastByte
  try dsimp only
  with_reducible repeat' first | assumption | apply advanceStartup_kept | apply cfgLastByteState_kept | apply kept_next | exact kept_refused

theorem execCfgCommit_kept {s : State} (hs : Kept q s) :
    KeptX q (execCfgCommit s) := by
  unfold execCfgCommit
  try dsimp only
  with_reducible repeat' first | assumption | apply advanceStartup_kept | apply cfgCommitState_kept | apply kept_next | exact kept_refused

theorem execStrandGap_kept {s : State} (hs : Kept q s) :
    KeptX q (execStrandGap s) := by
  unfold execStrandGap
  try dsimp only
  with_reducible repeat' first | assumption | apply advanceStartup_kept | apply strandGapState_kept | apply kept_next | exact kept_refused

theorem execClockLocked_kept {g : Nat} {s : State} (hs : Kept q s) :
    KeptX q (execClockLocked g s) := by
  unfold execClockLocked
  try dsimp only
  with_reducible repeat' first | assumption | apply advanceStartup_kept | apply clockLockedState_kept | apply guardUnit_kept | apply kept_next | exact kept_refused

theorem execHbmFillDone_kept {stack : Nat} {micros : Nat} {s : State} (hs : Kept q s) :
    KeptX q (execHbmFillDone stack micros s) := by
  unfold execHbmFillDone
  try dsimp only
  with_reducible repeat' first | assumption | apply advanceStartup_kept | apply hbmFillDoneState_kept | apply guardUnit_kept | apply kept_next | exact kept_refused

end Sys2Proof.Machine
end

