-- ==== Sys2Proof/Laws/KeptObjects.lean ====
section
/-! SUPPORT. What the effects of Machine/Objects keep: the queue, the canonical form of memory, OTP (Laws/Kept.lean). -/
set_option linter.all false
namespace Sys2Proof.Machine

variable {q : Base}

theorem odReadEntry_kept {s : State} {path : Nat} {index : Nat} {sub : Nat} (hs : Kept q s) :
    Kept q (odReadEntry s path index sub).1 := by
  unfold odReadEntry
  try dsimp only
  with_reducible repeat' first | assumption | apply takeFree_kept | split | refine kept_fst (by assumption) ?_ | refine kept_snd (by assumption) ?_ | dsimp only

theorem storeAppend_kept {s : State} {key : Nat} {bs : List Byte} (hs : Kept q s) :
    Kept q (storeAppend s key bs) := by
  unfold storeAppend
  try dsimp only
  with_reducible repeat' first | assumption | apply updMgmt_kept | split

theorem storeFails_kept {s : State} {key : Nat} (hs : Kept q s) :
    Kept q (storeFails s key) := by
  unfold storeFails
  try dsimp only
  with_reducible repeat' first | assumption | apply emitPlain_kept

theorem persistKey_kept {s : State} {path : Nat} {key : Nat} {bs : List Byte} {flashOk : Bool} (hs : Kept q s) :
    Kept q (persistKey s path key bs flashOk).1 := by
  unfold persistKey
  try dsimp only
  with_reducible repeat' first | assumption | apply storeFails_kept | apply storeAppend_kept | apply updMgmt_kept | split

theorem odTakes_kept {s : State} {index : Nat} {sub : Nat} {v : Nat} (hs : Kept q s) :
    Kept q (odTakes s index sub v) := by
  unfold odTakes
  try dsimp only
  with_reducible repeat' first | assumption | apply setTarget_kept | apply portEnableState_kept | apply odPut_kept | split

theorem withCode_kept {s : State} (hs : Kept q s) :
    Kept q (withCode s).1 := by
  unfold withCode
  try dsimp only
  with_reducible repeat' first | assumption | split

theorem eachDale_kept {s : State} {f : Dale → Dale} (hs : Kept q s) :
    Kept q (eachDale s f) := by
  unfold eachDale
  try dsimp only
  with_reducible repeat' first | assumption | intro _ _ _ | intro _ _ | intro _ | apply updDale_kept | apply kept_foldl | apply kept_foldl1 | refine kept_fst (by assumption) ?_ | dsimp only

theorem clearMore_kept {s : State} {index : Nat} (hs : Kept q s) :
    Kept q (clearMore s index) := by
  unfold clearMore
  try dsimp only
  with_reducible repeat' first | assumption | intro _ _ _ | intro _ _ | intro _ | apply eachDale_kept | apply winSet_kept | apply kept_foldl | apply kept_foldl1 | split | refine kept_fst (by assumption) ?_ | dsimp only

theorem statsClear_kept {s : State} {index : Nat} {sub : Nat} {value : Nat} (hs : Kept q s) :
    Kept q (statsClear s index sub value) := by
  unfold statsClear
  try dsimp only
  with_reducible repeat' first | assumption | intro _ _ _ | intro _ _ | intro _ | apply clearMore_kept | apply odReply_kept | apply odPut_kept | apply kept_foldl | apply kept_foldl1 | split | refine kept_fst (by assumption) ?_ | dsimp only

theorem domainCmd_kept {s : State} {v : Nat} (hs : Kept q s) :
    Kept q (domainCmd s v) := by
  unfold domainCmd
  try dsimp only
  with_reducible repeat' first | assumption | apply deviceSleepWakeState_kept | apply odReply_kept | apply domainWakeState_kept | apply domainGateState_kept | apply deviceSleepEnterState_kept | split

theorem deviceSleepCmd_kept {s : State} {v : Nat} (hs : Kept q s) :
    Kept q (deviceSleepCmd s v) := by
  unfold deviceSleepCmd
  try dsimp only
  with_reducible repeat' first | assumption | apply deviceSleepWakeState_kept | apply odReply_kept | apply deviceSleepEnterState_kept | split

theorem restore_kept {value : Nat} {path : Nat} {s : State} (hs : Kept q s) :
    Kept q (restore value path s).1 := by
  unfold restore
  try dsimp only
  with_reducible repeat' first | assumption | apply setTarget_kept | apply updMgmt_kept | apply portEnableState_kept | split | refine kept_mk ?_

theorem clearLog_kept {value : Nat} {path : Nat} {flashOk : Bool} {key : Nat} {s : State} (hs : Kept q s) :
    Kept q (clearLog value path flashOk key s).1 := by
  unfold clearLog
  try dsimp only
  with_reducible repeat' first | assumption | apply storeFails_kept | apply storeAppend_kept | apply recordEvent_kept | split | refine kept_mk ?_

theorem odAuthWrite_kept {s : State} {path : Nat} {index : Nat} {sub : Nat} {bs : List Byte} {ok : Bool} (hs : Kept q s) :
    Kept q (odAuthWrite s path index sub bs ok).1 := by
  unfold odAuthWrite
  try dsimp only
  with_reducible repeat' first | assumption | intro _ _ | intro _ | apply clearLog_kept | apply restore_kept | apply advanceSvn_kept | apply revoke_kept | apply provision_kept | apply authorised_kept | split | apply kept_some | exact kept_none | refine kept_of_some (by assumption) ?_ | refine kept_fst (by assumption) ?_ | dsimp only

theorem odOrder_kept {s : State} {path : Nat} {index : Nat} {sub : Nat} {bs : List Byte} (hs : Kept q s) :
    Kept q (odOrder s path index sub bs) := by
  unfold odOrder
  try dsimp only
  with_reducible repeat' first | assumption | apply deviceSleepCmd_kept | apply domainCmd_kept | apply statsClear_kept | apply coreResetState_kept | apply attestNonceState_kept | apply authTokenState_kept | apply orderlyShutdownState_kept | apply isolateDaleState_kept | split

theorem odSet_kept {s : State} {path : Nat} {index : Nat} {sub : Nat} {bs : List Byte} {flashOk : Bool} (hs : Kept q s) :
    Kept q (odSet s path index sub bs flashOk).1 := by
  unfold odSet
  try dsimp only
  with_reducible repeat' first | assumption | apply withCode_kept | apply odTakes_kept | apply persistKey_kept | apply ownerKeyState_kept | apply vendorRootKeyState_kept | apply updMgmt_kept | split | refine kept_fst (by assumption) ?_ | dsimp only

theorem odWriteEntry_kept {s : State} {path : Nat} {index : Nat} {sub : Nat} {bs : List Byte} {ok : Bool} (hs : Kept q s) :
    Kept q (odWriteEntry s path index sub bs ok).1 := by
  unfold odWriteEntry
  try dsimp only
  with_reducible repeat' first | assumption | apply odSet_kept | apply odOrder_kept | apply odAuthWrite_kept | apply withCode_kept | apply persistFor_kept | split | refine kept_fst (by assumption) ?_ | dsimp only

theorem odCount_kept {s : State} {index : Nat} {sub : Nat} {code : Nat} (hs : Kept q s) :
    Kept q (odCount s index sub code) := by
  unfold odCount
  try dsimp only
  with_reducible repeat' first | assumption | apply odBump_kept | split

theorem odBegin_kept {s : State} {op : Nat} {index : Nat} {sub : Nat} (hs : Kept q s) :
    KeptO q (odBegin s op index sub) := by
  unfold odBegin
  try dsimp only
  with_reducible repeat' first | assumption | apply updMgmt_kept | split | apply kept_some | exact kept_none | refine kept_of_some (by assumption) ?_

theorem odEnd_kept {s : State} {index : Nat} {sub : Nat} {code : Nat} (hs : Kept q s) :
    Kept q (odEnd s index sub code) := by
  unfold odEnd
  try dsimp only
  with_reducible repeat' first | assumption | apply odCount_kept | apply odReply_kept | apply updMgmt_kept | split

theorem odCmdReadState_kept {index : Nat} {sub : Nat} {s : State} (hs : Kept q s) :
    Kept q (odCmdReadState index sub s) := by
  unfold odCmdReadState
  try dsimp only
  with_reducible repeat' first | assumption | apply odEnd_kept | apply odBegin_kept | apply odReadEntry_kept | apply updMgmt_kept | split | apply kept_some | exact kept_none | refine kept_of_some (by assumption) ?_ | refine kept_fst (by assumption) ?_ | dsimp only

theorem odCmdWriteState_kept {index : Nat} {sub : Nat} {flashOk : Bool} {s : State} (hs : Kept q s) :
    Kept q (odCmdWriteState index sub flashOk s) := by
  unfold odCmdWriteState
  try dsimp only
  with_reducible repeat' first | assumption | apply odEnd_kept | apply odBegin_kept | apply odWriteEntry_kept | split | apply kept_some | exact kept_none | refine kept_of_some (by assumption) ?_ | refine kept_fst (by assumption) ?_ | dsimp only

theorem replyUnlessWaits_kept {r : State × Nat} (hr : Kept q r.1) :
    Kept q (replyUnlessWaits r) := by
  unfold replyUnlessWaits
  try dsimp only
  with_reducible repeat' first | assumption | apply replyOf_kept | split

theorem restoreDefaultsState_kept {path : Nat} {value : Nat} {s : State} (hs : Kept q s) :
    Kept q (restoreDefaultsState path value s) := by
  unfold restoreDefaultsState
  try dsimp only
  with_reducible repeat' first | assumption | apply replyUnlessWaits_kept | apply odWriteEntry_kept | refine kept_fst (by assumption) ?_ | dsimp only

theorem logClearState_kept {path : Nat} {value : Nat} {flashOk : Bool} {s : State} (hs : Kept q s) :
    Kept q (logClearState path value flashOk s) := by
  unfold logClearState
  try dsimp only
  with_reducible repeat' first | assumption | apply replyUnlessWaits_kept | apply odWriteEntry_kept | refine kept_fst (by assumption) ?_ | dsimp only

theorem logEraseDoneState_kept {s : State} (hs : Kept q s) :
    Kept q (logEraseDoneState s) := by
  unfold logEraseDoneState
  try dsimp only
  with_reducible repeat' first | assumption | intro _ _ _ | intro _ _ | intro _ | apply dropsReported_kept | apply kept_foldl | apply kept_foldl1 | split | refine kept_fst (by assumption) ?_ | dsimp only | refine kept_mk ?_

theorem arithClearState_kept {value : Nat} {s : State} (hs : Kept q s) :
    Kept q (arithClearState value s) := by
  unfold arithClearState
  try dsimp only
  with_reducible repeat' first | assumption | apply statsClear_kept

theorem arrayStatsClearState_kept {value : Nat} {s : State} (hs : Kept q s) :
    Kept q (arrayStatsClearState value s) := by
  unfold arrayStatsClearState
  try dsimp only
  with_reducible repeat' first | assumption | apply statsClear_kept

theorem vecStatsClearState_kept {value : Nat} {s : State} (hs : Kept q s) :
    Kept q (vecStatsClearState value s) := by
  unfold vecStatsClearState
  try dsimp only
  with_reducible repeat' first | assumption | apply statsClear_kept

theorem sfuStatsClearState_kept {value : Nat} {s : State} (hs : Kept q s) :
    Kept q (sfuStatsClearState value s) := by
  unfold sfuStatsClearState
  try dsimp only
  with_reducible repeat' first | assumption | apply statsClear_kept

theorem rngStatsClearState_kept {value : Nat} {s : State} (hs : Kept q s) :
    Kept q (rngStatsClearState value s) := by
  unfold rngStatsClearState
  try dsimp only
  with_reducible repeat' first | assumption | apply statsClear_kept

theorem seqStatsClearState_kept {value : Nat} {s : State} (hs : Kept q s) :
    Kept q (seqStatsClearState value s) := by
  unfold seqStatsClearState
  try dsimp only
  with_reducible repeat' first | assumption | apply statsClear_kept

theorem cmdStatsClearState_kept {value : Nat} {s : State} (hs : Kept q s) :
    Kept q (cmdStatsClearState value s) := by
  unfold cmdStatsClearState
  try dsimp only
  with_reducible repeat' first | assumption | apply statsClear_kept

theorem streamStatsClearState_kept {value : Nat} {s : State} (hs : Kept q s) :
    Kept q (streamStatsClearState value s) := by
  unfold streamStatsClearState
  try dsimp only
  with_reducible repeat' first | assumption | apply statsClear_kept

theorem gatherStatsClearState_kept {stack : Nat} {value : Nat} {s : State} (hs : Kept q s) :
    Kept q (gatherStatsClearState stack value s) := by
  unfold gatherStatsClearState
  try dsimp only
  with_reducible repeat' first | assumption | apply statsClear_kept

theorem netStatsClearState_kept {value : Nat} {s : State} (hs : Kept q s) :
    Kept q (netStatsClearState value s) := by
  unfold netStatsClearState
  try dsimp only
  with_reducible repeat' first | assumption | apply statsClear_kept

theorem hbmStatsClearState_kept {stack : Nat} {value : Nat} {s : State} (hs : Kept q s) :
    Kept q (hbmStatsClearState stack value s) := by
  unfold hbmStatsClearState
  try dsimp only
  with_reducible repeat' first | assumption | apply statsClear_kept

theorem steppeStatsClearState_kept {value : Nat} {s : State} (hs : Kept q s) :
    Kept q (steppeStatsClearState value s) := by
  unfold steppeStatsClearState
  try dsimp only
  with_reducible repeat' first | assumption | apply statsClear_kept

theorem cfgStatsClearState_kept {value : Nat} {s : State} (hs : Kept q s) :
    Kept q (cfgStatsClearState value s) := by
  unfold cfgStatsClearState
  try dsimp only
  with_reducible repeat' first | assumption | apply statsClear_kept

theorem heonStatsClearState_kept {sub : Nat} {value : Nat} {s : State} (hs : Kept q s) :
    Kept q (heonStatsClearState sub value s) := by
  unfold heonStatsClearState
  try dsimp only
  with_reducible repeat' first | assumption | apply statsClear_kept

theorem laneStatsClearState_kept {value : Nat} {s : State} (hs : Kept q s) :
    Kept q (laneStatsClearState value s) := by
  unfold laneStatsClearState
  try dsimp only
  with_reducible repeat' first | assumption | apply statsClear_kept

theorem peerStatsClearState_kept {value : Nat} {s : State} (hs : Kept q s) :
    Kept q (peerStatsClearState value s) := by
  unfold peerStatsClearState
  try dsimp only
  with_reducible repeat' first | assumption | apply statsClear_kept

theorem integrityStatsClearState_kept {value : Nat} {s : State} (hs : Kept q s) :
    Kept q (integrityStatsClearState value s) := by
  unfold integrityStatsClearState
  try dsimp only
  with_reducible repeat' first | assumption | apply statsClear_kept

theorem powerStatsClearState_kept {value : Nat} {s : State} (hs : Kept q s) :
    Kept q (powerStatsClearState value s) := by
  unfold powerStatsClearState
  try dsimp only
  with_reducible repeat' first | assumption | apply statsClear_kept

theorem odStatsClearState_kept {value : Nat} {s : State} (hs : Kept q s) :
    Kept q (odStatsClearState value s) := by
  unfold odStatsClearState
  try dsimp only
  with_reducible repeat' first | assumption | apply statsClear_kept

theorem secStatsClearState_kept {value : Nat} {s : State} (hs : Kept q s) :
    Kept q (secStatsClearState value s) := by
  unfold secStatsClearState
  try dsimp only
  with_reducible repeat' first | assumption | apply statsClear_kept

theorem execOdCmdRead_kept {index : Nat} {sub : Nat} {s : State} (hs : Kept q s) :
    KeptX q (execOdCmdRead index sub s) := by
  unfold execOdCmdRead
  try dsimp only
  with_reducible repeat' first | assumption | apply odCmdReadState_kept | apply kept_next | exact kept_refused

theorem execOdCmdWrite_kept {index : Nat} {sub : Nat} {flashOk : Bool} {s : State} (hs : Kept q s) :
    KeptX q (execOdCmdWrite index sub flashOk s) := by
  unfold execOdCmdWrite
  try dsimp only
  with_reducible repeat' first | assumption | apply odCmdWriteState_kept | apply kept_next | exact kept_refused

theorem execRestoreDefaults_kept {path : Nat} {value : Nat} {s : State} (hs : Kept q s) :
    KeptX q (execRestoreDefaults path value s) := by
  unfold execRestoreDefaults
  try dsimp only
  with_reducible repeat' first | assumption | apply restoreDefaultsState_kept | apply guardUnit_kept | apply kept_next | exact kept_refused

theorem execLogClear_kept {path : Nat} {value : Nat} {flashOk : Bool} {s : State} (hs : Kept q s) :
    KeptX q (execLogClear path value flashOk s) := by
  unfold execLogClear
  try dsimp only
  with_reducible repeat' first | assumption | apply logClearState_kept | apply guardUnit_kept | apply kept_next | exact kept_refused

theorem execLogEraseDone_kept {s : State} (hs : Kept q s) :
    KeptX q (execLogEraseDone s) := by
  unfold execLogEraseDone
  try dsimp only
  with_reducible repeat' first | assumption | apply logEraseDoneState_kept | apply kept_next | exact kept_refused

theorem execArithClear_kept {value : Nat} {s : State} (hs : Kept q s) :
    KeptX q (execArithClear value s) := by
  unfold execArithClear
  try dsimp only
  with_reducible repeat' first | assumption | apply arithClearState_kept | apply kept_next | exact kept_refused

theorem execArrayStatsClear_kept {value : Nat} {s : State} (hs : Kept q s) :
    KeptX q (execArrayStatsClear value s) := by
  unfold execArrayStatsClear
  try dsimp only
  with_reducible repeat' first | assumption | apply arrayStatsClearState_kept | apply kept_next | exact kept_refused

theorem execVecStatsClear_kept {value : Nat} {s : State} (hs : Kept q s) :
    KeptX q (execVecStatsClear value s) := by
  unfold execVecStatsClear
  try dsimp only
  with_reducible repeat' first | assumption | apply vecStatsClearState_kept | apply kept_next | exact kept_refused

theorem execSfuStatsClear_kept {value : Nat} {s : State} (hs : Kept q s) :
    KeptX q (execSfuStatsClear value s) := by
  unfold execSfuStatsClear
  try dsimp only
  with_reducible repeat' first | assumption | apply sfuStatsClearState_kept | apply kept_next | exact kept_refused

theorem execRngStatsClear_kept {value : Nat} {s : State} (hs : Kept q s) :
    KeptX q (execRngStatsClear value s) := by
  unfold execRngStatsClear
  try dsimp only
  with_reducible repeat' first | assumption | apply rngStatsClearState_kept | apply kept_next | exact kept_refused

theorem execSeqStatsClear_kept {value : Nat} {s : State} (hs : Kept q s) :
    KeptX q (execSeqStatsClear value s) := by
  unfold execSeqStatsClear
  try dsimp only
  with_reducible repeat' first | assumption | apply seqStatsClearState_kept | apply kept_next | exact kept_refused

theorem execCmdStatsClear_kept {value : Nat} {s : State} (hs : Kept q s) :
    KeptX q (execCmdStatsClear value s) := by
  unfold execCmdStatsClear
  try dsimp only
  with_reducible repeat' first | assumption | apply cmdStatsClearState_kept | apply kept_next | exact kept_refused

theorem execStreamStatsClear_kept {value : Nat} {s : State} (hs : Kept q s) :
    KeptX q (execStreamStatsClear value s) := by
  unfold execStreamStatsClear
  try dsimp only
  with_reducible repeat' first | assumption | apply streamStatsClearState_kept | apply kept_next | exact kept_refused

theorem execGatherStatsClear_kept {stack : Nat} {value : Nat} {s : State} (hs : Kept q s) :
    KeptX q (execGatherStatsClear stack value s) := by
  unfold execGatherStatsClear
  try dsimp only
  with_reducible repeat' first | assumption | apply gatherStatsClearState_kept | apply guardUnit_kept | apply kept_next | exact kept_refused

theorem execNetStatsClear_kept {value : Nat} {s : State} (hs : Kept q s) :
    KeptX q (execNetStatsClear value s) := by
  unfold execNetStatsClear
  try dsimp only
  with_reducible repeat' first | assumption | apply netStatsClearState_kept | apply kept_next | exact kept_refused

theorem execHbmStatsClear_kept {stack : Nat} {value : Nat} {s : State} (hs : Kept q s) :
    KeptX q (execHbmStatsClear stack value s) := by
  unfold execHbmStatsClear
  try dsimp only
  with_reducible repeat' first | assumption | apply hbmStatsClearState_kept | apply guardUnit_kept | apply kept_next | exact kept_refused

theorem execSteppeStatsClear_kept {value : Nat} {s : State} (hs : Kept q s) :
    KeptX q (execSteppeStatsClear value s) := by
  unfold execSteppeStatsClear
  try dsimp only
  with_reducible repeat' first | assumption | apply steppeStatsClearState_kept | apply kept_next | exact kept_refused

theorem execCfgStatsClear_kept {value : Nat} {s : State} (hs : Kept q s) :
    KeptX q (execCfgStatsClear value s) := by
  unfold execCfgStatsClear
  try dsimp only
  with_reducible repeat' first | assumption | apply cfgStatsClearState_kept | apply kept_next | exact kept_refused

theorem execHeonStatsClear_kept {sub : Nat} {value : Nat} {s : State} (hs : Kept q s) :
    KeptX q (execHeonStatsClear sub value s) := by
  unfold execHeonStatsClear
  try dsimp only
  with_reducible repeat' first | assumption | apply heonStatsClearState_kept | apply guardUnit_kept | apply kept_next | exact kept_refused

theorem execLaneStatsClear_kept {value : Nat} {s : State} (hs : Kept q s) :
    KeptX q (execLaneStatsClear value s) := by
  unfold execLaneStatsClear
  try dsimp only
  with_reducible repeat' first | assumption | apply laneStatsClearState_kept | apply kept_next | exact kept_refused

theorem execPeerStatsClear_kept {value : Nat} {s : State} (hs : Kept q s) :
    KeptX q (execPeerStatsClear value s) := by
  unfold execPeerStatsClear
  try dsimp only
  with_reducible repeat' first | assumption | apply peerStatsClearState_kept | apply kept_next | exact kept_refused

theorem execIntegrityStatsClear_kept {value : Nat} {s : State} (hs : Kept q s) :
    KeptX q (execIntegrityStatsClear value s) := by
  unfold execIntegrityStatsClear
  try dsimp only
  with_reducible repeat' first | assumption | apply integrityStatsClearState_kept | apply kept_next | exact kept_refused

theorem execPowerStatsClear_kept {value : Nat} {s : State} (hs : Kept q s) :
    KeptX q (execPowerStatsClear value s) := by
  unfold execPowerStatsClear
  try dsimp only
  with_reducible repeat' first | assumption | apply powerStatsClearState_kept | apply kept_next | exact kept_refused

theorem execOdStatsClear_kept {value : Nat} {s : State} (hs : Kept q s) :
    KeptX q (execOdStatsClear value s) := by
  unfold execOdStatsClear
  try dsimp only
  with_reducible repeat' first | assumption | apply odStatsClearState_kept | apply kept_next | exact kept_refused

theorem execSecStatsClear_kept {value : Nat} {s : State} (hs : Kept q s) :
    KeptX q (execSecStatsClear value s) := by
  unfold execSecStatsClear
  try dsimp only
  with_reducible repeat' first | assumption | apply secStatsClearState_kept | apply kept_next | exact kept_refused

end Sys2Proof.Machine
end

