-- ==== Sys2Proof/Laws/KeptCan.lean ====
section
/-! SUPPORT. What the effects of Machine/Can keep: the queue, the canonical form of memory, OTP (Laws/Kept.lean). -/
set_option linter.all false
namespace Sys2Proof.Machine

variable {q : Base}

theorem canSend_kept {s : State} {ident : Nat} {bs : List Byte} (hs : Kept q s) :
    Kept q (canSend s ident bs) := by
  unfold canSend
  try dsimp only
  with_reducible repeat' first | assumption | apply updMgmt_kept

theorem sendNotices_kept {s : State} (hs : Kept q s) :
    Kept q (sendNotices s) := by
  unfold sendNotices
  try dsimp only
  with_reducible repeat' first | assumption | intro _ _ _ | intro _ _ | intro _ | apply canSend_kept | apply updMgmt_kept | apply kept_foldl | apply kept_foldl1 | refine kept_fst (by assumption) ?_ | dsimp only

theorem canAnswer_kept {s : State} {req : List Nat} {bs : List Byte} (hs : Kept q s) :
    Kept q (canAnswer s req bs) := by
  unfold canAnswer
  try dsimp only
  with_reducible repeat' first | assumption | apply canSend_kept | apply updMgmt_kept

theorem canRequest_kept {s : State} {req : List Nat} {act : State → State} (hs : Kept q s) (hact : ∀ y0, Kept q y0 → Kept q (act y0)) :
    Kept q (canRequest s req act) := by
  unfold canRequest
  try dsimp only
  with_reducible repeat' first | assumption | apply hact | apply sendNotices_kept | apply canSend_kept | split | apply kept_some | exact kept_none | refine kept_of_some (by assumption) ?_

theorem setOpen_kept {s : State} {o : Option CanOpen} (hs : Kept q s) :
    Kept q (setOpen s o) := by
  unfold setOpen
  try dsimp only
  with_reducible repeat' first | assumption | apply updMgmt_kept

theorem canReadState_kept {tid : Nat} {index : Nat} {sub : Nat} {s : State} (hs : Kept q s) :
    Kept q (canReadState tid index sub s) := by
  unfold canReadState
  try dsimp only
  with_reducible repeat' first | assumption | intro _ _ | intro _ | apply setOpen_kept | apply canRequest_kept | apply canAnswer_kept | apply odCount_kept | apply odReadEntry_kept | split | apply kept_some | exact kept_none | refine kept_of_some (by assumption) ?_ | refine kept_fst (by assumption) ?_ | dsimp only

theorem canBreaks_kept {s : State} {req : List Nat} {op : Nat} {o : CanOpen} (hs : Kept q s) :
    Kept q (canBreaks s req op o) := by
  unfold canBreaks
  try dsimp only
  with_reducible repeat' first | assumption | apply setOpen_kept | apply canAnswer_kept | apply odCount_kept

theorem canApply_kept {s : State} {req : List Nat} {tid : Nat} {key : Nat} {v : List Byte} {ok : Bool} (hs : Kept q s) :
    Kept q (canApply s req tid key v ok) := by
  unfold canApply
  try dsimp only
  with_reducible repeat' first | assumption | apply setOpen_kept | apply canAnswer_kept | apply odCount_kept | apply odWriteEntry_kept | apply updMgmt_kept | split | refine kept_fst (by assumption) ?_ | dsimp only

theorem canWriteState_kept {tid : Nat} {index : Nat} {sub : Nat} {len : Nat} {bytes : List Byte} {flashOk : Bool} {s : State} (hs : Kept q s) :
    Kept q (canWriteState tid index sub len bytes flashOk s) := by
  unfold canWriteState
  try dsimp only
  with_reducible repeat' first | assumption | intro _ _ | intro _ | apply canApply_kept | apply canBreaks_kept | apply setOpen_kept | apply canRequest_kept | apply canAnswer_kept | split | apply kept_some | exact kept_none | refine kept_of_some (by assumption) ?_

theorem canSegmentState_kept {tid : Nat} {seq : Nat} {bytes : List Byte} {flashOk : Bool} {s : State} (hs : Kept q s) :
    Kept q (canSegmentState tid seq bytes flashOk s) := by
  unfold canSegmentState
  try dsimp only
  with_reducible repeat' first | assumption | intro _ _ | intro _ | apply canApply_kept | apply canBreaks_kept | apply setOpen_kept | apply canRequest_kept | apply canAnswer_kept | split | apply kept_some | exact kept_none | refine kept_of_some (by assumption) ?_

theorem canReadMoreState_kept {tid : Nat} {seq : Nat} {s : State} (hs : Kept q s) :
    Kept q (canReadMoreState tid seq s) := by
  unfold canReadMoreState
  try dsimp only
  with_reducible repeat' first | assumption | intro _ _ _ | intro _ _ | intro _ | apply canBreaks_kept | apply setOpen_kept | apply sendNotices_kept | apply canSend_kept | apply kept_foldl | apply kept_foldl1 | split | refine kept_fst (by assumption) ?_ | dsimp only

theorem canAbortState_kept {tid : Nat} {s : State} (hs : Kept q s) :
    Kept q (canAbortState tid s) := by
  unfold canAbortState
  try dsimp only
  with_reducible repeat' first | assumption | intro _ _ | intro _ | apply setOpen_kept | apply canRequest_kept | apply canAnswer_kept | apply odCount_kept | split | apply kept_some | exact kept_none | refine kept_of_some (by assumption) ?_

theorem canDescribeState_kept {tid : Nat} {index : Nat} {sub : Nat} {s : State} (hs : Kept q s) :
    Kept q (canDescribeState tid index sub s) := by
  unfold canDescribeState
  try dsimp only
  with_reducible repeat' first | assumption | intro _ _ | intro _ | apply setOpen_kept | apply canRequest_kept | apply canAnswer_kept | apply odCount_kept | split | apply kept_some | exact kept_none | refine kept_of_some (by assumption) ?_

theorem canTransferTimeoutState_kept {s : State} (hs : Kept q s) :
    Kept q (canTransferTimeoutState s) := by
  unfold canTransferTimeoutState
  try dsimp only
  with_reducible repeat' first | assumption | apply setOpen_kept | split

theorem canBusOffState_kept {s : State} (hs : Kept q s) :
    Kept q (canBusOffState s) := by
  unfold canBusOffState
  try dsimp only
  with_reducible repeat' first | assumption | apply updMgmt_kept | split

theorem answerWaiting_kept {s : State} {key : Nat} {path : Nat} {code : Nat} (hs : Kept q s) :
    Kept q (answerWaiting s key path code) := by
  unfold answerWaiting
  try dsimp only
  with_reducible repeat' first | assumption | apply setOpen_kept | apply canAnswer_kept | apply odEnd_kept | apply odCount_kept | apply odReply_kept | split

theorem waitingDone_kept {s : State} {e : Nat × List Byte × Nat} (hs : Kept q s) :
    Kept q (waitingDone s e) := by
  unfold waitingDone
  try dsimp only
  with_reducible repeat' first | assumption | apply answerWaiting_kept | apply storeAppend_kept | apply updMgmt_kept | apply updPower_kept | split

theorem waitingFails_kept {s : State} {e : Nat × List Byte × Nat} (hs : Kept q s) :
    Kept q (waitingFails s e) := by
  unfold waitingFails
  try dsimp only
  with_reducible repeat' first | assumption | apply answerWaiting_kept | apply storeFails_kept | apply updPower_kept | apply emitPlain_kept | split

theorem flashHoldReleasedState_kept {s : State} (hs : Kept q s) :
    Kept q (flashHoldReleasedState s) := by
  unfold flashHoldReleasedState
  try dsimp only
  with_reducible repeat' first | assumption | intro _ _ _ | intro _ _ | intro _ | apply waitingDone_kept | apply tryStart_kept | apply updBoot_kept | apply updMgmt_kept | apply kept_foldl | apply kept_foldl1 | split | refine kept_fst (by assumption) ?_ | dsimp only

theorem persistenceWaitExpiredState_kept {s : State} (hs : Kept q s) :
    Kept q (persistenceWaitExpiredState s) := by
  unfold persistenceWaitExpiredState
  try dsimp only
  with_reducible repeat' first | assumption | intro _ _ _ | intro _ _ | intro _ | apply waitingFails_kept | apply tryStart_kept | apply updMgmt_kept | apply kept_foldl | apply kept_foldl1 | split | refine kept_fst (by assumption) ?_ | dsimp only

theorem execCanRead_kept {tid : Nat} {index : Nat} {sub : Nat} {s : State} (hs : Kept q s) :
    KeptX q (execCanRead tid index sub s) := by
  unfold execCanRead
  try dsimp only
  with_reducible repeat' first | assumption | apply canReadState_kept | apply kept_next | exact kept_refused

theorem execCanWrite_kept {tid : Nat} {index : Nat} {sub : Nat} {len : Nat} {bytes : List Byte} {flashOk : Bool} {s : State} (hs : Kept q s) :
    KeptX q (execCanWrite tid index sub len bytes flashOk s) := by
  unfold execCanWrite
  try dsimp only
  with_reducible repeat' first | assumption | apply canWriteState_kept | apply kept_next | exact kept_refused

theorem execCanSegment_kept {tid : Nat} {seq : Nat} {bytes : List Byte} {flashOk : Bool} {s : State} (hs : Kept q s) :
    KeptX q (execCanSegment tid seq bytes flashOk s) := by
  unfold execCanSegment
  try dsimp only
  with_reducible repeat' first | assumption | apply canSegmentState_kept | apply kept_next | exact kept_refused

theorem execCanReadMore_kept {tid : Nat} {seq : Nat} {s : State} (hs : Kept q s) :
    KeptX q (execCanReadMore tid seq s) := by
  unfold execCanReadMore
  try dsimp only
  with_reducible repeat' first | assumption | apply canReadMoreState_kept | apply kept_next | exact kept_refused

theorem execCanAbort_kept {tid : Nat} {s : State} (hs : Kept q s) :
    KeptX q (execCanAbort tid s) := by
  unfold execCanAbort
  try dsimp only
  with_reducible repeat' first | assumption | apply canAbortState_kept | apply kept_next | exact kept_refused

theorem execCanDescribe_kept {tid : Nat} {index : Nat} {sub : Nat} {s : State} (hs : Kept q s) :
    KeptX q (execCanDescribe tid index sub s) := by
  unfold execCanDescribe
  try dsimp only
  with_reducible repeat' first | assumption | apply canDescribeState_kept | apply kept_next | exact kept_refused

theorem execCanTransferTimeout_kept {s : State} (hs : Kept q s) :
    KeptX q (execCanTransferTimeout s) := by
  unfold execCanTransferTimeout
  try dsimp only
  with_reducible repeat' first | assumption | apply canTransferTimeoutState_kept | apply kept_next | exact kept_refused

theorem execCanBusOff_kept {s : State} (hs : Kept q s) :
    KeptX q (execCanBusOff s) := by
  unfold execCanBusOff
  try dsimp only
  with_reducible repeat' first | assumption | apply canBusOffState_kept | apply kept_next | exact kept_refused

theorem execFlashHoldReleased_kept {s : State} (hs : Kept q s) :
    KeptX q (execFlashHoldReleased s) := by
  unfold execFlashHoldReleased
  try dsimp only
  with_reducible repeat' first | assumption | apply flashHoldReleasedState_kept | apply kept_next | exact kept_refused

theorem execPersistenceWaitExpired_kept {s : State} (hs : Kept q s) :
    KeptX q (execPersistenceWaitExpired s) := by
  unfold execPersistenceWaitExpired
  try dsimp only
  with_reducible repeat' first | assumption | apply persistenceWaitExpiredState_kept | apply kept_next | exact kept_refused

end Sys2Proof.Machine
end

