-- ==== Sys2Proof/Laws/KeptWindow.lean ====
section
/-! SUPPORT. What the effects of Machine/Window keep: the queue, the canonical form of memory, OTP (Laws/Kept.lean). -/
set_option linter.all false
namespace Sys2Proof.Machine

variable {q : Base}

theorem refuseWrite_kept {s : State} (hs : Kept q s) :
    Kept q (refuseWrite s) := by
  unfold refuseWrite
  try dsimp only
  with_reducible repeat' first | assumption | apply answer_kept

theorem putReg_kept {s : State} {o : Nat} {v : Nat} (hs : Kept q s) :
    Kept q (putReg s o v) := by
  unfold putReg
  try dsimp only
  with_reducible repeat' first | assumption | apply winSet_kept | apply answer_kept

theorem semAmount_kept {src : Src} {d : Nat} {k : Nat} {amount : Nat} {s : State} (hs : Kept q s) :
    Kept q (semAmount src d k amount s) := by
  unfold semAmount
  try dsimp only
  with_reducible repeat' first | assumption | apply semAdd_kept | apply answer_kept

theorem satZero_kept {d : Nat} {value : Nat} {s : State} (hs : Kept q s) :
    Kept q (satZero d value s) := by
  unfold satZero
  try dsimp only
  with_reducible repeat' first | assumption | apply refuseWrite_kept | apply updDale_kept | apply answer_kept | split

theorem nanZero_kept {d : Nat} {value : Nat} {s : State} (hs : Kept q s) :
    Kept q (nanZero d value s) := by
  unfold nanZero
  try dsimp only
  with_reducible repeat' first | assumption | apply refuseWrite_kept | apply updDale_kept | apply answer_kept | split

theorem niZero_kept {c : Nat} {value : Nat} {s : State} (hs : Kept q s) :
    Kept q (niZero c value s) := by
  unfold niZero
  try dsimp only
  with_reducible repeat' first | assumption | apply refuseWrite_kept | apply updNi_kept | apply answer_kept | split

theorem probeCtrlWrite_kept {k : Nat} {value : Nat} {s : State} (hs : Kept q s) :
    Kept q (probeCtrlWrite k value s) := by
  unfold probeCtrlWrite
  try dsimp only
  with_reducible repeat' first | assumption | apply refuseWrite_kept | apply winSet_kept | apply answer_kept | split

theorem probeWrite_kept {s : State} {k : Nat} {z2 : Nat} {v : Nat} (hs : Kept q s) :
    Kept q (probeWrite s k z2 v) := by
  unfold probeWrite
  try dsimp only
  with_reducible repeat' first | assumption | apply refuseWrite_kept | apply winSet_kept | apply answer_kept | split

theorem groupCmd_kept {s : State} {g : Nat} {v : Nat} (hs : Kept q s) :
    Kept q (groupCmd s g v) := by
  unfold groupCmd
  try dsimp only
  with_reducible repeat' first | assumption | apply refuseWrite_kept | apply deepWakeState_kept | apply deepRequestState_kept | apply groupRetrainState_kept | split

theorem hostPipelineWrite_kept {s : State} {v : Nat} (hs : Kept q s) :
    Kept q (hostPipelineWrite s v) := by
  unfold hostPipelineWrite
  try dsimp only
  with_reducible repeat' first | assumption | apply putReg_kept | apply refuseWrite_kept | split

theorem hostEpochCtrl_kept {s : State} {v : Nat} (hs : Kept q s) :
    Kept q (hostEpochCtrl s v) := by
  unfold hostEpochCtrl
  try dsimp only
  with_reducible repeat' first | assumption | apply refuseWrite_kept | apply hostEpochRetractState_kept | apply hostEpochCommitState_kept | apply answer_kept | split

theorem cfgCtrl_kept {s : State} {v : Nat} (hs : Kept q s) :
    Kept q (cfgCtrl s v) := by
  unfold cfgCtrl
  try dsimp only
  with_reducible repeat' first | assumption | apply advanceStartup_kept | apply cfgAbandonState_kept | apply cfgGoState_kept | apply answer_kept | split

theorem odCmdReg_kept {s : State} {v : Nat} (hs : Kept q s) :
    Kept q (odCmdReg s v) := by
  unfold odCmdReg
  try dsimp only
  with_reducible repeat' first | assumption | apply refuseWrite_kept | apply updMgmt_kept | apply answer_kept | split

theorem odLenReg_kept {s : State} {v : Nat} (hs : Kept q s) :
    Kept q (odLenReg s v) := by
  unfold odLenReg
  try dsimp only
  with_reducible repeat' first | assumption | apply refuseWrite_kept | apply updMgmt_kept | apply answer_kept | split

theorem odDataReg_kept {s : State} {off : Nat} {v : Nat} (hs : Kept q s) :
    Kept q (odDataReg s off v) := by
  unfold odDataReg
  try dsimp only
  with_reducible repeat' first | assumption | apply refuseWrite_kept | apply updMgmt_kept | apply answer_kept | split

theorem regWriteUnits_kept {s : State} {src : Src} {o : Nat} {v : Nat} (hs : Kept q s) :
    Kept q (regWriteUnits s src o v) := by
  unfold regWriteUnits
  try dsimp only
  with_reducible repeat' first | assumption | apply niZero_kept | apply nanZero_kept | apply satZero_kept | apply semAmount_kept | apply putReg_kept | apply refuseWrite_kept | apply ringBaseWrite_kept | apply cplCtrlState_kept | apply cqCtrlState_kept | apply cplHeadState_kept | apply cqTailState_kept | apply reloadCtrlState_kept | split

theorem regWriteControl_kept {s : State} {o : Nat} {v : Nat} (hs : Kept q s) :
    Kept q (regWriteControl s o v) := by
  unfold regWriteControl
  try dsimp only
  with_reducible repeat' first | assumption | apply odDataReg_kept | apply odLenReg_kept | apply odCmdReg_kept | apply cfgCtrl_kept | apply probeWrite_kept | apply probeCtrlWrite_kept | apply putReg_kept | apply refuseWrite_kept | apply sectorClearState_kept | apply sectorResetState_kept | split

theorem regWriteLanes_kept {s : State} {o : Nat} {v : Nat} (hs : Kept q s) :
    Kept q (regWriteLanes s o v) := by
  unfold regWriteLanes
  try dsimp only
  with_reducible repeat' first | assumption | apply groupCmd_kept | apply refuseWrite_kept | apply groupClearState_kept | apply laneBitslipState_kept | apply laneCtrlState_kept | split

theorem regWriteLinks_kept {s : State} {src : Src} {o : Nat} {v : Nat} (hs : Kept q s) :
    Kept q (regWriteLinks s src o v) := by
  unfold regWriteLinks
  try dsimp only
  with_reducible repeat' first | assumption | apply hostEpochCtrl_kept | apply hostPipelineWrite_kept | apply putReg_kept | apply refuseWrite_kept | apply rulesetCtrlState_kept | apply shadowSigState_kept | apply winSet_kept | apply answer_kept | split

theorem regWrite_kept {s : State} {src : Src} {o : Nat} {v : Nat} (hs : Kept q s) :
    Kept q (regWrite s src o v) := by
  unfold regWrite
  try dsimp only
  with_reducible repeat' first | assumption | apply regWriteLinks_kept | apply regWriteLanes_kept | apply regWriteControl_kept | apply regWriteUnits_kept | split

theorem halfWrite_kept {s : State} {src : Src} {o : Nat} {v : Nat} (hs : Kept q s) :
    Kept q (halfWrite s src o v) := by
  unfold halfWrite
  try dsimp only
  with_reducible repeat' first | assumption | apply regWrite_kept | apply refuseWrite_kept | apply answer_kept | split

theorem pairWrite_kept {s : State} {src : Src} {o1 : Nat} {v1 : Nat} {o2 : Nat} {v2 : Nat} (hs : Kept q s) :
    Kept q (pairWrite s src o1 v1 o2 v2) := by
  unfold pairWrite
  try dsimp only
  with_reducible repeat' first | assumption | apply halfWrite_kept | apply refuseWrite_kept | split

theorem windowWrite_kept {s : State} {src : Src} {a : Nat} {size : Nat} {v : Nat} (hs : Kept q s) :
    Kept q (windowWrite s src a size v) := by
  unfold windowWrite
  try dsimp only
  with_reducible repeat' first | assumption | apply pairWrite_kept | apply halfWrite_kept | apply regWrite_kept | apply refuseWrite_kept | split

theorem accessWrite_kept {s : State} {src : Src} {a : Nat} {size : Nat} {v : Nat} (hs : Kept q s) :
    Kept q (accessWrite s src a size v) := by
  unfold accessWrite
  try dsimp only
  with_reducible repeat' first | assumption | apply windowWrite_kept | apply refuseWrite_kept | apply answer_kept | split

theorem registerWriteState_kept {src : Src} {addr : Nat} {size : Nat} {value : Nat} {s : State} (hs : Kept q s) :
    Kept q (registerWriteState src addr size value s) := by
  unfold registerWriteState
  try dsimp only
  with_reducible repeat' first | assumption | apply accessWrite_kept

theorem semWriteState_kept {d : Nat} {sem : Nat} {amount : Nat} {s : State} (hs : Kept q s) :
    Kept q (semWriteState d sem amount s) := by
  unfold semWriteState
  try dsimp only
  with_reducible repeat' first | assumption | apply semAmount_kept | apply answer_kept | split

theorem satCountState_kept {d : Nat} {value : Nat} {s : State} (hs : Kept q s) :
    Kept q (satCountState d value s) := by
  unfold satCountState
  try dsimp only
  with_reducible repeat' first | assumption | apply satZero_kept | apply answer_kept | split

theorem nanCountState_kept {d : Nat} {value : Nat} {s : State} (hs : Kept q s) :
    Kept q (nanCountState d value s) := by
  unfold nanCountState
  try dsimp only
  with_reducible repeat' first | assumption | apply nanZero_kept | apply answer_kept | split

theorem probeCtrlState_kept {k : Nat} {value : Nat} {s : State} (hs : Kept q s) :
    Kept q (probeCtrlState k value s) := by
  unfold probeCtrlState
  try dsimp only
  with_reducible repeat' first | assumption | apply probeCtrlWrite_kept

theorem niClearState_kept {c : Nat} {value : Nat} {s : State} (hs : Kept q s) :
    Kept q (niClearState c value s) := by
  unfold niClearState
  try dsimp only
  with_reducible repeat' first | assumption | apply niZero_kept

theorem execRegisterWrite_kept {src : Src} {addr : Nat} {size : Nat} {value : Nat} {s : State} (hs : Kept q s) :
    KeptX q (execRegisterWrite src addr size value s) := by
  unfold execRegisterWrite
  try dsimp only
  with_reducible repeat' first | assumption | apply registerWriteState_kept | apply kept_next | exact kept_refused

theorem execSemWrite_kept {d : Nat} {sem : Nat} {amount : Nat} {s : State} (hs : Kept q s) :
    KeptX q (execSemWrite d sem amount s) := by
  unfold execSemWrite
  try dsimp only
  with_reducible repeat' first | assumption | apply semWriteState_kept | apply guardUnit_kept | apply kept_next | exact kept_refused

theorem execSatCount_kept {d : Nat} {value : Nat} {s : State} (hs : Kept q s) :
    KeptX q (execSatCount d value s) := by
  unfold execSatCount
  try dsimp only
  with_reducible repeat' first | assumption | apply satCountState_kept | apply guardUnit_kept | apply kept_next | exact kept_refused

theorem execNanCount_kept {d : Nat} {value : Nat} {s : State} (hs : Kept q s) :
    KeptX q (execNanCount d value s) := by
  unfold execNanCount
  try dsimp only
  with_reducible repeat' first | assumption | apply nanCountState_kept | apply guardUnit_kept | apply kept_next | exact kept_refused

theorem execProbeCtrl_kept {k : Nat} {value : Nat} {s : State} (hs : Kept q s) :
    KeptX q (execProbeCtrl k value s) := by
  unfold execProbeCtrl
  try dsimp only
  with_reducible repeat' first | assumption | apply probeCtrlState_kept | apply guardUnit_kept | apply kept_next | exact kept_refused

theorem execNiClear_kept {c : Nat} {value : Nat} {s : State} (hs : Kept q s) :
    KeptX q (execNiClear c value s) := by
  unfold execNiClear
  try dsimp only
  with_reducible repeat' first | assumption | apply niClearState_kept | apply guardUnit_kept | apply kept_next | exact kept_refused

end Sys2Proof.Machine
end

