-- ==== Sys2Proof/Laws/KeptNet.lean ====
section
/-! SUPPORT. What the effects of Machine/Net keep: the queue, the canonical form of memory, OTP (Laws/Kept.lean). -/
set_option linter.all false
namespace Sys2Proof.Machine

variable {q : Base}

theorem traceRecord_kept {s : State} {c : Nat} {k : Nat} {p : Packet} (hs : Kept q s) :
    Kept q (traceRecord s c k p) := by
  unfold traceRecord
  try dsimp only
  with_reducible repeat' first | assumption | apply hbmEnqueue_kept | apply takeTag_kept | apply queuePacket_kept | apply winSet_kept | split | refine kept_fst (by assumption) ?_ | refine kept_snd (by assumption) ?_ | dsimp only

theorem probeSees_kept {s : State} {c : Nat} {port : Nat} {p : Packet} {k : Nat} (hs : Kept q s) :
    Kept q (probeSees s c port p k) := by
  unfold probeSees
  try dsimp only
  with_reducible repeat' first | assumption | apply traceRecord_kept | apply winSet_kept | split

theorem probesSee_kept {s : State} {c : Nat} {port : Nat} {p : Packet} (hs : Kept q s) :
    Kept q (probesSee s c port p) := by
  unfold probesSee
  try dsimp only
  with_reducible repeat' first | assumption | intro _ _ _ | intro _ _ | intro _ | apply probeSees_kept | apply kept_foldl | apply kept_foldl1 | refine kept_fst (by assumption) ?_ | dsimp only

theorem countParity_kept {s : State} {c : Nat} (hs : Kept q s) :
    Kept q (countParity s c) := by
  unfold countParity
  try dsimp only
  with_reducible repeat' first | assumption | apply updNi_kept | apply odBump_kept

theorem headerFails_kept {s : State} {c : Nat} {port : Nat} {h : Packet} {byte : Nat} {flits : Nat} (hs : Kept q s) :
    Kept q (headerFails s c port h byte flits) := by
  unfold headerFails
  try dsimp only
  with_reducible repeat' first | assumption | apply countParity_kept | apply emitPlain_kept

theorem payloadFails_kept {s : State} {c : Nat} {port : Nat} {h : Packet} {byte : Nat} (hs : Kept q s) :
    Kept q (payloadFails s c port h byte) := by
  unfold payloadFails
  try dsimp only
  with_reducible repeat' first | assumption | apply countParity_kept | apply emitPlain_kept

theorem checkFlit_kept {s : State} {c : Nat} {port : Nat} {h : Packet} {f : Flit} (hs : Kept q s) :
    Kept q (checkFlit s c port h f) := by
  unfold checkFlit
  try dsimp only
  with_reducible repeat' first | assumption | intro _ _ _ | intro _ _ | intro _ | apply payloadFails_kept | apply kept_foldl | apply kept_foldl1 | refine kept_fst (by assumption) ?_ | dsimp only

theorem checkPacket_kept {s : State} {c : Nat} {p : Packet} {fs : List Flit} (hs : Kept q s) :
    Kept q (checkPacket s c p fs).1 := by
  unfold checkPacket
  try dsimp only
  with_reducible repeat' first | assumption | intro _ _ _ | intro _ _ | intro _ | apply checkFlit_kept | apply headerFails_kept | apply kept_foldl | apply kept_foldl1 | split | refine kept_fst (by assumption) ?_ | dsimp only

theorem absorbPacket_kept {s : State} {c : Nat} {p : Packet} {st : Status} (hs : Kept q s) :
    Kept q (absorbPacket s c p st) := by
  unfold absorbPacket
  try dsimp only
  with_reducible repeat' first | assumption | apply sendAnswer_kept | apply queuePacket_kept | apply updNi_kept | apply odBump_kept | split

theorem updNet_kept {s : State} {f : Net → Net} (hs : Kept q s) :
    Kept q (updNet s f) := by
  unfold updNet
  try dsimp only
  with_reducible repeat' first | assumption | refine kept_mk ?_

theorem flitPush_kept {s : State} {k : Nat} {f : Flit} (hs : Kept q s) :
    Kept q (flitPush s k f) := by
  unfold flitPush
  try dsimp only
  with_reducible repeat' first | assumption | apply updNet_kept

theorem flitsPop_kept {s : State} {k : Nat} {n : Nat} (hs : Kept q s) :
    Kept q (flitsPop s k n) := by
  unfold flitsPop
  try dsimp only
  with_reducible repeat' first | assumption | apply updNet_kept

theorem setFirst_kept {s : State} {k : Nat} {f : Flit} (hs : Kept q s) :
    Kept q (setFirst s k f) := by
  unfold setFirst
  try dsimp only
  with_reducible repeat' first | assumption | apply updNet_kept

theorem injectFlit_kept {s : State} {c : Nat} {p : Packet} {i : Nat} (hs : Kept q s) :
    Kept q (injectFlit s c p i) := by
  unfold injectFlit
  try dsimp only
  with_reducible repeat' first | assumption | apply flitPush_kept | apply probesSee_kept | apply updNi_kept | split

theorem injectHead_kept {s : State} {c : Nat} {p : Packet} (hs : Kept q s) :
    Kept q (injectHead s c p) := by
  unfold injectHead
  try dsimp only
  with_reducible repeat' first | assumption | apply injectFlit_kept | apply setNi_kept | split

theorem packetInjectState_kept {c : Nat} {p : Packet} {s : State} (hs : Kept q s) :
    Kept q (packetInjectState c p s) := by
  unfold packetInjectState
  try dsimp only
  with_reducible repeat' first | assumption | apply injectHead_kept | apply injectFlit_kept | split

theorem ageHead_kept {s : State} {k : Nat} (hs : Kept q s) :
    Kept q (ageHead s k) := by
  unfold ageHead
  try dsimp only
  with_reducible repeat' first | assumption | apply setFirst_kept | split

theorem leaveBy_kept {c : Nat} {plane : Nat} {vc : Nat} {f : Flit} {s : State} {o : Nat × Packet} (hs : Kept q s) :
    Kept q (leaveBy c plane vc f s o) := by
  unfold leaveBy
  try dsimp only
  with_reducible repeat' first | assumption | apply flitPush_kept | apply probesSee_kept | apply updNi_kept | split

theorem passFlit_kept {s : State} {c : Nat} {port : Nat} {plane : Nat} {vc : Nat} {f : Flit} {w : Worm} (hs : Kept q s) :
    Kept q (passFlit s c port plane vc f w) := by
  unfold passFlit
  try dsimp only
  with_reducible repeat' first | assumption | intro _ _ _ | intro _ _ | intro _ | apply leaveBy_kept | apply flitsPop_kept | apply updNet_kept | apply absorbPacket_kept | apply kept_foldl | apply kept_foldl1 | split | refine kept_fst (by assumption) ?_ | dsimp only

theorem eatFlit_kept {s : State} {c : Nat} {port : Nat} {plane : Nat} {vc : Nat} {f : Flit} {w : Worm} {byte : Nat} (hs : Kept q s) :
    Kept q (eatFlit s c port plane vc f w byte) := by
  unfold eatFlit
  try dsimp only
  with_reducible repeat' first | assumption | apply flitsPop_kept | apply updNet_kept | apply headerFails_kept | split

theorem forwardHead_kept {s : State} {c : Nat} {port : Nat} {plane : Nat} {vc : Nat} {f : Flit} {h : Packet} (hs : Kept q s) :
    Kept q (forwardHead s c port plane vc f h) := by
  unfold forwardHead
  try dsimp only
  with_reducible repeat' first | assumption | intro _ _ _ | intro _ _ | intro _ | apply eatFlit_kept | apply passFlit_kept | apply ageHead_kept | apply setFirst_kept | apply checkFlit_kept | apply kept_foldl | apply kept_foldl1 | apply kept_getD | split | refine kept_fst (by assumption) ?_ | dsimp only

theorem forwardBody_kept {s : State} {c : Nat} {port : Nat} {plane : Nat} {vc : Nat} {f : Flit} {w : Worm} (hs : Kept q s) :
    Kept q (forwardBody s c port plane vc f w) := by
  unfold forwardBody
  try dsimp only
  with_reducible repeat' first | assumption | apply eatFlit_kept | apply passFlit_kept | apply setFirst_kept | apply checkFlit_kept | split

theorem colForwardState_kept {c : Nat} {port : Nat} {plane : Nat} {vc : Nat} {s : State} (hs : Kept q s) :
    Kept q (colForwardState c port plane vc s) := by
  unfold colForwardState
  try dsimp only
  with_reducible repeat' first | assumption | apply forwardBody_kept | apply forwardHead_kept | split

theorem takeAt_kept {c : Nat} {typ : Nat} {p : Packet} {f : Packet → State → State} {s0 : State} (hf : ∀ y0 y1, Kept q y1 → Kept q (f y0 y1)) (hs0 : Kept q s0) :
    Kept q (takeAt c typ p f s0) := by
  unfold takeAt
  try dsimp only
  with_reducible repeat' first | assumption | apply hf | apply flitsPop_kept | apply absorbPacket_kept | apply checkPacket_kept | split | apply kept_some | exact kept_none | refine kept_of_some (by assumption) ?_ | refine kept_fst (by assumption) ?_ | dsimp only

theorem regsWrite_kept {src : Src} {fuel a : Nat} {bs : List Byte} {s : State} (hs : Kept q s) :
    Kept q (regsWrite src fuel a bs s).1 := by
  induction fuel generalizing s a bs with
  | zero => exact hs
  | succ n ih =>
    unfold regsWrite
    dsimp only
    split
    · exact hs
    · exact ih (windowWrite_kept hs)

theorem windowWriteNet_kept {s : State} {src : Src} {a : Nat} {bs : List Byte} (hs : Kept q s) :
    Kept q (windowWriteNet s src a bs).1 := by
  unfold windowWriteNet
  try dsimp only
  with_reducible repeat' first | assumption | apply regsWrite_kept | apply windowWrite_kept | split | refine kept_fst (by assumption) ?_ | dsimp only

theorem hbmArrive_kept {s : State} {c : Nat} {p : Packet} {wr : Bool} {n : Nat} {refuseWith : State → State} (hs : Kept q s) (hrefuseWith : ∀ y0, Kept q y0 → Kept q (refuseWith y0)) :
    Kept q (hbmArrive s c p wr n refuseWith) := by
  unfold hbmArrive
  try dsimp only
  with_reducible repeat' first | assumption | apply hrefuseWith | apply hbmEnqueue_kept | apply emitPlain_kept | split | apply kept_some | exact kept_none | refine kept_of_some (by assumption) ?_

theorem serveRead_kept {c : Nat} {p : Packet} {s : State} (hs : Kept q s) :
    Kept q (serveRead c p s) := by
  unfold serveRead
  try dsimp only
  with_reducible repeat' first | assumption | intro _ _ | intro _ | apply hbmArrive_kept | apply daleRead_kept | apply sendAnswer_kept | split | apply kept_some | exact kept_none | refine kept_of_some (by assumption) ?_ | refine kept_fst (by assumption) ?_ | dsimp only

theorem readState_kept {c : Nat} {p : Packet} {s : State} (hs : Kept q s) :
    Kept q (readState c p s) := by
  unfold readState
  try dsimp only
  with_reducible repeat' first | assumption | intro _ _ | intro _ | apply serveRead_kept | apply takeAt_kept | apply kept_some | exact kept_none | refine kept_of_some (by assumption) ?_

theorem serveWrite_kept {c : Nat} {p : Packet} {s : State} (hs : Kept q s) :
    Kept q (serveWrite c p s) := by
  unfold serveWrite
  try dsimp only
  with_reducible repeat' first | assumption | intro _ _ | intro _ | apply hbmArrive_kept | apply windowWriteNet_kept | apply daleWrite_kept | apply sendAnswer_kept | split | apply kept_some | exact kept_none | refine kept_of_some (by assumption) ?_ | refine kept_fst (by assumption) ?_ | dsimp only

theorem writeState_kept {c : Nat} {p : Packet} {s : State} (hs : Kept q s) :
    Kept q (writeState c p s) := by
  unfold writeState
  try dsimp only
  with_reducible repeat' first | assumption | intro _ _ | intro _ | apply serveWrite_kept | apply takeAt_kept | apply kept_some | exact kept_none | refine kept_of_some (by assumption) ?_

theorem closeRequest_kept {s : State} {c : Nat} {r : Request} (hs : Kept q s) :
    Kept q (closeRequest s c r) := by
  unfold closeRequest
  try dsimp only
  with_reducible repeat' first | assumption | apply updNi_kept | apply takeFree_kept | split | refine kept_fst (by assumption) ?_ | refine kept_snd (by assumption) ?_ | dsimp only

theorem answerAt_kept {c : Nat} {typ : Nat} {p : Packet} {types : List Nat} {f : Request → Packet → State → State} {s : State} (hf : ∀ y0 y1 y2, Kept q y2 → Kept q (f y0 y1 y2)) (hs : Kept q s) :
    Kept q (answerAt c typ p types f s) := by
  unfold answerAt
  try dsimp only
  with_reducible repeat' first | assumption | apply hf | intro _ _ | intro _ | apply closeRequest_kept | apply takeAt_kept | split | apply kept_some | exact kept_none | refine kept_of_some (by assumption) ?_

theorem readAnswered_kept {r : Request} {p : Packet} {s : State} (hs : Kept q s) :
    Kept q (readAnswered r p s) := by
  unfold readAnswered
  try dsimp only
  with_reducible repeat' first | assumption | apply gatherMissReturn_kept | apply pieceRead_kept | split

theorem readRespState_kept {c : Nat} {p : Packet} {s : State} (hs : Kept q s) :
    Kept q (readRespState c p s) := by
  unfold readRespState
  try dsimp only
  with_reducible repeat' first | assumption | intro _ _ | intro _ | apply readAnswered_kept | apply answerAt_kept | apply kept_some | exact kept_none | refine kept_of_some (by assumption) ?_

theorem writeAnswered_kept {r : Request} {p : Packet} {s : State} (hs : Kept q s) :
    Kept q (writeAnswered r p s) := by
  unfold writeAnswered
  try dsimp only
  with_reducible repeat' first | assumption | apply jobAck_kept | apply pieceWritten_kept | split

theorem writeAckState_kept {c : Nat} {p : Packet} {s : State} (hs : Kept q s) :
    Kept q (writeAckState c p s) := by
  unfold writeAckState
  try dsimp only
  with_reducible repeat' first | assumption | intro _ _ | intro _ | apply writeAnswered_kept | apply answerAt_kept | apply kept_some | exact kept_none | refine kept_of_some (by assumption) ?_

theorem mcastDataState_kept {c : Nat} {p : Packet} {s : State} (hs : Kept q s) :
    Kept q (mcastDataState c p s) := by
  unfold mcastDataState
  try dsimp only
  with_reducible repeat' first | assumption | intro _ _ | intro _ | apply takeAt_kept | apply mcastDeliver_kept | split | apply kept_some | exact kept_none | refine kept_of_some (by assumption) ?_

theorem traceState_kept {c : Nat} {p : Packet} {s : State} (hs : Kept q s) : Kept q (traceState c p s) := by
  refine takeAt_kept (fun r t h => ?_) hs
  split
  · exact hbmArrive_kept h fun _ h => h
  · exact h

theorem semincRequestState_kept {c : Nat} {p : Packet} {s : State} (hs : Kept q s) :
    Kept q (semincRequestState c p s) := by
  unfold semincRequestState
  try dsimp only
  with_reducible repeat' first | assumption | intro _ _ | intro _ | apply takeAt_kept | apply semAdd_kept | apply sendAnswer_kept | split | apply kept_some | exact kept_none | refine kept_of_some (by assumption) ?_

theorem semincAnswered_kept {r : Request} {p : Packet} {s : State} (hs : Kept q s) :
    Kept q (semincAnswered r p s) := by
  unfold semincAnswered
  try dsimp only
  with_reducible repeat' first | assumption | apply jobAck_kept | apply trapDale_kept | apply emitDale_kept | split

theorem semincAckState_kept {c : Nat} {p : Packet} {s : State} (hs : Kept q s) :
    Kept q (semincAckState c p s) := by
  unfold semincAckState
  try dsimp only
  with_reducible repeat' first | assumption | intro _ _ | intro _ | apply semincAnswered_kept | apply answerAt_kept | apply kept_some | exact kept_none | refine kept_of_some (by assumption) ?_

theorem ctrlReadState_kept {c : Nat} {p : Packet} {s : State} (hs : Kept q s) :
    Kept q (ctrlReadState c p s) := by
  unfold ctrlReadState
  try dsimp only
  with_reducible repeat' first | assumption | intro _ _ | intro _ | apply takeAt_kept | apply sendAnswer_kept | split | apply kept_some | exact kept_none | refine kept_of_some (by assumption) ?_

theorem ctrlWriteState_kept {c : Nat} {p : Packet} {s : State} (hs : Kept q s) :
    Kept q (ctrlWriteState c p s) := by
  unfold ctrlWriteState
  try dsimp only
  with_reducible repeat' first | assumption | intro _ _ | intro _ | apply takeAt_kept | apply windowWrite_kept | apply sendAnswer_kept | split | apply kept_some | exact kept_none | refine kept_of_some (by assumption) ?_

theorem ctrlRespState_kept {c : Nat} {p : Packet} {s : State} (hs : Kept q s) :
    Kept q (ctrlRespState c p s) := by
  unfold ctrlRespState
  try dsimp only
  with_reducible repeat' first | assumption | intro _ _ | intro _ | apply answerAt_kept | apply kept_some | exact kept_none | refine kept_of_some (by assumption) ?_

theorem runState_kept {c : Nat} {p : Packet} {s : State} (hs : Kept q s) :
    Kept q (runState c p s) := by
  unfold runState
  try dsimp only
  with_reducible repeat' first | assumption | intro _ _ | intro _ | apply takeAt_kept | apply runDale_kept | split | apply kept_some | exact kept_none | refine kept_of_some (by assumption) ?_

theorem endReportState_kept {c : Nat} {p : Packet} {s : State} (hs : Kept q s) :
    Kept q (endReportState c p s) := by
  unfold endReportState
  try dsimp only
  with_reducible repeat' first | assumption | intro _ _ | intro _ | apply answerAt_kept | apply reportTaken_kept | apply kept_some | exact kept_none | refine kept_of_some (by assumption) ?_

theorem mcastAt_kept {c : Nat} {typ : Nat} {p : Packet} {f : Nat → Nat → Packet → State → State} {s : State} (hf : ∀ y0 y1 y2 y3, Kept q y3 → Kept q (f y0 y1 y2 y3)) (hs : Kept q s) :
    Kept q (mcastAt c typ p f s) := by
  unfold mcastAt
  try dsimp only
  with_reducible repeat' first | assumption | apply hf | intro _ _ | intro _ | apply takeAt_kept | split | apply kept_some | exact kept_none | refine kept_of_some (by assumption) ?_

theorem mcastReadyState_kept {c : Nat} {p : Packet} {s : State} (hs : Kept q s) :
    Kept q (mcastReadyState c p s) := by
  unfold mcastReadyState
  try dsimp only
  with_reducible repeat' first | assumption | intro _ _ | intro _ | apply mcastAt_kept | apply mcastReady_kept | apply kept_some | exact kept_none | refine kept_of_some (by assumption) ?_

theorem mcastAckState_kept {c : Nat} {p : Packet} {s : State} (hs : Kept q s) :
    Kept q (mcastAckState c p s) := by
  unfold mcastAckState
  try dsimp only
  with_reducible repeat' first | assumption | intro _ _ | intro _ | apply mcastAt_kept | apply checkMcasts_kept | apply noteAck_kept | apply kept_some | exact kept_none | refine kept_of_some (by assumption) ?_

theorem mcastCancelState_kept {c : Nat} {p : Packet} {s : State} (hs : Kept q s) :
    Kept q (mcastCancelState c p s) := by
  unfold mcastCancelState
  try dsimp only
  with_reducible repeat' first | assumption | intro _ _ | intro _ | apply mcastAt_kept | apply cancelLeaf_kept | apply kept_some | exact kept_none | refine kept_of_some (by assumption) ?_

theorem sendDrainDone_kept {s : State} {c : Nat} {st : Status} (hs : Kept q s) :
    Kept q (sendDrainDone s c st) := by
  unfold sendDrainDone
  try dsimp only
  with_reducible repeat' first | assumption | apply sendAnswer_kept | apply updNi_kept | split

theorem drainReqState_kept {c : Nat} {p : Packet} {s : State} (hs : Kept q s) :
    Kept q (drainReqState c p s) := by
  unfold drainReqState
  try dsimp only
  with_reducible repeat' first | assumption | intro _ _ | intro _ | apply takeAt_kept | apply updNi_kept | split | apply kept_some | exact kept_none | refine kept_of_some (by assumption) ?_

theorem interfaceDrainedState_kept {c : Nat} {s : State} (hs : Kept q s) :
    Kept q (interfaceDrainedState c s) := by
  unfold interfaceDrainedState
  try dsimp only
  with_reducible repeat' first | assumption | apply sendDrainDone_kept | apply enterAbsorb_kept | apply odBump_kept | split

theorem drainAnswered_kept {r : Request} {z1 : Packet} {s : State} (hs : Kept q s) :
    Kept q (drainAnswered r z1 s) := by
  unfold drainAnswered
  try dsimp only
  with_reducible repeat' first | assumption | apply unitDrained_kept | split

theorem drainDoneState_kept {c : Nat} {p : Packet} {s : State} (hs : Kept q s) :
    Kept q (drainDoneState c p s) := by
  unfold drainDoneState
  try dsimp only
  with_reducible repeat' first | assumption | intro _ _ | intro _ | apply drainAnswered_kept | apply answerAt_kept | apply kept_some | exact kept_none | refine kept_of_some (by assumption) ?_

theorem drainForcedState_kept {c : Nat} {s : State} (hs : Kept q s) :
    Kept q (drainForcedState c s) := by
  unfold drainForcedState
  try dsimp only
  with_reducible repeat' first | assumption | apply sendDrainDone_kept | apply setSwitch_kept | apply enterAbsorb_kept | apply updStk_kept | apply odBump_kept | apply emitPlain_kept | split

theorem execPacketInject_kept {c : Nat} {p : Packet} {s : State} (hs : Kept q s) :
    KeptX q (execPacketInject c p s) := by
  unfold execPacketInject
  try dsimp only
  with_reducible repeat' first | assumption | apply packetInjectState_kept | apply guardUnit_kept | apply kept_next | exact kept_refused | split

theorem execColForward_kept {c : Nat} {port : Nat} {plane : Nat} {vc : Nat} {s : State} (hs : Kept q s) :
    KeptX q (execColForward c port plane vc s) := by
  unfold execColForward
  try dsimp only
  with_reducible repeat' first | assumption | apply colForwardState_kept | apply guardUnit_kept | apply kept_next | exact kept_refused

theorem execRead_kept {c : Nat} {p : Packet} {s : State} (hs : Kept q s) :
    KeptX q (execRead c p s) := by
  unfold execRead
  try dsimp only
  with_reducible repeat' first | assumption | apply readState_kept | apply guardUnit_kept | apply kept_next | exact kept_refused

theorem execWrite_kept {c : Nat} {p : Packet} {s : State} (hs : Kept q s) :
    KeptX q (execWrite c p s) := by
  unfold execWrite
  try dsimp only
  with_reducible repeat' first | assumption | apply writeState_kept | apply guardUnit_kept | apply kept_next | exact kept_refused

theorem execReadResp_kept {c : Nat} {p : Packet} {s : State} (hs : Kept q s) :
    KeptX q (execReadResp c p s) := by
  unfold execReadResp
  try dsimp only
  with_reducible repeat' first | assumption | apply readRespState_kept | apply guardUnit_kept | apply kept_next | exact kept_refused

theorem execWriteAck_kept {c : Nat} {p : Packet} {s : State} (hs : Kept q s) :
    KeptX q (execWriteAck c p s) := by
  unfold execWriteAck
  try dsimp only
  with_reducible repeat' first | assumption | apply writeAckState_kept | apply guardUnit_kept | apply kept_next | exact kept_refused

theorem execMcastData_kept {c : Nat} {p : Packet} {s : State} (hs : Kept q s) :
    KeptX q (execMcastData c p s) := by
  unfold execMcastData
  try dsimp only
  with_reducible repeat' first | assumption | apply mcastDataState_kept | apply guardUnit_kept | apply kept_next | exact kept_refused

theorem execTrace_kept {c : Nat} {p : Packet} {s : State} (hs : Kept q s) :
    KeptX q (execTrace c p s) := by
  unfold execTrace
  try dsimp only
  with_reducible repeat' first | assumption | apply traceState_kept | apply guardUnit_kept | apply kept_next | exact kept_refused

theorem execSemincRequest_kept {c : Nat} {p : Packet} {s : State} (hs : Kept q s) :
    KeptX q (execSemincRequest c p s) := by
  unfold execSemincRequest
  try dsimp only
  with_reducible repeat' first | assumption | apply semincRequestState_kept | apply guardUnit_kept | apply kept_next | exact kept_refused

theorem execSemincAck_kept {c : Nat} {p : Packet} {s : State} (hs : Kept q s) :
    KeptX q (execSemincAck c p s) := by
  unfold execSemincAck
  try dsimp only
  with_reducible repeat' first | assumption | apply semincAckState_kept | apply guardUnit_kept | apply kept_next | exact kept_refused

theorem execCtrlRead_kept {c : Nat} {p : Packet} {s : State} (hs : Kept q s) :
    KeptX q (execCtrlRead c p s) := by
  unfold execCtrlRead
  try dsimp only
  with_reducible repeat' first | assumption | apply ctrlReadState_kept | apply guardUnit_kept | apply kept_next | exact kept_refused

theorem execCtrlWrite_kept {c : Nat} {p : Packet} {s : State} (hs : Kept q s) :
    KeptX q (execCtrlWrite c p s) := by
  unfold execCtrlWrite
  try dsimp only
  with_reducible repeat' first | assumption | apply ctrlWriteState_kept | apply guardUnit_kept | apply kept_next | exact kept_refused

theorem execCtrlResp_kept {c : Nat} {p : Packet} {s : State} (hs : Kept q s) :
    KeptX q (execCtrlResp c p s) := by
  unfold execCtrlResp
  try dsimp only
  with_reducible repeat' first | assumption | apply ctrlRespState_kept | apply guardUnit_kept | apply kept_next | exact kept_refused

theorem execRun_kept {c : Nat} {p : Packet} {s : State} (hs : Kept q s) :
    KeptX q (execRun c p s) := by
  unfold execRun
  try dsimp only
  with_reducible repeat' first | assumption | apply runState_kept | apply guardUnit_kept | apply kept_next | exact kept_refused

theorem execEndReport_kept {c : Nat} {p : Packet} {s : State} (hs : Kept q s) :
    KeptX q (execEndReport c p s) := by
  unfold execEndReport
  try dsimp only
  with_reducible repeat' first | assumption | apply endReportState_kept | apply guardUnit_kept | apply kept_next | exact kept_refused

theorem execMcastReady_kept {c : Nat} {p : Packet} {s : State} (hs : Kept q s) :
    KeptX q (execMcastReady c p s) := by
  unfold execMcastReady
  try dsimp only
  with_reducible repeat' first | assumption | apply mcastReadyState_kept | apply guardUnit_kept | apply kept_next | exact kept_refused

theorem execMcastAck_kept {c : Nat} {p : Packet} {s : State} (hs : Kept q s) :
    KeptX q (execMcastAck c p s) := by
  unfold execMcastAck
  try dsimp only
  with_reducible repeat' first | assumption | apply mcastAckState_kept | apply guardUnit_kept | apply kept_next | exact kept_refused

theorem execMcastCancel_kept {c : Nat} {p : Packet} {s : State} (hs : Kept q s) :
    KeptX q (execMcastCancel c p s) := by
  unfold execMcastCancel
  try dsimp only
  with_reducible repeat' first | assumption | apply mcastCancelState_kept | apply guardUnit_kept | apply kept_next | exact kept_refused

theorem execDrainReq_kept {c : Nat} {p : Packet} {s : State} (hs : Kept q s) :
    KeptX q (execDrainReq c p s) := by
  unfold execDrainReq
  try dsimp only
  with_reducible repeat' first | assumption | apply drainReqState_kept | apply guardUnit_kept | apply kept_next | exact kept_refused

theorem execInterfaceDrained_kept {c : Nat} {s : State} (hs : Kept q s) :
    KeptX q (execInterfaceDrained c s) := by
  unfold execInterfaceDrained
  try dsimp only
  with_reducible repeat' first | assumption | apply interfaceDrainedState_kept | apply guardUnit_kept | apply kept_next | exact kept_refused

theorem execDrainDone_kept {c : Nat} {p : Packet} {s : State} (hs : Kept q s) :
    KeptX q (execDrainDone c p s) := by
  unfold execDrainDone
  try dsimp only
  with_reducible repeat' first | assumption | apply drainDoneState_kept | apply guardUnit_kept | apply kept_next | exact kept_refused

theorem execDrainForced_kept {c : Nat} {s : State} (hs : Kept q s) :
    KeptX q (execDrainForced c s) := by
  unfold execDrainForced
  try dsimp only
  with_reducible repeat' first | assumption | apply drainForcedState_kept | apply guardUnit_kept | apply kept_next | exact kept_refused

end Sys2Proof.Machine
end

