-- ==== Sys2Proof/Laws/KeptFlit.lean ====
section
/-! SUPPORT. What the effects of Machine/Flit keep: the queue, the canonical form of memory, OTP (Laws/Kept.lean). -/
set_option linter.all false
namespace Sys2Proof.Machine

variable {q : Base}

theorem sendFlit_kept {s : State} {link : Nat} (hs : Kept q s) :
    Kept q (sendFlit s link) := by
  unfold sendFlit
  try dsimp only
  with_reducible repeat' first | assumption | apply updAgent_kept | apply odBump_kept | split

theorem pumpPort_kept {s : State} {g : Nat} (hs : Kept q s) :
    Kept q (pumpPort s g) := by
  unfold pumpPort
  try dsimp only
  with_reducible repeat' first | assumption | apply updPort_kept | apply setAgent_kept | split

theorem linksTick_kept {s : State} (hs : Kept q s) :
    Kept q (linksTick s) := by
  unfold linksTick
  try dsimp only
  with_reducible repeat' first | assumption | intro _ _ _ | intro _ _ | intro _ | apply pumpPort_kept | apply sendFlit_kept | apply kept_foldl | apply kept_foldl1 | refine kept_fst (by assumption) ?_ | dsimp only

end Sys2Proof.Machine
end

