-- ==== Sys2Proof/Laws/KeptHeon.lean ====
section
/-! SUPPORT. What the effects of Machine/Heon keep: the queue, the canonical form of memory, OTP (Laws/Kept.lean). -/
set_option linter.all false
namespace Sys2Proof.Machine

variable {q : Base}

theorem sendGo_kept {s : State} {j : Nat} {tag : Nat} {st : Status} (hs : Kept q s) :
    Kept q (sendGo s j tag st) := by
  unfold sendGo
  try dsimp only
  with_reducible repeat' first | assumption | apply sendHost_kept

theorem sendComp_kept {s : State} {j : Nat} {tag : Nat} {st : Status} (hs : Kept q s) :
    Kept q (sendComp s j tag st) := by
  unfold sendComp
  try dsimp only
  with_reducible repeat' first | assumption | apply sendHost_kept

theorem sendRdRsp_kept {s : State} {j : Nat} {tag : Nat} {v : Nat} {st : Status} {poison : Bool} (hs : Kept q s) :
    Kept q (sendRdRsp s j tag v st poison) := by
  unfold sendRdRsp
  try dsimp only
  with_reducible repeat' first | assumption | apply sendHost_kept | split

theorem invalidMsg_kept {s : State} {j : Nat} {op : Nat} {tag : Nat} {line : Nat} {cause : Nat} (hs : Kept q s) :
    Kept q (invalidMsg s j op tag line cause) := by
  unfold invalidMsg
  try dsimp only
  with_reducible repeat' first | assumption | apply sendRdRsp_kept | apply sendComp_kept | apply sendGo_kept | apply sendHost_kept | apply emitPlain_kept | split

theorem fromHost_kept {s : State} {j : Nat} {op : Nat} {tag : Nat} (hs : Kept q s) :
    Kept q (fromHost s j op tag) := by
  unfold fromHost
  try dsimp only
  with_reducible repeat' first | assumption | apply updAgent_kept

theorem placeMsg_kept {s : State} {j : Nat} {f : HeonMsg → Bool} (hs : Kept q s) :
    Kept q (placeMsg s j f) := by
  unfold placeMsg
  try dsimp only
  with_reducible repeat' first | assumption | apply updAgent_kept | split

theorem deliverLine_kept {s : State} {line : Nat} {bs : List Byte} {poison : Bool} (hs : Kept q s) :
    Kept q (deliverLine s line bs poison) := by
  unfold deliverLine
  try dsimp only
  with_reducible repeat' first | assumption | split | refine kept_mk ?_

theorem replaceExt_kept {s : State} {e : ExtReq} {e1 : ExtReq} (hs : Kept q s) :
    Kept q (replaceExt s e e1) := by
  unfold replaceExt
  try dsimp only
  with_reducible repeat' first | assumption | split | refine kept_mk ?_

theorem streamLine_kept {s : State} {line : Nat} {bs : List Byte} {poison : Bool} {st : Status} (hs : Kept q s) :
    Kept q (streamLine s line bs poison st) := by
  unfold streamLine
  try dsimp only
  with_reducible repeat' first | assumption | apply replaceExt_kept | apply pieceRead_kept | split | refine kept_mk ?_

theorem notifyRecord_kept {s : State} {ring : Nat} (hs : Kept q s) :
    Kept q (notifyRecord s ring) := by
  unfold notifyRecord
  try dsimp only
  with_reducible repeat' first | assumption | apply sendHost_kept | split

theorem extWritten_kept {s : State} {e : ExtReq} {st : Status} (hs : Kept q s) :
    Kept q (extWritten s e st) := by
  unfold extWritten
  try dsimp only
  with_reducible repeat' first | assumption | apply notifyRecord_kept | apply pieceWritten_kept | split

theorem writtenLine_kept {s : State} {line : Nat} {st : Status} (hs : Kept q s) :
    Kept q (writtenLine s line st) := by
  unfold writtenLine
  try dsimp only
  with_reducible repeat' first | assumption | apply extWritten_kept | apply replaceExt_kept | split | refine kept_mk ?_

theorem installLine_kept {s : State} {j : Nat} {line : Nat} {bs : List Byte} (hs : Kept q s) :
    Kept q (installLine s j line bs) := by
  unfold installLine
  try dsimp only
  with_reducible repeat' first | assumption | apply updAgent_kept

theorem finishData_kept {s : State} {j : Nat} {r : HeonReq} {state : Nat} {st : Status} {g : List Byte × Bool}
    (hs : Kept q s) : Kept q (finishData s j r state st g) := by
  unfold finishData
  split
  · refine deliverLine_kept ?_
    split
    · exact installLine_kept hs
    · exact hs
  · exact streamLine_kept hs

theorem finishRead_kept {s : State} {j : Nat} {r : HeonReq} (hs : Kept q s) :
    Kept q (finishRead s j r) := by
  unfold finishRead
  try dsimp only
  with_reducible repeat' first | assumption | apply finishData_kept | apply updAgent_kept | apply takeFree_kept | apply kept_getD | split | refine kept_fst (by assumption) ?_ | refine kept_snd (by assumption) ?_ | dsimp only

theorem onRequest_kept {s : State} {j : Nat} {tag : Nat} {f : HeonReq → HeonReq} (hs : Kept q s) :
    Kept q (onRequest s j tag f) := by
  unfold onRequest
  try dsimp only
  with_reducible repeat' first | assumption | apply finishRead_kept | apply updAgent_kept | split

theorem placeReq_kept {s : State} {j : Nat} {r : HeonReq} {mask : Nat} {data : Option HeonMsg} (hs : Kept q s) :
    Kept q (placeReq s j r mask data) := by
  unfold placeReq
  try dsimp only
  with_reducible repeat' first | assumption | apply updAgent_kept | split

theorem askLine_kept {s : State} {e : ExtReq} {line : Nat} (hs : Kept q s) :
    Kept q (askLine s e line) := by
  unfold askLine
  try dsimp only
  with_reducible repeat' first | assumption | apply replaceExt_kept

theorem deviceRead_kept {s : State} {j : Nat} {tag : Nat} {line : Nat} {shared : Bool} (hs : Kept q s) :
    Kept q (deviceRead s j tag line shared) := by
  unfold deviceRead
  try dsimp only
  with_reducible repeat' first | assumption | apply askLine_kept | apply placeReq_kept | apply streamLine_kept | apply deliverLine_kept | apply takeFree_kept | split | refine kept_fst (by assumption) ?_ | refine kept_snd (by assumption) ?_ | dsimp only

theorem deviceWrite_kept {s : State} {j : Nat} {tag : Nat} {line : Nat} {mask : Nat} {bs : List Byte} {poison : Bool} (hs : Kept q s) :
    Kept q (deviceWrite s j tag line mask bs poison) := by
  unfold deviceWrite
  try dsimp only
  with_reducible repeat' first | assumption | apply askLine_kept | apply placeReq_kept | apply writtenLine_kept | split

theorem hostEnqueue_kept {s : State} {j : Nat} {m : HeonMsg} {wr : Bool} {len : Nat} {bs : List Byte} {poison : Bool} (hs : Kept q s) :
    Kept q (hostEnqueue s j m wr len bs poison) := by
  unfold hostEnqueue
  try dsimp only
  with_reducible repeat' first | assumption | apply hbmEnqueue_kept

theorem hostRead_kept {s0 : State} {op : Nat} {j : Nat} {tag : Nat} {line : Nat} (hs0 : Kept q s0) :
    Kept q (hostRead s0 op j tag line) := by
  unfold hostRead
  try dsimp only
  with_reducible repeat' first | assumption | apply hostEnqueue_kept | apply fromHost_kept | apply invalidMsg_kept | apply sendGo_kept | split

theorem hostWrite_kept {s : State} {j : Nat} {tag : Nat} {line : Nat} {mask : Nat} {bs : List Byte} {poison : Bool} (hs : Kept q s) :
    Kept q (hostWrite s j tag line mask bs poison) := by
  unfold hostWrite
  try dsimp only
  with_reducible repeat' first | assumption | apply hostEnqueue_kept | apply sendComp_kept | split

theorem endSnoop_kept {s : State} {k : Nat} {line : Nat} {kept : Bool} (hs : Kept q s) :
    Kept q (endSnoop s k line kept) := by
  unfold endSnoop
  try dsimp only
  with_reducible repeat' first | assumption | apply updStk_kept | split

theorem giveUp_kept {s : State} {j : Nat} {tag : Nat} {line : Nat} {dirty : Option (List Byte × Bool)} (hs : Kept q s) :
    Kept q (giveUp s j tag line dirty) := by
  unfold giveUp
  try dsimp only
  with_reducible repeat' first | assumption | apply endSnoop_kept | apply sendComp_kept | apply hbmWrite_kept | apply updStk_kept | split | refine kept_fst (by assumption) ?_ | dsimp only

theorem snoopAll_kept {s : State} (hs : Kept q s) :
    Kept q (snoopAll s) := by
  unfold snoopAll
  try dsimp only
  with_reducible repeat' first | assumption | intro _ _ _ | intro _ _ | intro _ | apply snoopLine_kept | apply kept_foldl | apply kept_foldl1 | refine kept_fst (by assumption) ?_ | dsimp only

theorem finishReset_kept {s : State} (hs : Kept q s) :
    Kept q (finishReset s) := by
  unfold finishReset
  try dsimp only
  with_reducible repeat' first | assumption | intro _ _ _ | intro _ _ | intro _ | apply groupRetrains_kept | apply updAgent_kept | apply kept_foldl | apply kept_foldl1 | split | refine kept_fst (by assumption) ?_ | dsimp only | refine kept_mk ?_

theorem linkResetState_kept {s : State} (hs : Kept q s) :
    Kept q (linkResetState s) := by
  unfold linkResetState
  try dsimp only
  with_reducible repeat' first | assumption | intro _ _ _ | intro _ _ | intro _ | apply finishReset_kept | apply snoopAll_kept | apply updAgent_kept | apply kept_foldl | apply kept_foldl1 | refine kept_fst (by assumption) ?_ | dsimp only

theorem rdSharedState_kept {toDevice : Bool} {sub : Nat} {tag : Nat} {line : Nat} {s : State} (hs : Kept q s) :
    Kept q (rdSharedState toDevice sub tag line s) := by
  unfold rdSharedState
  try dsimp only
  with_reducible repeat' first | assumption | apply hostRead_kept | apply deviceRead_kept | split

theorem rdOwnState_kept {sub : Nat} {tag : Nat} {line : Nat} {s : State} (hs : Kept q s) :
    Kept q (rdOwnState sub tag line s) := by
  unfold rdOwnState
  try dsimp only
  with_reducible repeat' first | assumption | apply hostRead_kept

theorem rdNcState_kept {toDevice : Bool} {sub : Nat} {tag : Nat} {line : Nat} {s : State} (hs : Kept q s) :
    Kept q (rdNcState toDevice sub tag line s) := by
  unfold rdNcState
  try dsimp only
  with_reducible repeat' first | assumption | apply hostRead_kept | apply deviceRead_kept | split

theorem takeData_kept {s : State} {j : Nat} {tag : Nat} (hs : Kept q s) :
    Kept q (takeData s j tag).1 := by
  unfold takeData
  try dsimp only
  with_reducible repeat' first | assumption | apply updAgent_kept | split

theorem withData_kept {s : State} {j : Nat} {m : HeonMsg} {bs : List Byte} {poison : Bool} {act : State → List Byte → Bool → State} (hs : Kept q s) (hact : ∀ y0 y1 y2, Kept q y0 → Kept q (act y0 y1 y2)) :
    Kept q (withData s j m bs poison act) := by
  unfold withData
  try dsimp only
  with_reducible repeat' first | assumption | apply hact | apply takeData_kept | apply updAgent_kept | split | apply kept_some | exact kept_none | refine kept_of_some (by assumption) ?_ | refine kept_fst (by assumption) ?_ | dsimp only

theorem wrNcState_kept {toDevice : Bool} {sub : Nat} {tag : Nat} {line : Nat} {mask : Nat} {bytes : List Byte} {poison : Bool} {s0 : State} (hs0 : Kept q s0) :
    Kept q (wrNcState toDevice sub tag line mask bytes poison s0) := by
  unfold wrNcState
  try dsimp only
  with_reducible repeat' first | assumption | intro _ _ | intro _ | apply withData_kept | apply hostWrite_kept | apply deviceWrite_kept | apply fromHost_kept | apply invalidMsg_kept | split | apply kept_some | exact kept_none | refine kept_of_some (by assumption) ?_

theorem wrBackState_kept {sub : Nat} {tag : Nat} {line : Nat} {bytes : List Byte} {poison : Bool} {s0 : State} (hs0 : Kept q s0) :
    Kept q (wrBackState sub tag line bytes poison s0) := by
  unfold wrBackState
  try dsimp only
  with_reducible repeat' first | assumption | intro _ _ | intro _ | apply withData_kept | apply finishReset_kept | apply giveUp_kept | apply fromHost_kept | apply invalidMsg_kept | split | apply kept_some | exact kept_none | refine kept_of_some (by assumption) ?_

theorem evictState_kept {sub : Nat} {tag : Nat} {line : Nat} {s0 : State} (hs0 : Kept q s0) :
    Kept q (evictState sub tag line s0) := by
  unfold evictState
  try dsimp only
  with_reducible repeat' first | assumption | apply finishReset_kept | apply giveUp_kept | apply fromHost_kept | apply invalidMsg_kept | split

theorem mmioRead_kept {s : State} {j : Nat} {tag : Nat} {op : Nat} {addr : Nat} {size : Nat} (hs : Kept q s) :
    Kept q (mmioRead s j tag op addr size) := by
  unfold mmioRead
  try dsimp only
  with_reducible repeat' first | assumption | apply hostEnqueue_kept | apply sendRdRsp_kept | apply daleRead_kept | split | refine kept_fst (by assumption) ?_ | dsimp only

theorem mmioPeer_kept {s : State} {j : Nat} {tag : Nat} {addr : Nat} {bs : List Byte} (hs : Kept q s) :
    Kept q (mmioPeer s j tag addr bs) := by
  unfold mmioPeer
  try dsimp only
  with_reducible repeat' first | assumption | apply sendComp_kept | apply peerTag_kept | apply sendPeer_kept | split | refine kept_fst (by assumption) ?_ | refine kept_snd (by assumption) ?_ | dsimp only | refine kept_mk ?_

theorem mmioWrite_kept {s : State} {j : Nat} {tag : Nat} {op : Nat} {addr : Nat} {size : Nat} {value : Nat} (hs : Kept q s) :
    Kept q (mmioWrite s j tag op addr size value) := by
  unfold mmioWrite
  try dsimp only
  with_reducible repeat' first | assumption | apply mmioPeer_kept | apply hostEnqueue_kept | apply sendComp_kept | apply accessWrite_kept | apply daleWrite_kept | split | refine kept_fst (by assumption) ?_ | dsimp only

theorem mmio_kept {s0 : State} {j : Nat} {tag : Nat} {op : Nat} {addr : Nat} {size : Nat} {value : Option Nat} (hs0 : Kept q s0) :
    Kept q (mmio s0 j tag op addr size value) := by
  unfold mmio
  try dsimp only
  with_reducible repeat' first | assumption | apply mmioWrite_kept | apply mmioRead_kept | apply fromHost_kept | apply invalidMsg_kept | apply sendRdRsp_kept | apply sendComp_kept | split

theorem mmioRd32State_kept {sub : Nat} {tag : Nat} {addr : Nat} {s : State} (hs : Kept q s) :
    Kept q (mmioRd32State sub tag addr s) := by
  unfold mmioRd32State
  try dsimp only
  with_reducible repeat' first | assumption | apply mmio_kept

theorem mmioRd64State_kept {sub : Nat} {tag : Nat} {addr : Nat} {s : State} (hs : Kept q s) :
    Kept q (mmioRd64State sub tag addr s) := by
  unfold mmioRd64State
  try dsimp only
  with_reducible repeat' first | assumption | apply mmio_kept

theorem mmioWr32State_kept {sub : Nat} {tag : Nat} {addr : Nat} {value : Nat} {s : State} (hs : Kept q s) :
    Kept q (mmioWr32State sub tag addr value s) := by
  unfold mmioWr32State
  try dsimp only
  with_reducible repeat' first | assumption | apply mmio_kept

theorem mmioWr64State_kept {sub : Nat} {tag : Nat} {addr : Nat} {value : Nat} {s : State} (hs : Kept q s) :
    Kept q (mmioWr64State sub tag addr value s) := by
  unfold mmioWr64State
  try dsimp only
  with_reducible repeat' first | assumption | apply mmio_kept

theorem cfgRdState_kept {sub : Nat} {tag : Nat} {reg : Nat} {s0 : State} (hs0 : Kept q s0) :
    Kept q (cfgRdState sub tag reg s0) := by
  unfold cfgRdState
  try dsimp only
  with_reducible repeat' first | assumption | apply fromHost_kept | apply invalidMsg_kept | apply sendRdRsp_kept | split

theorem enumDoneState_kept {ms : Nat} {s : State} (hs : Kept q s) :
    Kept q (enumDoneState ms s) := by
  unfold enumDoneState
  try dsimp only
  with_reducible repeat' first | assumption | intro _ _ _ | intro _ _ | intro _ | apply emitPlain_kept | apply kept_foldl | apply kept_foldl1 | split | refine kept_fst (by assumption) ?_ | dsimp only | refine kept_mk ?_

theorem enumCtrl_kept {s : State} {v : Nat} (hs : Kept q s) :
    Kept q (enumCtrl s v) := by
  unfold enumCtrl
  try dsimp only
  with_reducible repeat' first | assumption | apply enumDoneState_kept | apply linkResetState_kept | apply takeFree_kept | split | refine kept_fst (by assumption) ?_ | refine kept_snd (by assumption) ?_ | dsimp only

theorem cfgWrState_kept {sub : Nat} {tag : Nat} {reg : Nat} {value : Nat} {s0 : State} (hs0 : Kept q s0) :
    Kept q (cfgWrState sub tag reg value s0) := by
  unfold cfgWrState
  try dsimp only
  with_reducible repeat' first | assumption | apply enumCtrl_kept | apply fromHost_kept | apply invalidMsg_kept | apply sendComp_kept | split | refine kept_mk ?_

theorem snpShareState_kept {toDevice : Bool} {sub : Nat} {tag : Nat} {line : Nat} {s0 : State} (hs0 : Kept q s0) :
    Kept q (snpShareState toDevice sub tag line s0) := by
  unfold snpShareState
  try dsimp only
  with_reducible repeat' first | assumption | apply placeMsg_kept | apply fromHost_kept | apply invalidMsg_kept | apply sendHost_kept | split

theorem snpInvState_kept {toDevice : Bool} {sub : Nat} {tag : Nat} {line : Nat} {s0 : State} (hs0 : Kept q s0) :
    Kept q (snpInvState toDevice sub tag line s0) := by
  unfold snpInvState
  try dsimp only
  with_reducible repeat' first | assumption | apply placeMsg_kept | apply fromHost_kept | apply invalidMsg_kept | apply sendHost_kept | apply updAgent_kept | split

theorem goState_kept {toDevice : Bool} {sub : Nat} {tag : Nat} {state : Nat} {status : Nat} {s : State} (hs : Kept q s) :
    Kept q (goState toDevice sub tag state status s) := by
  unfold goState
  try dsimp only
  with_reducible repeat' first | assumption | apply finishReset_kept | apply onRequest_kept | apply placeMsg_kept | apply fromHost_kept | split

theorem compState_kept {toDevice : Bool} {sub : Nat} {tag : Nat} {status : Nat} {s0 : State} (hs0 : Kept q s0) :
    Kept q (compState toDevice sub tag status s0) := by
  unfold compState
  try dsimp only
  with_reducible repeat' first | assumption | apply finishReset_kept | apply writtenLine_kept | apply placeMsg_kept | apply fromHost_kept | apply updAgent_kept | split

theorem snoopAnswered_kept {s : State} {sub : Nat} {tag : Nat} {state : Nat} {dirty : Option (List Byte × Bool)} (hs : Kept q s) :
    Kept q (snoopAnswered s sub tag state dirty) := by
  unfold snoopAnswered
  try dsimp only
  with_reducible repeat' first | assumption | apply finishReset_kept | apply endSnoop_kept | apply hbmWrite_kept | apply updStk_kept | split | refine kept_fst (by assumption) ?_ | dsimp only

theorem snpRspState_kept {sub : Nat} {tag : Nat} {state : Nat} {dirty : Option (List Byte × Bool)} {s0 : State} (hs0 : Kept q s0) :
    Kept q (snpRspState sub tag state dirty s0) := by
  unfold snpRspState
  try dsimp only
  with_reducible repeat' first | assumption | intro _ _ | intro _ | apply snoopAnswered_kept | apply withData_kept | apply fromHost_kept | split | apply kept_some | exact kept_none | refine kept_of_some (by assumption) ?_

theorem dataLine_kept {s : State} {j : Nat} {tag : Nat} {bs : List Byte} {poison : Bool} (hs : Kept q s) :
    Kept q (dataLine s j tag bs poison) := by
  unfold dataLine
  try dsimp only
  with_reducible repeat' first | assumption | apply snoopAnswered_kept | apply finishReset_kept | apply giveUp_kept | apply hostWrite_kept | apply onRequest_kept | apply updAgent_kept | split

theorem dataState_kept {toDevice : Bool} {sub : Nat} {tags : List Nat} {lines : List (List Byte)} {poison : Nat} {s : State} (hs : Kept q s) :
    Kept q (dataState toDevice sub tags lines poison s) := by
  unfold dataState
  try dsimp only
  with_reducible repeat' first | assumption | intro _ _ _ | intro _ _ | intro _ | apply dataLine_kept | apply finishReset_kept | apply placeMsg_kept | apply updAgent_kept | apply kept_foldl | apply kept_foldl1 | split | refine kept_fst (by assumption) ?_ | dsimp only

theorem heonArrives_kept {s : State} {j : Nat} {h : Nat} {slots : List (List Byte)} (hs : Kept q s) :
    Kept q (heonArrives s j h slots) := by
  unfold heonArrives
  try dsimp only
  with_reducible repeat' first | assumption | apply invalidMsg_kept | apply updAgent_kept | split

theorem peerArrives_kept {s : State} {g : Nat} {h : Nat} {slots : List (List Byte)} (hs : Kept q s) :
    Kept q (peerArrives s g h slots) := by
  unfold peerArrives
  try dsimp only
  with_reducible repeat' first | assumption | apply ackPeer_kept | apply updAgent_kept | apply emitPlain_kept | split

theorem takeSlots_kept {link fuel : Nat} {s : State} (hs : Kept q s) : Kept q (takeSlots link fuel s) := by
  induction fuel generalizing s with
  | zero => exact hs
  | succ n ih =>
    unfold takeSlots
    dsimp only
    repeat' split
    all_goals first
      | exact hs
      | exact ih (heonArrives_kept (updAgent_kept hs))
      | exact ih (peerArrives_kept (updAgent_kept hs))

theorem flitBad_kept {s : State} {link : Nat} (hs : Kept q s) :
    Kept q (flitBad s link) := by
  unfold flitBad
  try dsimp only
  with_reducible repeat' first | assumption | apply updAgent_kept | apply odBump_kept | split

theorem flitNak_kept {s : State} {link : Nat} {ack : Nat} (hs : Kept q s) :
    Kept q (flitNak s link ack) := by
  unfold flitNak
  try dsimp only
  with_reducible repeat' first | assumption | apply groupRetrains_kept | apply updAgent_kept | apply odBump_kept | apply emitPlain_kept | split

theorem flitControl_kept {s : State} {link : Nat} {h : Nat} (hs : Kept q s) :
    Kept q (flitControl s link h) := by
  unfold flitControl
  try dsimp only
  with_reducible repeat' first | assumption | apply flitNak_kept | apply updAgent_kept | split

theorem flitReceivedState_kept {link : Nat} {flit : List Byte} {s : State} (hs : Kept q s) :
    Kept q (flitReceivedState link flit s) := by
  unfold flitReceivedState
  try dsimp only
  with_reducible repeat' first | assumption | apply flitControl_kept | apply flitBad_kept | apply takeSlots_kept | apply updAgent_kept | apply odBump_kept | apply emitPlain_kept | split

theorem linkDownState_kept {sub : Nat} {s : State} (hs : Kept q s) :
    Kept q (linkDownState sub s) := by
  unfold linkDownState
  try dsimp only
  with_reducible repeat' first | assumption | apply updAgent_kept | apply emitPlain_kept | split

theorem ringsOff_kept {s : State} (hs : Kept q s) :
    Kept q (ringsOff s) := by
  unfold ringsOff
  try dsimp only
  with_reducible repeat' first | assumption | intro _ _ _ | intro _ _ | intro _ | apply winSet_kept | apply kept_foldl | apply kept_foldl1 | refine kept_fst (by assumption) ?_ | dsimp only

theorem answerLost_kept {s : State} {e : ExtReq} (hs : Kept q s) :
    Kept q (answerLost s e) := by
  unfold answerLost
  try dsimp only
  with_reducible repeat' first | assumption | apply pieceWritten_kept | apply pieceRead_kept | apply takeFree_kept | split | refine kept_fst (by assumption) ?_ | refine kept_snd (by assumption) ?_ | dsimp only

theorem filtersLost_kept {s : State} {k : Nat} (hs : Kept q s) :
    Kept q (filtersLost s k) := by
  unfold filtersLost
  try dsimp only
  with_reducible repeat' first | assumption | intro _ _ _ | intro _ _ | intro _ | apply hbmPoison_kept | apply updStk_kept | apply kept_foldl | apply kept_foldl1 | refine kept_fst (by assumption) ?_ | dsimp only

theorem hostLostState_kept {s : State} (hs : Kept q s) :
    Kept q (hostLostState s) := by
  unfold hostLostState
  try dsimp only
  with_reducible repeat' first | assumption | intro _ _ _ | intro _ _ | intro _ | apply filtersLost_kept | apply answerLost_kept | apply ringsOff_kept | apply haltNow_kept | apply updAgent_kept | apply haltPipe_kept | apply emitPlain_kept | apply kept_foldl | apply kept_foldl1 | split | refine kept_fst (by assumption) ?_ | dsimp only | refine kept_mk ?_

theorem execFlitReceived_kept {link : Nat} {flit : List Byte} {s : State} (hs : Kept q s) :
    KeptX q (execFlitReceived link flit s) := by
  unfold execFlitReceived
  try dsimp only
  with_reducible repeat' first | assumption | apply flitReceivedState_kept | apply guardUnit_kept | apply kept_next | exact kept_refused

theorem execRdShared_kept {toDevice : Bool} {sub : Nat} {tag : Nat} {line : Nat} {s : State} (hs : Kept q s) :
    KeptX q (execRdShared toDevice sub tag line s) := by
  unfold execRdShared
  try dsimp only
  with_reducible repeat' first | assumption | apply rdSharedState_kept | apply guardUnit_kept | apply kept_next | exact kept_refused

theorem execRdOwn_kept {sub : Nat} {tag : Nat} {line : Nat} {s : State} (hs : Kept q s) :
    KeptX q (execRdOwn sub tag line s) := by
  unfold execRdOwn
  try dsimp only
  with_reducible repeat' first | assumption | apply rdOwnState_kept | apply guardUnit_kept | apply kept_next | exact kept_refused

theorem execRdNc_kept {toDevice : Bool} {sub : Nat} {tag : Nat} {line : Nat} {s : State} (hs : Kept q s) :
    KeptX q (execRdNc toDevice sub tag line s) := by
  unfold execRdNc
  try dsimp only
  with_reducible repeat' first | assumption | apply rdNcState_kept | apply guardUnit_kept | apply kept_next | exact kept_refused

theorem execWrNc_kept {toDevice : Bool} {sub : Nat} {tag : Nat} {line : Nat} {mask : Nat} {bytes : List Byte} {poison : Bool} {s : State} (hs : Kept q s) :
    KeptX q (execWrNc toDevice sub tag line mask bytes poison s) := by
  unfold execWrNc
  try dsimp only
  with_reducible repeat' first | assumption | apply wrNcState_kept | apply guardUnit_kept | apply kept_next | exact kept_refused

theorem execWrBack_kept {sub : Nat} {tag : Nat} {line : Nat} {bytes : List Byte} {poison : Bool} {s : State} (hs : Kept q s) :
    KeptX q (execWrBack sub tag line bytes poison s) := by
  unfold execWrBack
  try dsimp only
  with_reducible repeat' first | assumption | apply wrBackState_kept | apply guardUnit_kept | apply kept_next | exact kept_refused

theorem execEvict_kept {sub : Nat} {tag : Nat} {line : Nat} {s : State} (hs : Kept q s) :
    KeptX q (execEvict sub tag line s) := by
  unfold execEvict
  try dsimp only
  with_reducible repeat' first | assumption | apply evictState_kept | apply guardUnit_kept | apply kept_next | exact kept_refused

theorem execMmioRd32_kept {sub : Nat} {tag : Nat} {addr : Nat} {s : State} (hs : Kept q s) :
    KeptX q (execMmioRd32 sub tag addr s) := by
  unfold execMmioRd32
  try dsimp only
  with_reducible repeat' first | assumption | apply mmioRd32State_kept | apply guardUnit_kept | apply kept_next | exact kept_refused

theorem execMmioRd64_kept {sub : Nat} {tag : Nat} {addr : Nat} {s : State} (hs : Kept q s) :
    KeptX q (execMmioRd64 sub tag addr s) := by
  unfold execMmioRd64
  try dsimp only
  with_reducible repeat' first | assumption | apply mmioRd64State_kept | apply guardUnit_kept | apply kept_next | exact kept_refused

theorem execMmioWr32_kept {sub : Nat} {tag : Nat} {addr : Nat} {value : Nat} {s : State} (hs : Kept q s) :
    KeptX q (execMmioWr32 sub tag addr value s) := by
  unfold execMmioWr32
  try dsimp only
  with_reducible repeat' first | assumption | apply mmioWr32State_kept | apply guardUnit_kept | apply kept_next | exact kept_refused

theorem execMmioWr64_kept {sub : Nat} {tag : Nat} {addr : Nat} {value : Nat} {s : State} (hs : Kept q s) :
    KeptX q (execMmioWr64 sub tag addr value s) := by
  unfold execMmioWr64
  try dsimp only
  with_reducible repeat' first | assumption | apply mmioWr64State_kept | apply guardUnit_kept | apply kept_next | exact kept_refused

theorem execCfgRd_kept {sub : Nat} {tag : Nat} {reg : Nat} {s : State} (hs : Kept q s) :
    KeptX q (execCfgRd sub tag reg s) := by
  unfold execCfgRd
  try dsimp only
  with_reducible repeat' first | assumption | apply cfgRdState_kept | apply guardUnit_kept | apply kept_next | exact kept_refused

theorem execCfgWr_kept {sub : Nat} {tag : Nat} {reg : Nat} {value : Nat} {s : State} (hs : Kept q s) :
    KeptX q (execCfgWr sub tag reg value s) := by
  unfold execCfgWr
  try dsimp only
  with_reducible repeat' first | assumption | apply cfgWrState_kept | apply guardUnit_kept | apply kept_next | exact kept_refused

theorem execSnpShare_kept {toDevice : Bool} {sub : Nat} {tag : Nat} {line : Nat} {s : State} (hs : Kept q s) :
    KeptX q (execSnpShare toDevice sub tag line s) := by
  unfold execSnpShare
  try dsimp only
  with_reducible repeat' first | assumption | apply snpShareState_kept | apply guardUnit_kept | apply kept_next | exact kept_refused

theorem execSnpInv_kept {toDevice : Bool} {sub : Nat} {tag : Nat} {line : Nat} {s : State} (hs : Kept q s) :
    KeptX q (execSnpInv toDevice sub tag line s) := by
  unfold execSnpInv
  try dsimp only
  with_reducible repeat' first | assumption | apply snpInvState_kept | apply guardUnit_kept | apply kept_next | exact kept_refused

theorem execGo_kept {toDevice : Bool} {sub : Nat} {tag : Nat} {state : Nat} {status : Nat} {s : State} (hs : Kept q s) :
    KeptX q (execGo toDevice sub tag state status s) := by
  unfold execGo
  try dsimp only
  with_reducible repeat' first | assumption | apply goState_kept | apply guardUnit_kept | apply kept_next | exact kept_refused

theorem execComp_kept {toDevice : Bool} {sub : Nat} {tag : Nat} {status : Nat} {s : State} (hs : Kept q s) :
    KeptX q (execComp toDevice sub tag status s) := by
  unfold execComp
  try dsimp only
  with_reducible repeat' first | assumption | apply compState_kept | apply guardUnit_kept | apply kept_next | exact kept_refused

theorem execSnpRsp_kept {sub : Nat} {tag : Nat} {state : Nat} {dirty : Option (List Byte × Bool)} {s : State} (hs : Kept q s) :
    KeptX q (execSnpRsp sub tag state dirty s) := by
  unfold execSnpRsp
  try dsimp only
  with_reducible repeat' first | assumption | apply snpRspState_kept | apply guardUnit_kept | apply kept_next | exact kept_refused

theorem execData_kept {toDevice : Bool} {sub : Nat} {tags : List Nat} {lines : List (List Byte)} {poison : Nat} {s : State} (hs : Kept q s) :
    KeptX q (execData toDevice sub tags lines poison s) := by
  unfold execData
  try dsimp only
  with_reducible repeat' first | assumption | apply dataState_kept | apply guardUnit_kept | apply kept_next | exact kept_refused

theorem execEnumDone_kept {ms : Nat} {s : State} (hs : Kept q s) :
    KeptX q (execEnumDone ms s) := by
  unfold execEnumDone
  try dsimp only
  with_reducible repeat' first | assumption | apply enumDoneState_kept | apply kept_next | exact kept_refused

theorem execLinkReset_kept {s : State} (hs : Kept q s) :
    KeptX q (execLinkReset s) := by
  unfold execLinkReset
  try dsimp only
  with_reducible repeat' first | assumption | apply linkResetState_kept | apply kept_next | exact kept_refused

theorem execLinkDown_kept {sub : Nat} {s : State} (hs : Kept q s) :
    KeptX q (execLinkDown sub s) := by
  unfold execLinkDown
  try dsimp only
  with_reducible repeat' first | assumption | apply linkDownState_kept | apply guardUnit_kept | apply kept_next | exact kept_refused

theorem execHostLost_kept {s : State} (hs : Kept q s) :
    KeptX q (execHostLost s) := by
  unfold execHostLost
  try dsimp only
  with_reducible repeat' first | assumption | apply hostLostState_kept | apply kept_next | exact kept_refused

end Sys2Proof.Machine
end

