-- ==== Sys2Proof/Laws/Memory.lean ====
section
/-! SUPPORT. Memory and the dale stores: what a byte reads as after each operation, and reads and writes of clean words. -/
namespace Sys2Proof.Machine


/-- A byte after bytes were written. -/
theorem memGet_memPut (s : State) (bs : List Byte) (a b : Nat) :
    memGet (memPut s a bs) b = if a ≤ b ∧ b < a + bs.length then bs.getD (b - a) 0#8 else memGet s b := by
  induction bs generalizing s a with
  | nil => simp [memPut] <;> omega
  | cons x bs ih =>
    simp only [memPut, ih, List.length_cons]
    by_cases h1 : a + 1 ≤ b ∧ b < a + 1 + bs.length
    · rw [if_pos h1, if_pos (by omega)]
      obtain ⟨k, rfl⟩ : ∃ k, b = a + 1 + k := ⟨b - (a + 1), by omega⟩
      have : a + 1 + k - a = k + 1 := by omega
      rw [this]; simp
    · rw [if_neg h1]
      show tget memDefault (tset memDefault s.mem a x) b = _
      rw [tget_tset]
      by_cases h2 : b = a
      · subst h2; simp
      · rw [if_neg h2, if_neg (by omega)]; rfl

/-- Writing bytes changes memory alone. -/
theorem memPut_eq (s : State) (bs : List Byte) (a : Nat) : memPut s a bs = { s with mem := (memPut s a bs).mem } := by
  induction bs generalizing s a with
  | nil => rfl
  | cons x bs ih => simp only [memPut]; rw [ih]

/-- Writing bytes leaves the dictionary. -/
theorem odRaw_memPut (s : State) (bs : List Byte) (a k : Nat) : odRaw (memPut s a bs) k = odRaw s k := by
  rw [memPut_eq]; rfl

/-- Marking a word leaves the dictionary. -/
@[simp] theorem odRaw_setSyn (s : State) (a v k : Nat) : odRaw (setSyn s a v) k = odRaw s k := rfl

/-- Writing bytes leaves the dales. -/
theorem dale_memPut (s : State) (bs : List Byte) (a d : Nat) : dale (memPut s a bs) d = dale s d := by
  induction bs generalizing s a with
  | nil => rfl
  | cons x bs ih => simp only [memPut, ih]; rfl

/-- An aligned word touches itself alone. -/
theorem wordsOf_word (a : Nat) (h : a % 8 = 0) : wordsOf a 8 = [a] := by
  unfold wordsOf
  have e : (a + 8 - 1) / 8 - a / 8 + 1 = 1 := by omega
  rw [e]
  simp; omega

/-- A word whose check bits are right reads as it is. -/
theorem storeWord_clean (s : State) (d a r pc : Nat) (h : synOf s a = 0) : storeWord s d a r pc = (s, false) := by
  unfold storeWord
  rw [h]; rfl

/-- Words whose check bits are right read as they are. -/
theorem storeReadWords_clean (s : State) (d off n r pc : Nat) (h : ∀ w ∈ wordsOf (daleBase d + off) n, synOf s w = 0) :
    storeReadWords s d off n r pc = (s, false) := by
  unfold storeReadWords
  generalize wordsOf (daleBase d + off) n = l at h ⊢
  induction l with
  | nil => rfl
  | cons w l ih =>
    rw [List.foldl_cons]
    have e : storeReadStep d r pc (s, false) w = (s, false) := by
      unfold storeReadStep
      rw [storeWord_clean _ _ _ _ _ (h w (by simp))]; rfl
    rw [e]
    exact ih fun v hv => h v (by simp [hv])

/-- A read of words whose check bits are right changes nothing and answers the bytes. -/
theorem storeRead_clean (s : State) (d off n r pc : Nat) (h : ∀ w ∈ wordsOf (daleBase d + off) n, synOf s w = 0) :
    storeRead s d off n r pc = (s, memBytes s (daleBase d + off) n, false) := by
  unfold storeRead storeAfter
  rw [storeReadWords_clean _ _ _ _ _ _ h]

/-- Marking words leaves the bytes. -/
theorem memGet_foldl_setSyn (l : List Nat) (s : State) (g : Nat → Nat) (b : Nat) :
    memGet (l.foldl (fun t w => setSyn t w (g w)) s) b = memGet s b := by
  induction l generalizing s with
  | nil => rfl
  | cons w l ih => rw [List.foldl_cons, ih]; rfl

/-- Marking words leaves the dales. -/
theorem dale_foldl_setSyn (l : List Nat) (s : State) (g : Nat → Nat) (d : Nat) :
    dale (l.foldl (fun t w => setSyn t w (g w)) s) d = dale s d := by
  induction l generalizing s with
  | nil => rfl
  | cons w l ih => rw [List.foldl_cons, ih]; rfl

/-- A number takes as many bytes as asked. -/
theorem length_leBytes (n v : Nat) : (leBytes n v).length = n := by
  induction n generalizing v with
  | zero => rfl
  | succ n ih => simp [leBytes, ih]

/-- A byte of a number. -/
theorem getD_leBytes (n v k : Nat) (h : k < n) : (leBytes n v).getD k 0#8 = BitVec.ofNat 8 (v / 2 ^ (8 * k)) := by
  induction n generalizing v k with
  | zero => omega
  | succ n ih =>
    cases k with
    | zero => simp [leBytes]
    | succ k =>
      simp only [leBytes, List.getD_cons_succ]
      rw [ih _ _ (by omega), Nat.div_div_eq_div_mul]
      have : 256 * 2 ^ (8 * k) = 2 ^ (8 * (k + 1)) := by
        rw [show 8 * (k + 1) = 8 * k + 8 by omega, Nat.pow_add]; omega
      rw [this]


end Sys2Proof.Machine
end

