-- ==== Sys2Proof/Laws/Sync.lean ====
section
/-! SUPPORT. What the synchronisation operations do: completing a blocked dale, adding to a semaphore, and starting an
instruction of a queue. -/
namespace Sys2Proof.Machine

/-- A dale whose blocking instruction completes. -/
def unblocked (x : Dale) (e : QEnt) (deg : Bool) : Dale :=
  { (if wop e.word = 3 then pput x (decI e.word).d (BitVec.ofNat 256 (if deg then 2 ^ 256 - 1 else 0)) else x) with
    blocked := none, degraded := if deg then x.degraded ++ [x.waits] else x.degraded, waits := x.waits + 1 }

/-- A dale without a partner completes its blocking instruction alone (R173). -/
theorem completeWait_alone (s : State) (d : Nat) (deg : Bool) (e : QEnt) (hb : (dale s d).blocked = some e)
    (hp : (dale s d).partner = none) : completeWait s d deg = setDale s d (unblocked (dale s d) e deg) := by
  have h2 : finishWait s d deg = setDale s d (unblocked (dale s d) e deg) := by
    simp only [finishWait, updDale, hb]; rfl
  unfold completeWait
  simp only [hp, h2]

/-- A dale that does not wait for a line or a semaphore stays as it is. -/
theorem retryBlocked_none (s : State) (d : Nat) (h : ∀ e, (dale s d).blocked = some e → wop e.word ≠ 2 ∧ wop e.word ≠ 4)
    (hp : (dale s d).isPartner = false) : retryBlocked s d = s := by
  unfold retryBlocked
  cases hb : (dale s d).blocked with
  | none => simp only [hb]
  | some e =>
    simp only [hb, hp, Bool.false_eq_true, if_false]
    rw [if_neg (h e hb).1, if_neg (h e hb).2]

/-- A SEMWAIT whose semaphore holds its n completes (R44). -/
theorem retryBlocked_sem (s : State) (d : Nat) (e : QEnt) (hb : (dale s d).blocked = some e) (ho : wop e.word = 4)
    (hi : (dale s d).isPartner = false) (hp : (dale s d).partner = none) (h : semN (decI e.word) ≤ semOf (dale s d) (semNo (decI e.word))) :
    let y := setSem (dale s d) (semNo (decI e.word)) (semOf (dale s d) (semNo (decI e.word)) - semN (decI e.word))
    retryBlocked s d = setDale (setDale s d y) d (unblocked y e false) := by
  intro y
  unfold retryBlocked
  simp only [hb, hi, ho, Bool.false_eq_true, if_false]
  rw [if_neg (by omega), if_pos trivial, if_pos h, completeWait_alone _ _ _ e (by rw [dale_setDale_same]; exact hb) (by rw [dale_setDale_same]; exact hp)]
  rw [dale_setDale_same]

/-- A SEMWAIT whose semaphore does not hold its n waits. -/
theorem retryBlocked_semLow (s : State) (d : Nat) (e : QEnt) (hb : (dale s d).blocked = some e) (ho : wop e.word = 4)
    (hi : (dale s d).isPartner = false) (h : semOf (dale s d) (semNo (decI e.word)) < semN (decI e.word)) : retryBlocked s d = s := by
  unfold retryBlocked
  simp only [hb, hi, ho, Bool.false_eq_true, if_false]
  rw [if_neg (by omega), if_pos trivial, if_neg (by omega)]

/-- A WAIT whose line has a signal completes (R38). -/
theorem retryBlocked_line (s : State) (d : Nat) (e : QEnt) (hb : (dale s d).blocked = some e) (ho : wop e.word = 2)
    (hi : (dale s d).isPartner = false) (hp : (dale s d).partner = none)
    (h : 0 < inboundOf (dale s d) (lineKey (lineDir (decI e.word)) (lineNo (decI e.word)))) :
    let y := setInbound (dale s d) (lineKey (lineDir (decI e.word)) (lineNo (decI e.word)))
      (inboundOf (dale s d) (lineKey (lineDir (decI e.word)) (lineNo (decI e.word))) - 1)
    retryBlocked s d = setDale (setDale s d y) d (unblocked y e false) := by
  intro y
  unfold retryBlocked
  simp only [hb, hi, ho, Bool.false_eq_true, if_false]
  rw [if_pos trivial, if_pos h, completeWait_alone _ _ _ e (by rw [dale_setDale_same]; exact hb) (by rw [dale_setDale_same]; exact hp)]
  rw [dale_setDale_same]

/-- A WAIT whose line has no signal waits. -/
theorem retryBlocked_lineLow (s : State) (d : Nat) (e : QEnt) (hb : (dale s d).blocked = some e) (ho : wop e.word = 2)
    (hi : (dale s d).isPartner = false) (h : inboundOf (dale s d) (lineKey (lineDir (decI e.word)) (lineNo (decI e.word))) = 0) :
    retryBlocked s d = s := by
  unfold retryBlocked
  simp only [hb, hi, ho, Bool.false_eq_true, if_false]
  rw [if_pos trivial, if_neg (by omega)]

/-- An increment that does not saturate adds, and lets what waits go on (R44). -/
theorem semAdd_plain (s : State) (d k a i : Nat) (ha : a ≠ 0) (hs : semOf (dale s d) k + a ≤ 0xFFFFFFFF) :
    semAdd s d k a i = retryBlocked (updDale s d fun x => setSem x k (semOf (dale s d) k + a)) d := by
  unfold semAdd
  rw [if_neg ha]
  simp only [Nat.min_eq_left hs]
  rw [if_neg (by omega)]

/-- A semaphore reads what was put into it. -/
theorem semOf_setSem (x : Dale) (k v : Nat) : semOf (setSem x k v) k = v := tget_tset_same _ _ _ _

/-- A line's count reads what was put into it. -/
theorem inboundOf_setInbound (x : Dale) (k v : Nat) : inboundOf (setInbound x k v) k = v := tget_tset_same _ _ _ _

/-- A ready blocking instruction that nothing refuses enters the synchronisation unit (R173). -/
theorem blockRun_ready (s : State) (d o : Nat) (f : IInst) (check) (enter) (h : Ready s d (encI 7 o f)) (hc : check s (dale s d).pc = none) :
    blockRun s d o f check enter = enter (updDale (issued s d) d fun y => { y with blocked := some ⟨(dale s d).pc, encI 7 o f, (dale s d).issueNo, [], false⟩ }) := by
  simp only [blockRun, h.1, h.2, hc, Bool.not_false, Bool.and_true, if_true]

/-- A ready blocking instruction that its check refuses traps. -/
theorem blockRun_check (s t : State) (d o : Nat) (f : IInst) (check) (enter) (h : Ready s d (encI 7 o f)) (hc : check s (dale s d).pc = some t) :
    blockRun s d o f check enter = t := by
  simp only [blockRun, h.1, h.2, hc, Bool.not_false, Bool.and_true, if_true]

/-- The state in which a blocking instruction has entered. -/
theorem blocked_entered (s : State) (d o : Nat) (f : IInst) :
    dale (updDale (issued s d) d fun y => { y with blocked := some ⟨(dale s d).pc, encI 7 o f, (dale s d).issueNo, [], false⟩ }) d = blockedOn s d o f := by
  rw [dale_updDale_same, dale_issued]; rfl

/-- What a start leaves of the dale but its queue and its place (R170). -/
theorem starts_dale {s u : State} {d cls op no pc : Nat} {w : W64} {same} (h : Starts s d cls op w same no pc u) :
    dale u d = { dale s d with queues := (dale u d).queues, pc := (dale u d).pc, issueNo := (dale u d).issueNo,
                               stepCount := (dale u d).stepCount } := by
  cases h with
  | now => rw [dale_issued]
  | head => rw [dale_updDale_same]; rfl

/-- A start leaves the other dales. -/
theorem starts_other {s u : State} {d cls op no pc : Nat} {w : W64} {same} (h : Starts s d cls op w same no pc u) (e : Nat) (he : e ≠ d) :
    dale u e = dale s e := by
  cases h with
  | now => exact dale_issued_other s d e he
  | head => exact dale_updDale_other _ _ _ _ he

/-- A start changes its dale and the dictionary alone. -/
theorem starts_rest {s u : State} {d cls op no pc : Nat} {w : W64} {same} (h : Starts s d cls op w same no pc u) :
    u = { s with dales := u.dales, od := u.od } := by
  cases h with
  | now => rfl
  | head => rfl

/-- An instruction of a unit that starts, and that nothing refuses, runs its body where it is taken up (R170, R172). -/
theorem unitRun_starts {s u : State} {d cls op no pc : Nat} {w : W64} {p : W64 → Prop} (h : Starts s d cls op w p no pc u)
    (same : W64 → Bool) (hs : ∀ v, p v → same v = true) (check) (body) (hc : check s (dale s d).pc = none) :
    unitRun s d cls op w same check body = (body pc u).getD s := by
  cases h with
  | now he hr => simp only [unitRun, he, hr.1, hr.2, hc, Bool.not_false, Bool.and_true, if_true]
  | head e rest hq h1 h2 h3 =>
    have : headIs (e :: rest) cls op same = some (e, rest) := by
      simp only [headIs, h1, h2, hs _ h3, beq_self_eq_true, Bool.and_true, if_true]
    simp only [unitRun, hq, this]

/-- The same for format R. -/
theorem runR_starts {s u : State} {d cls op pc : Nat} {f : RInst} (h : StartsR s d cls op f pc u) (check) (body)
    (hc : check s (dale s d).pc = none) : runR s d cls op f check body = (body pc u).getD s := by
  obtain ⟨no, h⟩ := h
  exact unitRun_starts h _ (fun v hv => by simp [hv]) check body hc

/-- The same for the synchronisation queue, whose instruction with ORD set waits for the stream instructions before it. -/
theorem syRun_starts {s u : State} {d op no pc : Nat} {f : IInst} (h : Starts s d 7 op (encI 7 op f) (fun w => decI w = f) no pc u)
    (ho : f.ord = true → streamsDone (dale s d) no = true) (check) (body) (hc : check s (dale s d).pc = none) :
    syRun s d op f check body = (body no pc u).getD s := by
  have hr : (!f.ord || streamsDone (dale s d) no) = true := by
    cases h : f.ord with
    | false => rfl
    | true => rw [ho h]; rfl
  cases h with
  | now he hr' => simp only [syRun, he, hr'.1, hr'.2, hc, hr, Bool.not_false, Bool.and_true, if_true]
  | head e rest hq h1 h2 h3 =>
    simp only [syRun, hq]
    rw [if_pos ⟨h1, h2, h3, hr⟩]

/-- An instruction of the synchronisation queue that its check refuses traps. -/
theorem syRun_check {s t : State} {d op : Nat} {f : IInst} (he : queueOf (dale s d) 7 = []) (h : Ready s d (encI 7 op f)) (check) (body)
    (hc : check s (dale s d).pc = some t) : syRun s d op f check body = t := by
  simp only [syRun, he, h.1, h.2, hc, Bool.not_false, Bool.and_true, if_true]

/-- A ready instruction of a unit with an empty queue that its check refuses traps. -/
theorem unitRun_check {s t : State} {d cls op : Nat} {w : W64} (he : queueOf (dale s d) cls = []) (h : Ready s d w) (same) (check) (body)
    (hc : check s (dale s d).pc = some t) : unitRun s d cls op w same check body = t := by
  simp only [unitRun, he, h.1, h.2, hc, Bool.not_false, Bool.and_true, if_true]

end Sys2Proof.Machine
end

