-- ==== Sys2Proof/Laws/Vector.lean ====
section
/-! SUPPORT. Vector registers as elements of a view (R103), and what an element-wise instruction leaves (R104). -/
namespace Sys2Proof.Machine

/-- The number that elements of `w` bits spell, the first lowest. -/
def spell (w : Nat) (es : List Nat) : Nat := es.foldr (fun e acc => e % 2 ^ w + 2 ^ w * acc) 0

/-- Elements fit their bits. -/
theorem spell_lt (w : Nat) (es : List Nat) : spell w es < 2 ^ (w * es.length) := by
  induction es with
  | nil => simp [spell]
  | cons e es ih =>
    show e % 2 ^ w + 2 ^ w * spell w es < _
    have h1 : e % 2 ^ w < 2 ^ w := Nat.mod_lt _ (Nat.two_pow_pos w)
    rw [List.length_cons, Nat.mul_add, Nat.mul_one, Nat.pow_add]
    calc e % 2 ^ w + 2 ^ w * spell w es < 2 ^ w + 2 ^ w * spell w es := by omega
      _ = 2 ^ w * (spell w es + 1) := by rw [Nat.mul_add]; omega
      _ ≤ 2 ^ w * 2 ^ (w * es.length) := Nat.mul_le_mul_left _ ih
      _ = 2 ^ (w * es.length) * 2 ^ w := Nat.mul_comm _ _

/-- An element of the number. -/
theorem spell_elem (w : Nat) (es : List Nat) (i : Nat) (h : i < es.length) : spell w es / 2 ^ (w * i) % 2 ^ w = es.getD i 0 % 2 ^ w := by
  induction es generalizing i with
  | nil => simp at h
  | cons e es ih =>
    show (e % 2 ^ w + 2 ^ w * spell w es) / 2 ^ (w * i) % 2 ^ w = _
    have h1 : e % 2 ^ w < 2 ^ w := Nat.mod_lt _ (Nat.two_pow_pos w)
    cases i with
    | zero => simp [Nat.add_mul_mod_self_left]
    | succ i =>
      rw [Nat.mul_add, Nat.mul_one, Nat.add_comm (w * i) w, Nat.pow_add, ← Nat.div_div_eq_div_mul, Nat.add_mul_div_left _ _ (Nat.two_pow_pos w),
        Nat.div_eq_of_lt h1, Nat.zero_add]
      simpa using ih i (by simpa using h)

/-- A view's elements fill a register. -/
theorem view_bits (view : Nat) : viewWidth view * viewCount view = 2048 := by
  unfold viewWidth viewCount
  split <;> rfl

/-- An element of a register packed from elements (R103). -/
theorem velem_vpack (view : Nat) (es : List Nat) (h : es.length = viewCount view) (i : Nat) (hi : i < viewCount view) :
    velem view (vpack view es) i = es.getD i 0 % 2 ^ viewWidth view := by
  unfold velem vpack
  have hl := spell_lt (viewWidth view) es
  rw [h, view_bits] at hl
  rw [BitVec.toNat_ofNat]
  show spell (viewWidth view) es % 2 ^ 2048 / _ % _ = _
  rw [Nat.mod_eq_of_lt hl]
  exact spell_elem _ _ _ (by omega)

/-- An element fits its width. -/
theorem velem_lt (view : Nat) (v : VReg) (i : Nat) : velem view v i < 2 ^ viewWidth view := Nat.mod_lt _ (Nat.two_pow_pos _)

theorem length_velems (view : Nat) (v : VReg) : (velems view v).length = viewCount view := by simp [velems]

theorem getD_velems (view : Nat) (v : VReg) (i : Nat) (h : i < viewCount view) : (velems view v).getD i 0 = velem view v i := by
  simp [velems, List.getD, h]

theorem length_mergeElems (pr : PReg) (z : Bool) (old new : List Nat) : (mergeElems pr z old new).length = old.length := by simp [mergeElems]

/-- The element-wise rule of R104. -/
theorem getD_mergeElems (pr : PReg) (z : Bool) (old new : List Nat) (i : Nat) (h : i < old.length) :
    (mergeElems pr z old new).getD i 0 = if pr.getLsbD i then new.getD i 0 else if z then 0 else old.getD i 0 := by
  simp [mergeElems, List.getD, h]

/-- Counting saturations changes three fields of the dale and one counter of the dictionary (R72, R76). -/
theorem countSat_dale (s : State) (d n unit fmt : Nat) :
    dale (countSat s d n unit fmt) d = { dale s d with satCount := if n = 0 ∨ (dale s d).isolated = true then (dale s d).satCount else holdAdd (dale s d).satCount n,
                                                        satLast := if n = 0 ∨ (dale s d).isolated = true then (dale s d).satLast else unit * 2 ^ 28 + fmt * 2 ^ 24 } := by
  unfold countSat
  split
  · rfl
  · rw [dale_odBump, dale_updDale_same]

theorem countSat_other (s : State) (d n unit fmt e : Nat) (he : e ≠ d) : dale (countSat s d n unit fmt) e = dale s e := by
  unfold countSat
  split
  · rfl
  · rw [dale_odBump, dale_updDale_other _ _ _ _ he]

theorem countSat_rest (s : State) (d n unit fmt : Nat) :
    countSat s d n unit fmt = { s with dales := (countSat s d n unit fmt).dales, od := (countSat s d n unit fmt).od } := by
  unfold countSat
  split <;> rfl

theorem countSat_od (s : State) (d n unit fmt k : Nat) (hk : k ≠ 0x410001) : odRaw (countSat s d n unit fmt) k = odRaw s k := by
  unfold countSat
  split
  · rfl
  · rw [odRaw_odBump_other _ _ _ _ _ hk]; rfl

/-- No byte that is read fails parity when no byte of the structure does. -/
theorem parityBad_none (x : Dale) (reads : List (Structure × Nat)) (n : Nat) (h : ∀ b ∈ x.badBytes, b.1 ≠ n) (hr : ∀ r ∈ reads, r.1 = n) :
    parityBad x reads = none := by
  unfold parityBad
  rw [List.find?_eq_none]
  intro b hb
  simp only [List.any_eq_true, Bool.and_eq_true, beq_iff_eq, not_exists, not_and]
  intro r hr1 h1
  exact absurd (h1.symm.trans (hr r hr1)) (h b hb)

/-! ### What an element-wise instruction leaves -/

theorem filter_hits (n : Nat) (b : Nat → Bool) (fn : Nat → Lane) (g : Lane → Bool) :
    (((((List.range n).map fun i => if b i then some (fn i) else none)).filterMap id).filter g).length =
      ((List.range n).filter fun i => b i && g (fn i)).length := by
  generalize List.range n = l
  induction l with
  | nil => rfl
  | cons i l ih =>
    simp only [List.map_cons, List.filterMap_cons, List.filter_cons]
    cases h : b i with
    | false => simp; simpa using ih
    | true =>
      cases h2 : g (fn i) with
      | false => simp [h2]; simpa using ih
      | true => simp [h2]; simpa using ih

theorem apply_out (u : State) (d : Nat) (f : RInst) (code : Nat) (fn : Dale → Nat → Lane) (value : Nat → Nat) (sat : Nat → Bool)
    (hv : ∀ i, i < viewCount f.view → (fn (dale u d) i).bits % 2 ^ viewWidth f.view = value i)
    (hs : ∀ i, i < viewCount f.view → (fn (dale u d) i).sat = sat i) (hn : ∀ i, (fn (dale u d) i).nan = false)
    (hm : (dale u d).satCount ≤ 0xFFFFFFFF) : LaneOut u (applyLanes u d f f.view code fn) d f value sat := by
  have hlen : ∀ g : Lane → Bool, (((((List.range (viewCount f.view)).map fun i => if (pget (dale u d) f.pg).getLsbD i then some (fn (dale u d) i) else none)).filterMap id).filter g).length
      = ((List.range (viewCount f.view)).filter fun i => (pget (dale u d) f.pg).getLsbD i && g (fn (dale u d) i)).length :=
    fun g => filter_hits _ _ _ _
  have e1 : applyLanes u d f f.view code fn = countSat (updDale u d fun y => vput y f.d (vpack f.view (mergeElems (pget (dale u d) f.pg) f.zero (velems f.view (vget (dale u d) f.d))
      (((List.range (viewCount f.view)).map fun i => if (pget (dale u d) f.pg).getLsbD i then some (fn (dale u d) i) else none).map fun e => match e with | some l => l.bits | none => 0)))) d
      ((List.range (viewCount f.view)).filter fun i => (pget (dale u d) f.pg).getLsbD i && sat i).length 1 code := by
    unfold applyLanes
    simp only [hlen]
    have hnan : ((List.range (viewCount f.view)).filter fun i => (pget (dale u d) f.pg).getLsbD i && (fn (dale u d) i).nan).length = 0 := by
      simp [hn]
    have hsat : ((List.range (viewCount f.view)).filter fun i => (pget (dale u d) f.pg).getLsbD i && (fn (dale u d) i).sat).length =
        ((List.range (viewCount f.view)).filter fun i => (pget (dale u d) f.pg).getLsbD i && sat i).length := by
      congr 1
      apply List.filter_congr
      intro i hi
      rw [hs i (by simpa using hi)]
    rw [hnan, hsat]
    unfold countNan
    exact if_pos (Or.inl rfl)
  rw [e1]
  generalize hes : mergeElems (pget (dale u d) f.pg) f.zero (velems f.view (vget (dale u d) f.d)) _ = es
  have hel : es.length = viewCount f.view := by rw [← hes, length_mergeElems, length_velems]
  generalize hN : ((List.range (viewCount f.view)).filter fun i => (pget (dale u d) f.pg).getLsbD i && sat i).length = N
  have hd : dale (countSat (updDale u d fun y => vput y f.d (vpack f.view es)) d N 1 code) d =
      { vput (dale u d) f.d (vpack f.view es) with satCount := if N = 0 ∨ (dale u d).isolated = true then (dale u d).satCount else holdAdd (dale u d).satCount N, satLast := if N = 0 ∨ (dale u d).isolated = true then (dale u d).satLast else 1 * 2 ^ 28 + code * 2 ^ 24 } := by
    rw [countSat_dale, dale_updDale_same]; rfl
  refine ⟨⟨?_, ?_⟩, ?_, ?_, ?_, ?_⟩
  · rw [countSat_rest]; rfl
  · intro e he
    rw [countSat_other _ _ _ _ _ _ he, dale_updDale_other _ _ _ _ he]
  · intro i hi
    rw [hd]
    have : vget { vput (dale u d) f.d (vpack f.view es) with satCount := if N = 0 ∨ (dale u d).isolated = true then (dale u d).satCount else holdAdd (dale u d).satCount N, satLast := if N = 0 ∨ (dale u d).isolated = true then (dale u d).satLast else 1 * 2 ^ 28 + code * 2 ^ 24 } f.d = vpack f.view es := by
      show vget (vput (dale u d) f.d (vpack f.view es)) f.d = _
      rw [vget_vput, if_pos rfl]
    rw [this, velem_vpack _ _ hel _ hi, ← hes, getD_mergeElems _ _ _ _ _ (by rw [length_velems]; exact hi)]
    have hrow : ((((List.range (viewCount f.view)).map fun i => if (pget (dale u d) f.pg).getLsbD i then some (fn (dale u d) i) else none).map fun e => match e with | some l => l.bits | none => 0)).getD i 0 =
        if (pget (dale u d) f.pg).getLsbD i then (fn (dale u d) i).bits else 0 := by
      simp only [List.map_map, List.getD_eq_getElem?_getD, List.getElem?_map, List.getElem?_range hi, Option.map_some, Option.getD_some, Function.comp]
      cases (pget (dale u d) f.pg).getLsbD i <;> rfl
    rw [hrow, getD_velems _ _ _ hi]
    split
    · exact hv i hi
    · split
      · simp
      · exact Nat.mod_eq_of_lt (velem_lt _ _ _)
  · intro m hm
    rw [hd]
    show vget (vput (dale u d) f.d (vpack f.view es)) m = _
    rw [vget_vput, if_neg hm]
  · rw [hd, hN]
    have : (if N = 0 ∨ (dale u d).isolated = true then (dale u d).satCount else holdAdd (dale u d).satCount N) =
        countUp (dale u d) (dale u d).satCount N := by
      unfold countUp
      cases (dale u d).isolated with
      | true => simp
      | false =>
        simp only [Bool.false_eq_true, or_false, if_false]
        split
        · rename_i h; subst h; unfold holdAdd; omega
        · rfl
    rw [this]
    unfold vput
    rfl
  · intro k hk
    rw [countSat_od _ _ _ _ _ _ hk]; rfl

theorem runLanes_out (d op : Nat) (f : RInst) (s u : State) (pc : Nat) (srcs : List Nat) (code : Nat) (fn : Dale → Nat → Lane) (value : Nat → Nat) (sat : Nat → Bool)
    (hst : StartsR s d 2 op f pc u) (hr : vecReason op f = none) (hc : VectorsClean (dale s d))
    (hv : ∀ i, i < viewCount f.view → (fn (dale u d) i).bits % 2 ^ viewWidth f.view = value i)
    (hs : ∀ i, i < viewCount f.view → (fn (dale u d) i).sat = sat i) (hn : ∀ i, (fn (dale u d) i).nan = false)
    (hm : (dale s d).satCount ≤ 0xFFFFFFFF) : LaneOut u (runLanes s d op f srcs code fn) d f value sat := by
  unfold runLanes runV
  rw [runR_starts hst _ _ (by unfold vecCheck; rw [hr]; rfl), Option.getD_some]
  obtain ⟨no, h⟩ := hst
  have hd := starts_dale h
  have hb : (dale u d).badBytes = (dale s d).badBytes := by rw [hd]
  have hm' : (dale u d).satCount = (dale s d).satCount := by rw [hd]
  unfold withParity
  show LaneOut u (match parityBad (dale u d) (laneReads (dale u d) f srcs) with | none => applyLanes u d f f.view code fn | some b => _) d f value sat
  rw [parityBad_none _ _ 0 (by rw [hb]; exact hc) (by intro r hr; unfold laneReads at hr; obtain ⟨x, _, rfl⟩ := List.mem_map.1 hr; rfl)]
  exact apply_out u d f code fn value sat hv hs hn (by rw [hm']; exact hm)

theorem reason_plain (op : Nat) (f : RInst) (hv : f.view < 3) (ho : op ∈ [0x00, 0x01, 0x02, 0x03, 0x04, 0x05, 0x06, 0x07, 0x08, 0x09, 0x0B, 0x15]) : vecReason op f = none := by
  have h3 : (f.view == 3) = false := by simp; omega
  simp only [List.mem_cons, List.not_mem_nil, or_false] at ho
  unfold vecReason
  rcases ho with rfl | rfl | rfl | rfl | rfl | rfl | rfl | rfl | rfl | rfl | rfl | rfl <;> simp [h3]

theorem sextNat_elemVal (w b : Nat) (_ : 0 < w) (h : b < 2 ^ w) : sextNat w b = elemVal w true b := by
  unfold sextNat elemVal
  simp only [Nat.mod_eq_of_lt h, true_and]
  split
  · rename_i h1; rw [if_neg (by omega)]
  · rename_i h1; rw [if_pos (by omega)]

theorem elemInt_elemVal (w : Nat) (sg : Bool) (b : Nat) (hw : 0 < w) (h : b < 2 ^ w) : elemInt w sg b = elemVal w sg b := by
  unfold elemInt
  cases sg with
  | false => simp [elemVal]
  | true => simp only [if_true]; exact sextNat_elemVal w b hw h

theorem width_pos (view : Nat) : 0 < viewWidth view := by unfold viewWidth; split <;> omega

theorem wrapNat_lt (w : Nat) (i : Int) : wrapNat w i < 2 ^ w := by
  unfold wrapNat
  have hp : (0 : Int) < 2 ^ w := Int.pow_pos (by decide)
  have h1 : (0 : Int) ≤ i % 2 ^ w := Int.emod_nonneg _ (by omega)
  have h2 : i % (2 : Int) ^ w < 2 ^ w := Int.emod_lt_of_pos _ hp
  have : ((i % 2 ^ w).toNat : Int) < ((2 ^ w : Nat) : Int) := by rw [Int.toNat_of_nonneg h1]; push_cast; exact h2
  exact_mod_cast this

theorem fit_bits (w : Nat) (_ : 0 < w) (f : RInst) (v : Int) : (fitInt w f.sign f.sat v).bits = narrow w f v ∧ (fitInt w f.sign f.sat v).sat = overflows w f v ∧ (fitInt w f.sign f.sat v).nan = false := by
  unfold fitInt narrow overflows elemMax elemMin
  have hp : (0 : Int) < 2 ^ (w - 1) := Int.pow_pos (by decide)
  have hp2 : (0 : Int) < 2 ^ w := Int.pow_pos (by decide)
  simp only
  have hle : (if f.sign = true then -(2 : Int) ^ (w - 1) else 0) ≤ (if f.sign = true then (2 : Int) ^ (w - 1) - 1 else 2 ^ w - 1) := by
    split <;> omega
  generalize (if f.sign = true then (2 : Int) ^ (w - 1) - 1 else 2 ^ w - 1) = hi at *
  generalize (if f.sign = true then -(2 : Int) ^ (w - 1) else 0) = lo at *
  cases hs : f.sat with
  | false => simp [wrapNat]
  | true =>
    by_cases h1 : hi < v
    · rw [if_pos ⟨rfl, h1⟩]
      refine ⟨?_, by simp [h1], rfl⟩
      simp only [wrapNat, if_true]
      rw [Int.min_eq_left (by omega), Int.max_eq_right hle]
    · rw [if_neg (by simp; omega)]
      by_cases h2 : v < lo
      · rw [if_pos ⟨rfl, h2⟩]
        refine ⟨?_, by simp [h2], rfl⟩
        simp only [wrapNat, if_true]
        rw [Int.min_eq_right (by omega), Int.max_eq_left (by omega)]
      · rw [if_neg (by simp; omega)]
        refine ⟨?_, by simp; omega, rfl⟩
        simp only [wrapNat, if_true]
        rw [Int.min_eq_right (by omega), Int.max_eq_right (by omega)]

theorem narrow_lt (w : Nat) (f : RInst) (v : Int) : narrow w f v < 2 ^ w := wrapNat_lt w _

theorem intLane_eq (f : RInst) (op : Int → Int → Int) (x : Dale) (i : Nat) :
    intLane f op x i = ⟨narrow (viewWidth f.view) f (op (valA x f i) (valB x f i)), overflows (viewWidth f.view) f (op (valA x f i) (valB x f i)), false⟩ := by
  unfold intLane srcElem
  simp only [elemInt_elemVal _ _ _ (width_pos _) (velem_lt _ _ _)]
  obtain ⟨h1, h2, h3⟩ := fit_bits (viewWidth f.view) (width_pos _) f (op (valA x f i) (valB x f i))
  show fitInt _ _ _ (op (valA x f i) (valB x f i)) = _
  rw [← h1, ← h2, ← h3]

end Sys2Proof.Machine
end

