-- ==== Sys2Proof/Laws/Window.lean ====
section
/-! SUPPORT. Offsets of the control windows: which col serves a register, and what its state answers. -/
namespace Sys2Proof.Machine

/-- The offset of a window address. -/
theorem winBase_sub (o : Nat) : winBase + o - 0x020000000000 = o := Nat.add_sub_cancel_left _ _

/-- An address of the windows is not an interface register of a col unless its offset is one. -/
theorem ownNi_false (o : Nat) (h : o < 0x50000 ∨ 0x59900 ≤ o) : ownNi (winBase + o) = false := by
  unfold ownNi
  have e : (0x020000050000 : Nat) = winBase + 0x50000 := rfl
  have e2 : (0x020000059900 : Nat) = winBase + 0x59900 := rfl
  rw [e, e2]
  generalize winBase = b
  simp only [Bool.and_eq_false_iff, decide_eq_false_iff_not]
  omega

/-- An access meets no refusal on its way when the col that serves it is in its running state (R276, R278). -/
theorem wayStatus_none (s : State) (o : Nat) (h : o < 0x50000 ∨ 0x59900 ≤ o) (hc : (ni s (windowCol (winBase + o))).state = 0) :
    wayStatus s (winBase + o) = none := by
  unfold wayStatus
  simp only [ownNi_false o h, hc]
  simp

/-- The semaphores of a dale are served by its col. -/
theorem windowCol_sem (d k : Nat) (h : d < 512) (hk : k < 0x80) : windowCol (winBase + (0x10000 + 0x80 * d + k)) = daleCol d := by
  unfold windowCol
  simp only [winBase_sub]
  rw [if_neg (by omega), if_pos (by omega)]
  congr 1; omega

/-- The counters of a dale are served by its col. -/
theorem windowCol_counter (d k : Nat) (h : d < 512) (hk : k < 0x10) : windowCol (winBase + (0x20000 + 0x10 * d + k)) = daleCol d := by
  unfold windowCol
  simp only [winBase_sub]
  rw [if_neg (by omega), if_neg (by omega), if_pos (by omega)]
  congr 1; omega

end Sys2Proof.Machine
end

