-- ==== Sys2Proof/Tests/Slice0.lean ====
section
/-! SUPPORT. Tests: ill-formed commands, words the spec writes out, and for each statement with hypotheses the states and
operands that meet them. -/
namespace Sys2Proof.Tests
set_option synthInstance.maxSize 1024
set_option Elab.async false
open Sys2Proof Sys2Proof.Machine

/-! ### States the tests use -/

/-- Every domain on, and every dale's interface serving. -/
def on : State := { State.reset with win := (List.range 7).map fun w => (0x0200000F0010 + 4 * w, 2 ^ 32 - 1) }

/-- `on` with dale 0 as given. -/
def dale0 (x : Dale) : State := { on with dales := [(0, x)] }

/-- A dale in a command step. -/
def live : Dale := { Dale.reset with running := true }

/-- Registers 1 and 2 of a dale, as given, and the dale in a command step at PC 8. -/
def regs (a b : W64) : Dale := { live with pc := 8, x := [(1, a), (2, b)] }

/-- Operand fields: xD = 3, xA = 1, xB = 2. -/
def rr : RInst := ⟨0, 3, 1, 2, 0, 0, false, false, false, false, false, 0, 0#18⟩
def ii (imm : BitVec 32) : IInst := ⟨0, 3, 1, 2, false, imm⟩

def mi : MInst := ⟨0, 1, 2, 1, 1, 1, false, true, 0, false, false, false, false⟩

/-- A packet of 16 bytes and a peer message without payload. -/
def pkt : Packet :=
  { plane := 1, prio := 0, age := 0, typ := 3, len := 1, hops := 0, hop := 0, run := 0, turns := 0, srcCol := 0, tag := 0, status := 0,
    epoch := 0, addr := 0, spurLen := 0, spurLeft := 0, spur := false, aux := 0, poison := false, payload := [], dir := 0, hdrBad := 0, dataBad := 0 }
def msg : PeerMsg :=
  { opcode := 1, src := 0, dst := 0, rvc := false, poison := false, hopsLeft := 4, pipeline := 0, epoch := 0, bytes := 0, tag := 0, arg := 0, payload := [] }

/-- `s` with the flits of a packet before the unit of a col. -/
def come (s : State) (c : Nat) (p : Packet) : State :=
  { s with net := { s.net with bufs := [(unitBuf c p, (List.range (flitsOf p)).map (flitAt p))] } }
/-- Whether a packet has come whole before a unit that serves. -/
def servedB (s : State) (c : Nat) (p : Packet) (typ n : Nat) : Bool :=
  decide (c < 612) && p.typ == typ && typeKnown typ && p.hdrBad == 0 && p.dataBad == 0 && (ni s c).state == 0 &&
    match upToTail (bufOf s (unitBuf c p)) with
    | some (fs, _) => packetOf fs == some p && fs.length == n && fs.all fun f => f.late == none
    | none => false
theorem served_of (s : State) (c : Nat) (p : Packet) (typ n : Nat) (h : servedB s c p typ n = true) : Served s c p typ n := by
  unfold servedB at h
  cases e : upToTail (bufOf s (unitBuf c p)) with
  | none => simp [e] at h
  | some r =>
    obtain ⟨fs, rest⟩ := r
    simp only [e, Bool.and_eq_true, decide_eq_true_eq, beq_iff_eq, List.all_eq_true] at h
    obtain ⟨⟨⟨⟨⟨⟨a, b⟩, c⟩, d⟩, e'⟩, f⟩, ⟨g, i⟩, j⟩ := h
    exact ⟨a, ⟨b, c⟩, ⟨d, e'⟩, f, fs, rest, e, g, i, j⟩

/-- The state after a command or a step, if it is a next one. -/
def got (r : Host.Outcome State Fault Refusal) : State := match r with | .next t => t | _ => State.reset
def refusedBy (r : Host.Outcome State Fault Refusal) : Option Refusal := match r with | .refused e => some e | _ => none

/-! ### Ill-formed commands -/

theorem test_wf_dale : wellFormed (.add 512 rr) = false ∧ wellFormed (.add 511 rr) = true := by decide
theorem test_wf_format_r : wellFormed (.add 0 { rr with d := 32 }) = false := by decide
theorem test_wf_format_i : wellFormed (.addi 0 { ii 0#32 with pg := 8 }) = false := by decide
theorem test_wf_access : wellFormed (.registerWrite .host 0 2 0) = false ∧ wellFormed (.registerWrite .host 0 4 (2 ^ 32)) = false := by decide
theorem test_wf_semaphore : wellFormed (.semWrite 0 32 1) = false := by decide
theorem test_wf_form : wellFormed (.rnormTab 0 { rr with imm := 1#18 }) = false ∧ wellFormed (.rnormBm 0 rr) = false := by decide
theorem test_wf_format_m :
    ∀ f ∈ [{ mi with m := 0 }, { mi with m := 4097 }, { mi with k := 129 }, { mi with n := 65 }, { mi with ta := 16 }, { mi with part := 4 }],
      wellFormed (.mmul 0 f .none) = false := by decide
theorem test_wf_packet :
    wellFormed (.packetInject 0 pkt) = true ∧ wellFormed (.packetInject 612 pkt) = false ∧
    ∀ p ∈ [{ pkt with plane := 3 }, { pkt with prio := 4 }, { pkt with typ := 32 }, { pkt with len := 17 }, { pkt with tag := 4096 },
        { pkt with srcCol := 1024 }, { pkt with addr := 2 ^ 48 }, { pkt with payload := List.replicate 17 0#8 }],
      wellFormed (.packetInject 0 p) = false := by decide
theorem test_wf_peer :
    wellFormed (.peerWrite 15 msg) = true ∧ wellFormed (.peerWrite 16 msg) = false ∧
    ∀ m ∈ [{ msg with opcode := 64 }, { msg with dst := 4096 }, { msg with hopsLeft := 16 }, { msg with bytes := 257 }, { msg with tag := 4096 }],
      wellFormed (.peerWrite 0 m) = false := by decide
theorem test_wf_ranges :
    wellFormed (.colForward 0 4 0 0) = false ∧ wellFormed (.exchangeFrame 16 4 [] true 0) = false := by decide
theorem test_wf_unit : wellFormed (.domainGate 199 0 0) = false ∧ wellFormed (.clockLocked 4) = false := by decide
theorem test_unit_refused : refusedBy (exec (.add 512 rr) State.reset) = some .noSuchUnit := by decide

/-! ### Words of the spec (R176, R185, R187) -/

theorem test_word_mmul : wclass 0x1010120FF7FFA100#64 = 1 ∧ wop 0x1010120FF7FFA100#64 = 1 ∧
    decM 0x1010120FF7FFA100#64 = ⟨0, 1, 2, 256, 64, 64, false, true, 0, false, false, true, false⟩ := by decide
theorem test_word_signal : wclass 0x7010000200000001#64 = 7 ∧ wop 0x7010000200000001#64 = 1 ∧
    decI 0x7010000200000001#64 = ⟨0, 0, 0, 0, true, 1#32⟩ := by decide
theorem test_word_add : encR 0 0x08 ⟨0, 3, 1, 2, 0, 0, false, false, false, false, false, 0, 0#18⟩ = 0x0080308800000000#64 := by decide

/-! ### One step of a command -/

theorem test_add_wraps : (dale (got (exec (.add 0 rr) (dale0 (regs 0xFFFFFFFFFFFFFFFF#64 2#64)))) 0).x = [(1, 0xFFFFFFFFFFFFFFFF#64), (2, 2#64), (3, 1#64)] := by decide
theorem test_step_takes_front : (got (step { dale0 (regs 1#64 2#64) with pending := [.add 0 rr, .sub 0 rr] })).pending = [.sub 0 rr] := by decide
/-- A command in front, and an empty queue. -/
theorem witness_StepRunsFront :
    { dale0 (regs 1#64 2#64) with pending := [.add 0 rr, .sub 0 rr] }.pending = .add 0 rr :: [.sub 0 rr] ∧ State.reset.pending = [] := by decide

/-! ### The sequencer -/

theorem witness_ScalarArithmetic :
    (∀ e ∈ scalarRR, Ready (dale0 (regs 1#64 2#64)) 0 (encR 0 e.1 rr)) ∧
    (∀ e ∈ scalarRI, Ready (dale0 (regs 1#64 2#64)) 0 (encI 0 e.1 (ii 5#32))) ∧
    Ready (dale0 (regs 1#64 2#64)) 0 (encI 0 0x1A (ii 5#32)) := by unfold Ready; decide

/-- A branch condition met and not met with xA, xB or pA. -/
theorem witness_BranchesAndJumps :
    (∀ e ∈ branches, Ready (dale0 (regs 1#64 2#64)) 0 (encI 0 e.1 (ii 0x1FFE#32))) ∧
    ((1#64 : W64) = 1#64 ∧ (8 : Int) + 8 * (0x1FFE#32).toInt = 0xFFF8) ∧
    (¬ (1#64 : W64) = 2#64) ∧ (8 : Int) + 8 * (0xFFFFFFFE#32).toInt < 0 ∧ 0xFFF8 < (8 : Int) + 8 * (0x1FFF#32).toInt ∧
    Ready (dale0 (regs 0xFFF8#64 2#64)) 0 (encI 0 0x2E (ii 0x1FFE#32)) ∧
    Ready (dale0 (regs 0xFFF8#64 2#64)) 0 (encI 0 0x2F (ii 0#32)) ∧ (xget (dale (dale0 (regs 0xFFF8#64 2#64)) 0) 1).toNat = 0xFFF8 ∧
    Ready (dale0 (regs 0x10000#64 2#64)) 0 (encI 0 0x2F (ii 0#32)) ∧ 0xFFFF < (xget (dale (dale0 (regs 0x10000#64 2#64)) 0) 1).toNat ∧
    Ready (dale0 (regs 4#64 2#64)) 0 (encI 0 0x2F (ii 0#32)) ∧ (xget (dale (dale0 (regs 4#64 2#64)) 0) 1).toNat % 8 ≠ 0 := by
  unfold Ready; decide +kernel

/-- Each condition of a conditional branch holds for some operands and fails for others. -/
theorem witness_branch_conditions :
    (xget (regs 1#64 1#64) 1 = xget (regs 1#64 1#64) 2 ∧ xget (regs 1#64 2#64) 1 ≠ xget (regs 1#64 2#64) 2) ∧
    ((xget (regs (-1#64) 0#64) 1).toInt < (xget (regs (-1#64) 0#64) 2).toInt ∧ (xget (regs 0#64 0#64) 2).toInt ≤ (xget (regs 0#64 0#64) 1).toInt) ∧
    ((xget (regs 0#64 (-1#64)) 1).toNat < (xget (regs 0#64 (-1#64)) 2).toNat ∧ (xget (regs (-1#64) 0#64) 2).toNat ≤ (xget (regs (-1#64) 0#64) 1).toNat) ∧
    (pget { live with p := [(1, 1#256)] } 1 ≠ 0#256 ∧ pget live 1 = 0#256) := by decide +kernel

/-- Offsets at the ends of the store and of the dale window, a misaligned one and one outside. -/
def at_ (a : Nat) : State := dale0 (regs (BitVec.ofNat 64 a) 2#64)
theorem witness_ScalarLoadsAndStores :
    (∀ op ∈ [0x20, 0x21], ∀ a ∈ [0, 0xBFFF8, 0xC0000, 0xFFFF8, 1, 0x100000], Ready (at_ a) 0 (encI 0 op (ii 0#32))) ∧
    (∀ a ∈ [0, 0xBFFF8], scalarAddr (at_ a) 0 (ii 0#32) % 8 = 0 ∧ scalarAddr (at_ a) 0 (ii 0#32) < 0xC0000 ∧
      markedRow (dale (at_ a) 0) (scalarAddr (at_ a) 0 (ii 0#32)) 8 = none ∧
      synOf (at_ a) (daleBase 0 + scalarAddr (at_ a) 0 (ii 0#32)) = 0) ∧
    (∀ a ∈ [0xC0000, 0xFFFF8], scalarAddr (at_ a) 0 (ii 0#32) % 8 = 0 ∧ 0xC0000 ≤ scalarAddr (at_ a) 0 (ii 0#32) ∧
      scalarAddr (at_ a) 0 (ii 0#32) < 0x100000) ∧
    scalarAddr (at_ 1) 0 (ii 0#32) % 8 ≠ 0 ∧ 0x100000 ≤ scalarAddr (at_ 0x100000) 0 (ii 0#32) := by
  unfold Ready; decide +kernel

/-- Dale 0 with a scalar instruction waiting in queue 3. -/
def queued : Dale := { live with queues := [(3, [⟨0, encR 3 0 rr, 0, [], false⟩])] }
theorem witness_ControlInstructions :
    (∀ op ∈ [0x01, 0x03, 0x04], Ready (dale0 live) 0 (encI 0 op (ii 0xFE#32))) ∧
    (∀ k, k < 8 → (0xFE#32).getLsbD k = true → queueIdle live k = true) ∧
    ((0xFE#32).getLsbD 3 = true ∧ queueIdle queued 3 = false) ∧
    (∀ e ∈ csrs live 0, Ready (dale0 live) 0 (encI 0 0x04 (ii (BitVec.ofNat 32 e.1))) ∧ (BitVec.ofNat 32 e.1).toNat % 4096 = e.1) ∧
    (0x022#32).toNat % 4096 ∉ [0x000, 0x010, 0x011, 0x012, 0x013, 0x020, 0x021] ∧ canIssue (dale0 live) 0 = true := by
  unfold Ready; decide +kernel

/-- A slot descriptor in the last 32 bytes of the store, and one with a misaligned base. -/
def slotD : Slot := ⟨.bf16, false, 256, 128, 0x10000, 0x3F800000#32, 0, 0, 0, 0, 2 ^ 256 - 1, 0⟩
def descState (w0 : Nat) : State :=
  { at_ 0xBFFE0 with mem := (List.range 16).filterMap fun i =>
      let b := (w0 + 0x3F80000000000000 * 2 ^ 64) / 2 ^ (8 * i) % 256
      if b = 0 then none else some (daleBase 0 + 0xBFFE0 + i, BitVec.ofNat 8 b) }
theorem witness_TileSlotDescriptors :
    (∀ a ∈ [0xBFFE0, 0xBFFF0, 0xC0000], Ready (at_ a) 0 (encI 0 0x05 (ii 0#32))) ∧
    Ready (descState 0x0050400080010000) 0 (encI 0 0x05 (ii 0#32)) ∧
    (tdescAddr (at_ 0xBFFE0) 0 (ii 0#32) % 32 = 0 ∧ tdescAddr (at_ 0xBFFE0) 0 (ii 0#32) + 32 ≤ 0xC0000) ∧
    (∀ i, i < 4 → synOf (descState 0x0050400080010000) (daleBase 0 + 0xBFFE0 + 8 * i) = 0 ∧
      leNat (memBytes (descState 0x0050400080010000) (daleBase 0 + 0xBFFE0 + 8 * i) 8) = (slotWords 5 slotD).getD i 0) ∧
    fmtOfCode 5 = some slotD.fmt ∧ (slotD.fill = 2 ^ slotD.rows - 1 ∧ slotD.poison = 0) ∧
    (∀ j, j < 16 → slotOf (dale (descState 0x0050400080010000) 0) j = none) ∧
    (tdescAddr (at_ 0xBFFF0) 0 (ii 0#32) % 32 ≠ 0 ∧ 0xC0000 < tdescAddr (at_ 0xC0000) 0 (ii 0#32) + 32) ∧
    (leNat (memBytes (descState 0x0050400080010020) (daleBase 0 + 0xBFFE0) 8) = 0x0050400080010020 ∧
      0x0050400080010020 / 2 ^ 38 % 2 ^ 13 ≠ 0 ∧ 0x0050400080010020 % 64 ≠ 0) := by
  unfold Ready; decide +kernel
theorem witness_SlotFits : SlotFits slotD := ⟨by decide, by decide, by decide, by decide, by decide⟩

/-- A dale whose word 1 of instruction memory holds a word. -/
def imemDale (w : W64) : Dale := { regs 1#64 2#64 with imem := [(1, some ⟨w, 0, false⟩)] }
/-- Dale 0 under the limiter's issue gap of 8 steps in 256 (R458, R459). -/
def gapped (x : Dale) : State := { dale0 x with power := { on.power with gap := 8 } }
theorem witness_Fetch :
    (∀ e ∈ scalarRR, Ready (dale0 (imemDale (encR 0 e.1 rr))) 0 (encR 0 e.1 rr)) ∧ rr.rOk = true ∧
    (∀ e ∈ scalarRI, Ready (dale0 (imemDale (encI 0 e.1 (ii 5#32)))) 0 (encI 0 e.1 (ii 5#32))) ∧ (ii 5#32).iOk = true ∧
    gapHolds (dale0 live) 0 = false ∧ live.pc ≤ 0xFFF8 ∧
    (∀ w : W64, tget none (dale (dale0 (imemDale w)) 0).imem ((dale (dale0 (imemDale w)) 0).pc / 8) = some ⟨w, 0, false⟩) ∧
    (canIssue (dale0 live) 0 = true ∧ tget none live.imem (live.pc / 8) = none ∧
      canIssue (dale0 { live with pc := 0x10000 }) 0 = true ∧ 0xFFF8 < 0x10000) ∧
    (Ready (dale0 (imemDale (encI 0 1 (ii 5#32)))) 0 (encI 0 1 (ii 5#32)) ∧
      (∀ e ∈ scalarRR, gapHolds (dale0 (imemDale (encR 0 e.1 rr))) 0 = false) ∧
      ∀ e ∈ scalarRI, gapHolds (dale0 (imemDale (encI 0 e.1 (ii 5#32)))) 0 = false) ∧
    (canIssue (gapped live) 0 = true ∧ gapHolds (gapped live) 0 = true ∧ canIssue (gapped { live with lockstep := true }) 0 = true) := by
  unfold Ready; exact ⟨by decide +kernel, by decide +kernel, by decide +kernel, by decide +kernel, by decide +kernel, by decide +kernel,
    fun w => by simp [dale, dale0, imemDale, tget, regs], by decide +kernel, by decide +kernel, by decide +kernel⟩

/-- A dale at END that RUN's signal started, one that a KAT step started, and traps in each. -/
def runPacket : Packet := mkPacket 0 tyRun cmdCol 5 0 0 0 0 0 false []
def trapped (x : Dale) : Dale := { x with trap := some ⟨2, .formatError, 0, false⟩ }
def ran : Dale := { live with runPkt := some runPacket }
theorem witness_EndOfStep :
    (∀ x ∈ [live, ran], Ready (dale0 x) 0 (encI 0 2 (ii 0#32)) ∧ drained (dale0 x) 0 = true ∧ x.partner = none) ∧
    (live.runPkt = none ∧ ran.runPkt = some runPacket) ∧ drained (dale0 queued) 0 = false ∧
    (∀ x ∈ [live, ran, { ran with stopped := true }], drained (dale0 (trapped x)) 0 = true ∧
      (trapped x).trap = some ⟨2, .formatError, 0, false⟩) := by
  unfold Ready; decide +kernel
/-! ### Synchronisation -/

/-- An instruction of class 7 issues now in dale 0. -/
theorem startsSy_now (s : State) (op : Nat) (f : IInst) (h : queueOf (dale s 0) 7 = []) (r : Ready s 0 (encI 7 op f)) (o : f.ord = false) :
    StartsSy s 0 op f (dale s 0).pc (issued s 0) := ⟨_, .now h r, by simp [o]⟩

/-- Dale 0 with semaphore 31, and blocked on a SEMWAIT of 2 of it. -/
def semDale (n : Nat) : Dale := { live with sem := [(31, n)], x := [(1, 512#64), (2, 1#64)] }
def waiting : Dale := { semDale 1 with blocked := some ⟨0, encI 7 4 (ii 0x5F#32), 0, [], false⟩ }
theorem witness_Semaphores :
    (∀ n ∈ [1, 0xFFFFFFFF], (ni (dale0 (semDale n)) (daleCol 0)).state = 0 ∧ (dale (dale0 (semDale n)) 0).blocked = none ∧
      (dale (dale0 (semDale n)) 0).isPartner = false) ∧
    (semOf (semDale 1) 31 + 0xFFFFFFFE ≤ 0xFFFFFFFF ∧ 0xFFFFFFFF < semOf (semDale 1) 31 + 0xFFFFFFFF) ∧
    (waiting.blocked = some ⟨0, encI 7 4 (ii 0x5F#32), 0, [], false⟩ ∧ wop (encI 7 4 (ii 0x5F#32)) = 4 ∧ semNo (decI (encI 7 4 (ii 0x5F#32))) = 31 ∧
      semN (decI (encI 7 4 (ii 0x5F#32))) ≤ semOf waiting 31 + 1 ∧ waiting.partner = none) ∧
    (queueOf (dale (dale0 (semDale 1)) 0) 7 = [] ∧ Ready (dale0 (semDale 1)) 0 (encI 7 5 (ii 0x3F#32)) ∧ (0x3F#32).getLsbD 5 = true ∧
      isShadow (dale0 (semDale 1)) 0 = false ∧ (xget (semDale 1) 2).toNat % 2 ^ 32 = 1) ∧
    (Ready (dale0 (semDale 1)) 0 (encI 7 5 (ii 0x1F#32)) ∧ (0x1F#32).getLsbD 5 = false ∧ 511 < (xget (semDale 1) 1).toNat % 65536) ∧
    (Ready (dale0 (semDale 1)) 0 (encI 7 4 (ii 0x3F#32)) ∧ semN (ii 0x3F#32) ≤ semOf (semDale 1) (semNo (ii 0x3F#32))) ∧
    (Ready (dale0 (semDale 1)) 0 (encI 7 4 (ii 0x5F#32)) ∧ semOf (semDale 1) (semNo (ii 0x5F#32)) < semN (ii 0x5F#32)) := by
  unfold Ready; decide +kernel
theorem witness_seminc_starts : StartsSy (dale0 (semDale 1)) 0 5 (ii 0x3F#32) 0 (issued (dale0 (semDale 1)) 0) :=
  startsSy_now _ 5 _ (by decide +kernel) (by unfold Ready; decide +kernel) rfl

/-- Dale 0 and its neighbour to direction 1, whose inbound line 2 from direction 3 holds a count. -/
def linePair (n : Nat) (b : Option QEnt) : State :=
  { on with dales := [(0, live), (1, { live with inbound := if n = 0 then [] else [(lineKey 3 2, n)], blocked := b })] }
/-- Dale 0 with a count on inbound line 2 from direction 1. -/
def lineIn (n : Nat) : State := dale0 { live with inbound := if n = 0 then [] else [(lineKey 1 2, n)] }
theorem witness_Lines :
    (lineNo (ii 1#32) < 2 ∧ lineDir (ii 1#32) = 1 ∧ neighbour 0 1 = some 1 ∧ lineKey (1 + 2) (0 + 2) = lineKey 3 2) ∧
    (∀ n ∈ [0, 14, 15], queueOf (dale (linePair n none) 0) 7 = [] ∧ Ready (linePair n none) 0 (encI 7 1 (ii 1#32)) ∧
      daleGone (linePair n none) 1 = none ∧ isShadow (linePair n none) 0 = false ∧
      inboundOf (dale (linePair n none) 1) (lineKey 3 2) = n ∧ (dale (linePair n none) 1).blocked = none) ∧
    (Ready (linePair 0 (some ⟨0, encI 7 2 (ii 0xB#32), 0, [], false⟩)) 0 (encI 7 1 (ii 1#32)) ∧ wop (encI 7 2 (ii 0xB#32)) = 2 ∧
      lineKey (lineDir (decI (encI 7 2 (ii 0xB#32)))) (lineNo (decI (encI 7 2 (ii 0xB#32)))) = lineKey 3 2) ∧
    (∀ op ∈ [1, 2], ∀ imm ∈ [0x9, 0x1, 0x2], Ready (dale0 live) 0 (encI 7 op (ii (BitVec.ofNat 32 imm)))) ∧
    (2 ≤ lineNo (ii 0x9#32) ∧ lineNo (ii 0x2#32) < 2 ∧ neighbour 0 (lineDir (ii 0x2#32)) = none) ∧
    (∀ n ∈ [0, 1], Ready (lineIn n) 0 (encI 7 2 (ii 0x9#32)) ∧ inboundOf (dale (lineIn n) 0) (lineKey 1 2) = n ∧ daleGone (lineIn n) 1 = none ∧
      (dale (lineIn n) 0).partner = none ∧ neighbour 0 (lineDir (ii 0x9#32)) = some 1) := by
  unfold Ready; decide +kernel

/-- Basin 0 of level 1: its dales 1, 32 and 33 have arrived, or dale 33 has not. -/
def barrierState (all : Bool) : State :=
  let b : Dale := { live with blocked := some ⟨0, encI 7 3 (ii 1#32), 0, [], false⟩ }
  { on with dales := [(0, live), (1, b), (32, b)] ++ (if all then [(33, b)] else [])
            barriers := [(barrierKey 1 0 0, { Barrier.reset with arrived := [1, 32] ++ (if all then [33] else []) })] }
theorem witness_Barriers :
    (∀ imm ∈ [0, 1, 5, 6], Ready (dale0 live) 0 (encI 7 3 (ii (BitVec.ofNat 32 imm)))) ∧ arriveLevel (ii 0#32) = 0 ∧ 5 < arriveLevel (ii 6#32) ∧
    (∀ b, Ready (barrierState b) 0 (encI 7 3 (ii 1#32)) ∧ isShadow (barrierState b) 0 = false ∧
      0 ∉ (barrierOf (barrierState b) (barrierKey 1 0 0)).arrived ∧ 0 ∈ participants' (barrierState b) (barrierKey 1 0 0)) ∧
    (33 ∈ participants' (barrierState false) (barrierKey 1 0 0) ∧ 33 ∉ (barrierOf (barrierState false) (barrierKey 1 0 0)).arrived) ∧
    (∀ e ∈ participants' (barrierState true) (barrierKey 1 0 0), e = 0 ∨ e ∈ (barrierOf (barrierState true) (barrierKey 1 0 0)).arrived) ∧
    (∀ e ∈ [1, 32, 33], (dale (barrierState true) e).partner = none ∧
      (dale (barrierState true) e).blocked = some ⟨0, encI 7 3 (ii 1#32), 0, [], false⟩ ∧ wop (encI 7 3 (ii 1#32)) = 3 ∧
      barrierKey (arriveLevel (decI (encI 7 3 (ii 1#32)))) e (arriveChan (decI (encI 7 3 (ii 1#32)))) = barrierKey 1 0 0) := by
  unfold Ready; decide +kernel

/-! ### Vector, set, special-function, random and matrix units -/

/-- Instructions of a class may issue now in dale 0, whose queue of it is empty: such an instruction starts. -/
def Goes (s : State) (cls : Nat) (ops : List Nat) (f : RInst) : Prop :=
  ∀ op ∈ ops, queueOf (dale s 0) cls = [] ∧ canIssue s 0 = true ∧ hazard (dale s 0) (encR cls op f) [] = false
theorem startsR_of_goes (s : State) (cls op : Nat) (ops : List Nat) (f : RInst) (h : Goes s cls ops f) (o : op ∈ ops) :
    StartsR s 0 cls op f (dale s 0).pc (issued s 0) := ⟨_, .now (h op o).1 (h op o).2⟩

/-- Two vector registers, of small and of large elements, and scalar registers. -/
def vecs : Dale := { regs 5#64 2#64 with v := [(1, 0x7F8000017FC00000FFFFFFFF00000001#2048), (2, 0x3F800000FFFFFFFF80000000#2048)], p := [(1, 0b1011#256)] }
/-- Operands under predicate 1, in a view. -/
def rv (view : Nat) : RInst := { rr with pg := 1, view := view }

theorem witness_clean : VectorsClean (dale (dale0 vecs) 0) ∧ (dale (dale0 vecs) 0).badBytes = [] ∧ (dale (dale0 vecs) 0).satCount ≤ 0xFFFFFFFF :=
  ⟨fun _ h => (nomatch h), by decide, by decide⟩
theorem witness_VectorIntegerArithmetic : (∀ v ∈ [0, 2], Goes (dale0 vecs) 2 (intRows.map (·.op)) (rv v)) ∧
    Goes (dale0 vecs) 2 [0x0A] { rv 2 with imm := 7#18 } ∧ (7#18).toNat % 32 < viewWidth 2 := by unfold Goes; decide +kernel
theorem witness_VectorLogicAndShifts : ∀ v ∈ [0, 2], Goes (dale0 vecs) 2 (bitRows.map (·.op)) (rv v) := by unfold Goes; decide +kernel
theorem witness_VectorFloat : Goes (dale0 vecs) 2 (floatRows.map (·.op)) (rv 0) ∧ Goes (dale0 vecs) 2 (floatRows.map (·.op)) (rv 2) ∧
    Goes (dale0 vecs) 2 [0x10, 0x11] { rv 0 with fmt := 7 } ∧ Goes (dale0 vecs) 2 [0x10, 0x11] { rv 2 with fmt := 9 } := by unfold Goes; decide +kernel
/-- FP32 operands that are NaN, ordered, and equal; integers of both orders. -/
theorem witness_orders : typedNan { rv 0 with fmt := 7 } (elA vecs (rv 0) 2) (elB vecs (rv 0) 2) ∧
    typedLess { rv 0 with fmt := 7 } (elA vecs (rv 0) 0) (elB vecs (rv 0) 2) ∧ typedLess (rv 0) (elB vecs (rv 0) 3) (elA vecs (rv 0) 0) := by
  unfold typedNan typedLess; decide +kernel
theorem witness_ComparesAndPredicates : Goes (dale0 vecs) 2 [0x12] { rv 2 with imm := 5#18 } ∧ Goes (dale0 vecs) 2 [0x12] { rv 0 with fmt := 7, d := 8 } ∧
    Goes (dale0 vecs) 2 [0x13, 0x16, 0x30, 0x31, 0x32, 0x33] (rv 2) ∧ (rv 2).d % 8 ≠ 0 ∧ (5#18).toNat % 8 < 6 := by unfold Goes; decide +kernel
theorem witness_VectorConversions :
    (∀ e ∈ [(0, 7, 5), (1, 5, 6), (2, 9, 0)], Goes (dale0 vecs) 2 [0x14] { rv e.1 with imm := BitVec.ofNat 18 e.2.1, fmt := e.2.2 }) ∧
    (fmtOfCode 7 = some .fp32 ∧ fmtOfCode 5 = some .bf16 ∧ fmtBits .fp32 ≤ viewWidth 0 ∧ viewWidth 2 < fmtBits .bf16) ∧
    Goes (dale0 vecs) 2 [0x14] { rv 2 with imm := 7#18, fmt := 5 } ∧ Goes (dale0 vecs) 2 [0x14] { rv 1 with imm := 5#18, fmt := 6, sr := true } := by
  unfold Goes; decide +kernel

/-- Dale 0 with circular register 1 and x5 as given. -/
def circ (n : Nat) : State := dale0 { live with c := [(1, BitVec.ofNat 64 n)], x := [(5, BitVec.ofNat 64 n)] }
/-- A buffer of 256 bytes at the end of the store at its last place, one that is not linear at its last, and ones that do not fit. -/
def circEnd : Nat := 0xFF * 2 ^ 40 + 0x100 * 2 ^ 20 + 0xBFF00
def circLine : Nat := 0xBFF00 * 2 ^ 40
theorem witness_CircularBuffers :
    (∀ n ∈ [circEnd, circLine, circEnd + 2, circLine + 4, 0xFC * 2 ^ 20], Goes (circ n) 2 [0x18, 0x19, 0x1A, 0x1B] { rr with s := 5, imm := 0x100#18 }) ∧
    (circBase (BitVec.ofNat 64 circEnd) % 4 = 0 ∧ circLen (BitVec.ofNat 64 circEnd) % 4 = 0 ∧
      circBase (BitVec.ofNat 64 circEnd) + circLen (BitVec.ofNat 64 circEnd) ≤ 0xC0000 ∧ circPtr (BitVec.ofNat 64 circEnd) < circLen (BitVec.ofNat 64 circEnd)) ∧
    circBase (BitVec.ofNat 64 (circEnd + 2)) % 4 ≠ 0 ∧ (dale (circ (circEnd + 2)) 0).trap = none ∧
    (circLen (BitVec.ofNat 64 (circLine + 4)) = 0 ∧ 0xC0000 < circBase (BitVec.ofNat 64 (circLine + 4)) + circPtr (BitVec.ofNat 64 (circLine + 4)) + 256) ∧
    (circLen (BitVec.ofNat 64 (0xFC * 2 ^ 20)) ≠ 0 ∧ circLen (BitVec.ofNat 64 (0xFC * 2 ^ 20)) < 256) := by unfold Goes; decide +kernel
theorem witness_CircFits : CircFits (BitVec.ofNat 64 circEnd) 256 ∧ CircFits (BitVec.ofNat 64 circEnd) (-256) ∧ CircFits (BitVec.ofNat 64 circLine) 4 :=
  ⟨⟨by decide +kernel, by decide +kernel, by decide +kernel⟩, ⟨by decide +kernel, by decide +kernel, by decide +kernel⟩,
   ⟨by decide +kernel, by decide +kernel, by decide +kernel⟩⟩
/-- A store whose check bits are right, and whose slots carry no mark, is clean. -/
theorem tget_mem {α : Type} (d : α) (t : Tab α) (k : Nat) (v : α) (h : tget d t k = v) (n : v ≠ d) : ∃ e ∈ t, e.2 = v := by
  induction t with
  | nil => exact absurd h.symm n
  | cons e t ih =>
    simp only [tget] at h
    split at h
    · exact ⟨e, by simp, h⟩
    · obtain ⟨e', m, q⟩ := ih h; exact ⟨e', by simp [m], q⟩
theorem clean_of (s : State) (h : s.synd = []) (p : ∀ e ∈ (dale s 0).t, ∀ x ∈ e.2, x.poison = 0) : StoreClean s 0 :=
  ⟨fun a _ => by simp [synOf, h, tget], fun k t q => by
    obtain ⟨e, m, r⟩ := tget_mem none (dale s 0).t (k % 16) (some t) q (by simp)
    exact p e m t r⟩
theorem witness_StoreClean : StoreClean (dale0 vecs) 0 ∧ StoreClean (circ circEnd) 0 :=
  ⟨clean_of _ rfl (by decide), clean_of _ rfl (by decide)⟩

/-- Dale 0 in the midst of a search, of a compaction, and with a full set of top pairs. -/
def searching : Dale := { vecs with
  search := ⟨false, ⟨false, false⟩, 2, 7, 1, [(0, some (255, 7)), (1, some (3, 300))]⟩, compact := ⟨2, [1, 2, 3]⟩,
  hist := [(255, 0xFFFFFFFF)], topk := ⟨2, false, ⟨false, false⟩, 2, 7, 1, [(9, 7), (4, 7)]⟩ }
theorem witness_Searches :
    Goes (dale0 vecs) 2 [0x20, 0x21] { rv 0 with fmt := 7 } ∧ Goes (dale0 vecs) 2 [0x20, 0x21] (rv 2) ∧ (rv 2).d % 32 ≠ (rv 2).b % 32 ∧
    Goes (dale0 searching) 2 [0x22, 0x23, 0x24] (rv 2) ∧
    (∀ e ∈ searching.search.best, ∀ v ∈ e.2, v.1 < 2 ^ viewWidth 2) := by unfold Goes; decide +kernel
/-- A predicate that governs no element, and one that governs some. -/
theorem witness_governed : governed vecs (rv 0) 0 3 ∧ (∀ i, i < 256 → (pget { vecs with p := [(1, 0#256)] } 1).getLsbD i = false) := by
  unfold governed; decide +kernel
theorem witness_CompactionScanAndHistogram :
    Goes (dale0 searching) 2 [0x25, 0x26, 0x27, 0x28, 0x29, 0x2A] { rv 2 with d := 28 } ∧ Goes (dale0 searching) 2 [0x27] { rv 0 with fmt := 7 } ∧
    (searching.compact.elems ++ ((List.range (viewCount 2)).filter fun i => (pget searching 1).getLsbD i).map (elA searching (rv 2))).length < viewCount 2 ∧
    viewCount 2 ≤ ([1, 2, 3] ++ ((List.range (viewCount 2)).filter fun i => (pget searching 0).getLsbD i).map (elA searching (rv 2))).length ∧
    (searching.compact.elems ≠ [] ∧ searching.compact.view ≠ 0 ∧ searching.trap = none ∧ searching.compact.elems.length ≤ viewCount searching.compact.view) := by
  unfold Goes; decide +kernel
theorem witness_TopK : Goes (dale0 vecs) 2 [0x2B] { rv 2 with imm := 63#18 } ∧ Goes (dale0 searching) 2 [0x2C, 0x2D] (rv 2) ∧
    searching.topk.pairs.length ≤ searching.topk.k ∧ (∀ e ∈ searching.topk.pairs, e.1 < 2 ^ viewWidth 2) := by unfold Goes; decide +kernel
theorem witness_topk_ranked : searching.topk.pairs.Pairwise (fun a b => ¬ ranksBefore searching.topk b a) := by
  simp [searching, ranksBefore, outranks, tyNan, tyLess, elemVal, viewWidth]

theorem witness_histogram : ∀ b, tget 0 (dale (dale0 searching) 0).hist b ≤ 0xFFFFFFFF := by
  intro b; simp only [dale, dale0, tget, searching]; simp only [if_true]; unfold tget; split <;> simp [tget]

/-- Set slots of 4-byte keys: 1, 3, 5 and 2, 3; an output slot; and an input out of order. -/
def keySlot (n base : Nat) : Slot := ⟨.int32, false, 1, 4 * n, base, 0x3F800000#32, 0, 0, 0, 0, 1, 0⟩
def sets (k0 : Nat) : State :=
  { dale0 { live with t := [(1, some (keySlot 3 0)), (2, some (keySlot 2 0x40)), (3, some (keySlot 5 0x80))] } with
    mem := [(daleBase 0, BitVec.ofNat 8 k0), (daleBase 0 + 4, 3#8), (daleBase 0 + 8, 5#8), (daleBase 0 + 0x40, 2#8), (daleBase 0 + 0x44, 3#8)] }
theorem witness_SetSlot (k0 : Nat) (h : k0 = 1 ∨ k0 = 9) : SetSlot (sets k0) 0 1 4 (keySlot 3 0) [k0, 3, 5] ∧ SetSlot (sets k0) 0 2 4 (keySlot 2 0x40) [2, 3] ∧
    slotOf (dale (sets k0) 0) 3 = some (keySlot 5 0x80) ∧ SlotFits (keySlot 5 0x80) ∧ StoreClean (sets k0) 0 := by
  rcases h with rfl | rfl <;>
  exact ⟨⟨by decide +kernel, ⟨by decide, by decide, by decide, by decide, by decide⟩, by decide, by decide +kernel, by decide, by decide +kernel⟩,
    ⟨by decide +kernel, ⟨by decide, by decide, by decide, by decide, by decide⟩, by decide, by decide +kernel, by decide, by decide +kernel⟩,
    by decide +kernel, ⟨by decide, by decide, by decide, by decide, by decide⟩,
    clean_of _ rfl (by decide)⟩
theorem witness_SetOperations : (∀ k0 ∈ [1, 9], Goes (sets k0) 3 (setRows.map (·.1)) rr) ∧ rr.rOk = true ∧ rr.imm.getLsbD 5 = false ∧ rr.imm.getLsbD 6 = false ∧
    ([1, 3, 5].Pairwise (· < ·) ∧ [2, 3].Pairwise (· < ·)) ∧ ([9, 3, 5].getD 1 0 ≤ [9, 3, 5].getD 0 0) := by unfold Goes; decide +kernel

/-- Dale 0 with every slot of the function unit loaded, native or in the other mode; and with none. -/
def sfDale (hd7 : Bool) : Dale := { vecs with hd7 := hd7, sfSlots := (List.range 32).map fun k => (k, some [1#8]) }
theorem witness_SpecialFunctions :
    (∀ e ∈ [(0, 15, 7), (2, 96, 0), (1, 32, 5)], Goes (dale0 (sfDale false)) 4 [0x01] { rv e.1 with imm := BitVec.ofNat 18 e.2.1, fmt := e.2.2 } ∧
      64 * (e.2.1 / 32 % 4) + 64 ≤ viewCount e.1) ∧
    Goes (dale0 (sfDale true)) 4 [0x01] { rv 0 with imm := 8#18, fmt := 7 } ∧ (8 ∈ [0, 2, 4, 6, 7, 8, 10] ∧ 1 ∉ [0, 2, 4, 6, 7, 8, 10]) ∧
    Goes (dale0 (sfDale true)) 4 [0x01] { rv 0 with imm := 1#18, fmt := 7 } ∧
    (slotBytes (sfDale false) (sfMode (sfDale false) 15) ≠ none ∧ slotBytes (sfDale true) (sfMode (sfDale true) 8) ≠ none ∧
      slotBytes vecs (sfMode vecs 31) = none ∧ Goes (dale0 vecs) 4 [0x01] { rv 0 with imm := 31#18, fmt := 7 }) ∧
    (∃ c, c < 16 ∧ fmtOfCode c = some .int32 ∧ Goes (dale0 vecs) 4 [0x01] { rv 0 with fmt := c }) ∧
    (Goes (dale0 vecs) 4 [0x01] (rv 3) ∧ Goes (dale0 vecs) 4 [0x01] { rv 0 with fmt := 7, imm := 32#18 } ∧ viewCount 0 < 64 * 1 + 64) ∧
    fmtOfCode 7 = some .fp32 ∧ fmtOfCode 0 = some .e4m3 ∧ (sfDale false).sfOver = 0 ∧ (sfDale true).sfOver = 0 := by unfold Goes; decide +kernel

/-- Statistic contexts, elements that are all −∞, and a context of no element. -/
def stats : Dale := { vecs with statsSent := [(1, scInit), (5, ⟨0#32, 1#32, 2#32, 3#32⟩)], v := [(1, 0xFF800000#2048)], p := [(1, 1#256)], sc := [(2, ⟨0x3F800000#32, 0x3F800000#32, 0#32, 1#32⟩)] }
theorem witness_RowStatistics :
    Goes (dale0 stats) 4 [0x02, 0x03, 0x04, 0x05, 0x06, 0x07] { rv 0 with d := 7, a := 2 } ∧ Goes (dale0 stats) 4 [0x08, 0x09] { rv 0 with a := 2 } ∧
    statElems stats (rv 0) = [0xFF800000#32] ∧ scget stats 7 = ⟨0xFF800000#32, 0#32, 0#32, 0#32⟩ ∧ statElems { stats with p := [(1, 0#256)] } (rv 0) = [] ∧
    (scget stats 2).n ≠ 0#32 ∧ (scget stats 7).n = 0#32 ∧ (rv 0).d % 32 ≠ (rv 0).b % 32 ∧ stats.hd7 = false ∧ stats.sfOver = 0 ∧
    Goes (dale0 stats) 4 [0x05] { rv 0 with imm := 5#18 } ∧ stats.statsSent = [(1, scInit)] ++ (5, ⟨0#32, 1#32, 2#32, 3#32⟩) :: [] ∧
    (∀ e ∈ stats.statsSent, e.1 ≠ (rv 0).imm.toNat % 16) := by unfold Goes; decide +kernel

theorem witness_RandomGeneration :
    (∀ v ∈ [0, 2], Goes (dale0 vecs) 5 [0x01] { rv v with imm := 0x20000#18 }) ∧ Goes (dale0 vecs) 5 [0x02, 0x04, 0x08, 0x09, 0x0A] (rv 0) ∧
    Goes (dale0 vecs) 5 [0x04] { rv 0 with imm := 1#18 } ∧ Goes (dale0 vecs) 5 [0x03] { rv 1 with imm := 0xFFFF#18 } ∧
    Goes (dale0 vecs) 5 [0x03] { rv 2 with imm := 0xFF#18 } ∧ (0xFF#18).toNat / 2 ^ 8 % 2 ^ 8 = 0 ∧ Goes (dale0 vecs) 5 [0x01] (rv 3) ∧
    (rv 0).d % 8 ≠ 0 ∧ (rv 0).d % 32 ≠ (rv 0).b % 32 ∧ vecs.rng.ctr < 2 ^ 128 := by unfold Goes; decide +kernel

/-- Slots of a product of one row and one column: operands of a format, and an output. -/
def mslot (g : Fmt) (base : Nat) : Slot := ⟨g, false, 1, 4, base, 0x3F800000#32, 0, 0, 0, 0, 1, 0⟩
def mats (g o : Fmt) (bad : Bool) : State :=
  dale0 { live with t := [(0, some (mslot g 0)), (1, some (mslot g 0x40)), (2, some (mslot o 0x80))], mxWest := bad }
/-- TA = 0, TB = 1, TD = 2, one row, one element, with or without accumulation. -/
def mm (acc : Bool) : MInst := ⟨0, 1, 2, 1, 1, 1, acc, true, 0, false, false, false, false⟩
theorem witness_MmulFits (acc : Bool) : MmulFits (mats .int8 .int32 false) 0 (mm acc) (mslot .int8 0) (mslot .int8 0x40) (mslot .int32 0x80) ∧
    MmulFits (mats .bf16 .fp32 false) 0 (mm acc) (mslot .bf16 0) (mslot .bf16 0x40) (mslot .fp32 0x80) := by
  cases acc <;>
  exact ⟨⟨by decide, by decide, by decide +kernel, by decide +kernel, by decide +kernel,
      ⟨⟨by decide, by decide, by decide, by decide, by decide⟩, ⟨by decide, by decide, by decide, by decide, by decide⟩, ⟨by decide, by decide, by decide, by decide, by decide⟩⟩,
      by decide, by decide, by decide, by decide, by decide +kernel, by decide, by decide,
      clean_of _ rfl (by decide),
      by decide +kernel, by decide +kernel, fun _ h => (nomatch h), by decide +kernel, by decide +kernel⟩,
    ⟨by decide, by decide, by decide +kernel, by decide +kernel, by decide +kernel,
      ⟨⟨by decide, by decide, by decide, by decide, by decide⟩, ⟨by decide, by decide, by decide, by decide, by decide⟩, ⟨by decide, by decide, by decide, by decide, by decide⟩⟩,
      by decide, by decide, by decide, by decide, by decide +kernel, by decide, by decide,
      clean_of _ rfl (by decide),
      by decide +kernel, by decide +kernel, fun _ h => (nomatch h), by decide +kernel, by decide +kernel⟩⟩
theorem witness_MatrixProducts :
    (∀ acc, ∀ o ∈ [Fmt.int32, .fp32], ∀ g ∈ [Fmt.int8, .bf16], queueOf (dale (mats g o false) 0) 1 = [] ∧ canIssue (mats g o false) 0 = true ∧
      hazard (dale (mats g o false) 0) (encM 1 1 (mm acc)) [] = false) ∧
    slotElem (mats .int8 .int32 false) 0 (mslot .int32 0x80) 0 0 < 2 ^ 30 ∧ pairingOk .bf16 .bf16 = true ∧ fmtIsInt .bf16 = false ∧
    (pairingOk .fp32 .fp32 = false ∧ hazard (dale (mats .fp32 .fp32 false) 0) (encM 1 1 (mm true)) [] = false ∧
      slotOf (dale (mats .fp32 .fp32 false) 0) 0 = some (mslot .fp32 0)) ∧
    ((updDale (mats .bf16 .fp32 true) 0 fun x => { x with mxWest := false, mxEast := false }).dales = (mats .bf16 .fp32 false).dales ∧
      (dale (mats .bf16 .fp32 true) 0).mxWest = true ∧ hazard (dale (mats .bf16 .fp32 true) 0) (encM 1 1 (mm false)) [] = false ∧
      canIssue (mats .bf16 .fp32 true) 0 = true) ∧
    colPassed 0 63 = true ∧ (mats .int8 .int32 false).od = [] ∧ Goes (dale0 vecs) 1 [0x02] rr := by unfold Goes; decide +kernel

/-! ### Registers and rings -/

theorem witness_EdgeLinesTrap : neighbour 0 (lineDir (ii 2#32)) = none ∧ lineNo (ii 2#32) < 2 ∧ 2 ≤ lineNo (ii 0xA#32) ∧ neighbour 0 (lineDir (ii 0xA#32)) = none ∧
    queueOf (dale (dale0 live) 0) 7 = [] ∧ Ready (dale0 live) 0 (encI 7 1 (ii 2#32)) ∧ Ready (dale0 live) 0 (encI 7 2 (ii 0xA#32)) := by unfold Ready; decide +kernel
theorem witness_OrganisationReadOnly : (ni on saddleCol).state = 0 ∧ winBase ≤ winBase + 0x10 ∧ (regOf 0x10).isSome = true := by decide +kernel

/-- `on` with the interface of a col absorbing: 2 for TARGET_ISOLATED, 3 for DOMAIN_OFF. -/
def absorbing (c st : Nat) : State := { on with net := { on.net with nis := [(c, { Ni.reset with state := st })] } }
theorem witness_RegisterWrites :
    (inWindow 0 = false ∧ wayStatus on (winBase + 2) = none ∧ accessOk (winBase + 2) 4 = false) ∧
    (inWindow (winBase + 0x20000) = true ∧ wayStatus (absorbing (daleCol 0) 2) (winBase + 0x20000) = some .targetIsolated) ∧
    (wayStatus on (cqWin 0 0) = none ∧ (cqWin 0 0) % 4 = 0 ∧ (regOf (cqWin 0 0 - winBase)).map (·.2) = some 8) ∧
    (wayStatus on (winBase + 0x20) = none ∧ regOf 0x20 = none ∧ inWindow (winBase + 0x20) = true) ∧
    ((ni on (daleCol 511)).state = 0 ∧ (ni on cmdCol).state = 0 ∧ ringOn (cqCtrlOf on 15) = false ∧ ringOn (cplCtrlOf on 15) = false) := by decide +kernel
theorem witness_CountersZeroed : (ni on (daleCol 511)).state = 0 ∧ (ni (absorbing (daleCol 511) 2) (daleCol 511)).state = 2 ∧
    (ni (absorbing (daleCol 511) 3) (daleCol 511)).state = 3 ∧
    127 ∉ on.power.stale ∧ 127 ∈ ({ on with power := { on.power with stale := [127] } } : State).power.stale := by decide +kernel
theorem witness_StatisticsClears : (∀ n ∈ [144, 151, 160, 187, 196, 197], domainOn on n = true ∧ domainOn State.reset n = false) := by decide +kernel

/-- `on` with window registers as given. -/
def wins (l : List (Nat × Nat)) : State := { on with win := l ++ on.win }
/-- Queue 15 of 16 entries, with its completion ring, enabled. -/
def rings (tail head cplTail cplHead : Nat) : State :=
  wins [(cqWin 15 8, 2 ^ 31 + 4 * 2 ^ 16 + 15), (cqWin 15 0x10, tail), (cqWin 15 0x14, head), (cplWin 15 8, 2 ^ 31 + 4 * 2 ^ 16),
    (cplWin 15 0x10, cplTail), (cplWin 15 0x14, cplHead)]
theorem witness_RingRegisters :
    (15 % 65536 < 2 ^ (cqCtrlOf (rings 0 0 0 0) 15 / 2 ^ 16 % 2 ^ 5) ∧ 2 ^ (cqCtrlOf (rings 0 0 0 0) 15 / 2 ^ 16 % 2 ^ 5) ≤ 16 % 65536) ∧
    (15 % 65536 < 2 ^ (cplCtrlOf (rings 0 0 0 0) 15 / 2 ^ 16 % 2 ^ 5) ∧ 2 ^ (cplCtrlOf (rings 0 0 0 0) 15 / 2 ^ 16 % 2 ^ 5) ≤ 16 % 65536) ∧
    (∀ l ∈ [4, 16], 4 ≤ l * 2 ^ 16 / 2 ^ 16 % 2 ^ 5 ∧ l * 2 ^ 16 / 2 ^ 16 % 2 ^ 5 ≤ 16) ∧ (cqCtrlOf on 0).testBit 31 = false ∧ ¬ 17 * 2 ^ 16 / 2 ^ 16 % 2 ^ 5 ≤ 16 ∧
    ((cplCtrlOf (rings 0 0 0 0) 15).testBit 31 = true ∧ (cplCtrlOf (rings 0 0 0 0) 15) % 2 ^ 31 = Nat.land (4 * 2 ^ 16) 0x801F0010 % 2 ^ 31 ∧
      (cplCtrlOf on 0).testBit 31 = false) := by decide +kernel

/-- A descriptor in the last entry of ring 15, delivered from companion memory: a FENCE, and one without an opcode. -/
def fetching (op : Nat) : State :=
  { rings 0 15 0 0 with svc := 1, cp := { on.cp with got := [(15, 960, leBytes 8 (op * 2 ^ 56 + 7 * 2 ^ 32) ++ List.replicate 56 0#8, false)] } }
theorem witness_DescriptorFetch : cpServes on = false ∧
    (∀ op ∈ [9, 0], cpServes (fetching op) = true ∧ ringOn (cqCtrlOf (fetching op) 15) = true ∧ (∀ r, r < 16 → r ≠ 15 → ringOn (cqCtrlOf (fetching op) r) = false) ∧
      unfetched (fetching op) 15 = 1 ∧ (fetching op).cp.inflight.length < 1024 ∧ winGet (fetching op) (cqWin 15 0) + 64 * winGet (fetching op) (cqWin 15 0x14) = 960 ∧
      (lineHeld (fetching op) 15 960).map (fun b => (b.1.length, b.2)) = some (64, false)) ∧
    descFault (leBytes 8 (9 * 2 ^ 56 + 7 * 2 ^ 32) ++ List.replicate 56 0#8) = none ∧
    descFault (leBytes 8 (7 * 2 ^ 32) ++ List.replicate 56 0#8) = some false ∧
    fieldAt (leBytes 8 (9 * 2 ^ 56 + 7 * 2 ^ 32) ++ List.replicate 56 0#8) 4 2 = 7 ∧ (fetching 9).cp.inflight = [] := by decide +kernel

/-- A command in flight, untaken, of queue 15. -/
def cmd (op target p w2 w3 : Nat) : Cmd := ⟨7, 15, 0, 3, op, false, target, p, 0, w2, w3, false, false, false, 0, 0, 0, [], none, none, 0⟩
/-- `rings` with commands in flight. -/
def flight (cs : List Cmd) : State := { rings 0 0 0 0 with cp := { on.cp with inflight := cs } }
def doneCmd : Cmd := { cmd 9 0 0 0 0 with outcome := some (plainOutcome .done 0 0), committed := true }
def full (f : Bool) (cplHead : Nat) : State :=
  { rings 0 0 15 cplHead with cp := { on.cp with inflight := [doneCmd], full := if f then [(15, true)] else [] } }
/-- `fetching` with a command of the same tag in flight. -/
theorem witness_duplicate_tag : ∀ s ∈ [{ fetching 9 with cp := { (fetching 9).cp with inflight := [cmd 3 0 0 1 0] } }], cpServes s = true ∧
    unfetched s 15 = 1 ∧ (∃ e ∈ s.cp.inflight, e.tag = 7) ∧ (lineHeld s 15 960).map (fun b => (b.1.length, b.2)) = some (64, false) := by decide +kernel
theorem witness_CompletionRecords : ({ on with svc := 4 } : State).svc.testBit 2 = true ∧
    (∀ f h, f ∈ [true, false] → h ∈ [0, 1] → (full f h).svc.testBit 2 = false ∧ doneCmd ∈ (full f h).cp.inflight ∧ doneCmd.tag = 7 ∧ recordNext (full f h) doneCmd = true ∧
      doneCmd.outcome = some (plainOutcome .done 0 0) ∧ (∀ e ∈ (full f h).cp.inflight, e = doneCmd) ∧ cqCtrlOf (full f h) doneCmd.queue % 16 = 15 ∧
      ringOn (cplCtrlOf (full f h) 15) = true ∧ tget false (full f h).cp.full 15 = f) ∧
    (winGet (full false 0) (cplWin 15 0x10) + 1) % 2 ^ (cplCtrlOf (full false 0) 15 / 2 ^ 16 % 2 ^ 5) = winGet (full false 0) (cplWin 15 0x14) ∧
    (winGet (full false 1) (cplWin 15 0x10) + 1) % 2 ^ (cplCtrlOf (full false 1) 15 / 2 ^ 16 % 2 ^ 5) ≠ winGet (full false 1) (cplWin 15 0x14) := by
  refine ⟨by decide, ?_, by decide +kernel, by decide +kernel⟩
  intro f h hf hh
  simp only [List.mem_cons, List.not_mem_nil, or_false] at hf hh
  rcases hf with rfl | rfl <;> rcases hh with rfl | rfl <;> decide +kernel

/-! ### Pipelines -/

/-- A placement image of one stage, dale 0, entry 0 and budget 1, and one that is not an image. -/
def body : List Byte := leBytes 32 (2 ^ 64)
def image : List Byte := leBytes 32 (0x4C504D4C + 2 ^ 32 + 2 ^ 48 + 96 * 2 ^ 96) ++ digest32 body ++ body
def noImage : List Byte := List.replicate 96 0#8

/-- `flight` with the two lines of an image delivered to the reader of command 3. -/
def delivered (img : List Byte) (c : Cmd) : State :=
  { flight [c] with cp := { (flight [c]).cp with got := [(19, 0, img.take 64, false), (19, 64, img.drop 64 ++ List.replicate 32 0#8, false)] } }
def loadCmd : Cmd := cmd 1 0 0 0 96
def releaseCmd : Cmd := cmd 1 0 0 0 (2 ^ 32)
/-- Pipeline 0 with dale 0 as its stage, in a state. -/
def stage0 : Stage := ⟨0, false, false, 0, 0, 0, 1, 0, 0, []⟩
def pipeIn (st : PipeState) : Pipe := { Pipe.reset with st := st, stages := [stage0] }
def piped (p : Pipe) (x : Dale) (cs : List Cmd) : State := { flight cs with pipes := [(0, p)], dales := [(0, { x with pipe := some 0 })] }

theorem witness_read (img : List Byte) (h : img.length = 96) :
    cpRead (takenUp (delivered img loadCmd) loadCmd) (readerOf 3) 0 96 = (takenUp (delivered img loadCmd) loadCmd, some (img, .done)) := by
  have e : bytesAt (img.take 64 ++ (img.drop 64 ++ List.replicate 32 0#8)) 0 96 = img := by
    rw [← List.append_assoc, List.take_append_drop]
    simp [bytesAt, h]
  have l0 : lineHeld (takenUp (delivered img loadCmd) loadCmd) 19 0 = some (img.take 64, false) := rfl
  have l1 : lineHeld (takenUp (delivered img loadCmd) loadCmd) 19 64 = some (img.drop 64 ++ List.replicate 32 0#8, false) := rfl
  have l2 : linesOf 0 96 = [0, 64] := by decide
  simp [cpRead, readerOf, l0, l1, l2]; exact e

theorem witness_image : imageFaultOf (takenUp (delivered image loadCmd) loadCmd) 0 image = none := by decide +kernel
theorem witness_Placements :
    (∀ img ∈ [image, noImage], Awaits (delivered img loadCmd) 7 1 loadCmd ∧ MayAct (delivered img loadCmd) loadCmd) ∧ image.length = 96 ∧ noImage.length = 96 ∧
    (loadCmd.w2 = 0 ∧ loadCmd.w3 % 2 ^ 32 = 96 ∧ loadCmd.w3.testBit 32 = false ∧ releaseCmd.w3.testBit 32 = true) ∧
    ((takenUp (delivered image loadCmd) loadCmd).cp.kats = [] ∧ (takenUp (delivered image loadCmd) loadCmd).power.sw = []) ∧
    imageFaultOf (takenUp (delivered noImage loadCmd) loadCmd) 0 noImage = some (.formatError, 0xFFFF, 0xFFFF) ∧
    (Awaits (piped (pipeIn .loaded) live [releaseCmd]) 7 1 releaseCmd ∧ MayAct (piped (pipeIn .loaded) live [releaseCmd]) releaseCmd ∧
      (piped (pipeIn .loaded) live [releaseCmd]).power.sw = []) ∧
    (∀ st ∈ [PipeState.loaded, .idle, .halted, .running], Awaits (piped (pipeIn st) live [cmd 2 0 0 5 0]) 7 2 (cmd 2 0 0 5 0) ∧
      MayAct (piped (pipeIn st) live [cmd 2 0 0 5 0]) (cmd 2 0 0 5 0)) ∧
    (startable .loaded = true ∧ startable .running = false ∧ (∀ d ∈ pipeDales (pipeIn .loaded), d = 0) ∧ live.isolated = false) := by
  unfold Awaits MayAct; decide +kernel

/-- Pipeline 0 in a step, with its dale at work, reported, or isolated. -/
def stepping (reports : Tab (Option Status)) (halting : Option (Option Status)) : Pipe :=
  { pipeIn .running with inStep := true, run := some 3, reports := reports, halting := halting }
def runCmd (taken : Bool) (w2 : Nat) : Cmd := { cmd 3 0 0 w2 0 with taken := taken }
/-- The answer of dale 0 to its run signal, before the command processor. -/
def endReport (n : Nat) : Packet := answerPacket runPacket (daleCol 0) tyEndReport n false []
def runRequest : Request := ⟨5, tyRun, 0, 0, 6000, 0, 0, 0, false⟩
def reporting (n : Nat) : State :=
  let s := come (piped (stepping [] none) live []) cmdCol (endReport n)
  { s with net := { s.net with nis := [(cmdCol, { Ni.reset with out := [runRequest] })] } }
theorem witness_PipelineSteps :
    (∀ st ∈ [PipeState.idle, .halted], Awaits (piped (pipeIn st) live [runCmd false 1]) 7 3 (runCmd false 1) ∧ MayAct (piped (pipeIn st) live [runCmd false 1]) (runCmd false 1)) ∧
    (∀ s ∈ [{ on with net := { on.net with nis := [(cmdCol, { Ni.reset with filled := true })] } }],
      rtValid (routeEntry s cmdCol (0x100 + daleCol 0)) = true ∧ (ni s cmdCol).state < 2) ∧
    (∀ x ∈ [Dale.reset, live], ∀ s ∈ [come (piped (stepping [] none) x []) (daleCol 0) runPacket], servedB s (daleCol 0) runPacket tyRun 1 = true ∧
      (dale s 0).pipe = some 0 ∧ (pipe s 0).st = .running ∧ (pipe s 0).inStep = true ∧ (pipe s 0).halting = none ∧ runPacket.epoch = (pipe s 0).epoch ∧
      (dale s 0).running = x.running ∧ (dale s 0).report = none ∧ (dale s 0).trap = none) ∧
    (∀ n ∈ [0, 1], ∀ s ∈ [reporting n], servedB s cmdCol (endReport n) tyEndReport 1 = true ∧ requestOf s cmdCol (endReport n) [tyRun] = some runRequest ∧
      (dale s 0).pipe = some 0 ∧ (pipe s 0).epoch = 0 ∧ (pipe s 0).st = .running ∧ tget none (pipe s 0).reports 0 = none ∧ (pipe s 0).halting = none) ∧
    statusOf 0 = .done ∧ statusOf 1 ≠ .done ∧
    (∀ w2 ∈ [1, 2], ∀ s ∈ [piped (stepping [(0, some .done)] none) Dale.reset [runCmd true w2]],
      (∀ d ∈ pipeDales (pipe s 0), tget none (pipe s 0).reports d = some .done ∧ (dale s d).isolated = false ∧ (dale s d).poisonSent = 0) ∧
      s.handed = [] ∧ openOptimistic s = [] ∧ (pipe s 0).deferred = [] ∧ (pipe s 0).run = some 3 ∧ cmdAt s 3 = some (runCmd true w2) ∧
      s.cp.inflight.find? (fun x => x.opcode == 3 && x.pipe == 0 && x.taken) = some (runCmd true w2)) ∧
    (∀ s ∈ [piped (stepping [(0, some .aborted)] (some none)) Dale.reset [runCmd true 1]], (pipe s 0).halting.isSome = true ∧
      (∀ d ∈ pipeDales (pipe s 0), dalePartDone s (pipe s 0) d = true ∧ (dale s d).poisonSent = 0) ∧ s.handed = [] ∧ pipeRegions (pipe s 0) = [] ∧ (pipe s 0).disable = none) := by
  unfold Awaits MayAct; decide +kernel

/-- Two commands in flight: a later one of tag 7, and an earlier one of tag 5. -/
def before (op : Nat) (taken : Bool) : Cmd := { cmd op 0 0 2 0 with tag := 5, seq := 1, taken := taken }
def waitsFor (taken : Bool) (ws : List Nat) : Cmd := { cmd 9 0 0 1 0 with taken := taken, waited := ws }
def fnCmd (kind opt : Nat) (taken : Bool) : Cmd := { cmd 7 0 0 (kind + opt * 2 ^ 24) 0 with taken := taken }
theorem witness_CommandControl :
    (Awaits (flight [before 3 false, waitsFor false []]) 7 9 (waitsFor false []) ∧ cmdReady (flight [before 3 false, waitsFor false []]) (waitsFor false []) = true) ∧
    (Awaits (flight [waitsFor true [1]]) 7 9 (waitsFor true [1]) ∧ cmdAt (flight [waitsFor true [1]]) 1 = none) ∧
    (Awaits (flight [before 3 true, waitsFor true [1]]) 7 9 (waitsFor true [1]) ∧ cmdAt (flight [before 3 true, waitsFor true [1]]) 1 ≠ none) ∧
    (Awaits (flight [cmd 6 0 0 5 0]) 7 6 (cmd 6 0 0 5 0) ∧ (flight [cmd 6 0 0 5 0]).cp.inflight.find? (fun x => x.tag == 5 && !x.dup && x.seq < 3) = none) ∧
    (∀ e ∈ [before 6 false, { before 9 false with outcome := some (plainOutcome .done 0 0) }, before 3 false, before 3 true],
      Awaits (flight [e, cmd 6 0 0 5 0]) 7 6 (cmd 6 0 0 5 0) ∧
      (flight [e, cmd 6 0 0 5 0]).cp.inflight.find? (fun x => x.tag == (cmd 6 0 0 5 0).w2 % 65536 && !x.dup && x.seq < 3) = some e ∧
      cmdAt (flight [e, cmd 6 0 0 5 0]) 1 = some e) ∧
    ((pipe (piped (stepping [] none) live [before 3 true, cmd 6 0 0 5 0]) 0).st = .running ∧ (pipe (piped (stepping [] none) live []) 0).halting = none) ∧
    (Awaits (flight [cmd 6 0 0 7 0]) 7 6 (cmd 6 0 0 7 0) ∧ (cmd 6 0 0 7 0).w2 % 65536 = (cmd 6 0 0 7 0).tag) ∧
    (∀ k ∈ [0, 1, 2, 3], ∀ o ∈ [0, 1, 2], ∀ t ∈ [true, false], Awaits (flight [fnCmd k o t]) 7 7 (fnCmd k o t) ∧ fnKind (fnCmd k o t) = k ∧ fnOption (fnCmd k o t) = o ∧
      fnDrained (flight [fnCmd k o t]) (fnCmd k o t) = true ∧ tget none (flight [fnCmd k o t]).cp.off (fnKey (fnCmd k o t)) = none ∧
      unitWork (flight [fnCmd k o t]) k 0 = 0 ∧ (pipe (flight [fnCmd k o t]) 0).disable = none ∧ (peerPort (flight [fnCmd k o t]) 0).epochs = []) ∧
    ((pipe (piped { pipeIn .running with draining := true } live []) 0).draining = true ∧
      (pipe (piped { pipeIn .disabled with disable := some .drained } live []) 0).disable.isSome = true) ∧
    (∀ p ∈ [pipeIn .idle, stepping [] none], Awaits (piped p live [fnCmd 0 1 false]) 7 7 (fnCmd 0 1 false) ∧
      (pipe (piped p live [fnCmd 0 1 false]) 0).affected = false ∧ (pipe (piped p live [fnCmd 0 1 false]) 0).haltStatus = .done ∧
      pipeRegions (pipe (piped p live [fnCmd 0 1 false]) 0) = []) ∧
    (∀ s ∈ [piped { pipeIn .idle with disable := some .poisoned, disableAt := 3 } live [runCmd false 1]], Awaits s 7 3 (runCmd false 1) ∧
      cmdReady s (runCmd false 1) = true ∧ (pipe s 0).disable = some .poisoned ∧ (pipe s 0).disableAt ≤ (runCmd false 1).seq) := by
  unfold Awaits; decide +kernel

/-- SAVE_CONTEXT and RESTORE_CONTEXT of basin 1, which has no stage of the pipeline. -/
def saveCmd (taken : Bool) : Cmd := { cmd 4 1 0 0 64 with taken := taken }
def restoreCmd : Cmd := cmd 5 1 0 0 64
def context : List Byte := leBytes 32 (0x58544C43 + 2 ^ 32 + 2 ^ 48 + 64 * 2 ^ 96) ++ digest32 []
/-- `piped` with one line delivered to the reader of command 3. -/
def delivered1 (b : List Byte) : State :=
  { piped (pipeIn .idle) live [restoreCmd] with cp := { (flight [restoreCmd]).cp with got := [(19, 0, b, false)] } }
theorem witness_saving : (ctxImage (takenUp (piped (pipeIn .idle) live [saveCmd false]) (saveCmd false)) 0 1).2.length + 4 ≤ 64 := by decide +kernel
theorem witness_restore_read (b : List Byte) (h : b.length = 64) :
    cpRead (takenUp (delivered1 b) restoreCmd) (readerOf 3) 0 64 = (takenUp (delivered1 b) restoreCmd, some (b, .done)) := by
  have l0 : lineHeld (takenUp (delivered1 b) restoreCmd) 19 0 = some (b, false) := rfl
  have l2 : linesOf 0 64 = [0] := by decide
  simp [cpRead, readerOf, l0, l2, bytesAt, h, List.take_of_length_le]
theorem witness_context : ctxFault (takenUp (delivered1 context) restoreCmd) 0 1 context = .inr [] := by decide +kernel

/-- KAT_RUN of basin 1 with kernels 0 and 23, and a run of them under way on dale 1; a schedule for basin 1. -/
def katCmd : Cmd := cmd 8 1 0 0x800001 0
def katRun : KatRun := ⟨none, 1, 0x800001, [(1, [0, 23])], [], 0, 0, [], 0, []⟩
def katState : State := { on with dales := [(1, { live with kat := 1 })], cp := { on.cp with kats := [katRun] } }
def schedule : State := { on with od := [(odKey 0x7801 64, 1 * 65536 + 2 ^ 15 + 1)] }
theorem witness_ContextsAndKernels :
    (Awaits (piped (pipeIn .idle) live [saveCmd false]) 7 4 (saveCmd false) ∧ MayAct (piped (pipeIn .idle) live [saveCmd false]) (saveCmd false) ∧
      (pipe (piped (pipeIn .idle) live [saveCmd false]) 0).st = .idle ∧ (saveCmd false).w3 < 2 ^ 32) ∧
    (Awaits (piped (pipeIn .idle) live [saveCmd true]) 7 4 (saveCmd true) ∧ writesPending (piped (pipeIn .idle) live [saveCmd true]) 3 = false ∧
      (∀ d ∈ basinDales 1, (dale (piped (pipeIn .idle) live [saveCmd true]) d).isolated = false)) ∧
    (∀ b ∈ [[], List.replicate 64 0#8], Awaits (delivered1 b) 7 5 restoreCmd ∧ MayAct (delivered1 b) restoreCmd) ∧
    ctxFault (takenUp (delivered1 (List.replicate 64 0#8)) restoreCmd) 0 1 (List.replicate 64 0#8) = .inl (some (.formatError, noBasin)) ∧
    (Awaits (flight [katCmd]) 7 8 katCmd ∧ cmdReady (flight [katCmd]) katCmd = true ∧ basinDales 1 = [1] ∧ dalePlaced (flight [katCmd]) 1 = false ∧
      katHolds (flight [katCmd]) 1 = false ∧ maskKernels katCmd.w2 = [0, 23] ∧ (dale (flight [katCmd]) 1).isolated = false ∧ daleOn (flight [katCmd]) 1 = true) ∧
    (Awaits { piped (pipeIn .idle) live [] with cp := (flight [cmd 8 0 0 1 0]).cp } 7 8 (cmd 8 0 0 1 0) ∧
      (basinDales 0).find? (dalePlaced { piped (pipeIn .idle) live [] with cp := (flight [cmd 8 0 0 1 0]).cp }) = some 0) ∧
    (katState.cp.kats.find? (fun k => k.left.any fun e => e.1 == 1) = some katRun ∧ (dale katState 1).kat = 0 + 1 ∧ 1 ∉ katRun.rerun ∧
      (dale katState 1).isolated = false ∧ katRun.left.find? (fun e => e.1 == 1) = some (1, 0 :: 23 :: [])) ∧
    ((odRaw schedule (odKey 0x7801 64)).testBit 15 = true ∧ odRaw schedule (odKey 0x7801 64) % 4096 ≠ 0 ∧ odRaw schedule (odKey 0x7801 64) / 65536 = 1 ∧
      (policyOf schedule 1).map (·.1) = some 64 ∧ (dale schedule 1).isolated = false ∧ daleOn schedule 1 = true ∧ dalePlaced schedule 1 = false ∧ katHolds schedule 1 = false) := by
  unfold Awaits MayAct; decide +kernel
/-- A digest that is that of a kernel, and one that is not. -/
theorem witness_digests : (∃ d, d = Config.katDigest 0) ∧ (∃ d, d ≠ Config.katDigest 0) := ⟨⟨_, rfl⟩, ⟨Config.katDigest 0 ++ [0#8], fun h => by simpa using congrArg List.length h⟩⟩


/-! ### Streams and gathers -/

/-- A block of a kind, bound to slot 1: 64 rows of 64 BF16 elements. -/
def blk (kind : Nat) (out : Bool) : Block :=
  ⟨kind, out, false, 1, 64, 64, .bf16, 0, 0xFFFFFFFFFE000, 128, 0, 0, false, 9, 8, true, 0, 0, [], 0, 0, [], [], [], none⟩
/-- Dale 0 with channel 15 as given, and slots 1 and 2. -/
def chanState (x1 : Nat) (h : Channel) : State :=
  dale0 { regs (BitVec.ofNat 64 x1) 2#64 with channels := [(15, h)], t := [(1, some slotD), (2, some { slotD with cls := true, base := 0x20000, fill := 0 })] }
def listed (ws : List (List W64)) (bs : List Block) : Channel := { Channel.reset with isOpen := true, listOff := 0xBFFE0, fetched := ws, blocks := bs }
/-- An inbound block of R229, the last of its list. -/
def inWords : List W64 := [0#64, BitVec.ofNat 64 (2 ^ 57 + 5 * 2 ^ 48 + 64 * 2 ^ 35 + 64 * 2 ^ 19), 128#64, 0#64]
def sst (s : Nat) : RInst := { rr with s := s, d := 2, imm := 15#18 }
/-- A port is idle where no block of the dale is a port's and no queue of it is bound. -/
theorem idle_of (s : State) (h : ∀ e ∈ (dale s 0).channels, ∀ b ∈ e.2.blocks, isPort b = false ∧ b.begun = true) (g : (dale s 0).portIn = []) : PortsIdle s 0 := by
  refine ⟨fun c b q => ?_, fun q => by simp [g, tget, PortQueue.reset]⟩
  by_cases n : chanOf (dale s 0) c = Channel.reset
  · simp [frontBlock, n, Channel.reset] at q
  · obtain ⟨e, m, r⟩ := tget_mem _ _ c _ rfl n
    exact h e m b (r ▸ List.mem_of_mem_head? q)

theorem witness_SSTART :
    (queueOf (dale (chanState 0xBFFE0 Channel.reset) 0) 6 = [] ∧ canIssue (chanState 0xBFFE0 Channel.reset) 0 = true ∧ immR (sst 1) % 16 = 15 ∧
      (chanOf (dale (chanState 0xBFFE0 Channel.reset) 0) 15).halted = none ∧ (sst 1).s % 32 ≠ 0 ∧ (chanOf (dale (chanState 0xBFFE0 Channel.reset) 0) 15).opening = false ∧
      (xget (dale (chanState 0xBFFE0 Channel.reset) 0) (sst 1).s).toNat = 0xBFFE0) ∧
    (∀ h ∈ [listed [inWords] [blk 0 false], { listed [inWords] [blk 0 false] with opening := true }], ∀ f ∈ [sst 0, sst 1], f.s = 0 ∨ h.opening = true →
      (f.s % 32 = 0 ∨ (chanOf (dale (chanState 0 h) 0) 15).opening = true) ∧ chanOf (dale (chanState 0 h) 0) 15 = h ∧ canIssue (chanState 0 h) 0 = true ∧
      hazard (dale (chanState 0 h) 0) (encR 6 1 f) inWords = false ∧ smConflict (dale (chanState 0 h) 0) (some 15) f.d (!descReads inWords) = false) := by decide +kernel
theorem witness_SSTART_ports : PortsIdle (chanState 0 (listed [inWords] [blk 0 false])) 0 := idle_of _ (by decide +kernel) (by decide)
/-- The nonzero bytes of a number at an address, and a descriptor at the end of the store: only its word 1 is not zero. -/
def memOf (a n w : Nat) : List (Nat × Byte) :=
  (List.range n).filterMap fun i => if w / 2 ^ (8 * i) % 256 = 0 then none else some (a + i, BitVec.ofNat 8 (w / 2 ^ (8 * i)))
def listState : State :=
  { chanState 0 (listed [] []) with mem := memOf (daleBase 0 + 0xBFFE8) 8 (2 ^ 57 + 5 * 2 ^ 48 + 64 * 2 ^ 35 + 64 * 2 ^ 19) }
def listWords : List W64 := [0#64, BitVec.ofNat 64 (2 ^ 57 + 5 * 2 ^ 48 + 64 * 2 ^ 35 + 64 * 2 ^ 19), 0#64, 0#64]
theorem witness_list : DescAt listState 0 0xBFFE0 listWords := by
  refine ⟨rfl, fun i w hi h => ?_⟩
  have g : ∀ i, i < 4 → synOf listState (daleBase 0 + 0xBFFE0 + 8 * i) = 0 ∧
      leNat (memBytes listState (daleBase 0 + 0xBFFE0 + 8 * i) 8) = (listWords.getD i 0#64).toNat := by decide +kernel
  simpa [List.getD_eq_getElem?_getD, h] using g i hi
/-- A multicast of group 5 from dale 0 to dales 1 and 2 by route 3, and its leaf's block. -/
def mcastBlk : Block := { blk 2 false with args := 3 * 2 ^ 52 + 5 * 2 ^ 38 }
def leafBlk : Block := { blk 3 false with args := 2 * 2 ^ 55 + 5 * 2 ^ 47 }
def sending (b : Block) : State :=
  { chanState 0 (listed [] [b]) with net := { on.net with nis := [(daleCol 0, { Ni.reset with routes := [(3, 2 ^ 127 + 2 ^ 126 + 2 ^ 118 + 2 ^ 48 + 4)] })] } }
/-- A command of a multicast from the col of a dale: its type, status, and the ROWS and ELEMS of its payload. -/
def mcastPk (typ sender status rows : Nat) : Packet :=
  { pkt with plane := 2, typ := typ, srcCol := daleCol sender, aux := 5, status := status, payload := bytesAt (leBytes 2 rows ++ leBytes 2 64) 0 16 }
theorem witness_only15 (b : Block) (c : Nat) (p : Packet) (k : Nat) (h : k ≠ 15) : frontBlock (come (sending b) c p) 0 k = none := by
  have e : (dale (come (sending b) c p) 0).channels = [(15, listed [] [b])] := rfl
  simp [frontBlock, chanOf, e, tget, Ne.symm h, Channel.reset]
/-- A copy that waits in the stream queue. -/
def copying : State := { chanState 0 Channel.reset with
  dales := [(0, { dale (chanState 0 Channel.reset) 0 with queues := [(6, [⟨0, encR 6 2 { rr with a := 1, d := 2 }, 0, [], false⟩])] })] }
theorem witness_StreamBlocks :
    ((chanOf (dale listState 0) 15).isOpen = true ∧ (chanOf (dale listState 0) 15).ended = false ∧ (chanOf (dale listState 0) 15).halted = none ∧
      (chanOf (dale listState 0) 15).fetched = [] ∧ daleOn listState 0 = true ∧ (dale listState 0).isolated = false ∧
      (chanOf (dale listState 0) 15).listOff = 0xBFFE0 ∧ wbits (listWords.getD 1 0#64) 63 60 ≠ 15 ∧ wbits (listWords.getD 1 0#64) 57 57 = 1) ∧
    (Goes (chanState 0 Channel.reset) 6 [2] { rr with a := 1, d := 2 } ∧
      slotOf (dale (chanState 0 Channel.reset) 0) 1 = some slotD ∧ slotOf (dale (chanState 0 Channel.reset) 0) 2 = some { slotD with cls := true, base := 0x20000, fill := 0 } ∧
      smConflict (dale (issued (chanState 0 Channel.reset) 0) 0) none 1 false = false ∧ smConflict (dale (issued (chanState 0 Channel.reset) 0) 0) none 2 true = false ∧
      slotEnd slotD ≤ 0x20000) ∧
    (∀ s ∈ [chanState 0 (listed [] [blk 0 false])], frontBlock s 0 15 = some (blk 0 false) ∧ daleOn s 0 = true ∧ (dale s 0).isolated = false ∧ (ni s (daleCol 0)).state = 0 ∧
      requestReady s 0 15 = true ∧ (∀ k, k < 16 → k ≠ 15 → requestReady s 0 k = false) ∧
      (pieceAt (blk 0 false) 0 0).1 + (pieceAt (blk 0 false) 0 0).2 ≤ 2 ^ 52) ∧
    (∀ e ∈ (smNext (dale copying 0)).toList, wclass e.word = 6 ∧ wop e.word = 2 ∧ decR e.word = { rr with a := 1, d := 2 }) ∧
    (smNext (dale copying 0)).isSome = true := by unfold Goes; decide +kernel
theorem witness_multicast :
    (∀ n ∈ [63, 64], ∀ q ∈ [mcastPk tyMcastReady 1 0 n], ∀ s ∈ [come (sending mcastBlk) (daleCol 0) q], servedB s (daleCol 0) q tyMcastReady 1 = true ∧
      lacksReady s 0 q.aux 1 = some 15 ∧ frontBlock s 0 15 = some mcastBlk ∧ fieldAt q.payload 0 2 = n ∧ fieldAt q.payload 2 2 = 64 ∧ mcastBlk.kind = 2) ∧
    (∀ q ∈ [mcastPk tyMcastReady 1 0 64], ∀ s ∈ [come (sending (blk 0 false)) (daleCol 0) q], servedB s (daleCol 0) q tyMcastReady 1 = true ∧
      lacksReady s 0 q.aux 1 = none ∧ (dale s 0).cancels = []) ∧
    (∀ st ∈ [0, 1], ∀ q ∈ [mcastPk tyMcastAck 1 st 0], ∀ s ∈ [come (sending mcastBlk) (daleCol 0) q], servedB s (daleCol 0) q tyMcastAck 1 = true ∧
      lacksAck s 0 q.aux 1 = some 15 ∧ frontBlock s 0 15 = some mcastBlk ∧ 2 ∈ leafDales s 0 mcastBlk ∧ 2 ∉ mcastBlk.acked ∧
      (chanOf (dale s 0) 15).latched = none) ∧
    (∀ q ∈ [mcastPk tyMcastCancel 2 1 0], ∀ s ∈ [come (sending leafBlk) (daleCol 0) q], servedB s (daleCol 0) q tyMcastCancel 1 = true ∧
      takesGroup s 0 2 q.aux = some 15 ∧ frontBlock s 0 15 = some leafBlk ∧ takesGroup (come (sending (blk 0 false)) (daleCol 0) q) 0 2 q.aux = none ∧
      servedB (come (sending (blk 0 false)) (daleCol 0) q) (daleCol 0) q tyMcastCancel 1 = true) := by decide +kernel
theorem witness_tcopy_clean : StoreClean (chanState 0 Channel.reset) 0 ∧ SlotFits { slotD with cls := true, base := 0x20000, fill := 0 } :=
  ⟨clean_of _ (by decide) (by decide), ⟨by decide, by decide, by decide, by decide, by decide⟩⟩
theorem witness_request_ports : PortsIdle (chanState 0 (listed [] [blk 0 false])) 0 := idle_of _ (by decide +kernel) (by decide)

/-- Engine 7 with a lookup of row 63 of the block of channel 15; the live bank holds the key at way 0, in cache line 2 on, or nothing. -/
def look (key : Nat) : Lookup := ⟨0, 15, 9, 63, key, 128⟩
def gblk : Block := { blk 1 false with space := 1, addr := 0x4700000000, rowStride := 256 }
def gathering (key : Nat) (held : Bool) : State :=
  { chanState 0 (listed [] [gblk]) with
    dales := [(0, { regs 0#64 0#64 with channels := [(15, listed [] [gblk])], t := [(1, some { slotD with cls := true, fill := 0 })] })],
    gathers := [(stackOf 0x4700000000, { Gather.reset with
      bank0 := if held then [(gatherPos [] key 0, 2 ^ 84 + 2 ^ 81 + 2 * 2 ^ 64 + key)] else [], waiting := [look key] })] }
/-- Engine 7 once it has taken the lookup. -/
def taken7 (held : Bool) : Gather := { gather (gathering 5 held) (stackOf 0x4700000000) with waiting := [] }
def entry7 : Nat := 2 ^ 84 + 2 ^ 81 + 2 * 2 ^ 64 + 5
theorem witness_lookup : ∀ held ∈ [true, false], stackOf 0x4700000000 < 8 ∧
    (gather (gathering 5 held) (stackOf 0x4700000000)).waiting.find? (fun l => l.dale == 0 && l.chan == 15 && l.row == 63) = some (look 5) ∧
    domainOn (gathering 5 held) (144 + stackOf 0x4700000000) = true ∧ (gather (gathering 5 held) (stackOf 0x4700000000)).misses.length + piecesOf (gblk.addr + (look 5).key * gblk.rowStride) (look 5).len ≤ 2048 ∧
    frontBlock (gathering 5 held) 0 15 = some gblk ∧ gblk.begun = true ∧ gblk.no = (look 5).no ∧
    { gather (gathering 5 held) (stackOf 0x4700000000) with waiting := (gather (gathering 5 held) (stackOf 0x4700000000)).waiting.erase (look 5) } = taken7 held := by
  decide +kernel
theorem witness_find : gatherFind (taken7 true) 5 128 = (taken7 true, some entry7) ∧ deSlot entry7 = 2 ∧ gatherFind (taken7 false) 5 128 = (taken7 false, none) := by decide +kernel
theorem witness_lines : readLines (taken7 true) 2 ((128 + 63) / 64) [] false = .inl (taken7 true, List.replicate 128 0#8, false) := by decide +kernel
theorem witness_gblk : gblk.kind = 1 ∧ gblk.outbound = false ∧ gblk.transpose = false ∧ isOperand gblk = false ∧ gatherIdentity gblk = false ∧ 128 = remBytes gblk ∧
    63 < gblk.rows ∧ 2 ≤ gblk.rows ∧ 0 < (look 5).len ∧ (look 5).row = 63 ∧ gblk.done = 0 ∧ gblk.raw = [] ∧ gblk.args / 2 ^ 48 = 0 ∧ slotD.fmt = gblk.fmt ∧ gblk.rows ≤ slotD.rows ∧
    slotOf (dale (gathering 5 true) 0) 1 = some { slotD with cls := true, fill := 0 } ∧ (0 : Nat).testBit 63 = false ∧ (gblk.addr + 5 * gblk.rowStride) % 256 + 128 ≤ 256 ∧
    gblk.addr + 5 * gblk.rowStride + 128 ≤ 0x4800000000 ∧ stackOf (gblk.addr + 5 * gblk.rowStride) = stackOf 0x4700000000 := by decide +kernel

/-- Engine 7 in a phase of a reload, its list registers as given. -/
def reloading (phase dir : Nat) (n : Nat := 0) : State := { wins [(dirWin 7 0x08, dir), (dirWin 7 0x18, n)] with gathers := [(7, { Gather.reset with phase := phase })] }
theorem witness_GatherEngines :
    ((gather on 7).phase = 0 ∧ (2 ^ 31 + 131072) % 2 ^ 18 ≤ 131072 ∧ 131072 < 131073 % 2 ^ 18 ∧ (gather (reloading 1 0) 7).phase ≠ 0) ∧
    (∀ dir ∈ [0, 1, 64], (gather (reloading 1 dir) 7).phase = 1 ∧ (gather (reloading 1 dir) 7).misses = [] ∧ domainOn (reloading 1 dir) 151 = true ∧
      winGet (reloading 1 dir) (dirWin 7 0x08) = dir ∧ winGet (reloading 1 dir) (dirWin 7 0x10) = 0 ∧ winGet (reloading 1 dir) (dirWin 7 0x18) = 0) ∧
    (gather (reloading 3 0) 7).phase = 3 := by decide +kernel
/-- Reading clean words that hold nothing. -/
theorem clean_word (s : State) (h : s.synd = []) (a : Nat) : hbmWord s a = (s, .done) := by simp [hbmWord, synOf, h, tget, eccDecode]
theorem clean_words (s : State) (h : s.synd = []) (ws : List Nat) : ws.foldl hbmReadStep (s, .done) = (s, .done) := by
  induction ws with
  | nil => rfl
  | cons w ws ih => simpa [List.foldl_cons, hbmReadStep, clean_word s h w, worse] using ih
theorem clean_read (s : State) (h : s.synd = []) (g : s.hbm = []) (a n src : Nat) : hbmRead s a n src = (s, memBytes s a n, .done) := by
  have e : ∀ t ws, hbmUeEvent s t 0 ws src = t := fun t ws => by
    have : ws.find? (fun w => eccDecode (wordAt s w) (synOf s w) = .uncorrectable) = none :=
      List.find?_eq_none.2 fun w _ => by simp [synOf, h, tget, eccDecode]
    simp only [hbmUeEvent, this]
  have f : ∀ l : List (Nat × Nat), l.foldl (fun t b => hbmUeEvent s t 0 (wordsOf b.1 b.2) src) s = s := fun l => by
    induction l with
    | nil => rfl
    | cons b l ih => simpa [List.foldl_cons, e] using ih
  have q : (wordsOf a n).filter (writeQueued s) = [] := List.filter_eq_nil_iff.2 fun w _ => by simp [writeQueued, stk, g, tget, Stack.reset]
  simp only [hbmRead, hbmAfter, hbmReadWords, clean_words s h, keepQueued, q, List.foldl_nil, f]
theorem zero_field (s : State) (h : s.mem = []) (a n off : Nat) : fieldAt (memBytes s a n) off 16 = 0 := by
  have z : ∀ l : List Byte, (∀ b ∈ l, b = 0#8) → leNat l = 0 := by
    intro l; induction l with
    | nil => intro _; rfl
    | cons b l ih => intro g; simp [leNat, g b (by simp), ih fun x m => g x (by simp [m])]
  refine z _ fun b m => ?_
  simp only [bytesAt, List.mem_append, List.mem_replicate] at m
  rcases m with m | m
  · have := List.mem_of_mem_drop (List.mem_of_mem_take m)
    simp only [memBytes, List.mem_map] at this
    obtain ⟨i, -, rfl⟩ := this
    simp [memGet, h, tget, memDefault]
  · exact m.2
theorem witness_reload (n : Nat) : ∀ s, s = reloading 1 0 n →
    hbmRead s 0 2097152 (gatherCol 7) = (s, memBytes s 0 2097152, .done) ∧ imageEntries (memBytes s 0 2097152) = [] ∧
    hbmRead s 0 (16 * n) (gatherCol 7) = (s, memBytes s 0 (16 * n), .done) ∧ (∀ seeds, imageFault seeds [] [] = none) := by
  intro s e
  refine ⟨clean_read s (e ▸ rfl) (e ▸ rfl) 0 2097152 _, ?_, clean_read s (e ▸ rfl) (e ▸ rfl) _ _ _, fun _ => rfl⟩
  simp only [imageEntries, List.filterMap_eq_nil_iff]
  intro i _
  rw [zero_field s (e ▸ rfl)]; rfl
/-- A list of no runs loads; a run of no lines is refused. -/
theorem witness_runs : (∀ g bs v, firstRunFault g (runList 0 bs) = none ∧ loadRuns 7 (runList 0 bs) v = (v, none)) ∧
    firstRunFault (gather (reloading 1 0 1) 7) (runList 1 (memBytes (reloading 1 0 1) 0 (16 * 1))) = some (4, 0) :=
  ⟨fun _ _ _ => ⟨rfl, rfl⟩, by decide +kernel⟩

/-! ### The network -/

/-- A packet of a type for an address, from the col of dale 0 one step east, its payload in whole pieces of 16 bytes. -/
def pk (typ addr aux : Nat) (payload : List Byte) : Packet :=
  { plane := 2, prio := 3, age := 0, typ := typ, len := (payload.length + 15) / 16, hops := 1, hop := 0, run := 0, turns := 1, srcCol := daleCol 0, tag := 7,
    status := 0, epoch := 0, addr := addr, spurLen := 0, spurLeft := 0, spur := false, aux := aux, poison := false,
    payload := bytesAt payload 0 (16 * ((payload.length + 15) / 16)), dir := 0, hdrBad := 0, dataBad := 0 }

/-- The border col of the east edge die injects a READ, metered or not, or goes on with a WRITE; a col holds flits in its local buffer. -/
def injecting (bucket : Nat) : State :=
  { on with net := { on.net with nis := [(611, { Ni.reset with buckets := [(3, bucket)], toInject := [pk tyRead 0 255 []] })] } }
def wr64 : Packet := pk tyWrite 0 63 (List.replicate 64 1#8)
def writing : State := { on with net := { on.net with nis := [(611, { Ni.reset with sending := [(sendKey wr64, some (wr64, 1))] })] } }
def holding (c : Nat) (p : Packet) : State := { on with net := { on.net with bufs := [(bufKey c 5 2 (vcOf p.typ), (List.range (flitsOf p)).map (flitAt p))] } }
def consuming (c : Nat) (p : Packet) : State := { holding c p with net := { (holding c p).net with nis := [(c, { Ni.reset with state := 3 })] } }
/-- Col 35 with the second flit of a WRITE whose head has left east. -/
def wormed : State :=
  { on with net := { on.net with bufs := [(bufKey 35 5 2 0, [flitAt wr64 1])], worms := [(bufKey 35 5 2 0, some ⟨wr64, [(1, wr64)], none, 0, none⟩)],
                                 owners := [(bufKey 35 1 2 0, some 5)] } }
theorem witness_injects :
    (∀ s ∈ [injecting 0, injecting (2 ^ 31 + 1)], NoProbes s ∧ tget none (ni s 611).sending (sendKey (pk tyRead 0 255 [])) = none ∧
      (ni s 611).toInject.find? (fun q => sendKey q == sendKey (pk tyRead 0 255 [])) = some (sound (pk tyRead 0 255 [])) ∧
      creditsUsed s (bufKey 611 5 2 (vcOf tyRead)) < 8) ∧
    ((tget 0 (ni (injecting 0) 611).buckets 3).testBit 31 = false ∧ (tget 0 (ni (injecting (2 ^ 31 + 1)) 611).buckets 3).testBit 31 = true ∧
      isCharged (pk tyRead 0 255 []) = true ∧
      bucketGain (tget 0 (ni (injecting (2 ^ 31 + 1)) 611).buckets 3) (tget 0 (ni (injecting (2 ^ 31 + 1)) 611).levels 3) < chargeOf (pk tyRead 0 255 []) * 256) ∧
    (NoProbes writing ∧ flitsOf wr64 = 2 ∧ creditsUsed writing (bufKey 611 5 2 (vcOf tyWrite)) < 8 ∧ tget none (ni writing 611).sending (sendKey wr64) = some (wr64, 1)) ∧
    8 ≤ creditsUsed { injecting 0 with net := { (injecting 0).net with credits := [(bufKey 611 5 2 0, 8)] } } (bufKey 611 5 2 0) := by unfold NoProbes; decide +kernel
/-- No other flit, and no output held by another virtual channel. -/
def aloneB (s : State) (c port plane vc : Nat) : Bool :=
  (inputPorts.all fun q => (List.range 4).all fun v => (q == port && v == vc) || (bufOf s (bufKey c q plane v)).isEmpty) &&
    (List.range 5).all fun o => (List.range 4).all fun v => v == vc || tget none s.net.owners (bufKey c o plane v) == none
theorem alone_of (s : State) (c port plane vc : Nat) (h : aloneB s c port plane vc = true) : AloneAt s c port plane vc := by
  simp only [aloneB, Bool.and_eq_true, List.all_eq_true, Bool.or_eq_true, beq_iff_eq, List.isEmpty_iff, List.mem_range] at h
  exact ⟨fun q m v g n => (h.1 q m v g).resolve_left n, fun o v a b n => (h.2 o a v b).resolve_left n⟩
theorem witness_forwards :
    (∀ p ∈ [pk tyRead 0 255 [], { pk tyRead 0 255 [] with hop := 1 }, wr64, { pk tyRead 0 255 [] with hdrBad := 2 ^ 23 }], NoProbes (holding 35 p) ∧
      (bufOf (holding 35 p) (bufKey 35 5 2 0)).head? = some (flitAt p 0) ∧ aloneB (holding 35 p) 35 5 2 0 = true ∧ (flitAt p 0).head = true ∧
      (flitAt p 0).hdr = some (sound { p with payload := [] }) ∧ (flitAt p 0).dataBad = 0) ∧
    (hdrFaultOf (flitAt wr64 0).hdrBad tyWrite = none ∧ (flitAt wr64 0).tail = false ∧
      takenOutputs (holding 35 wr64) 35 (sound { wr64 with payload := [] }) none = (colOutputs (sound { wr64 with payload := [] }), none) ∧
      (colOutputs (sound { wr64 with payload := [] })).map (·.1) = [1] ∧ tget none (holding 35 wr64).net.owners (bufKey 35 1 2 0) = none ∧
      hasRoom (holding 35 wr64) 35 1 2 0 1 = true) ∧
    (colOutputs { pk tyRead 0 255 [] with hop := 1 } = [(4, { pk tyRead 0 255 [] with hop := 1 })] ∧ hasRoom (holding 35 { pk tyRead 0 255 [] with hop := 1 }) 35 4 2 0 1 = true ∧
      takenOutputs (holding 35 { pk tyRead 0 255 [] with hop := 1 }) 35 { pk tyRead 0 255 [] with hop := 1 } none = ([(4, { pk tyRead 0 255 [] with hop := 1 })], none)) ∧
    (aloneB wormed 35 5 2 0 = true ∧ NoProbes wormed ∧ (flitAt wr64 1).head = false ∧ (flitAt wr64 1).hdr = none ∧
      tget none wormed.net.worms (bufKey 35 5 2 0) = some ⟨wr64, [(1, wr64)], none, 0, none⟩ ∧ outBuf 35 1 2 0 = some (bufKey 36 3 2 0) ∧
      creditsUsed wormed (bufKey 36 3 2 0) < 8) ∧
    (aloneB (consuming 35 { pk tyRead 0 255 [] with hop := 1 }) 35 5 2 0 = true ∧ NoProbes (consuming 35 { pk tyRead 0 255 [] with hop := 1 }) ∧
      (takenOutputs (consuming 35 { pk tyRead 0 255 [] with hop := 1 }) 35 { pk tyRead 0 255 [] with hop := 1 } none).1 = [] ∧
      (takenOutputs (consuming 35 { pk tyRead 0 255 [] with hop := 1 }) 35 { pk tyRead 0 255 [] with hop := 1 } none).2.isSome = true ∧
      (flitAt { pk tyRead 0 255 [] with hop := 1 } 0).tail = true) ∧
    (firstSet (flitAt { pk tyRead 0 255 [] with hdrBad := 2 ^ 23 } 0).hdrBad 24 = some 23 ∧ (flitAt { pk tyRead 0 255 [] with hdrBad := 2 ^ 23 } 0).tail = true) := by
  unfold NoProbes; decide +kernel

/-- Accesses of 256 bytes at the ends of a store and of HBM; a packet before the unit of its col. -/
def fullWrite (a : Nat) : Packet := pk tyWrite a 255 (List.replicate 256 1#8)
theorem witness_NetworkRequests :
    (∀ a ∈ [daleBase 511 + 0xBFF00], a % 256 + packetBytes (pk tyRead a 255 []) ≤ 256 ∧ regionOf a = .store 511 0xBFF00 ∧
      servedB (come on (daleCol 511) (pk tyRead a 255 [])) (daleCol 511) (pk tyRead a 255 []) tyRead 1 = true ∧
      servedB (come on (daleCol 511) (fullWrite a)) (daleCol 511) (fullWrite a) tyWrite 8 = true ∧
      0xBFF00 + packetBytes (pk tyRead a 255 []) ≤ storeBytes ∧ packetBytes (fullWrite a) ≤ (fullWrite a).payload.length) ∧
    ((dale on 511).partner = none ∧ 256 < 1 % 256 + packetBytes (pk tyRead 1 255 []) ∧ servedB (come on 0 (pk tyRead 1 255 [])) 0 (pk tyRead 1 255 []) tyRead 1 = true) ∧
    (∀ a ∈ [0, 0x47FFFFFF00], a % 256 + packetBytes (pk tyRead a 255 []) ≤ 256 ∧ regionOf a = .hbm ∧
      servedB (come on (hbmCol (stackOf a) (pcOf a / 4)) (pk tyRead a 255 [])) (hbmCol (stackOf a) (pcOf a / 4)) (pk tyRead a 255 []) tyRead 1 = true ∧
      servedB (come on (hbmCol (stackOf a) (pcOf a / 4)) (fullWrite a)) (hbmCol (stackOf a) (pcOf a / 4)) (fullWrite a) tyWrite 8 = true ∧
      servedB (come on (hbmCol (stackOf a) (pcOf a / 4)) (pk tyTrace a 0 [5#8])) (hbmCol (stackOf a) (pcOf a / 4)) (pk tyTrace a 0 [5#8]) tyTrace 1 = true) ∧
    (∀ v ∈ [1, 2 ^ 32 - 1], colDale (daleCol 511) = some 511 ∧
      servedB (come on (daleCol 511) (pk tySeminc 0 31 (leBytes 4 v))) (daleCol 511) (pk tySeminc 0 31 (leBytes 4 v)) tySeminc 1 = true ∧
      0 < leNat ((pk tySeminc 0 31 (leBytes 4 v)).payload.take 4) ∧
      semOf (dale on 511) (31 % 32) + leNat ((pk tySeminc 0 31 (leBytes 4 v)).payload.take 4) ≤ 0xFFFFFFFF ∧ (dale on 511).blocked = none ∧ (dale on 511).isPartner = false) ∧
    (∀ a ∈ [winBase + 0x20000 + 0x10 * 511], inWindow a = true ∧ windowCol a = daleCol 511 ∧ regionOf a = .window ∧ packetBytes (pk tyRead a 3 []) ≤ 8 ∧
      servedB (come on (daleCol 511) (pk tyRead a 3 [])) (daleCol 511) (pk tyRead a 3 []) tyRead 1 = true ∧
      servedB (come on (daleCol 511) (pk tyCtrlRead a 0 [])) (daleCol 511) (pk tyCtrlRead a 0 []) tyCtrlRead 1 = true ∧
      servedB (come on (daleCol 511) (pk tyCtrlWrite a 0 (leBytes 4 0))) (daleCol 511) (pk tyCtrlWrite a 0 (leBytes 4 0)) tyCtrlWrite 1 = true ∧
      leNat ((pk tyCtrlWrite a 0 (leBytes 4 0)).payload.take 4) = 0) ∧
    (inWindow 0 = false ∧ windowCol winBase ≠ daleCol 0) := by decide +kernel
theorem witness_CleanWords : CleanWords on 511 0xBFF00 256 := fun _ _ => rfl

/-- A request outstanding at dale 0 that its block 9 waits on. -/
def req (typ : Nat) : Request := ⟨7, typ, 0, 64, 0, 15, 63 * 65536, 9, true⟩
def awaitingAns (kind typ : Nat) : State :=
  { chanState 0 (listed [] [{ blk kind false with waiting := 2, args := 0 }]) with net := { on.net with nis := [(daleCol 0, { Ni.reset with out := [req typ] })] } }
def respond (typ : Nat) (st : Status) : Packet := { pk typ 0 0 (List.replicate 64 1#8) with status := statusCode st, tag := if typ = tyMcast then 63 else 7 }
/-- A col draining, or absorbing, for a domain's switch. -/
def gating (c st : Nat) (out : List Request) (sw : Tab (Option Switch)) : State :=
  { on with net := { on.net with nis := [(c, { Ni.reset with state := st, out := out }), (saddleCol, { Ni.reset with out := [⟨7, tyDrainReq, 0, 0, 5000, 0, 35, 0, true⟩] })] },
            power := { on.power with sw := sw } }
def off151 : Tab (Option Switch) := [(151, some ⟨true, false, 0, 0, [35, 36], false, none⟩)]
/-- An answer before the interface that awaits it. -/
def answered (kind reqTyp typ : Nat) (st : Status) : State := come (awaitingAns kind reqTyp) (daleCol 0) (respond typ st)
theorem witness_answers :
    (∀ e ∈ [(tyReadResp, tyRead, 0, 2), (tyWriteAck, tyWrite, 0, 2), (tyMcast, tyRead, 3, 2), (tySemincAck, tySeminc, 0, 2), (tyCtrlResp, tyCtrlRead, 0, 2),
        (tyCtrlResp, tyCtrlWrite, 0, 2)],
      ∀ st ∈ [Status.done, .targetIsolated], ∀ s ∈ [answered e.2.2.1 e.2.1 e.1 st], servedB s (daleCol 0) (respond e.1 st) e.1 e.2.2.2 = true ∧
        statusOf (respond e.1 st).status = st ∧ (e.1 = tyMcast ∨ requestOf s (daleCol 0) (respond e.1 st) [e.2.1] = some (req e.2.1)) ∧
        frontBlock s 0 15 = some { blk e.2.2.1 false with waiting := 2, args := 0 } ∧ (blk e.2.2.1 false).begun = true ∧ (blk e.2.2.1 false).no = 9 ∧
        isOperand (blk e.2.2.1 false) = false ∧ (slotOf (dale s 0) 1).isSome = true ∧ (dale s 0).trap = none) ∧
    (colDale (daleCol 0) = some 0 ∧ daleCol (senderOf { blk 3 false with args := 0 }) = (respond tyMcast .done).srcCol ∧
      groupOf { blk 3 false with args := 0 } = (respond tyMcast .done).aux) ∧
    (∀ e ∈ (dale (answered 3 tyRead tyMcast .done) 0).channels, ∀ q ∈ e.2.blocks.head?, q.kind ≠ 2 ∧ (q.kind = 3 → e.1 = 15)) := by decide +kernel
theorem witness_RowsShort : ∀ b, b = takeBytes { blk 0 false with waiting := 1, args := 0 } 63 0 (List.replicate 64 1#8) false → RowsShort b := by
  intro b e; subst e; unfold RowsShort; decide +kernel
theorem witness_McastShort : ∀ b, b = takeBytes { blk 3 false with waiting := 2, args := 0 } 63 0 (List.replicate 64 1#8) false → RowsShort b := by
  intro b e; subst e; unfold RowsShort; decide +kernel
/-- The answer to a drain before the saddle. -/
def drainDone (sw : Tab (Option Switch)) : State := come (gating 35 3 [] sw) saddleCol (pk tyDrainDone 0 0 [])
theorem witness_NetworkAnswers :
    (servedB (come on 35 (pk tyDrainReq 0 0 [])) 35 (pk tyDrainReq 0 0 []) tyDrainReq 1 = true ∧
      (domainOfCol (gating 35 1 [] off151) 35).isSome = true ∧ (ni (gating 35 1 [] off151) 35).state = 1 ∧ (ni (gating 35 1 [] off151) 35).out = [] ∧
      (ni (gating 35 1 [] off151) 35).toInject = [] ∧ (ni (gating 35 1 [] off151) 35).sending = [] ∧ accepted (gating 35 1 [] off151) 35 = 0) ∧
    (ni (gating 35 1 [req tyRead] off151) 35).out ≠ [] ∧
    (∀ sw ∈ [[], off151], servedB (drainDone sw) saddleCol (pk tyDrainDone 0 0 []) tyDrainDone 1 = true ∧
      requestOf (drainDone sw) saddleCol (pk tyDrainDone 0 0 []) [tyDrainReq] = some ⟨7, tyDrainReq, 0, 0, 5000, 0, 35, 0, true⟩) ∧
    (domainOfCol (drainDone []) 35 = none ∧ domainOfCol (drainDone off151) 35 = some 151 ∧
      switchOf (drainDone off151) 151 = some ⟨true, false, 0, 0, [35, 36], false, none⟩) ∧
    (∀ v ∈ [3 * 2 ^ 28, 6 * 2 ^ 25, 612], ∀ w ∈ [Nat.land v 0xFE0003FF], w / 2 ^ 28 % 4 = 3 ∨ 5 < w / 2 ^ 25 % 8 ∨ 611 < w % 1024) ∧
    (∀ w ∈ [Nat.land (2 ^ 31 + 2 ^ 29 + 5 * 2 ^ 25 + 611) 0xFE0003FF],
      ¬ (w / 2 ^ 28 % 4 = 3 ∨ 5 < w / 2 ^ 25 % 8 ∨ 611 < w % 1024 ∨ (probeOn on 31 = true ∧ w % 2 ^ 31 ≠ winGet on (probeWin 31 0) % 2 ^ 31))) ∧
    probeOn (wins [(probeWin 31 0, 2 ^ 31)]) 31 = true := by decide +kernel

/-! ### HBM controllers -/

/-- Stack 7's controller as given, its training and fill done; and the bank of the last 64 bytes of HBM. -/
def stacked (v : Stack) : State := { wins [(hbmWin 7 0, 2 ^ 32 - 1)] with hbm := [(7, v)] }
def bank7 : Nat := bankKey 0x47FFFFFFC0
/-- A request of the last 64 bytes of HBM, of pseudo-channel 31. -/
def hreq (wr : Bool) : HbmReq :=
  ⟨0, 3, 35, wr, 0x47FFFFFFC0, 64, if wr then List.replicate 64 1#8 else [], false, 620, some (pk (if wr then tyWrite else tyRead) 0x47FFFFFFC0 63 []), none, none, false, 0⟩
def asked (wr : Bool) (row : Option Nat) : State := stacked { Stack.reset with trained := true, queue := [hreq wr], rows := [(bank7, row)] }
/-- A scrub pass with one access of pseudo-channel 31 left, queued or not, and the others at the end or one before it. -/
def sreq : HbmReq := ⟨0, 5, hbmCol 7 0, false, accessAddr 7 31 (accessCount - 1), 32, [], false, hbmCol 7 0, none, none, none, false, 0⟩
def scrubbing (left : Nat) (q : List HbmReq) : State :=
  stacked { Stack.reset with
    trained := true, queue := q, rows := [(bankKey sreq.addr, some (rowOf sreq.addr))]
    scrub := (31, accessCount - 1) :: (0, accessCount - left) :: (List.range 30).map fun p => (p + 1, accessCount) }
theorem witness_MemoryControllers :
    (∀ wr ∈ [true, false], ∀ row ∈ [none, some (rowOf 0x47FFFFFFC0), some 0], domainOn (asked wr row) 151 = true ∧ (stk (asked wr row) 7).trained = true ∧
      (winGet (asked wr row) (hbmWin 7 0)).testBit 31 = true ∧ (stk (asked wr row) 7).queue = [hreq wr] ∧ (stk (asked wr row) 7).filter = [] ∧
      (stk (asked wr row) 7).snoops = [] ∧ (hreq wr).host = none ∧ pcOf (hreq wr).addr = 31 ∧ stackOf (hreq wr).addr = 7 ∧
      (hreq wr).addr % 256 + (hreq wr).len ≤ 256 ∧ (hreq wr).bytes.length ≤ (hreq wr).len ∧
      tget none (stk (asked wr row) 7).rows (bankKey (hreq wr).addr) = row ∧ tget [] (stk (asked wr row) 7).counts (bankKey (hreq wr).addr) = [] ∧
      rfmDue (stk (asked wr row) 7) (bankKey (hreq wr).addr) = false ∧ (hreq wr).port ≠ 5 ∧
      ((hreq wr).pkt.map (·.typ) = some (if wr then tyWrite else tyRead)) ∧ (hreq wr).poison = false ∧ (asked wr row).synd = []) ∧
    (0 ≠ rowOf 0x47FFFFFFC0 ∧ tyWrite ≠ tyTrace ∧ tyRead ≠ tyTrace) := by decide +kernel
theorem witness_rfm : rfmDue { Stack.reset with raa := [(bank7, Config.raaLimit + 1)] } bank7 = true := by simp [rfmDue, tget]
theorem witness_patrol :
    (∀ left ∈ [0, 1], ∀ q ∈ [[], [sreq]], winGet (scrubbing left q) (hbmWin 7 0) = 0xFFFFFFFF ∧ odRaw (scrubbing left q) 0x300002 ≠ 0 ∧ domainOn (scrubbing left q) 151 = true ∧
      tget 0 (stk (scrubbing left q) 7).scrub 31 = accessCount - 1 ∧ accessCount - 1 < accessCount ∧ (scrubbing left q).synd = [] ∧
      pcOf sreq.addr = 31 ∧ stackOf sreq.addr = 7 ∧ tget none (stk (scrubbing left q) 7).rows (bankKey sreq.addr) = some (rowOf sreq.addr) ∧
      scrubDone { stk (scrubbing left q) 7 with scrub := tset 0 (stk (scrubbing left q) 7).scrub 31 (accessCount - 1 + 1) } = accessCount * 32 - left) := by decide +kernel
theorem witness_MemoryBringUp :
    ((winGet on (hbmWin 7 0x120)).testBit 31 = false ∧ (winGet (wins [(hbmWin 7 0x120, 2 ^ 31 + 90)]) (hbmWin 7 0x120)).testBit 31 = true) ∧
    (domainOn State.reset 151 = false ∧ domainOn on 151 = true ∧ (on.boot.starting = false ∨ on.boot.stage ≠ 9)) ∧
    (∀ n ∈ [0, 2], (stk (stacked { Stack.reset with tries := n }) 7).trained = false ∧ (stk (stacked { Stack.reset with tries := n }) 7).tries = n) ∧
    winGet on (hbmWin 7 0) ≠ 0xFFFFFFFF ∧
    ((stk (stacked { Stack.reset with snoops := [(64, true, false)] }) 7).snoops.find? (fun e => e.1 == 64) = some (64, true, false) ∧ (stk on 7).snoops = []) := by decide +kernel

/-! ### The steppe -/

/-- Sector 15 with a design, all clocks locked or not, with N edges of 64, and as given. -/
def sectored (v : Sector) (locked : Bool) (n : Nat := 0) : State :=
  { wins [(0x0200000A0040 + 60, 0x20 + 15)] with sectors := [(15, v)], clocks := (List.range 4).map fun g => (g, ⟨n, true, locked, !locked, 0⟩) }
def memQ (n : Nat) (rec : Bool) : MemQueue := ⟨List.replicate n 5, 3, false, false, rec⟩
theorem witness_queueSize (v : Sector) (m : Nat) : 1023 < queueEntries v m ∧ queueEntries v m ≤ 8192 := by
  have h : ∀ x, x < 4 → 1023 < 1024 * 2 ^ x ∧ 1024 * 2 ^ x ≤ 8192 := by decide
  exact h _ (Nat.mod_lt _ (by decide))
/-- At 800 MHz every clock has an edge at a tick, a generator not configured none; every tree is asserted, or none. -/
theorem witness_tick (v : Sector) (x : Nat) :
    (∀ s ∈ [sectored v true 64], s.pending = [] ∧ domainOn s 143 = true ∧ (sectorRegion s 15).testBit 5 = true ∧ clockTicks (clockGen s (x % 4)) = true) ∧
    clockTicks (clockGen (sectored v true 0) (x % 4)) = false ∧
    (∀ s ∈ [sectored { v with commits := true } true], treeAsserted s 15 (x % 4) = true) ∧
    treeAsserted (sectored Sector.reset true) 15 (x % 4) = false := by
  have a : ∀ r, r < 4 → treeAsserted (sectored Sector.reset true) 15 r = false := by decide +kernel
  have b : ∀ n ∈ [0, 64], ∀ g, g < 4 → clockTicks (clockGen { on with clocks := (List.range 4).map fun g => (g, ⟨n, true, true, false, 0⟩) } g) = decide (n = 64) := by decide +kernel
  have d : (domainOn (wins [(0x0200000A0040 + 60, 0x20 + 15)]) 143 = true) ∧ (sectorRegion (wins [(0x0200000A0040 + 60, 0x20 + 15)]) 15).testBit 5 = true := by decide +kernel
  have l := Nat.mod_lt x (show 0 < 4 by decide)
  refine ⟨?_, b 0 (by simp) _ l, ?_, a _ l⟩
  · intro s e; rw [List.mem_singleton] at e; subst e
    exact ⟨rfl, d.1, d.2, b 64 (by simp) _ l⟩
  · intro s e; rw [List.mem_singleton] at e; subst e
    simp [treeAsserted, treesHeld, sector, sectored, tget]
theorem witness_bramBytes (x : Nat) : (bramBytes (x % 4) 0).contains 0 = true ∧ 0 < 1024 * 2 ^ (x % 4) := by
  have h : ∀ x, x < 4 → (bramBytes x 0).contains 0 = true ∧ 0 < 1024 * 2 ^ x := by decide
  exact h _ (Nat.mod_lt _ (by decide))
theorem witness_SteppeClocksAndMemories :
    (∀ l ∈ [true, false], ∀ s ∈ [sectored Sector.reset l], (clockGen s 3).locked = l ∧ (clockGen s 3).enabled = true ∧ (clockGen s 3).lost = !l ∧ s.boot.stage ≠ 9 ∧
      s.cfg.clocks.contains 3 = false ∧ sectorRuns s 15 = true) ∧
    (clockGen { sectored Sector.reset false with clocks := [(3, ⟨0, true, false, false, 0⟩)] } 3).lost = false ∧
    ({ sectored Sector.reset false with cfg := { on.cfg with clocks := [3] } } : State).cfg.clocks = [3] := by decide +kernel
theorem witness_memories (n : Nat) (r : Bool) (s : State) (h : s = sectored { Sector.reset with queues := [(191, memQ n r)] } true) : sectorRuns s 15 = true ∧
    tget MemQueue.reset (sector s 15).queues 191 = memQ n r ∧ (memQ n r).recorded = r ∧ (memQ n r).words.length = n ∧ (memQ 1 r).words = 5 :: [] :=
  h ▸ ⟨(by decide +kernel : sectorRuns (sectored Sector.reset true) 15 = true), rfl, rfl, by simp [memQ], rfl⟩
theorem witness_memBad :
    (∀ seen ∈ [[], [191]], ∀ s ∈ [sectored { Sector.reset with memBad := [(191, 0)], memSeen := seen } true], sectorRuns s 15 = true ∧ (sector s 15).memBad = [(191, 0)] ∧
      (sector s 15).memSeen = seen) := by decide +kernel

/-- Dale 31, which borders sector 15, with port queue 3 and channel 15 as given. -/
def ported (out inn : PortQueue) (bs : List Block) (live : Nat) (sw : Option Switch) : State :=
  { sectored Sector.reset true with
    dales := [(31, { live_ with channels := [(15, listed [] bs)], portOut := [(3, out)], portIn := [(3, inn)], portLive := live })],
    power := { on.power with sw := [(143, sw)] } }
where live_ : Dale := Tests.live
/-- A block that leaves by queue 3, all of its beats queued. -/
def outBlk : Block := { blk 0 true with space := 1, addr := portBase + 0x3000, rowStride := 0, next := 256, waiting := 2 }
def beat : List Byte × Bool × Bool := (List.replicate 32 1#8, false, true)
def sw143 : Switch := ⟨true, false, 0, 0, [31, 63], false, none⟩
theorem witness_portSideRuns (out inn : PortQueue) (bs : List Block) (live : Nat) (sw : Option Switch) (h : sectorRuns (ported out inn bs live sw) 15 = true) :
    portSideRuns (ported out inn bs live sw) 31 = true := by
  have g : ∀ i, i < 4 → (clockGen (ported out inn bs live sw) i).locked = true := by
    have : (ported out inn bs live sw).clocks = (sectored Sector.reset true).clocks := rfl
    simp only [clockGen, this]; decide
  have e : sectorOf 31 = 15 := by decide
  simp only [portSideRuns, e, h, Bool.true_and, sideRuns]
  split
  · exact g _ (Nat.mod_lt _ (by decide))
  · rfl
theorem witness_SteppePorts :
    (∀ s ∈ [ported ⟨[beat, beat], some 15⟩ PortQueue.reset [outBlk] 1 none], sectorRuns s 15 = true ∧
      tget PortQueue.reset (dale s 31).portOut 3 = ⟨(List.replicate 32 1#8, false, true) :: [beat], some 15⟩ ∧
      frontBlock s 31 15 = some outBlk ∧ (outBlk.outbound = true ∧ portQueue outBlk = 3) ∧ (portBytes outBlk ≤ outBlk.next * 32 ∧ 1 < outBlk.waiting) ∧
      (dale s 31).badBytes.find? (fun e => e.1 == 0x40 + 3 && e.2.1 == 0) = none ∧ isShadow s 31 = false ∧
      (∀ e ∈ (dale s 31).channels, e.1 = 15) ∧ (∀ e ∈ (dale s 31).portIn, e.2.bound = none)) ∧
    (∀ n ∈ [0, 15, 16], ∀ s ∈ [ported PortQueue.reset ⟨List.replicate n beat, none⟩ [] 1 none], sectorRuns s 15 = true ∧ (dale s 31).portLive ≠ 0 ∧
      (tget PortQueue.reset (dale s 31).portIn 3).beats.length = n ∧ (tget PortQueue.reset (dale s 31).portOut 3).beats = [] ∧ (tget PortQueue.reset (dale s 31).portIn 3).bound = none) ∧
    portSideRuns on 31 = false ∧
    (sectorSwitching (ported PortQueue.reset PortQueue.reset [] 1 (some sw143)) 15 = true ∧ sectorSwitching on 15 = false) ∧
    (∀ live ∈ [0, 2], ∀ s ∈ [ported PortQueue.reset PortQueue.reset [] live (some sw143)], switchOf s (128 + sectorOf 31) = some sw143 ∧ sw143.waits.contains 31 = true ∧
      sw143.waits.filter (fun u => u != 31) ≠ [] ∧ (dale s 31).portLive ≠ 1 ∧ portIdle (dale s 31) = true ∧ portChannels (dale s 31) = [] ∧
      (live = 2 → (dale s 31).portLive = 2)) := by decide +kernel

/-! ### Configuration -/

theorem crc32_lt (bs : List Byte) : crc32 bs < 2 ^ 32 := by
  have bit : ∀ c, c < 2 ^ 32 → crc32Bit c < 2 ^ 32 := by
    intro c h; unfold crc32Bit; split
    · exact Nat.xor_lt_two_pow (by omega) (by decide)
    · omega
  have byte : ∀ l : List Nat, ∀ c, c < 2 ^ 32 → l.foldl (fun c _ => crc32Bit c) c < 2 ^ 32 := by
    intro l; induction l with
    | nil => intro c h; exact h
    | cons x l ih => intro c h; exact ih _ (bit c h)
  have all : ∀ l : List Byte, ∀ c, c < 2 ^ 32 → l.foldl (fun crc b => (List.range 8).foldl (fun c _ => crc32Bit c) (Nat.xor crc b.toNat)) c < 2 ^ 32 := by
    intro l; induction l with
    | nil => intro c h; exact h
    | cons b l ih => intro c h; exact ih _ (byte _ _ (Nat.xor_lt_two_pow h (by have := b.isLt; omega)))
  exact Nat.xor_lt_two_pow (by decide) (all _ _ (by decide))
theorem leNat_leBytes4 (c : Nat) (h : c < 2 ^ 32) : leNat (leBytes 4 c) = c := by
  simp [leBytes, leNat, BitVec.toNat_ofNat]; omega

/-- The header of a partial image of one region, one frame and floor 550 mV, and its region table: region 15, any slot, design 7. -/
def header : List Byte := leBytes 256 (0x50534643 + 1 * 2 ^ 32 + 1 * 2 ^ 40 + 0 * 2 ^ 48 + 1 * 2 ^ 56 + (0x7580 + 16 + 4112) * 2 ^ 64 + 1 * 2 ^ 96 + 0x4C484D31 * 2 ^ 128 + 550 * 2 ^ 192 + 1 * 2 ^ 208)
def table : List Byte := leBytes 16 (15 + 0xFF * 2 ^ 8 + 7 * 2 ^ 32)
/-- A load in a state, with the image's size and the vendor's key. -/
def loading (c : Cfg) : State := { wins [(cfgWin 0x08, 0x7580 + 16 + 4112), (0x0200000F0000, 550)] with cfg := c, sec := { on.sec with keys := [(0, [1#8])] } }
def cfg0 (st src : Nat) : Cfg := { on.cfg with st := st, src := src, boot := false, late := false, header := [], table := [], frames := 0, stagedAt := [] }
theorem witness_ConfigurationLoads :
    (∀ st ∈ [0, 1, 2], ∀ s ∈ [loading (cfg0 st 0)], (s.boot.starting = false ∨ s.boot.stage ≠ 9) ∧ cfgShown s = st ∧ strandFollower s = false ∧ s.cfg.late = false) ∧
    strandFollower { loading (cfg0 0 0) with boot := { on.boot with straps := (1, 0, 0, 0, 0) } } = true ∧
    (header.length = 256 ∧ fromFlash (loading (cfg0 2 0)) 0 header = true ∧ headerFault (loading (cfg0 2 0)) header = none) ∧
    ((List.replicate 256 0#8).length = 256 ∧ headerFault (loading (cfg0 2 0)) (List.replicate 256 0#8) = some (1, .formatError)) ∧
    (∀ s ∈ [loading { cfg0 2 0 with header := header }], s.cfg.header ≠ [] ∧ table.length = 16 * hdrRegions s.cfg.header ∧ fromFlash s tableAt table = true ∧
      tableFault (winSet { s with cfg := { (forwardBytes s (32 + table.length)).cfg with table := table, hashed := table, received := tableAt + table.length } } (cfgWin 0x20) (tableAt + table.length)) = none) ∧
    (∀ s ∈ [loading { cfg0 2 0 with header := header, table := table }], s.cfg.table ≠ [] ∧ s.cfg.frames < hdrFrames s.cfg.header ∧ (applySectors s).contains 15 = true) ∧
    (∀ n ∈ [0, 0x7580 + 16 + 4112], ∀ s ∈ [loading { cfg0 2 0 with header := header, received := n }], s.cfg.sigSeen = false ∧
      ((n = 0 → s.cfg.received < hdrBytes s.cfg.header) ∧ (n ≠ 0 → hdrBytes s.cfg.header ≤ s.cfg.received))) ∧
    (loading (cfg0 2 0)).cfg.src ≠ 2 := by decide +kernel
/-- A frame of TYPE 2 of sector 15 of any slot, with a SEQ and a CRC. -/
def framed (seq crc : Nat) : List Byte := (leBytes 12 (2 * 2 ^ 29 + 15 * 2 ^ 25 + 0xFF * 2 ^ 32 + seq * 2 ^ 64)) ++ (leBytes 4 crc ++ List.replicate 4096 0#8)
theorem framed_field (seq crc off n : Nat) (h : off + n ≤ 12) : fieldAt (framed seq crc) off n = fieldAt (leBytes 12 (2 * 2 ^ 29 + 15 * 2 ^ 25 + 0xFF * 2 ^ 32 + seq * 2 ^ 64)) off n := by
  have l : (leBytes 12 (2 * 2 ^ 29 + 15 * 2 ^ 25 + 0xFF * 2 ^ 32 + seq * 2 ^ 64)).length = 12 := by simp [leBytes]
  have e : (List.drop off (framed seq crc)).take n = (List.drop off (leBytes 12 (2 * 2 ^ 29 + 15 * 2 ^ 25 + 0xFF * 2 ^ 32 + seq * 2 ^ 64))).take n := by
    unfold framed
    rw [List.drop_append_of_le_length (by rw [l]; omega), List.take_append_of_le_length (by rw [List.length_drop, l]; omega)]
  simp only [fieldAt, bytesAt, e]
theorem framed_crc (seq crc : Nat) (h : crc < 2 ^ 32) :
    (framed seq crc).length = 4112 ∧ fieldAt (framed seq crc) 12 4 = crc ∧
    (framed seq crc).take 12 ++ (framed seq crc).drop 16 = leBytes 12 (2 * 2 ^ 29 + 15 * 2 ^ 25 + 0xFF * 2 ^ 32 + seq * 2 ^ 64) ++ List.replicate 4096 0#8 := by
  have l : (leBytes 12 (2 * 2 ^ 29 + 15 * 2 ^ 25 + 0xFF * 2 ^ 32 + seq * 2 ^ 64)).length = 12 := by simp [leBytes]
  have l4 : (leBytes 4 crc).length = 4 := by simp [leBytes]
  have d12 : (framed seq crc).drop 12 = leBytes 4 crc ++ List.replicate 4096 0#8 := List.drop_left' l
  have d16 : (framed seq crc).drop 16 = List.replicate 4096 0#8 := by
    rw [show 16 = 12 + 4 from rfl, ← List.drop_drop, d12]; exact List.drop_left' l4
  refine ⟨by simp only [framed, List.length_append, l, l4, List.length_replicate], ?_, ?_⟩
  · have : ((framed seq crc).drop 12).take 4 = leBytes 4 crc := by rw [d12]; exact List.take_left' l4
    simp only [fieldAt, bytesAt, this, l4, Nat.sub_self, List.replicate_zero, List.append_nil, leNat_leBytes4 crc h]
  · rw [d16, show (framed seq crc).take 12 = _ from List.take_left' l]
/-- A frame with its CRC, one with another, and one out of order. -/
theorem witness_frames (s : State) (hs : s = loading { cfg0 2 0 with header := header, table := table }) :
    ∃ f g h : List Byte, (∀ e ∈ [f, g, h], e.length = 4112 ∧ ∀ off, fromFlash s off e = true) ∧
      (frmSeq f = s.cfg.frames ∧ fieldAt f 12 4 = crc32 (f.take 12 ++ f.drop 16) ∧ frmSlot f = 0xFF ∧ frameOk s f = true ∧ frmType f ≠ 4 ∧ frmSector f = 15) ∧
      (frmSeq g = s.cfg.frames ∧ fieldAt g 12 4 ≠ crc32 (g.take 12 ++ g.drop 16)) ∧ frmSeq h ≠ s.cfg.frames := by
  subst hs
  have k := fun c (h : c < 2 ^ 32) => framed_crc 0 c h
  generalize hp : leBytes 12 (2 * 2 ^ 29 + 15 * 2 ^ 25 + 0xFF * 2 ^ 32 + 0 * 2 ^ 64) ++ List.replicate 4096 0#8 = p at k
  have hc := crc32_lt p
  refine ⟨framed 0 (crc32 p), framed 0 ((crc32 p + 1) % 2 ^ 32), framed 1 0, ?_, ⟨?_, ?_, ?_, ?_, ?_, ?_⟩, ⟨?_, ?_⟩, ?_⟩
  · intro e m
    simp only [List.mem_cons, List.not_mem_nil, or_false] at m
    have fl : ∀ off, fromFlash (loading { cfg0 2 0 with header := header, table := table }) off e = true := fun off => by
      simp [fromFlash, loading, cfg0]
    rcases m with rfl | rfl | rfl
    · exact ⟨(k _ hc).1, fl⟩
    · exact ⟨(k _ (Nat.mod_lt _ (by decide))).1, fl⟩
    · exact ⟨(framed_crc 1 0 (by decide)).1, fl⟩
  · rw [frmSeq, framed_field _ _ _ _ (by decide)]; decide +kernel
  · rw [(k _ hc).2.1, (k _ hc).2.2]
  · rw [frmSlot, framed_field _ _ _ _ (by decide)]; decide +kernel
  · have a : frmAddr (framed 0 (crc32 p)) = 2 * 2 ^ 29 + 15 * 2 ^ 25 := by rw [frmAddr, framed_field _ _ _ _ (by decide)]; decide +kernel
    have b : fieldAt (framed 0 (crc32 p)) 5 3 = 0 := by rw [framed_field _ _ _ _ (by decide)]; decide +kernel
    have q : ∀ c, c = loading { cfg0 2 0 with header := header, table := table } → c.cfg.stagedAt = [] := fun c h => h ▸ rfl
    simp only [frameOk, a, b, frmType, frmIndex, frmSector, q _ rfl]; rfl
  · have a : frmAddr (framed 0 (crc32 p)) = 2 * 2 ^ 29 + 15 * 2 ^ 25 := by rw [frmAddr, framed_field _ _ _ _ (by decide)]; decide +kernel
    rw [frmType, a]; decide
  · have a : frmAddr (framed 0 (crc32 p)) = 2 * 2 ^ 29 + 15 * 2 ^ 25 := by rw [frmAddr, framed_field _ _ _ _ (by decide)]; decide +kernel
    rw [frmSector, a] <;> decide
  · rw [frmSeq, framed_field _ _ _ _ (by decide)]; decide +kernel
  · have b := k _ (Nat.mod_lt (crc32 p + 1) (by decide : 0 < 2 ^ 32))
    rw [b.2.1, b.2.2]; omega
  · rw [frmSeq, framed_field _ _ _ _ (by decide)]; decide +kernel
/-- A signature of the length of one. -/
theorem witness_signature : ∃ l : List Byte, l.length = 29792 ∧ ∀ off, fromFlash (loading { cfg0 2 0 with header := header }) off l = true := by
  have h : ∀ n, ∃ l : List Byte, l.length = n ∧ ∀ off, fromFlash (loading { cfg0 2 0 with header := header }) off l = true := fun n =>
    ⟨List.replicate n 0#8, by simp, fun off => by simp [fromFlash, loading, cfg0]⟩
  exact h _

theorem witness_ConfigurationCommit :
    (∀ mv ∈ [550, 549], ∀ s ∈ [{ loading { cfg0 4 0 with header := header, table := table, clocks := [] } with win := [(0x0200000F0000, mv)] }],
      s.cfg.st = 4 ∧ s.cfg.clocks = [] ∧ (mv = 550 → hdrFloor s.cfg.header ≤ supplyMv s) ∧ (mv = 549 → supplyMv s < hdrFloor s.cfg.header) ∧ hdrKind s.cfg.header = 1 ∧ applying s = [(15, 7)]) ∧
    (∀ e ∈ [true, false], ∀ st ∈ [1, 2], ∀ s ∈ [{ loading { cfg0 st 0 with boot := true } with svc := if e then 8 else 0 }],
      s.cfg.boot = true ∧ enumerated s = e ∧ s.cfg.st = st ∧ s.cfg.src ≠ 2) ∧
    (∀ s ∈ [{ loading (cfg0 1 0) with boot := { on.boot with straps := (1, 0, 0, 0, 0) } }], strandFollower s = true ∧ cfgShown s < 2 ∧ (s.boot.starting = false ∨ s.boot.stage ≠ 9)) ∧
    (loading (cfg0 2 1)).cfg.src = 1 := by decide +kernel
/-- Sectors 15 and 14 configured, no frame of the pass read. -/
def passing (told : List Nat) : State := { wins [(0x0200000A0040 + 56, 0x20 + 14), (0x0200000A0040 + 60, 0x20 + 15)] with cfg := { cfg0 0 0 with told := told } }
theorem witness_scrub : ∀ told ∈ [[], [15]], ∀ s ∈ [passing told], odRaw s 0x590003 ≠ 0 ∧ domainOn s 143 = true ∧ (sectorRegion s 15).testBit 5 = true ∧ scrubPaused s 15 = false ∧
    0 < scrubFrames ∧ (sectorRegion s 14).testBit 5 = true ∧ 14 * 2048 + 0 ≠ 15 * 2048 + 1584 ∧ s.cfg.scrubbed.contains (14 * 2048 + 0) = false ∧ s.cfg.told = told ∧
    essentialWord (sector s 15) 1584 (2 * 511) = true ∧ (scrubServes s 15).1 = none := by decide +kernel

/-! ### Heonlink -/

/-- `on` with the agent of sub-link 3 as given and enumerated service bits. -/
def linked (a : Agent) (svc : Nat) : State := { on with heon := [(3, a)], svc := svc }
/-- A line of sub-link 3 at the end of HBM, held by the host as given. -/
def line3 : Nat := 0x47FFFFFFC0
def held (f : List (Nat × Bool)) : State := { linked Agent.reset 1 with hbm := [(stackOf line3, { Stack.reset with filter := f })] }
theorem witness_HostRequests :
    (line3 % 64 = 0 ∧ subOf line3 = 3 ∧ regionOf line3 = .hbm ∧ hbmGone (linked Agent.reset 1) line3 = none ∧ hbmGone State.reset line3 = some .domainOff ∧ subOf 0 ≠ 3) ∧
    ((List.replicate 64 1#8).length = 64 ∧ (agent (held []) 3).datas.find? (fun e => e.1 == 4095) = none ∧ (agent (held []) 3).resetting = false) ∧
    (filterOf (stk (held [(line3, true)]) (stackOf line3)) line3 = some true ∧ (stk (held [(line3, true)]) (stackOf line3)).snoops = [] ∧
      filterOf (stk (held []) (stackOf line3)) line3 ≠ some true ∧ (held [(line3, true)]).synd = []) ∧
    (∀ size ∈ [4, 8], ∀ a ∈ [daleBase 511 + 0xBFFF8], (linked Agent.reset 1).svc.testBit 0 = true ∧ a % size = 0 ∧ regionOf a = .store 511 0xBFFF8 ∧
      daleGone (linked Agent.reset 1) 511 = none ∧ (ni (linked Agent.reset 1) (daleCol 511)).state = 0 ∧ 0xBFFF8 + size ≤ storeBytes ∧ (a + 1) % size ≠ 0 ∧
      (dale (linked Agent.reset 1) 511).partner = none) ∧
    (regionOf winBase = .window ∧ winBase % 8 = 0 ∧ (linked Agent.reset 0).svc.testBit 0 = false) := by decide +kernel

/-- Requests for companion memory of the command processor: a read of a line and a write of one. -/
def ext (wr : Bool) (asked : List Nat) : ExtReq := ⟨wr, 192, 64, if wr then List.replicate 64 1#8 else [], false, ⟨2048, 0, 0, 0⟩, asked, [], .done⟩
def ext0 : ExtReq := { ext false [] with origin := ⟨0, 15, 0, 0⟩ }
def exts (a : Agent) (l : List ExtReq) : State := { linked a 1 with ext := l }
def upA : Agent := { Agent.reset with up := true }
def outA (tag op : Nat) (d : Option (List Byte × Bool)) : Agent := { upA with out := [⟨tag, op, 192, d, none, false⟩] }
theorem witness_device :
    (∀ sh ∈ [true, false], ∀ e ∈ [if sh then ext false [] else ext0], (exts upA [e]).svc.testBit 2 = false ∧ subOf 192 = 3 ∧
      (exts upA [e]).ext.find? (fun e => !e.wr && ((e.origin.dale == 2048) == sh) && (linesOf e.addr e.len).contains 192 && !e.asked.contains 192) = some e ∧
      canPlace (exts upA [e]) 3 4095 0 = true) ∧
    ((exts upA [ext true []]).ext.find? (fun e => e.wr && (linesOf e.addr e.len).contains 192 && !e.asked.contains 192) = some (ext true []) ∧
      canPlace (exts upA [ext true []]) 3 4095 5 = true) := by decide +kernel
/-- Messages the device has queued, each placed by its own row. -/
theorem witness_queued : ∀ op ∈ [0x10, 0x11, 0x18, 0x19, 0x20], ∀ m ∈ [heonMsg op 7 192 0 0 1 false 0],
    (agent (linked { upA with toHost := [m] } 1) 3).toHost = m :: [] ∧ m.op = op := by decide +kernel
theorem witness_answered :
    (∀ s ∈ [exts (outA 7 0x01 (some (List.replicate 64 1#8, false))) [ext false [192]]], (agent s 3).resetting = false ∧
      (agent s 3).out = [⟨7, 0x01, 192, some (List.replicate 64 1#8, false), none, false⟩] ∧
      s.ext.find? (fun e => !e.wr && e.origin.dale == 2048 && e.addr == 192 && e.asked.contains 192) = some (ext false [192])) ∧
    (∀ s ∈ [exts (outA 7 0x04 none) [ext true [192]]], (agent s 3).out = [⟨7, 0x04, 192, none, none, false⟩] ∧ s.ext = [ext true [192]] ∧ (ext true [192]).wr = true ∧
      (ext true [192]).asked = [192] ∧ (ext true [192]).done = [] ∧ linesOf (ext true [192]).addr (ext true [192]).len = [192] ∧ (ext true [192]).origin.chan ≠ 2) ∧
    (∀ s ∈ [{ linked upA 1 with hbm := [(7, { Stack.reset with snoops := [(line3, true, false)] })] }],
      snoopOf (fromHost s 3 0x1A (line3 / 64 % 4096)) 3 (line3 / 64 % 4096) = some (7, line3, true, false)) ∧
    (∀ r ∈ [(⟨7, 0x01, 192, none, none, false⟩ : HeonReq)], (agent (exts (outA 7 0x01 none) []) 3).out = [r] ∧ r.op ≠ 0x04 ∧ r.data = none ∧ r.go = none) := by decide +kernel
theorem witness_links :
    ((∀ k, k < 4 → (agent on k).out = [] ∧ (agent on k).hostReqs = [] ∧ (agent on k).inbox = [] ∧ groupActive on (16 + k) = false) ∧
      (∀ k, k < 8 → (stk on k).filter = [] ∧ (stk on k).snoops = [] ∧ (stk on k).queue = [])) ∧
    ((agent on 3).up = false ∧ (agent on 3).told = false ∧ (agent (linked upA 1) 3).up = true ∧ (agent (linked { Agent.reset with told := true } 1) 3).told = true) ∧
    (∀ s ∈ [linked { upA with txSlots := [[1#8]] } 1], s.pending = [] ∧ (agent s 3).up = true ∧ (agent s 3).txSlots ≠ [] ∧ (lgroup s 19).txIdle = false ∧
      (agent s 3).replay.length < 256) ∧
    (groupActive on 19 = false ∧ on.svc.testBit 2 = false ∧ on.pipes = [] ∧ on.ext = []) ∧ (agent on 19).up = false := by decide +kernel

theorem leBytes_length (n v : Nat) : (leBytes n v).length = n := by induction n generalizing v <;> simp [leBytes, *]
theorem bytesAt_append (a b : List Byte) (off n : Nat) (h : off + n ≤ a.length) : bytesAt (a ++ b) off n = bytesAt a off n := by
  have e : (List.drop off (a ++ b)).take n = (List.drop off a).take n := by
    rw [List.drop_append_of_le_length (by omega), List.take_append_of_le_length (by simp; omega)]
  simp only [bytesAt, e]
/-- A number's four bytes behind a list. -/
theorem tail_field (a : List Byte) (c : Nat) (h : c < 2 ^ 32) : fieldAt (a ++ leBytes 4 c) a.length 4 = c := by
  have l4 : (leBytes 4 c).length = 4 := by simp [leBytes]
  have e : (List.drop a.length (a ++ leBytes 4 c)).take 4 = leBytes 4 c := by rw [List.drop_left' rfl]; exact List.take_of_length_le (by omega)
  simp only [fieldAt, bytesAt, e, l4, Nat.sub_self, List.replicate_zero, List.append_nil, leNat_leBytes4 c h]
/-- A data flit of SEQ 0 that holds RD_SHARED in its first slot. -/
def flitBody : List Byte := leBytes 252 (2 ^ 33 + (2 ^ 122 + 7 * 2 ^ 110) * 2 ^ 96)
theorem witness_flits (s : State) (hs : s = linked upA 1) :
    (agent s 3).up = true ∧ ([] : List Byte).length ≠ 256 ∧ (lgroup s 19).badWord = false ∧ (agent s 3).slots = [] ∧
    ∃ flit x h, h = fieldAt flit 0 12 ∧ flit.length = 256 ∧ fieldAt flit 252 4 = crc32 (flit.take 252) ∧ bitsOf h 70 68 = 0 ∧
      bitsOf h 95 84 = ((agent s 3).rxSeq + 1) % 4096 ∧ h.testBit 71 = false ∧
      (List.range 15).filterMap (fun i => if h.testBit (33 + i) then some (bytesAt flit (12 + 16 * i) 16) else none) = [x] ∧
      slotsOfHeon (leNat x) = 1 ∧ hostOpcode (bitsOf (leNat x) 127 122) = true ∧ reservedOk (leNat x) = true := by
  have l : flitBody.length = 252 := leBytes_length _ _
  have hb : ∀ off n, off + n ≤ 252 → bytesAt (flitBody ++ leBytes 4 (crc32 flitBody)) off n = bytesAt flitBody off n := fun off n h =>
    bytesAt_append _ _ _ _ (l ▸ h)
  have hh : fieldAt (flitBody ++ leBytes 4 (crc32 flitBody)) 0 12 = 2 ^ 33 := by
    rw [fieldAt, hb _ _ (by decide)]; decide +kernel
  refine ⟨hs ▸ rfl, by decide, hs ▸ rfl, hs ▸ rfl, flitBody ++ leBytes 4 (crc32 flitBody), bytesAt flitBody 12 16, 2 ^ 33, hh.symm, by simp [l, leBytes_length], ?_,
    by decide, ?_, by decide, ?_, by decide +kernel, by decide +kernel, by decide +kernel⟩
  · have t : (flitBody ++ leBytes 4 (crc32 flitBody)).take 252 = flitBody := List.take_left' l
    rw [t]; have := tail_field flitBody (crc32 flitBody) (crc32_lt _); rwa [l] at this
  · subst hs; decide +kernel
  · have b : ∀ i, i < 15 → i ≠ 0 → (2 ^ 33).testBit (33 + i) = false := by decide
    have : List.range 15 = [0, 1, 2, 3, 4, 5, 6, 7, 8, 9, 10, 11, 12, 13, 14] := by decide
    rw [this]
    simp only [List.filterMap_cons, b _ (by decide : 1 < 15) (by decide), b 2 (by decide) (by decide), b 3 (by decide) (by decide), b 4 (by decide) (by decide),
      b 5 (by decide) (by decide), b 6 (by decide) (by decide), b 7 (by decide) (by decide), b 8 (by decide) (by decide), b 9 (by decide) (by decide),
      b 10 (by decide) (by decide), b 11 (by decide) (by decide), b 12 (by decide) (by decide), b 13 (by decide) (by decide), b 14 (by decide) (by decide),
      Bool.false_eq_true, if_false, List.filterMap_nil, (by decide : (2 ^ 33).testBit (33 + 0) = true), if_true, hb 12 16 (by decide), Nat.mul_zero, Nat.add_zero]

/-! ### Serial lanes -/

/-- A group and its lanes, all alike. -/
def grouped (g : Nat) (v : LaneGroup) (l : SerialLane) : State := { on with groupsL := [(g, v)], lanes := (groupLanes g).map fun m => (m, l) }
def lane (st : Nat) (ready : Bool) : SerialLane := { SerialLane.reset with stage := st, detected := ready, ready := ready }
def atStage (st : Nat) : LaneGroup := { LaneGroup.reset with stage := st }
/-- The last lane of the last port and of the last sub-link. -/
def lastLanes : List (Nat × Nat × Nat) := [(15, 139, 7), (19, 143, 3)]
def record (ack : Bool) (kind lanes : Nat) : ExchRecord := ⟨1, kind, 0, 3, lanes, ack, 0⟩
/-- The symbols of an exchange frame and of a training frame whose receiver is ready (R405, R406). -/
def recordBits (r : ExchRecord) : Nat :=
  r.uid * 2 ^ 64 + r.kind * 2 ^ 60 + r.group * 2 ^ 55 + r.lane * 2 ^ 52 + r.lanes * 2 ^ 48 + (if r.ack then 2 ^ 47 else 0) + r.seed
def exchSyms (r : ExchRecord) : List Nat := markerSyms 3 0 ++ symsOf 64 (recordBits r) ++ symsOf 8 (crc16 (leBytes 16 (recordBits r)))
def control : TrainFrame := ⟨true, false, 0, 0⟩
def trainSyms : List Nat := twelve 0 3 3 0 ++ symsOf 32 (2 ^ 63)
/-- The fields of lane 3's marker in the worked example of R414, and lane 5's STATE. -/
theorem test_marker : ((markerSyms 0x33 0).drop 48).take 8 = [2, 0, 2, 0, 0, 0, 0, 0] := by decide +kernel
theorem test_marker_state : ((markerSyms 0x35 0x200).drop 56).take 8 = [0, 0, 0, 0, 1, 0, 0, 0] := by decide +kernel
theorem test_marker_pads : (markerSyms 0x35 0x200).length = 74 := by decide +kernel
/-- After 32 equal symbols a stuff symbol, 3 after 0 or 1 and 0 after 2 or 3 (R401). -/
theorem test_stuff : ∀ e ∈ [(0, 3), (1, 3), (2, 0), (3, 0)],
    stuffLine (List.replicate 32 e.1) (0, 0) = (List.replicate 32 e.1 ++ [e.2], (e.2, 1), 1) := by decide +kernel
theorem witness_frames_in : trainOf trainSyms = some control ∧ trainOf [] = none ∧ exchOf [] = none ∧
    ∀ r ∈ [record false 2 8, record true 2 8, record true 3 4, record false 1 7], exchOf (exchSyms r) = some r := by decide +kernel
theorem witness_training : ∀ e ∈ lastLanes, ∀ n ∈ [e.2.1], ∀ g ∈ [e.1], n < 144 ∧ g < 20 ∧ e.2.2 < groupN g ∧ g = laneGroup n ∧ n = (groupLanes g).getD e.2.2 0 ∧
    (∀ d ∈ [true, false], (lgroup (grouped g (atStage 1) (lane 1 d)) g).stage = 1 ∧ (sLane (grouped g (atStage 1) (lane 1 d)) n).stage = 1 ∧
      ((d = false → ∃ m ∈ groupLanes g, m ≠ n ∧ (sLane (grouped g (atStage 1) (lane 1 d)) m).detected = false) ∧
       (d = true → ∀ m ∈ groupLanes g, m ≠ n → (sLane (grouped g (atStage 1) (lane 1 d)) m).detected = true))) ∧
    (∀ l ∈ [lane 2 false, { lane 2 false with control := some control, run := 2 }, lane 3 true], (lgroup (grouped g (atStage 2) l) g).stage = 2 ∧
      (sLane (grouped g (atStage 2) l) n = l) ∧ (l.stage = 2 ∨ l.stage = 3) ∧
      (l.stage = 2 → ∃ m ∈ groupLanes g, m ≠ n ∧ ((sLane (grouped g (atStage 2) l) m).stage ≠ 3 ∨ (sLane (grouped g (atStage 2) l) m).ready = false)) ∧
      (l.stage = 3 → ∀ m ∈ groupLanes g, m ≠ n → (sLane (grouped g (atStage 2) l) m).stage = 3 ∧ (sLane (grouped g (atStage 2) l) m).ready = true)) := by decide +kernel
theorem witness_exchange : ∀ e ∈ lastLanes, ∀ n ∈ [e.2.1], ∀ g ∈ [e.1],
    (∀ a ∈ [true, false], ∀ s ∈ [grouped g { atStage 4 with ack := a } { lane 3 true with exch := some (record true (partnerKind g) (groupN g)), exchRun := 2 }],
      (lgroup s g).stage = 4 ∧ (lgroup s g).ack = a ∧ (sLane s n).exch ≠ some (record false (partnerKind g) (groupN g)) ∧
      (sLane s n).exch ≠ some { record true (partnerKind g) (groupN g) with seed := 1 } ∧ (sLane s n).exch = some (record true (partnerKind g) (groupN g)) ∧
      (∀ m ∈ groupLanes g, m ≠ n → (sLane s m).exch.map (·.ack) = some true)) ∧
    (∀ r ∈ [record false (partnerKind g + 1) (groupN g), record false (partnerKind g) (groupN g + 1)],
      ∀ s ∈ [grouped g (atStage 4) { lane 3 true with exch := some r, exchRun := 2 }], (lgroup s g).stage = 4 ∧ (sLane s n).exch = some r ∧ 2 ≤ (sLane s n).exchRun ∧
      (r.kind ≠ partnerKind g ∨ r.lanes ≠ groupN g)) := by decide +kernel
theorem witness_active : ∀ e ∈ lastLanes, ∀ n ∈ [e.2.1], ∀ g ∈ [e.1],
    (groupActive (grouped g (atStage 5) (lane 3 true)) g = true ∧ groupActive on g = false ∧ (sLane (grouped g (atStage 5) (lane 3 true)) n).stage ≠ 9) ∧
    (∀ st ∈ [0, 1, 8], ∀ o ∈ [unstuffLine (markerSyms 7 st) (sLane (grouped g (atStage 5) (lane 3 true)) n).rxRun], markerOf o.kept = some (7, st) ∧ st % 4 < 2 ∧
      (st.testBit 3 = false ∨ (lgroup (grouped g (atStage 5) (lane 3 true)) g).deep ≠ 1)) ∧
    markerOf ((markerSyms 7 0).set 70 1) = none ∧
    (∀ s ∈ [grouped g (atStage 5) (lane 3 true)], (lgroup s g).txIdle = false ∧ (lgroup s g).deep = 0 ∧ (lgroup s g).rxIdle = false ∧ odRaw s 0x680001 ≠ 0) ∧
    (lgroup (grouped g { atStage 5 with txIdle := true } (lane 3 true)) g).txIdle = true ∧
    ((lgroup (grouped g { atStage 5 with deep := 1 } (lane 3 true)) g).deep = 1 ∧ (lgroup (grouped g { atStage 5 with deep := 1 } (lane 3 true)) g).next ≠ 2) ∧
    (∀ st ∈ [1, 2, 3, 4, 8, 7], ∀ f ∈ [0, 1], (lgroup (grouped g { atStage st with fails := f } (lane 3 true)) g).stage = st ∧
      (lgroup (grouped g { atStage st with fails := f } (lane 3 true)) g).fails = f) := by decide +kernel
theorem witness_lanes :
    (∀ s ∈ [{ grouped 15 (atStage 0) (lane 9 false) with od := [(0x680003, 0)] }], portEnabled s 15 = false ∧ groupPowered s 15 = true ∧ (∀ v ∈ [0, 0x81, 0x91], laneCtrlOk v = true) ∧
      laneCtrlOk 0x30 = false) ∧
    (∀ e ∈ lastLanes, (sLane (grouped e.1 (atStage 0) { lane 9 false with ctrl := 0x80 }) e.2.1).stage = 9 ∧
      (sLane (grouped e.1 (atStage 0) { lane 9 false with ctrl := 0x80 }) e.2.1).ctrl.testBit 7 = true) ∧
    (∀ e ∈ lastLanes, ∀ s ∈ [{ grouped e.1 { atStage 0 with fails := 1 } (lane 0 false) with od := [(0x680003, 0xFFFF)] }], (lgroup s e.1).stage = 0 ∧ 0 < (lgroup s e.1).fails ∧
      groupPowered s e.1 = true ∧ portEnabled s e.1 = true) ∧ (0xFFFF : Nat).testBit 15 = true ∧ (0x7FFF : Nat).testBit 15 = false := by decide +kernel

/-! ### Peer links -/

/-- A message from peer 2 for peer 1, of a pipeline's epoch. -/
def pmsg (op n arg : Nat) : PeerMsg := ⟨op, 2, 1, false, false, 15, 3, 9, n, 7, arg, List.replicate n 1#8⟩
def msgs : List (Nat × PeerMsg) := [(0x01, pmsg 1 256 0), (0x02, pmsg 2 256 (3 * 2 ^ 42)), (0x08, pmsg 8 0 7), (0x09, pmsg 9 0 0), (0x0A, pmsg 10 0 0), (0x0B, pmsg 11 0 0x40)]
/-- Port 15 as given; the relay entry of peer 1, and group 3 of two contributors of 256 bytes. -/
def peered (relay : Nat) (p : PeerPort) : State :=
  { wins [(0x0200000D3000 + 2, relay), (groupWin 3 0, 2 ^ 63 + 2 ^ 56), (groupWin 3 1, 256)] with peers := [(15, p)] }
def own : Nat := 0xC000
def openE (applied : Bool) : PeerEpoch := ⟨2, 3, 9, [pmsg 1 256 0], applied⟩
theorem witness_relay : ∀ e ∈ msgs, peerMsgOk e.2 e.1 = true ∧ peerMsgOk { e.2 with bytes := 300 } e.1 = false ∧
    (relayEntry (peered 0 PeerPort.reset) e.2.dst).testBit 15 = false ∧
    (∀ r ∈ [0x8000 + 14, 0xA000 + 14], (relayEntry (peered r PeerPort.reset) e.2.dst).testBit 15 = true ∧ (relayEntry (peered r PeerPort.reset) e.2.dst).testBit 14 = false ∧
      e.2.rvc = false ∧ 0 < e.2.hopsLeft ∧ peerOff (peered r PeerPort.reset) 15 = none ∧
      peerOff (peered r PeerPort.reset) (relayEntry (peered r PeerPort.reset) e.2.dst % 16) = none) ∧
    (relayEntry (peered own PeerPort.reset) e.2.dst).testBit 15 = true ∧ (relayEntry (peered own PeerPort.reset) e.2.dst).testBit 14 = true := by decide +kernel
theorem witness_epochs : ∀ m ∈ [pmsg 1 256 0, pmsg 11 0 0x40],
    (storeHolds (peered own PeerPort.reset) 15 m = true ∧ (odRaw (peered own PeerPort.reset) 0x700004).testBit 15 = false ∧
      (peerPort (peered own PeerPort.reset) 15).epochs.any (sameEpoch · m.src m.pipeline m.epoch) = false) ∧
    (∀ s ∈ [peered own { PeerPort.reset with epochs := [openE false] }], storeHolds s 15 m = true ∧ (peerPort s 15).epochs = [openE false] ∧
      sameEpoch (openE false) m.src m.pipeline m.epoch = true ∧ (openE false).applied = false) := by decide +kernel
/-- A port whose 256 epochs are open holds no message of another. -/
theorem witness_store_full : storeHolds (peered own { PeerPort.reset with epochs := (List.range 256).map fun i => ⟨3, 3, i, [], false⟩ }) 15 (pmsg 1 256 0) = false := by decide +kernel
theorem witness_reduction : ∀ s ∈ [peered own PeerPort.reset], bitsOf (3 * 2 ^ 42) 47 42 = 3 ∧ bitsOf (3 * 2 ^ 42) 41 38 = 0 ∧ 3 * 2 ^ 42 % 2 ^ 32 = 0 ∧
    (groupWord s 3 0).testBit 63 = true ∧ 0 < groupN' s 3 ∧ 0 + 256 ≤ groupBytes s 3 ∧ storeHolds s 15 (pmsg 2 256 (3 * 2 ^ 42)) = true ∧
    (groupWord s 4 0).testBit 63 = false ∧ groupN' s 3 ≤ 2 ∧ groupBytes s 3 < 1 + 256 := by decide +kernel
/-- A message sent, for nobody and for the host's sub-link 3. -/
def sentMsg (o : Option Origin) : PeerSent := ⟨15, { pmsg 1 256 0 with dst := 2, src := 1 }, o⟩
theorem witness_PeerMessages :
    (∀ o ∈ [none, some ⟨6003, 0, 5, 0⟩], ∀ s ∈ [{ peered own PeerPort.reset with peerOut := [sentMsg o] }], s.cp.closing = none ∧
      s.peerOut.find? (fun p => p.msg.tag == (pmsg 8 0 7).arg % 4096 && p.msg.dst == (pmsg 8 0 7).src) = some (sentMsg o) ∧ (sentMsg o).origin = o) ∧
    (∀ m ∈ [pmsg 9 0 0, pmsg 10 0 0], markerEpoch (peered own PeerPort.reset) 15 m = none ∧
      (∀ s ∈ [peered own { PeerPort.reset with epochs := [openE false], jobs := [⟨0, [], 1, true, []⟩] }], markerEpoch s 15 m = some (openE false) ∧ s.groups = [] ∧
        (peerPort s 15).jobs = ⟨0, [], 1, true, []⟩ :: [] ∧ m.src = (openE false).src ∧ m.pipeline = (openE false).pipeline ∧ m.epoch = (openE false).epoch)) ∧
    (groupActive (grouped 15 (atStage 5) (lane 3 true)) 15 = true ∧ groupActive on 15 = false ∧ (peerPort on 15).down = false ∧ (peerPort on 15).epochs = [] ∧ on.cp.closing = none) ∧
    (∀ p ∈ ({ on with peerOut := [sentMsg none] } : State).peerOut, p.port = 15 → p.origin = none ∧ p.msg.opcode ≠ 0x09) ∧
    (on.peerOut.any (hostMsg on) = false ∧ on.cp.hostPorts = [] ∧
      (∀ s ∈ [{ wins [(0x0200000D0008, 3), (0x0200000D000C, 9)] with peerOut := [sentMsg none] }], s.cp.closing = none ∧ s.peerOut.any (hostMsg s) = true) ∧
      ({ on with cp := { on.cp with closing := some true } } : State).cp.closing.isSome = true) := by decide +kernel

/-! ### Events, isolation and management -/

/-- Dale 0 leads a pair with dale 1, having sent two signatures, or leads none. -/
def leading : Dale := { live with partner := some 1, sigs := [5, 6] }
def ev (strike : List (Nat × Nat)) : Event := ⟨0x0801, 1, daleSource 0, 0, none, strike⟩
/-- An event handed over, at a head, with records queued. -/
def recording (strike : List (Nat × Nat)) (head n : Nat) : State :=
  { dale0 live with handed := [ev strike], log := { on.log with head := head, queue := List.replicate n (0, []) } }
theorem witness_EventsAndIsolation :
    ((dale (dale0 leading) 0).partner = some 1 ∧ leading.isPartner = false ∧ leading.report = none ∧ compareSigs 0 leading.sigs (leading.sigsSeen ++ [5 % 2 ^ 32]) = (none, false) ∧
      (dale (dale0 live) 0).partner = none) ∧
    (∀ st ∈ [[], [(0, 7)]], ∀ h ∈ [0, 65278, 65536], ∀ s ∈ [recording st h 0], s.handed[0]? = some (ev st) ∧ (ev st).sev < odRaw s 0x1F0301 ∧ (ev st).strike = st ∧
      (h < 65279 → slotOfSeq s.log s.log.head < 65279) ∧ s.log.queue.length < 256 ∧ (h = 65536 → logSlots ≤ slotOfSeq s.log s.log.head) ∧
      (dale s 0).isolated = false ∧ (dale s 0).strikes = [] ∧ 1 < odRaw s 0x781002) ∧
    (∀ s ∈ [recording [] 0 256], slotOfSeq s.log s.log.head < logSlots ∧ 256 ≤ s.log.queue.length) ∧
    (∀ c ∈ [true, false], ∀ s ∈ [{ on with log := { on.log with queue := [(0, [1#8])], clearing := c } }], s.log.queue = (0, [1#8]) :: [] ∧ s.log.clearing = c ∧
      s.boot.held = false ∧ s.log.dropRun = 0) ∧
    (∀ s ∈ [dale0 { queued with stopped := true }], (dale s 0).isolated = false ∧ pipesOfDale s 0 = [] ∧ (dale s 0).stopped = true ∧ drained s 0 = false) ∧
    ((dale (dale0 live) 0).stopped = false ∧ (2 ^ 15 + 512) % 2 ^ 15 = 512) := by decide +kernel

/-- `on` at work, its OD_LEN and OD_DATA as given. -/
def managed (m : Mgmt) : State := { on with boot := { on.boot with stage := 13, starting := false }, mgmt := m, sec := { on.sec with nonce := [1#8] } }
def odWith (n v : Nat) : Mgmt := { on.mgmt with odLen := n, odData := leBytes 8 v }
def scrubRow : OdRow := ⟨0x3000, 0x3000, 1, 1, 1, 1, true, 1, 1⟩
theorem witness_PlainEntry : PlainEntry 0x3000 1 scrubRow := ⟨by decide +kernel, by decide +kernel, by decide⟩
theorem witness_od :
    ((managed on.mgmt).boot.stage ≠ 0 ∧ (managed on.mgmt).mgmt.waiting = [] ∧ (managed on.mgmt).mgmt.odBusy = false) ∧
    (odRow 0x3000 1 = some scrubRow ∧ scrubRow.acc ≠ 2 ∧ odOn (managed on.mgmt) 0x3000 1 = true ∧ odNoValue 0x3000 1 = false ∧ scrubRow.typ ≤ 6) ∧
    (odRow 0xFFFF 255 = none ∧ (odRow 0x2001 1).map (·.acc) = some 2) ∧
    (∀ v ∈ [1, 2], v < 2 ^ (8 * scrubRow.most) ∧ (managed (odWith 1 v)).mgmt.odLen = scrubRow.most ∧
      bytesAt (managed (odWith 1 v)).mgmt.odData 0 scrubRow.most = leBytes scrubRow.most v ∧ (managed (odWith 1 v)).boot.held = false ∧
      odValueOk (managed (odWith 1 v)) 0x3000 1 v = decide (v = 1)) ∧ (managed (odWith 2 1)).mgmt.odLen ≠ scrubRow.most := by decide +kernel
def opened (wr : Bool) (n : Nat) : CanOpen := ⟨wr, 255, odKey 0x3000 1, List.replicate 54 1#8, n, 1, false⟩
theorem witness_can :
    (∀ m ∈ [on.mgmt, { on.mgmt with open_ := some (opened true 65535) }, { on.mgmt with open_ := some (opened false 111) }], canNode (managed m) ≠ 0 ∧
      (managed m).mgmt.busOff = false ∧ (managed m).mgmt.notices = [] ∧ (managed m).mgmt.last = none) ∧
    ((opened true 65535).tid = 255 ∧ (opened true 65535).broken = false ∧ 0 < (opened true 65535).seq ∧ (opened true 65535).seq < 256 ∧ (opened true 65535).seq % 8 ≠ 0 ∧
      (List.replicate 56 2#8).length = 56 ∧ (opened true 65535).value.length + 56 < (opened true 65535).len) ∧
    (0 < 2 ∧ 2 ≤ canParts (opened false 111).len ∧ (List.replicate 54 1#8).length = 54) ∧
    (managed { on.mgmt with last := some ([1, 255, 0x3000, 1], [0x81#8]) }).mgmt.last = some ([1, 255, 0x3000, 1], [0x81#8]) := by decide +kernel
theorem witness_token : ((List.replicate 1 1#8) ≠ [] ∧ (List.replicate 1 1#8).length ≤ 4096) ∧
    (securityOn (managed on.mgmt) = true ∧ (managed on.mgmt).sec.nonce ≠ [] ∧ (managed on.mgmt).boot.held = false) := by decide +kernel
theorem witness_long_part : ∃ l : List Byte, 4096 < l.length := ⟨List.replicate (4096 + 1) 0#8, by rw [List.length_replicate]; decide⟩

/-- Owner slots 1 and 4 provisioned. -/
def secured (e : Sec) : State := { managed on.mgmt with sec := { e with nonce := [1#8] } }
theorem witness_KeysAndAttestation :
    (∀ b ∈ [4#8 :: List.replicate 64 1#8], b.length = 65 ∧ fieldAt b 0 1 = 4 ∧ ownerState (secured on.sec) 4 = 0) ∧
    (∀ s ∈ [secured { on.sec with programmed := 2 ^ 1 + 2 ^ 4 }], securityOn s = true ∧ s.sec.nonce ≠ [] ∧ ownerState s 4 = 1 ∧ 1 < (validOwners s).length ∧ ownerState s 3 ≠ 1) ∧
    (svnOf (secured on.sec) 3 < 128 ∧ (List.replicate 64 1#8).length = 64 ∧ (List.replicate 32 1#8).length = 32) ∧
    ((attestOf (secured { on.sec with attest := [(1, ⟨1, [], [], []⟩)] }) 1).st = 1 ∧ (attestOf on 1).st ≠ 1) ∧
    ((secured { on.sec with held := true, nonceHeld := true }).sec.held = true ∧ on.sec.held = false ∧ on.sec.nonceHeld = false ∧
      (secured { on.sec with held := true, nonceHeld := true }).sec.nonceHeld = true) := by decide +kernel

/-! ### Power and bring-up -/

/-- `managed` with the saddle's power side as given. -/
def powered (p : Power) : State := { managed on.mgmt with power := p, win := (0x0200000F0000, 700) :: on.win }
theorem witness_sample :
    ((powered on.power).power.rules = [] ∧ (∀ k, k < 3 → tget 0 (powered on.power).power.trips k = 0)) ∧
    (∀ s ∈ [powered { on.power with trips := [(0, 1)] }], s.power.rules = [] ∧ s.power.stopped = false ∧ tget 0 s.power.trips 0 = 1) := by decide +kernel
theorem witness_hot : 125 * 16 ≤ (sampleInputs (powered { on.power with trips := [(0, 1)] }) [(0x200, 2000)] true).getD (0x200 + 0) 0 := by
  have h : ∀ (s : State) (raw : List (Nat × Int)) (a : Bool), (sampleInputs s raw a).getD 0x200 0 = sampledInput s raw a 0x200 := by
    intro s raw a
    simp only [sampleInputs, List.getD_eq_getElem?_getD]
    rw [List.getElem?_append_left (by rw [List.length_map, List.length_range]; decide), List.getElem?_map, List.getElem?_range (by decide)]; rfl
  rw [h]; decide +kernel
theorem witness_limiter :
    (∀ r ∈ [true, false], ∀ s ∈ [powered { on.power with fast := [(0x41C, 1501 * 256)], target := 700, rested := r }], s.power.stopped = false ∧ s.power.sleep = 0 ∧
      (odRaw s 0x200002 : Int) < inputValue s.power 1 0x41C ∧ max (floorNow s) 550 < s.power.target ∧ s.power.rested = r) ∧
    (∀ s ∈ [powered { on.power with fast := [(0x41C, 1454 * 256)] }], 100 * inputValue s.power 1 0x41C < 97 * (odRaw s 0x200002 : Int) ∧ s.power.gap = 0) ∧
    (∀ t ∈ [726, 674], ∀ s ∈ [powered { on.power with reached := true, target := t }], s.power.reached = true ∧ (supplyMv s + 25 < s.power.target ∨ s.power.target + 25 < supplyMv s)) ∧
    on.power.reached = false := by decide +kernel
theorem witness_gates :
    (switchable 186 = true ∧ switchable 187 = false ∧ switchable 198 = false ∧ on.power.stopped = false ∧ switchOf on 186 = none ∧ domainOn on 186 = true ∧
      gateHolder on 186 = none ∧ domainOn State.reset 186 = false) ∧
    (∀ s ∈ [piped (pipeIn .loaded) live []], switchable 0 = true ∧ switchOf s 0 = none ∧ domainOn s 0 = true ∧ gateHolder s 0 = some 0) ∧
    (∀ w ∈ [(⟨false, false, 0, 0, [], false, none⟩ : Switch)], switchOf (powered { on.power with sw := [(186, some w)] }) 186 = some w ∧ w.off = false ∧ w.next = none ∧ w.by_ ≠ 3) := by decide +kernel
theorem witness_sleep :
    (State.reset.power.stopped = false ∧ State.reset.power.sleep = 0 ∧ (∀ ns ∈ sleepOrder, ∀ m ∈ ns, domainOn State.reset m = false)) ∧
    ((∀ m, m < 128 → gateHolder on m = none ∧ switchOf on m = none) ∧ domainOn on 127 = true) ∧
    (∀ z ∈ [1, 2], (powered { on.power with sleep := z }).power.sleep = z) := by decide +kernel
theorem witness_rules : rulesetLoading on = false ∧ (1 : Nat).testBit 0 = true ∧ on.boot.held = false ∧ on.power.toLoad = none ∧
    (∀ s ∈ [powered { on.power with toLoad := some [1#8] }], rulesetLoading s = true ∧ s.power.toLoad = some [1#8]) := by decide +kernel

/-- A start-up at a step, as the saddle has it, its flags as given. -/
def starting (b : Boot) : State := { on with boot := b, power := { on.power with reached := true }, groupsL := [(16, atStage 5)] }
def up (stage : Nat) : Boot := { on.boot with good := true, starting := true, stage := stage }
theorem witness_BringUp :
    (on.boot.good = false ∧ on.boot.rstHigh = true ∧ on.boot.held = false ∧ on.mgmt.waiting = []) ∧
    (∀ s ∈ [starting (up 8)], s.boot.good = true ∧ s.boot.rstHigh = true ∧ s.boot.stage = 8 ∧ s.boot.starting = true ∧ (∀ k, k < 8 → domainOn s k = true) ∧
      groupActive s 16 = true ∧ s.power.reached = true ∧ s.cfg.st ≠ 0 ∧ s.boot.late = false) ∧
    (∀ g ∈ [true, false], ∀ s ∈ [starting { on.boot with good := g, rstHigh := false, stage := 0 }], s.boot.rstHigh = false ∧ s.boot.good = g ∧ s.boot.held = false ∧ s.boot.stage = 0) ∧
    (∀ s ∈ [starting (up 1)], s.boot.fwDone = false ∧ securityOn s = true ∧ testMode s = false) ∧
    (∀ s ∈ [starting (up 6)], s.boot.baseDone = false ∧ s.boot.stage = 6 ∧ domainOn s 196 = true ∧ s.boot.stage ≠ 8) ∧
    (∀ s ∈ [starting (up 12)], s.boot.stage = 12 ∧ startWakes s = false ∧ s.power.reached = true) ∧
    ((starting { up 12 with starting := false }).boot.starting = false ∧ (starting { up 12 with late := true }).boot.late = true) ∧
    (∀ w ∈ [[], [(0, [1#8], 2)]], ∀ s ∈ [{ starting { up 13 with held := true } with mgmt := { on.mgmt with waiting := w } }], s.boot.held = true ∧ s.boot.stage ≠ 0 ∧ s.mgmt.waiting = w) ∧
    (∀ st ∈ [2, 6, 0xD], ({ on with tap := ⟨st, 1, 0, 0, false, 0⟩ } : State).tap.st = st ∧ ({ on with tap := ⟨st, 1, 0, 0, false, 0⟩ } : State).tap.ir = 1) ∧
    (tapNext 0xD false ≠ 0xF ∧ tapNext 0xF true = 0xF) := by decide +kernel

/-! ### Steps -/

/-- A state with commands waiting, a byte of memory and a counter raised. -/
def waitingState : State := { on with pending := [.clockLocked 0, .add 0 rr], mem := [(5, 1#8)], sec := { on.sec with svn := [(2, 7)] } }
theorem witness_StepKeepsInvariant : MachineInv waitingState ∧ (∃ t, step waitingState = .next t) := by
  refine ⟨⟨by unfold QueueOk; decide +kernel, by unfold MemoryOk; decide +kernel, by unfold CountersOk; decide +kernel⟩, _, rfl⟩

/-! ### The spec's worked examples -/

/-- Dale 101: its window (R7), its col, its PATH and the basins around it (R15 to R18). -/
theorem test_example_dale : daleBase 101 = 0x010006500000 ∧ regionOf 0x0100065BFFFF = .store 101 0xBFFFF ∧ daleCol 101 = 4 * 34 + 6 ∧ pathOf 101 = 0x1B ∧ basin1 101 = 6 ∧
    basinDales 0x001B = [101] ∧ (∀ d ∈ basinDales 0x2018, 4 ≤ d % 32 ∧ d % 32 ≤ 5 ∧ 2 ≤ d / 32 ∧ d / 32 ≤ 3) ∧ (basinDales 0x4010).length = 16 ∧ (basinDales 0xA000).length = 512 := by decide +kernel
theorem test_example_stack : gatherCol 5 = 17 * 34 + 12 ∧ hbmCol 5 0 = 17 * 34 + 9 ∧ hbmCol 5 7 = 17 * 34 + 16 := by decide
/-- 60,000.0, 61,440.0 and 70,000.0 to E5M2, FP16, BF16, E4M3 and INT8, clamped and propagating (R55). -/
theorem test_example_conversions :
    (convTo .e5m2 false none (val32 0x476A6000#32)).bits = 0x7B ∧ (convTo .e5m2 false none (val32 0x476A6000#32)).sat = false ∧
    (convTo .e5m2 false none (val32 0x47700000#32)).bits = 0x7B ∧ (convTo .e5m2 false none (val32 0x47700000#32)).sat = true ∧
    (convTo .e5m2 true none (val32 0x47700000#32)).bits = 0x7C ∧ (convTo .fp16 false none (val32 0x4788B800#32)).bits = 0x7BFF ∧
    (convTo .fp16 true none (val32 0x4788B800#32)).bits = 0x7C00 ∧ (convTo .bf16 false none (val32 0x4788B800#32)).bits = 0x4789 ∧
    (convTo .e4m3 true none (val32 0x4788B800#32)).bits = 0x7E ∧ (convTo .e4m3 true none (val32 0x4788B800#32)).sat = true ∧
    (convTo .int8 false none (val32 0x4788B800#32)).bits = 0x7F := by decide +kernel
/-- The accumulation of R58: 16,777,216 + 1 + 1 + 3, and the scaling by 0.75. -/
theorem test_example_accumulation : fadd 0x4B800000#32 0x3F800000#32 = 0x4B800000#32 ∧ fadd 0x4B800000#32 0x40400000#32 = 0x4B800002#32 ∧
    fmul 0x4B800002#32 0x3F400000#32 = 0x4B400003#32 ∧ (convTo .bf16 false none (val32 0x4B400003#32)).bits = 0x4B40 := by decide +kernel
/-- 0x3F80_5A40 rounded under a dither of 165 and of 166 (R65). -/
theorem test_example_dither : (convTo .bf16 false (some 165) (val32 0x3F805A40#32)).bits = 0x3F80 ∧ (convTo .bf16 false (some 166) (val32 0x3F805A40#32)).bits = 0x3F81 := by decide +kernel
/-- The route of dale 101 to pseudo-channel 8 (R268). -/
theorem test_example_route : minimalRoute (daleCol 101) 8 = 0x84E0000600000000 * 2 ^ 64 + 0x0043000000000000 := by decide +kernel
/-- A = 0x0023_4567_89A0 (R288, R289): pseudo-channel 137 at col 581, bank group 2, bank 3 of SID 1, row 11,541. -/
theorem test_example_address : pseudoOf 0x0023456789A0 = 137 ∧ hbmCol 4 (137 % 32 / 4) = 581 ∧ bankOf 0x0023456789A0 = 16 + 2 * 4 + 3 ∧ rowOf 0x0023456789A0 = 11541 := by decide +kernel
/-- The doorbell's MMIO_WR32 (R371). -/
theorem test_example_doorbell : ∀ m ∈ [messageOf (0x280140800000C004 * 2 ^ 64 + 3) []], m.op = 0x0A ∧ m.tag = 5 ∧ m.addr = 0x020000030010 ∧ m.value = 3 := by decide +kernel
/-- Port 6's pads when lanes 3 and 6 stuff (R400). -/
def stuffed : State :=
  { grouped 6 (atStage 5) (lane 3 true) with
    lanes := (List.range 8).map fun i => ((groupLanes 6).getD i 0, { lane 3 true with txStuffs := [0, 0, 0, 2, 0, 0, 1, 0].getD i 0 }) }
theorem test_example_pads : (lgroup (got (exec (.markerSend 6 []) stuffed)) 6).pads = [2, 2, 2, 0, 2, 2, 1, 2] := by decide +kernel
/-- The critical path of the design of sector 2 and the floors that carry it at 500 and at 375 MHz (R316 to R318). -/
theorem test_example_floor : pathDelay 3 [0, 1, 1, 0] = 137 ∧ floorMeets 40 137 650 = true ∧ floorMeets 40 137 600 = false ∧ floorMeets 30 137 600 = true := by decide
/-- A manager at node 5 reads LOG_STATE (R487, R488). -/
theorem test_example_can : (got (exec (.canRead 7 0x8000 2)
      { managed on.mgmt with boot := { (managed on.mgmt).boot with straps := (0, 0, 0, 5, 0) }, log := { on.log with first := 0x23A10, head := 0x24B93 } })).mgmt.sent =
    [leBytes 2 0x285 ++ [0x81#8, 0x07#8, 0x00#8, 0x80#8, 0x02#8, 0x00#8, 0x00#8, 0x08#8, 0x08#8, 0x00#8, 0x93#8, 0x4B#8, 0x02#8, 0x00#8, 0x10#8, 0x3A#8, 0x02#8, 0x00#8,
      0#8, 0#8]] := by decide +kernel
/-- Package power (R543). -/
theorem test_example_power : packagePower 720 1319 (fun k => [120, 110, 10, 61, 180, 79].getD k 0) = 1425 := by decide +kernel
end Sys2Proof.Tests
end

section
/-! Lines that face the edge of the grid (R39) and the read-only registers of the organisation window (R32). -/
namespace Sys2Proof.Machine

/-! ### Lines at the edge of the grid (R39) -/

/-- The line's side of the check passes and its direction has no neighbour: SYNC_EDGE, before the instruction issues (R39). -/
theorem lineCheck_edge {d : Nat} {inboundLine : Bool} {f : IInst} (opc : Nat) (s : State) (pc : Nat)
    (hline : inboundLine = decide (2 ≤ lineNo f)) (hedge : neighbour d (lineDir f) = none) :
    lineCheck d inboundLine opc f s pc =
      some (unissue s d causeSyncEdge .formatError pc 0x0101 [(2, lineDir f), (2, lineNo f), (32, pc)]) := by
  simp [lineCheck, hline, hedge]

/-- A ready SIGNAL with nothing queued before it, whose line is refused, answers the state of the refusal. -/
theorem exec_signal_check {s t : State} {d : Nat} {f : IInst} (hd : d < 512) (hq : queueOf (dale s d) 7 = [])
    (hr : Ready s d (encI 7 1 f)) (hc : lineCheck d false 1 f s (dale s d).pc = some t) : exec (.signal d f) s = .next t :=
  (guard512 hd _).trans (congrArg Host.Outcome.next (syRun_check hq hr _ _ hc))

/-- A ready WAIT whose line is refused answers the state of the refusal. -/
theorem exec_wait_check {s t : State} {d : Nat} {f : IInst} (hd : d < 512)
    (hr : Ready s d (encI 7 2 f)) (hc : lineCheck d true 2 f s (dale s d).pc = some t) : exec (.wait d f) s = .next t :=
  (guard512 hd _).trans (congrArg Host.Outcome.next (blockRun_check s t d 2 f _ _ hr hc))

/-- Settles O29: the edge is found by the check that both instructions pass before they issue (`lineCheck_edge`). -/
theorem edgeLinesTrap : Obligations.EdgeLinesTrap := by
  intro d f s hd hedge
  constructor
  · intro hq hr hline
    exact ⟨_, exec_signal_check hd hq hr (lineCheck_edge 1 s _ (by simpa using hline) hedge),
      trapped_of s d causeSyncEdge .formatError 0x0101 _ (canIssue_trap hr.1)⟩
  · intro _ hr hline
    exact ⟨_, exec_wait_check hd hr (lineCheck_edge 2 s _ (by simpa using hline) hedge),
      trapped_of s d causeSyncEdge .formatError 0x0101 _ (canIssue_trap hr.1)⟩

/-! ### The organisation window (R30, R32) -/

/-- The offsets that the organisation window names (R30). -/
theorem regOf_organisation_isSome_iff {o : Nat} (ho : o < 0x10000) :
    (regOf o).isSome = true ↔ o = 0x10 ∨ o = 0x14 ∨ (0x100 ≤ o ∧ o < 0x300) ∨ (0x400 ≤ o ∧ o < 0x440) := by
  simp only [regOf, if_pos ho]
  by_cases hrow : o = 0x10 ∨ o = 0x14 ∨ (0x100 ≤ o ∧ o < 0x300) ∨ (0x400 ≤ o ∧ o < 0x440)
  · rw [if_pos hrow]; exact iff_of_true rfl hrow
  · rw [if_neg hrow]; exact iff_of_false Bool.false_ne_true hrow

/-- A register of the organisation window is four bytes long and begins where it is named. -/
theorem regOf_organisation {o : Nat} (ho : o < 0x10000) (hn : (regOf o).isSome = true) : regOf o = some (o, 4) := by
  have hrow := (regOf_organisation_isSome_iff ho).mp hn
  simp only [regOf, if_pos ho, if_pos hrow]

/-- Where the lower half of an aligned eight-byte access is a register of the organisation window, the upper half is one too. -/
theorem regOf_organisation_upper {o : Nat} (ho : o < 0x10000) (ha : o % 8 = 0) (hn : (regOf o).isSome = true) :
    o + 4 < 0x10000 ∧ (regOf (o + 4)).isSome = true := by
  have hrow := (regOf_organisation_isSome_iff ho).mp hn
  have hup : o + 4 < 0x10000 := by omega
  exact ⟨hup, (regOf_organisation_isSome_iff hup).mpr (by omega)⟩

/-- A four-byte write to a register of the organisation window is refused (R32). -/
theorem halfWrite_organisation (s : State) (src : Src) {o : Nat} (v : Nat) (ho : o < 0x10000) (hn : (regOf o).isSome = true) :
    halfWrite s src o v = refuseWrite s := by
  have hunits : o < 0x60000 := by omega
  simp only [halfWrite, regOf_organisation ho hn, regWrite, if_pos hunits, regWriteUnits, if_pos ho]

/-- A pair of registers whose first write is refused is refused as a whole (R553). -/
theorem pairWrite_refused (s : State) (src : Src) (o₁ v₁ o₂ v₂ : Nat) (h : halfWrite s src o₁ v₁ = refuseWrite s) :
    pairWrite s src o₁ v₁ o₂ v₂ = refuseWrite s := by
  have hne : (refuseWrite s).ans.1 ≠ .done := by simp [refuseWrite, answer]
  simp only [pairWrite, h, if_pos hne]

/-- A write of any size at a register of the organisation window is refused by the saddle (R32, R553). -/
theorem windowWrite_organisation (s : State) (src : Src) {o : Nat} (size v : Nat) (ho : o < 0x10000)
    (hn : (regOf o).isSome = true) : windowWrite s src (winBase + o) size v = refuseWrite s := by
  unfold windowWrite
  split
  case isTrue => rfl
  case isFalse hpass =>
    have hok : accessOk (winBase + o) size = true := by
      simp only [Bool.or_eq_true, Bool.not_eq_true', not_or, Bool.not_eq_false] at hpass
      exact hpass.1
    obtain ⟨rfl | rfl, ha⟩ : (size = 4 ∨ size = 8) ∧ (winBase + o) % size = 0 := by simpa [accessOk] using hok
    · simpa only [Nat.add_sub_cancel_left, if_pos] using halfWrite_organisation s src _ ho hn
    · have ho8 : o % 8 = 0 := by simp only [winBase] at ha; omega
      obtain ⟨hup, hupn⟩ := regOf_organisation_upper ho ho8 hn
      have hlanes : ¬(0xC0000 ≤ o ∧ o < 0xD0000) := by omega
      simp only [Nat.add_sub_cancel_left, regOf_organisation ho hn, if_neg hlanes]
      exact pairWrite_refused s src _ _ _ _ (halfWrite_organisation s src _ hup hupn)

/-- The saddle's col serves the organisation window (R555). -/
theorem windowCol_organisation {o : Nat} (ho : o < 0x10000) : windowCol (winBase + o) = saddleCol := by
  simp only [windowCol, winBase_sub, if_pos ho]

/-- A write that meets no refusal on its way is decided at the window, also where no window lies. -/
theorem accessWrite_eq_windowWrite (s : State) (src : Src) (a size v : Nat) (hw : wayStatus s a = none) :
    accessWrite s src a size v = windowWrite s src a size v := by
  cases hin : inWindow a with
  | false => simp only [accessWrite, windowWrite, hin, Bool.not_false, Bool.or_true, if_true]
  | true => simp only [accessWrite, hin, hw, Bool.not_true, Bool.false_eq_true, if_false]

/-- Settles O30: with the way to the saddle's col open, the write reaches the window, which refuses it whatever its size. -/
theorem organisationReadOnly : Obligations.OrganisationReadOnly := by
  intro src addr size value s hni hbase ho hn
  obtain ⟨o, rfl⟩ := Nat.exists_eq_add_of_le hbase
  rw [Nat.add_sub_cancel_left] at ho hn
  have hway : wayStatus s (winBase + o) = none :=
    wayStatus_none s o (by omega) (by rw [windowCol_organisation ho]; exact hni)
  have hwrite : accessWrite s src (winBase + o) size value = refuseWrite s :=
    (accessWrite_eq_windowWrite s src _ size value hway).trans (windowWrite_organisation s src size value ho hn)
  exact congrArg Host.Outcome.next hwrite

end Sys2Proof.Machine
end

section
/-! OTP bits change only from 0 to 1 (R507): what each effect keeps (Laws/Kept.lean), carried from the effects to the
dispatch of all commands and to the step. -/
namespace Sys2Proof.Machine

/-- The dispatch keeps what the meaning of each row keeps. The rows stand by the file of the model that gives them their
meaning. OTP fields are burned only through `provision_kept`, `revoke_kept` and `advanceSvn_kept`, which the rows that write
dictionary entries reach too. -/
theorem exec_kept {q : Base} {s : State} (hs : Kept q s) (c : Instr) : KeptX q (exec c s) := by
  cases c with
  -- Machine/Window
  | registerWrite => exact execRegisterWrite_kept hs
  | semWrite => exact execSemWrite_kept hs
  | satCount => exact execSatCount_kept hs
  | nanCount => exact execNanCount_kept hs
  | probeCtrl => exact execProbeCtrl_kept hs
  | niClear => exact execNiClear_kept hs
  -- Machine/Power
  | rateSampleStale => exact execRateSampleStale_kept hs
  | limiterTick => exact execLimiterTick_kept hs
  | supplyDeviation => exact execSupplyDeviation_kept hs
  | domainGate => exact execDomainGate_kept hs
  | domainWake => exact execDomainWake_kept hs
  | domainWoken => exact execDomainWoken_kept hs
  | deviceSleepEnter => exact execDeviceSleepEnter_kept hs
  | orderlyShutdown => exact execOrderlyShutdown_kept hs
  | counterPersist => exact execCounterPersist_kept hs
  | rulesetCtrl => exact execRulesetCtrl_kept hs
  | rulesetVerified => exact execRulesetVerified_kept hs
  -- Machine/Sequencer
  | sequencerFetch => exact execSequencerFetch_kept hs
  | trapDrained => exact execTrapDrained_kept hs
  | illegal => exact execIllegal_kept hs
  | nop => exact execNop_kept hs
  | endStep => exact execEndStep_kept hs
  | qsync => exact execQsync_kept hs
  | csrr => exact execCsrr_kept hs
  | tdesc => exact execTdesc_kept hs
  | add => exact execAdd_kept hs
  | sub => exact execSub_kept hs
  | and => exact execAnd_kept hs
  | or => exact execOr_kept hs
  | xor => exact execXor_kept hs
  | shl => exact execShl_kept hs
  | shr => exact execShr_kept hs
  | sra => exact execSra_kept hs
  | addi => exact execAddi_kept hs
  | subi => exact execSubi_kept hs
  | andi => exact execAndi_kept hs
  | ori => exact execOri_kept hs
  | xori => exact execXori_kept hs
  | shli => exact execShli_kept hs
  | shri => exact execShri_kept hs
  | srai => exact execSrai_kept hs
  | mul => exact execMul_kept hs
  | li => exact execLi_kept hs
  | lih => exact execLih_kept hs
  | ld => exact execLd_kept hs
  | st => exact execSt_kept hs
  | beq => exact execBeq_kept hs
  | bne => exact execBne_kept hs
  | blt => exact execBlt_kept hs
  | bge => exact execBge_kept hs
  | bltu => exact execBltu_kept hs
  | bgeu => exact execBgeu_kept hs
  | jal => exact execJal_kept hs
  | jr => exact execJr_kept hs
  | bpany => exact execBpany_kept hs
  | bpnone => exact execBpnone_kept hs
  -- Machine/Matrix
  | mmul => exact execMmul_kept hs
  | mfuse => exact execMfuse_kept hs
  -- Machine/Vector
  | vadd => exact execVadd_kept hs
  | vsub => exact execVsub_kept hs
  | vand => exact execVand_kept hs
  | vor => exact execVor_kept hs
  | vxor => exact execVxor_kept hs
  | vshl => exact execVshl_kept hs
  | vshr => exact execVshr_kept hs
  | vsra => exact execVsra_kept hs
  | vmul => exact execVmul_kept hs
  | vmulh => exact execVmulh_kept hs
  | vmulq => exact execVmulq_kept hs
  | vmac => exact execVmac_kept hs
  | vfadd => exact execVfadd_kept hs
  | vfsub => exact execVfsub_kept hs
  | vfmul => exact execVfmul_kept hs
  | vfmac => exact execVfmac_kept hs
  | vmax => exact execVmax_kept hs
  | vmin => exact execVmin_kept hs
  | vcmp => exact execVcmp_kept hs
  | vsel => exact execVsel_kept hs
  | vcvt => exact execVcvt_kept hs
  | vbcast => exact execVbcast_kept hs
  | dset => exact execDset_kept hs
  | vld => exact execVld_kept hs
  | vst => exact execVst_kept hs
  | cset => exact execCset_kept hs
  | cget => exact execCget_kept hs
  | vsrch => exact execVsrch_kept hs
  | ssinit => exact execSsinit_kept hs
  | ssrch => exact execSsrch_kept hs
  | ssread => exact execSsread_kept hs
  | ssred => exact execSsred_kept hs
  | vcompact => exact execVcompact_kept hs
  | vcflush => exact execVcflush_kept hs
  | vscan => exact execVscan_kept hs
  | vhist => exact execVhist_kept hs
  | vhread => exact execVhread_kept hs
  | vhclear => exact execVhclear_kept hs
  | tkinit => exact execTkinit_kept hs
  | vtopk => exact execVtopk_kept hs
  | tkread => exact execTkread_kept hs
  | pand => exact execPand_kept hs
  | por => exact execPor_kept hs
  | pxor => exact execPxor_kept hs
  | pnot => exact execPnot_kept hs
  -- Machine/SetUnit
  | sinter => exact execSinter_kept hs
  | smerge => exact execSmerge_kept hs
  | sdiff => exact execSdiff_kept hs
  -- Machine/Special
  | sfn => exact execSfn_kept hs
  | scinit => exact execScinit_kept hs
  | smaxsum => exact execSmaxsum_kept hs
  | scmerge => exact execScmerge_kept hs
  | screcv => exact execScrecv_kept hs
  | scsend => exact execScsend_kept hs
  | snacc => exact execSnacc_kept hs
  | snfin => exact execSnfin_kept hs
  | smfin => exact execSmfin_kept hs
  -- Machine/Random
  | runi => exact execRuni_kept hs
  | runif => exact execRunif_kept hs
  | rbern => exact execRbern_kept hs
  | rnormTab => exact execRnormTab_kept hs
  | rnormBm => exact execRnormBm_kept hs
  | rkey => exact execRkey_kept hs
  | rctr => exact execRctr_kept hs
  | rcget => exact execRcget_kept hs
  -- Machine/Stream
  | sstart => exact execSstart_kept hs
  | tcopy => exact execTcopy_kept hs
  | streamListFetch => exact execStreamListFetch_kept hs
  | streamRequestIssue => exact execStreamRequestIssue_kept hs
  -- Machine/Sync
  | signal => exact execSignal_kept hs
  | wait => exact execWait_kept hs
  | arrive => exact execArrive_kept hs
  | semwait => exact execSemwait_kept hs
  | seminc => exact execSeminc_kept hs
  -- Machine/Command
  | cqTail => exact execCqTail_kept hs
  | cplHead => exact execCplHead_kept hs
  | cqCtrl => exact execCqCtrl_kept hs
  | cplCtrl => exact execCplCtrl_kept hs
  | commandFetch => exact execCommandFetch_kept hs
  | fence => exact execFence_kept hs
  | fenceComplete => exact execFenceComplete_kept hs
  | completionWrite => exact execCompletionWrite_kept hs
  -- Machine/Placement
  | loadPlacement => exact execLoadPlacement_kept hs
  | placementRelease => exact execPlacementRelease_kept hs
  | startPipeline => exact execStartPipeline_kept hs
  -- Machine/Steps
  | runStep => exact execRunStep_kept hs
  | stepEnd => exact execStepEnd_kept hs
  | stepWatchdog => exact execStepWatchdog_kept hs
  -- Machine/Context
  | saveContext => exact execSaveContext_kept hs
  | restoreContext => exact execRestoreContext_kept hs
  -- Machine/Functions
  | abort => exact execAbort_kept hs
  | functionDrain => exact execFunctionDrain_kept hs
  | functionDrained => exact execFunctionDrained_kept hs
  | functionCut => exact execFunctionCut_kept hs
  | functionEnable => exact execFunctionEnable_kept hs
  -- Machine/Kat
  | katRun => exact execKatRun_kept hs
  | katKernelDone => exact execKatKernelDone_kept hs
  | katSchedule => exact execKatSchedule_kept hs
  -- Machine/Gather
  | gatherLookup => exact execGatherLookup_kept hs
  | reloadCtrl => exact execReloadCtrl_kept hs
  | reloadDrained => exact execReloadDrained_kept hs
  | reloadFilled => exact execReloadFilled_kept hs
  -- Machine/Net
  | packetInject => exact execPacketInject_kept hs
  | colForward => exact execColForward_kept hs
  | read => exact execRead_kept hs
  | write => exact execWrite_kept hs
  | readResp => exact execReadResp_kept hs
  | writeAck => exact execWriteAck_kept hs
  | mcastData => exact execMcastData_kept hs
  | trace => exact execTrace_kept hs
  | semincRequest => exact execSemincRequest_kept hs
  | semincAck => exact execSemincAck_kept hs
  | run => exact execRun_kept hs
  | endReport => exact execEndReport_kept hs
  | mcastReady => exact execMcastReady_kept hs
  | mcastAck => exact execMcastAck_kept hs
  | mcastCancel => exact execMcastCancel_kept hs
  | ctrlRead => exact execCtrlRead_kept hs
  | ctrlWrite => exact execCtrlWrite_kept hs
  | ctrlResp => exact execCtrlResp_kept hs
  | drainReq => exact execDrainReq_kept hs
  | interfaceDrained => exact execInterfaceDrained_kept hs
  | drainDone => exact execDrainDone_kept hs
  | drainForced => exact execDrainForced_kept hs
  -- Machine/Hbm
  | hbmCommandIssue => exact execHbmCommandIssue_kept hs
  | hbmRefresh => exact execHbmRefresh_kept hs
  | hbmTempRead => exact execHbmTempRead_kept hs
  | hbmScrubAccess => exact execHbmScrubAccess_kept hs
  | hostSnoopTimeout => exact execHostSnoopTimeout_kept hs
  -- Machine/Bringup
  | hbmTrainingDone => exact execHbmTrainingDone_kept hs
  | hbmFillDone => exact execHbmFillDone_kept hs
  | clockLocked => exact execClockLocked_kept hs
  | cfgAbandon => exact execCfgAbandon_kept hs
  | cfgHeaderReceived => exact execCfgHeaderReceived_kept hs
  | cfgSignatureVerified => exact execCfgSignatureVerified_kept hs
  | cfgRegionTableReceived => exact execCfgRegionTableReceived_kept hs
  | cfgFrameReceived => exact execCfgFrameReceived_kept hs
  | cfgLastByte => exact execCfgLastByte_kept hs
  | cfgCommit => exact execCfgCommit_kept hs
  | strandGap => exact execStrandGap_kept hs
  | sensorSample => exact execSensorSample_kept hs
  | deviceSleepWake => exact execDeviceSleepWake_kept hs
  | wakePin => exact execWakePin_kept hs
  | powerGood => exact execPowerGood_kept hs
  | pwrGoodFall => exact execPwrGoodFall_kept hs
  | rstNFall => exact execRstNFall_kept hs
  | rstNRise => exact execRstNRise_kept hs
  | coreReset => exact execCoreReset_kept hs
  | flashHold => exact execFlashHold_kept hs
  | firmwareCheck => exact execFirmwareCheck_kept hs
  | baseImageCheck => exact execBaseImageCheck_kept hs
  | reducedReady => exact execReducedReady_kept hs
  | fullReady => exact execFullReady_kept hs
  | fullReadyLate => exact execFullReadyLate_kept hs
  | testAccessPort => exact execTestAccessPort_kept hs
  -- Machine/Fabric
  | clockUnlocked => exact execClockUnlocked_kept hs
  | sectorReset => exact execSectorReset_kept hs
  | sectorClear => exact execSectorClear_kept hs
  | bramAccess => exact execBramAccess_kept hs
  | queueAccess => exact execQueueAccess_kept hs
  | portBeatOut => exact execPortBeatOut_kept hs
  | portBeatIn => exact execPortBeatIn_kept hs
  | portDrainRequest => exact execPortDrainRequest_kept hs
  | portDrained => exact execPortDrained_kept hs
  | portDrainForced => exact execPortDrainForced_kept hs
  -- Machine/Configload
  | cfgGo => exact execCfgGo_kept hs
  | cfgDeadline => exact execCfgDeadline_kept hs
  | cfgEnumWaitExpired => exact execCfgEnumWaitExpired_kept hs
  | strandStartMark => exact execStrandStartMark_kept hs
  | cfgScrubFrame => exact execCfgScrubFrame_kept hs
  -- Machine/Heon
  | flitReceived => exact execFlitReceived_kept hs
  | rdShared => exact execRdShared_kept hs
  | rdOwn => exact execRdOwn_kept hs
  | rdNc => exact execRdNc_kept hs
  | wrNc => exact execWrNc_kept hs
  | wrBack => exact execWrBack_kept hs
  | evict => exact execEvict_kept hs
  | mmioRd32 => exact execMmioRd32_kept hs
  | mmioRd64 => exact execMmioRd64_kept hs
  | mmioWr32 => exact execMmioWr32_kept hs
  | mmioWr64 => exact execMmioWr64_kept hs
  | cfgRd => exact execCfgRd_kept hs
  | cfgWr => exact execCfgWr_kept hs
  | snpShare => exact execSnpShare_kept hs
  | snpInv => exact execSnpInv_kept hs
  | go => exact execGo_kept hs
  | comp => exact execComp_kept hs
  | snpRsp => exact execSnpRsp_kept hs
  | data => exact execData_kept hs
  | enumDone => exact execEnumDone_kept hs
  | linkReset => exact execLinkReset_kept hs
  | linkDown => exact execLinkDown_kept hs
  | hostLost => exact execHostLost_kept hs
  -- Machine/Lanes
  | laneDetectProbe => exact execLaneDetectProbe_kept hs
  | trainingFrame => exact execTrainingFrame_kept hs
  | exchangeFrame => exact execExchangeFrame_kept hs
  | alignmentMarker => exact execAlignmentMarker_kept hs
  | markerSend => exact execMarkerSend_kept hs
  | markerTimeout => exact execMarkerTimeout_kept hs
  | codewordReceived => exact execCodewordReceived_kept hs
  | laneLockLost => exact execLaneLockLost_kept hs
  | trainLimitExpired => exact execTrainLimitExpired_kept hs
  | trainRetry => exact execTrainRetry_kept hs
  | idleEntry => exact execIdleEntry_kept hs
  | idleExit => exact execIdleExit_kept hs
  | groupRetrain => exact execGroupRetrain_kept hs
  | deepRequest => exact execDeepRequest_kept hs
  | deepRequestTimeout => exact execDeepRequestTimeout_kept hs
  | deepWake => exact execDeepWake_kept hs
  | wakeBurst => exact execWakeBurst_kept hs
  | laneCtrl => exact execLaneCtrl_kept hs
  | laneBitslip => exact execLaneBitslip_kept hs
  | groupClear => exact execGroupClear_kept hs
  | portEnable => exact execPortEnable_kept hs
  -- Machine/Peer
  | peerWrite => exact execPeerWrite_kept hs
  | peerReduce => exact execPeerReduce_kept hs
  | peerAck => exact execPeerAck_kept hs
  | peerCommit => exact execPeerCommit_kept hs
  | peerRetract => exact execPeerRetract_kept hs
  | peerSignal => exact execPeerSignal_kept hs
  | epochExpired => exact execEpochExpired_kept hs
  | portDown => exact execPortDown_kept hs
  | hostEpochCommit => exact execHostEpochCommit_kept hs
  | hostEpochRetract => exact execHostEpochRetract_kept hs
  -- Machine/Recorder
  | shadowSig => exact execShadowSig_kept hs
  | eventRecord => exact execEventRecord_kept hs
  | recordFlashWrite => exact execRecordFlashWrite_kept hs
  -- Machine/StepOps
  | haltLimitExpired => exact execHaltLimitExpired_kept hs
  | isolateDale => exact execIsolateDale_kept hs
  -- Machine/Objects
  | logClear => exact execLogClear_kept hs
  | logEraseDone => exact execLogEraseDone_kept hs
  | odCmdRead => exact execOdCmdRead_kept hs
  | odCmdWrite => exact execOdCmdWrite_kept hs
  | restoreDefaults => exact execRestoreDefaults_kept hs
  | arithClear => exact execArithClear_kept hs
  | arrayStatsClear => exact execArrayStatsClear_kept hs
  | vecStatsClear => exact execVecStatsClear_kept hs
  | sfuStatsClear => exact execSfuStatsClear_kept hs
  | rngStatsClear => exact execRngStatsClear_kept hs
  | seqStatsClear => exact execSeqStatsClear_kept hs
  | cmdStatsClear => exact execCmdStatsClear_kept hs
  | streamStatsClear => exact execStreamStatsClear_kept hs
  | gatherStatsClear => exact execGatherStatsClear_kept hs
  | netStatsClear => exact execNetStatsClear_kept hs
  | hbmStatsClear => exact execHbmStatsClear_kept hs
  | steppeStatsClear => exact execSteppeStatsClear_kept hs
  | cfgStatsClear => exact execCfgStatsClear_kept hs
  | heonStatsClear => exact execHeonStatsClear_kept hs
  | laneStatsClear => exact execLaneStatsClear_kept hs
  | peerStatsClear => exact execPeerStatsClear_kept hs
  | integrityStatsClear => exact execIntegrityStatsClear_kept hs
  | powerStatsClear => exact execPowerStatsClear_kept hs
  | odStatsClear => exact execOdStatsClear_kept hs
  | secStatsClear => exact execSecStatsClear_kept hs
  -- Machine/Can
  | canRead => exact execCanRead_kept hs
  | canWrite => exact execCanWrite_kept hs
  | canSegment => exact execCanSegment_kept hs
  | canReadMore => exact execCanReadMore_kept hs
  | canAbort => exact execCanAbort_kept hs
  | canDescribe => exact execCanDescribe_kept hs
  | canTransferTimeout => exact execCanTransferTimeout_kept hs
  | canBusOff => exact execCanBusOff_kept hs
  | flashHoldReleased => exact execFlashHoldReleased_kept hs
  | persistenceWaitExpired => exact execPersistenceWaitExpired_kept hs
  -- Machine/Security
  | authToken => exact execAuthToken_kept hs
  | ownerProvision => exact execOwnerProvision_kept hs
  | ownerRevoke => exact execOwnerRevoke_kept hs
  | svnAdvance => exact execSvnAdvance_kept hs
  | vendorRootKey => exact execVendorRootKey_kept hs
  | ownerKey => exact execOwnerKey_kept hs
  | attestNonce => exact execAttestNonce_kept hs
  | attestationSigned => exact execAttestationSigned_kept hs
  | entropyFault => exact execEntropyFault_kept hs
  | drawTimeout => exact execDrawTimeout_kept hs
  | healthTestsPass => exact execHealthTestsPass_kept hs

/-- Where the effects of a step start: a state with canonical memory and counters has kept its queue, and its OTP bits
have risen from themselves. -/
theorem kept_start {s : State} {queue : List Instr} (hq : s.pending = queue) (hm : MemoryOk s) (hc : CountersOk s) :
    Kept ⟨queue, s.sec⟩ s :=
  ⟨hq, hm.1, hm.2, otpUp_refl s.sec, hc⟩

/-- A step on an empty queue is a tick of the steppe and then one of the links. -/
theorem step_of_nil {s : State} (hq : s.pending = []) : step s = .next (linksTick (steppeTick s)) := by
  rw [step, hq]

/-- A step on a queue with a command runs it on the state with the rest. -/
theorem step_of_cons {s : State} {c : Instr} {rest : List Instr} (hq : s.pending = c :: rest) :
    step s = exec c { s with pending := rest } := by
  rw [step, hq]

/-- Every step keeps the queue's rest, canonical memory and the OTP bits of the state before: by its ticks on an empty
queue, by its command on another. -/
theorem step_kept {s : State} (hm : MemoryOk s) (hc : CountersOk s) : KeptX ⟨s.pending.tail, s.sec⟩ (step s) := by
  cases hq : s.pending with
  | nil =>
    rw [step_of_nil hq]
    exact kept_next (linksTick_kept (steppeTick_kept (kept_start hq hm hc)))
  | cons c rest =>
    rw [step_of_cons hq]
    exact exec_kept (kept_start (s := { s with pending := rest }) rfl hm hc) c

/-- Settles O4: the step lemma of R507, from what every command and tick keeps (`step_kept`). -/
theorem otpBitsOnlyRise : Obligations.OtpBitsOnlyRise := by
  intro s t hinv hstep
  obtain ⟨_, hmem, hcounters⟩ := hinv
  exact ((step_kept hmem hcounters).out t hstep).otp

end Sys2Proof.Machine
end
